-- ==== Sys2Proof/Word.lean ====
section
/-! DEFINITION. Word.lean: the byte and the 64-bit word of the Zwithen (R8, R10). -/

namespace Sys2Proof

/-- One byte. -/
abbrev Byte := BitVec 8

/-- One 64-bit word: every register (R10), record word and hall word. -/
abbrev Word := BitVec 64

end Sys2Proof
end

