-- ==== Sys2Proof/Syntax.lean ====
section
/-! DEFINITION. Syntax.lean: the commands of the block, one constructor per row of spec/opcode_table.json, with the
row's operands, and the plain records that operands carry (packets of R254, transfer messages of R62, mirror
messages of R328). The table gives no operand list (its "fields" are empty); each operand is what the row's rule
says reaches the device in that step, or names the unit's object the step is about. Times are readings of the
monotonic local count in nanoseconds (R313). -/

namespace Sys2Proof

/-- A popped command of a ring, named as its completion names it: ring number and ring index (R221). -/
structure CmdId where
  ring  : BitVec 16
  index : BitVec 32
deriving DecidableEq, Repr

/-- A packet of the fabric: the header fields of R254, the payload and the trailer. -/
structure Packet where
  ver     : BitVec 4
  opc     : BitVec 6
  flags   : BitVec 6
  dstNode : BitVec 16
  srcNode : BitVec 16
  dstQp   : BitVec 16
  srcQp   : BitVec 16
  entropy : BitVec 16
  psn     : BitVec 32
  epoch   : BitVec 32
  mapVer  : BitVec 16
  tenant  : BitVec 8
  stat    : BitVec 8
  raddr   : BitVec 64
  key     : BitVec 32
  window  : BitVec 16
  len     : BitVec 13
  opId    : BitVec 14
  pkt     : BitVec 18
  pktsM1  : BitVec 18
  aux     : BitVec 32
  hcrc    : BitVec 32
  payload : List Byte
  icrc    : BitVec 32
  tstamp  : BitVec 32
deriving DecidableEq, Repr

/-- What every message of a transfer carries (02, "Ownership transfer"): the transfer ID, the source node and the
sender's epoch; `dst` is the node the message is addressed to (this device or the node it serves, R336). -/
structure XferHdr where
  xid   : BitVec 32
  src   : BitVec 16
  dst   : BitVec 16
  epoch : BitVec 32
deriving DecidableEq, Repr

/-- RSV_REQ (R62): the shape of the sequence, its record words that travel with it, and the pages asked for by mode
in the destination mode. -/
structure RsvReq where
  hdr      : XferHdr
  tenant   : BitVec 8
  layers   : BitVec 8
  kvheads  : BitVec 8
  hdim     : BitVec 2
  kvmode   : BitVec 2
  maxslots : BitVec 16
  pagesZ8  : BitVec 32
  pagesZ6  : BitVec 32
  pagesZ4  : BitVec 32
deriving DecidableEq, Repr

/-- One transferred page (R62): its place in the source's page map, its mode and fill, payload, scale plane,
summary (R138) and CRC-32C over payload and scale plane. -/
structure XferPage where
  hdr     : XferHdr
  entry   : BitVec 32
  mode    : BitVec 2
  fill    : BitVec 8
  hot     : Bool
  payload : List Byte
  scale   : List Byte
  summary : List Byte
  crc     : BitVec 32
deriving DecidableEq, Repr

/-- COMMIT (R62): the record words that travel with the sequence and `PAGED` of every layer. -/
structure CommitMsg where
  hdr   : XferHdr
  words : List Word
  paged : List (BitVec 32)
deriving DecidableEq, Repr

/-- Reasons of RSV_NAK (R63). -/
inductive NakReason where
  | epoch | tenant | quota | records | space
deriving DecidableEq, Repr

/-- The kinds of a bank's accesses (R110, R115). -/
inductive HallKind where
  | read | write | add | swap | cswap
deriving DecidableEq, Repr

/-- On whose behalf a master presents an access (R113): its own work, a running command, or a received packet, which its
sender, the pair it addresses and its PSN name. -/
inductive HallOwner where
  | unit
  | cmd (c : CmdId)
  | packet (src qp : BitVec 16) (psn : BitVec 32)
deriving DecidableEq, Repr

/-- One access presented to a hall bank (R110, R111): the master and its owner, the word within the bank (row), the kind and the
enabled bytes. The row's `errors` are the rows of the bank whose word an error struck, `true` for an uncorrectable one (R117). -/
structure HallReq where
  master  : BitVec 7
  owner   : HallOwner
  row     : BitVec 15
  kind    : HallKind
  be      : BitVec 8
  data    : Word
  compare : Word
  tenant  : Option (BitVec 8)
deriving DecidableEq, Repr

/-- What befalls a core while it runs a command: corrected single-bit errors, cycles in which the matrix engine waited for a
streaming block, and whether an error could not be corrected (R107, R118). -/
structure CoreEvents where
  corrected     : BitVec 32
  waits         : BitVec 32
  uncorrectable : Bool
deriving DecidableEq, Repr

/-- A push that reaches its ring in the same cycle in which an engine pops (R215): function, ring, offset and data. -/
structure JointPush where
  fn   : BitVec 6
  ring : BitVec 16
  off  : BitVec 12
  data : List Byte
deriving DecidableEq, Repr

/-- The objects a mirror message can carry (R328), with the messages that keep the twin's copies in step
(R330, R333): a record, a page-map header word, the indices of a ring, a page, the landing rows of a layer,
the freeing of a record, a group of commits, a committed transfer (R66), the request for a mirror record (R330) and a ring that
turns `OFF` (R338); `dest` is the destination node of the transfer
in which a `LEAVING` record stands (R329). -/
inductive MirrorObj where
  | record  (index : BitVec 15) (words : List Word) (dest : BitVec 16)
  | header  (index : BitVec 15) (layer : BitVec 8) (word : Word)
  | ring    (ring : BitVec 16) (pi ci cqpi : BitVec 32)
  | page    (index : BitVec 15) (entry : BitVec 32) (mode : BitVec 2) (hdim : BitVec 2) (fill : BitVec 8) (hot : Bool)
            (payload scale summary : List Byte)
  | rows    (index : BitVec 15) (layer head : BitVec 8) (first : BitVec 32) (rows : List Byte)
  | emptyEntry (index : BitVec 15) (entry : BitVec 32)
  | freed   (index : BitVec 15)
  | tokens  (index : BitVec 15) (words : List Word)
  | committed (src : BitVec 16) (xid handle : BitVec 32)
  | ask (index : BitVec 15) (words : List Word)
  | ringOff (ring : BitVec 16)
deriving DecidableEq, Repr

/-- A mirror message and its 64-bit mirror number (R331). -/
structure MirrorMsg where
  number : BitVec 64
  objs   : List MirrorObj
deriving DecidableEq, Repr

/-- The kind of a request a member sends to its head (R396). -/
inductive MemberReq where
  | write (addr : BitVec 64) (data : List Byte)
  | read  (addr : BitVec 64) (len : BitVec 16)
  | msix  (vector : BitVec 16)
deriving DecidableEq, Repr

/-- Messages of the mover, the pairing unit and Cox, which travel as CTRL packets of the reserved queue pairs; the manual does not
give their bytes (R256, R258; log entry 16). `mirrorGrant` and `mirrorNak` answer the twin's request for a mirror record (R330). -/
inductive Ctrl where
  | rsvReq (m : RsvReq)
  | rsvGrant (xid : Nat)
  | rsvNak (xid : Nat) (why : NakReason) (cross : Bool)
  | page (m : XferPage)
  | pageAck (xid entry status : Nat)
  | commit (m : CommitMsg)
  | commitAck (xid handle : Nat)
  | commitUnknown (xid : Nat)
  | abort (h : XferHdr)
  | abortAck (xid : Nat)
  | xferHold (h : XferHdr)
  | mirror (m : MirrorMsg)
  | mirrorAck (number skips : Nat) (short : Bool)
  | adpAck (id status : Nat)
  | heartbeat
  | notice (served epoch : Nat)
  | load (phandle index : Nat) (words headers : List Word) (pages : List XferPage) (rows : List Byte)
  | mirrorGrant (index : Nat)
  | mirrorNak (index : Nat)
  | proxy (slot : Nat) (off : Nat) (isWrite : Bool) (data : List Byte)
  | hostReq (r : MemberReq)
deriving DecidableEq, Repr

/-- What a lower tier, reached over Parlen or PCIe, gives back to a fetch of Cox (R197): the stored bytes, or a
failure (CRC mismatch is found on the bytes; the holder is unreachable, or refuses). -/
inductive FetchResult where
  | data (bytes : List Byte)
  | failed
deriving DecidableEq, Repr

/-- ADP_LOAD as it reaches a member of the multicast group (R180). -/
structure AdpLoadMsg where
  src     : BitVec 16
  id      : BitVec 16
  words   : List Word
  body    : List Byte
deriving DecidableEq, Repr

/-- A partition instruction (R359, R360): form or release a slot, or add and remove resources of it. -/
inductive PartOp where
  | form | release | add | remove
deriving DecidableEq, Repr

/-- `cache` is what Cox writes to the tenant's `RMA_RCn` when it forms the partition. -/
structure PartInstr where
  slot   : BitVec 6
  op     : PartOp
  tenant : BitVec 8
  boats  : BitVec 64
  ways   : BitVec 128
  pcs    : BitVec 256
  cache  : Word
deriving DecidableEq, Repr

/-- One mapping of a placement image (R201): what VM_MAP would be given. -/
structure PlaceMap where
  tenant : BitVec 8
  va     : BitVec 64
  grans  : BitVec 32
  type   : BitVec 8
  flags  : BitVec 8
  frame  : BitVec 64
deriving DecidableEq, Repr

/-- A composition-map entry as the fault manager gives it (R289). -/
structure MapEntry where
  qp    : BitVec 16
  entry : Word
deriving DecidableEq, Repr

/-- The header every management instruction carries (R386): the sequence number and the sender's address. -/
structure MgmtHdr where
  seq  : BitVec 64
  from' : BitVec 128
deriving DecidableEq, Repr

/-- An SPDM request as it reaches the responder (R369): whether its version is 1.2, the certificate slot it names,
whether its signature or decryption verifies, and its bytes (nonces and parameters). -/
structure SpdmReq where
  version12 : Bool
  slot      : BitVec 8
  verifies  : Bool
  body      : List Byte
deriving DecidableEq, Repr

/-- What an access to the proxy window or to a sync word does (R229, R395). -/
inductive AccessKind where
  | read | write | fetchAdd | swap | cas
deriving DecidableEq, Repr

/-- How a packet reaches the device: the port it comes in on and the bytes that wait in the placement queue (R251, R270). -/
structure Arrival where
  port  : BitVec 5
  depth : BitVec 32
deriving DecidableEq, Repr

/-- The commands of the block, in the order of spec/opcode_table.json. -/
inductive Instr where
  -- host register access
  | registerWrite (fn : BitVec 6) (off : BitVec 26) (width : BitVec 8) (v : Word)
  | rcCounterRead (fn : BitVec 6) (off : BitVec 26) (width : BitVec 8)
  | cfgLockSet (fn : BitVec 6)
  | glbReset (fn : BitVec 6) (v : Word)
  | sweepStart (fn : BitVec 6)
  | sweepDone
  | idxPtKeyLoad (fn : BitVec 6) (upperOnly : Bool) (v : Word)
  | keyScanBucket (tenant : BitVec 8)
  -- sequences, transfers, prefix tree
  | seqCreate (c : CmdId) (twinGrants : Bool)
  | seqRelease (c : CmdId)
  | kvTransfer (c : CmdId)
  | kvTransferProceed (xid : BitVec 32)
  | appendHoldTimeout (c : CmdId) (t : BitVec 64)
  | rsvReq (m : RsvReq) (twinGrants : Bool)
  | rsvGrant (xid : BitVec 32)
  | rsvNak (xid : BitVec 32) (why : NakReason) (cross : Bool)
  | reservationRetry (xid : BitVec 32)
  | xferPage (m : XferPage)
  | xferPageAck (xid : BitVec 32) (entry : BitVec 32) (status : BitVec 8)
  | commit (m : CommitMsg)
  | commitRetry (xid : BitVec 32) (t : BitVec 64)
  | commitAck (xid handle : BitVec 32) (dst : BitVec 16)
  | commitUnknown (xid : BitVec 32)
  | abort (h : XferHdr)
  | abortAck (xid : BitVec 32) (dst : BitVec 16)
  | xferHold (h : XferHdr)
  | xferHoldSend
  | rsvHoldTimeout (src : BitVec 16) (xid : BitVec 32)
  | landingFlushPoint
  | prefixLookup (c : CmdId)
  | prefixInsert (c : CmdId)
  -- hall and attention
  | hallBankGrant (bank : BitVec 8) (reqs : List HallReq) (errors : List (BitVec 15 × Bool))
  | attCoreCtlWrite (core : BitVec 9) (v : Word)
  | attnMerge (c : CmdId) (ev : CoreEvents)
  | attnStep (c : CmdId) (ev : CoreEvents)
  | outputSendAck (c : CmdId)
  | retrSelect (c : CmdId)
  | retrSelectStart (c : CmdId)
  -- sampler
  | sample (c : CmdId)
  | sampSet (c : CmdId)
  | tokenRelease (number : BitVec 64)
  | ttftScan
  -- adapter engine
  | loraApply (c : CmdId)
  | wstream (c : CmdId)
  | adpLoad (c : CmdId)
  | adpLoadMember (m : AdpLoadMsg)
  | adpUnload (c : CmdId)
  | adpUnloadDrained (c : CmdId)
  | adpBind (c : CmdId)
  -- translation, tiers, prefetch, faults
  | vmMap (c : CmdId)
  | vmUnmap (c : CmdId)
  | demote (c : CmdId)
  | demoteProceed (c : CmdId)
  | demotePageHeld (cellar : BitVec 26)
  | prefetch (c : CmdId)
  | prefetchIssue (c : CmdId)
  | prefetchTableIssue (entry : BitVec 16)
  | prefetchComplete (id : BitVec 32) (t : BitVec 64) (got : List FetchResult)
  | faultResolved (id : BitVec 32) (t : BitVec 64) (got : List FetchResult)
  | faultTimeout (core : BitVec 9) (t : BitVec 64)
  | reclaim (tenant : BitVec 8)
  | zeroingDone (gran : BitVec 27)
  -- rings
  | push (fn : BitVec 6) (ring : BitVec 16) (off : BitVec 12) (data : List Byte)
  | cqDb (fn : BitVec 6) (ring : BitVec 16) (v : Word)
  | syncWordAccess (fn : BitVec 6) (ring : BitVec 16) (off : BitVec 12) (width : BitVec 8) (kind : AccessKind) (v : Word)
  | engineDispatch (engine : BitVec 3) (joint : Option JointPush)
  | preemptSaveDone (core : BitVec 9)
  | restoreDone (core : BitVec 9)
  | nop (ring : BitVec 16)
  | wait (ring : BitVec 16)
  | waitPoll (ring : BitVec 16)
  | watchdogExpiry (ring : BitVec 16) (t : BitVec 64)
  | signal (ring : BitVec 16)
  | signalAfter (c : CmdId)
  | enable (ring : BitVec 16)
  | stop (ring : BitVec 16)
  | resume (ring : BitVec 16)
  | flush (ring : BitVec 16)
  | reset (ring : BitVec 16) (v : BitVec 32)
  -- Parlen ports and link
  | portEnWrite (port : BitVec 5) (en : Bool)
  | portTuneDone (port : BitVec 5) (locked : Bool) (codes : List (BitVec 16))
  | ringLockLost (port : BitVec 5)
  | laserFeedLevel (feed : BitVec 3) (power : BitVec 16)
  | linkctl (port : BitVec 5) (credits : List (BitVec 16)) (node : BitVec 16) (farPort : BitVec 8) (isSwitch : Bool) (beat : BitVec 32)
            (t : BitVec 64)
  | linkctlSend (port : BitVec 5)
  | linkctlTimeout (port : BitVec 5) (t : BitVec 64)
  | trainingTimeout (port : BitVec 5) (t : BitVec 64)
  | berCheck (port : BitVec 5) (lanes : List (BitVec 16)) (t : BitVec 64)
  | relearnDone (port : BitVec 5)
  | uncorrectableCodeword (port : BitVec 5) (symbols : List (BitVec 10))
  -- transport
  | packetHandoff (lc : Bool)
  | packetSpray
  | write (a : Arrival) (p : Packet)
  | readReq (a : Arrival) (p : Packet)
  | readResp (a : Arrival) (p : Packet)
  | atomic (a : Arrival) (p : Packet)
  | atomicResp (a : Arrival) (p : Packet)
  | reduce (a : Arrival) (p : Packet)
  | mcastWrite (a : Arrival) (p : Packet)
  | inval (a : Arrival) (p : Packet)
  | ack (a : Arrival) (p : Packet)
  | nak (a : Arrival) (p : Packet)
  | ackTimer (qp node : BitVec 16) (t : BitVec 64)
  | retransmitTimeout (qp node : BitVec 16) (psn : BitVec 32) (t : BitVec 64)
  | rcUpdate (qp node : BitVec 16) (t : BitVec 64)
  | fabQpWrite (qp : BitVec 16)
  | fabQpRead (qp : BitVec 16)
  | fabQpEnable (qp : BitVec 16)
  | fabQpDrain (qp : BitVec 16)
  | fabQpReset (qp : BitVec 16)
  -- remote memory
  | winOpen (c : CmdId) (got : List FetchResult)
  | winRevoke (c : CmdId)
  | winRevokeComplete (w : BitVec 16)
  | rmOpWrite (c : CmdId)
  | rmOpRead (c : CmdId)
  | rmOpAtomic (c : CmdId)
  | rmOpReduce (c : CmdId)
  | rmOpMcast (c : CmdId)
  | rmOpInval (c : CmdId)
  | importSet (c : CmdId)
  | importClear (c : CmdId)
  | groupSet (c : CmdId)
  | rmCtlFlush (c : CmdId)
  | drop (c : CmdId)
  | gatewayIdleFlush (tenant : BitVec 8) (block : BitVec 40) (t : BitVec 64)
  | mapSwitch
  | drainWindowEnd
  -- traffic unit
  | trfQpClass (v : Word)
  | trfShapeWrite (n : BitVec 8) (v : Word)
  | trfMeterWrite (n : BitVec 8) (word1 : Bool) (v : Word)
  -- timing
  | strokeCatch (edge idle : BitVec 64) (line : BitVec 200)
  | catchInsert (t : BitVec 64)
  | acquireTimeout (t : BitVec 64)
  | timCfgWrite (v : Word)
  | ppsEdge (t : BitVec 64)
  | ppsHoldover (t : BitVec 64)
  | taiLoad (h : MgmtHdr) (sec : BitVec 40)
  -- pairing
  | mirrorMessage (src : BitVec 16) (m : MirrorMsg)
  | mirrorAck (src : BitVec 16) (number : BitVec 64) (skips : BitVec 16) (short : Bool)
  | pairHeartbeatSend (t : BitVec 64)
  | linkUpTimeout (t : BitVec 64)
  | mgmtHeartbeatSend (t : BitVec 64)
  | peerMgmtTimeout (t : BitVec 64)
  | autoTakeover (t : BitVec 64)
  | takeoverNotice (sender node : BitVec 16) (epoch senderEpoch : BitVec 32) (listed : Bool)
  | seqHot (c : CmdId)
  | spareTestDone (pass : Bool)
  | admissionRecordLoad (src : BitVec 16) (phandle : BitVec 32) (index : BitVec 15) (words headers : List Word) (pages : List XferPage) (rows : List Byte)
  | admissionLoadDone
  | admissionHandover
  | dramStackFailure (stack : BitVec 3) (copies : List (BitVec 15 × XferPage))
  | logRecordWrite
  -- partitions
  | boatDrained (boat : BitVec 6)
  | boatScrubDone (boat : BitVec 6) (uncorrectable : Bool)
  | wayScrubDone
  -- SPDM
  | getVersion (r : SpdmReq)
  | getCapabilities (r : SpdmReq)
  | negotiateAlgorithms (r : SpdmReq)
  | getDigests (r : SpdmReq)
  | getCertificate (r : SpdmReq)
  | challenge (r : SpdmReq)
  | getMeasurements (r : SpdmReq)
  | keyExchange (r : SpdmReq) (t : BitVec 64)
  | finish (r : SpdmReq) (t : BitVec 64)
  | endSession (r : SpdmReq)
  | heartbeat (r : SpdmReq) (t : BitVec 64)
  | keyUpdate (r : SpdmReq) (t : BitVec 64)
  | spdmSessionTimeout (t : BitVec 64)
  -- reset and boot
  | powerOnReset (pwrgd perstN : Bool)
  | perstAssert
  | hotReset
  | functionLevelReset (fn : BitVec 6)
  | bootRomDone (t : BitVec 64)
  | firmwareVerify (t : BitVec 64)
  | dramInitDone (t : BitVec 64) (failed : BitVec 8)
  | roleImageApply (t : BitVec 64)
  | journalProgram (t : BitVec 64)
  -- management instructions
  | setEpoch (h : MgmtHdr) (epoch : BitVec 32)
  | peerSet (h : MgmtHdr) (node : BitVec 16) (epoch : BitVec 32) (valid : Bool)
  | part (h : MgmtHdr) (p : PartInstr)
  | mapNext (h : MgmtHdr) (ver : BitVec 16) (stroke : BitVec 32) (drain : BitVec 8) (entries : List MapEntry)
  | pairTwin (h : MgmtHdr) (node : BitVec 16)
  | detach (h : MgmtHdr)
  | repair (h : MgmtHdr)
  | takeover (h : MgmtHdr) (epoch : BitVec 32)
  | admitSpare (h : MgmtHdr) (asLoader : Bool) (node : BitVec 16) (epoch : BitVec 32) (stroke : BitVec 32) (spareNode : BitVec 16)
               (spareEpoch : BitVec 32) (loader : BitVec 16)
  | mclass (h : MgmtHdr) (tenant : BitVec 8) (cls : BitVec 2)
  | place (h : MgmtHdr) (maps : List PlaceMap) (table : List (List Byte))
  | svnFuse (h : MgmtHdr)
  | nvmWrite (h : MgmtHdr) (addr : BitVec 32) (data : List Byte)
  | mgmtReset (h : MgmtHdr)
  | mgmtHeartbeat (h : MgmtHdr) (node : BitVec 16) (t : BitVec 64)
  -- board controller
  | i3cReset (v : BitVec 8)
  | setdasa (staticAddr dynAddr : BitVec 7)
  | nvmRead (addr : BitVec 32)
  | nvmProgram (addr : BitVec 32) (buf : List Byte)
  | nvmErase (addr : BitVec 32)
  -- electrical
  | tjAlarm (tj threshold : BitVec 8)
  | thermtrip (tj : BitVec 8)
  | dramOvertemp (stack : BitVec 3) (temp : BitVec 8)
  | pwrgdFall
  | railUndervoltage (rail : BitVec 3) (us : BitVec 16)
  | sysrefLoss (ns : BitVec 64)
  | sysrefReturn (ns : BitVec 64)
  | strapSample (straps : BitVec 3)
  -- aliases and proxy
  | aliasAccess (group : Bool) (off : BitVec 24) (width : BitVec 8) (isWrite : Bool) (v : Word)
  | proxyAccess (off : BitVec 35) (width : BitVec 8) (kind : AccessKind) (data : List Byte) (answer : Option Word)
  | proxyReadTimeout (slot : BitVec 6) (t : BitVec 64)
  | memberHostRequest (slot : BitVec 6) (r : MemberReq)
  -- pairing and management liveness
  | heartbeatCtrlPacket (src : BitVec 16) (t : BitVec 64)
  | mgmtLinkState (up : Bool) (t : BitVec 64)
  | mgmtUpTimeout (t : BitVec 64)
  | thermtripRelease (tj : BitVec 8)
deriving DecidableEq, Repr

end Sys2Proof
end

