-- ==== Sys2Proof/Decode.lean ====
section
/-! DEFINITION. Decode.lean: the table of operations gives no row any bits (every row's "fixed" and "fields" are absent or
empty), so no word spells a command. The byte layouts the manual does give (ring entries of chapter 9, packets of
R254) are read where the commands use them (Machine/Operands.lean, Machine/Fabric.lean). -/

namespace Sys2Proof

/-- The command a word spells by the table's bits: none, since no row has bits. -/
def decodeTableWord (_nbits _w : Nat) : Option Instr := none

end Sys2Proof
end

