-- ==== Sys2Proof/Machine/Bits.lean ====
section
/-! DEFINITION. Machine/Bits.lean: bit ranges, modular counters (R9), little-endian bytes (R8), CRC-32C and the frame
CRC of R311. -/

namespace Sys2Proof.Machine

/-- `x[hi:lo]` of the conventions: both inclusive. -/
def bits (x hi lo : Nat) : Nat := (x >>> lo) % 2 ^ (hi + 1 - lo)

/-- `x` with bits [hi:lo] replaced by `v`, cut to the field's width. -/
def setBits (x hi lo v : Nat) : Nat :=
  let w := 2 ^ (hi + 1 - lo)
  x - ((x >>> lo) % w) <<< lo + (v % w) <<< lo

/-- One bit of `x`. -/
def bit (x i : Nat) : Bool := x.testBit i

/-- `a - b` modulo 2^n (R9). -/
def subMod (n a b : Nat) : Nat := (a + 2 ^ n - b % 2 ^ n) % 2 ^ n

/-- The difference `a - b` in modular order: taken modulo 2^n as a signed n-bit value (R9). -/
def modDiff (n a b : Nat) : Int :=
  let d := subMod n a b
  if d < 2 ^ (n - 1) then (d : Int) else (d : Int) - (2 ^ n : Nat)

/-- A signed value as an n-bit field. -/
def toField (n : Nat) (x : Int) : Nat := (x % ((2 ^ n : Nat) : Int)).toNat

/-- An n-bit field read as a signed value. -/
def ofField (n x : Nat) : Int := if x % 2 ^ n < 2 ^ (n - 1) then ((x % 2 ^ n : Nat) : Int) else ((x % 2 ^ n : Nat) : Int) - (2 ^ n : Nat)

/-- Rounding up division. -/
def ceilDiv (a b : Nat) : Nat := (a + b - 1) / b

/-- Byte `k` of a number (R8). -/
def byteOf (x k : Nat) : Byte := BitVec.ofNat 8 (x >>> (8 * k))

/-- The `n` low bytes of a number, byte 0 first (R8). -/
def toBytes (n x : Nat) : List Byte := (List.range n).map (byteOf x)

/-- The number whose little-endian bytes are given (R8). -/
def ofBytes : List Byte → Nat
  | [] => 0
  | b :: bs => b.toNat + 256 * ofBytes bs

/-- One bit step of CRC-32C, reflected, polynomial 0x1EDC_6F41 (Castagnoli, R244). -/
def crcStep (c : Nat) : Nat := if c % 2 = 1 then (c >>> 1) ^^^ 0x82F63B78 else c >>> 1

/-- One byte of CRC-32C. -/
def crcByte (c : Nat) (b : Byte) : Nat :=
  crcStep (crcStep (crcStep (crcStep (crcStep (crcStep (crcStep (crcStep (c ^^^ b.toNat))))))))

/-- CRC-32C of a byte string (R244); initial value and final complement are the algorithm's own (log entry 13). -/
def crc32c (bs : List Byte) : Nat := (bs.foldl crcByte 0xFFFFFFFF) ^^^ 0xFFFFFFFF

/-- One frame bit of the stroke CRC (R311). -/
def frameCrcStep (crc : Nat) (b : Bool) : Nat :=
  let fb := (bit crc 15) != b
  let c := (crc <<< 1) % 65536
  if fb then c ^^^ 0x1021 else c

/-- The stroke-frame CRC of bits 0 to 79 in transmission order (R311). -/
def frameCrc (frame : Nat) : Nat :=
  ((List.range 80).map (bit frame)).foldl frameCrcStep 0xFFFF

/-- The last `n` elements of the first `k` of a list: a slice. -/
def slice {α : Type} (l : List α) (start n : Nat) : List α := (l.drop start).take n

/-- `n` copies of zero bytes. -/
def zeros (n : Nat) : List Byte := List.replicate n 0

/-- A list padded with zero bytes, or cut, to `n`. -/
def padTo (n : Nat) (l : List Byte) : List Byte := (l ++ zeros n).take n

/-- A list cut into pieces of `n`, at most `k` of them. -/
def chunks {α : Type} (n : Nat) : Nat → List α → List (List α)
  | 0, _ => []
  | k + 1, l => l.take n :: chunks n k (l.drop n)

/-- The smallest element satisfying `p` in `[lo, lo + n)`. -/
def findFrom (p : Nat → Bool) (lo : Nat) : Nat → Option Nat
  | 0 => none
  | n + 1 => if p lo then some lo else findFrom p (lo + 1) n

/-- Insertion of a number into a strictly rising list. -/
def insertNat (k : Nat) : List Nat → List Nat
  | [] => [k]
  | x :: xs => if k < x then k :: x :: xs else if k = x then x :: xs else x :: insertNat k xs

/-- The distinct elements of a list of numbers, rising. -/
def distinct (l : List Nat) : List Nat := l.foldl (fun acc k => insertNat k acc) []

/-- Stable insertion by a strict order. -/
def insertBy {α : Type} (lt : α → α → Bool) (a : α) : List α → List α
  | [] => [a]
  | x :: xs => if lt a x then a :: x :: xs else x :: insertBy lt a xs

/-- Stable insertion sort. -/
def sortBy {α : Type} (lt : α → α → Bool) (l : List α) : List α := l.foldl (fun acc a => insertBy lt a acc) []

end Sys2Proof.Machine
end

