-- ==== Sys2Proof/Machine/Num.lean ====
section
/-! DEFINITION. Machine/Num.lean: the arithmetic contract of the device: exact dyadic values, FP32 and BF16 with one
rounding to nearest even and subnormals kept (R16, R97 to R103), `exp2` and `rcp` (R102), min and max (R101). -/

namespace Sys2Proof.Machine

/-- The value of a floating-point code: NaN, an infinity, or (-1)^neg × m × 2^e with m = 0 a signed zero. -/
inductive FVal where
  | nan
  | inf (neg : Bool)
  | fin (neg : Bool) (m : Nat) (e : Int)
deriving DecidableEq, Repr

/-- NaN as every operation produces it (R98, R101). -/
def nan32 : Nat := 0x7FC00000

/-- NaN in BF16 (R133). -/
def nanBf16 : Nat := 0x7FC0

/-- The value of an FP32 code. -/
def dec32 (x : Nat) : FVal :=
  let s := bit x 31
  let ex := bits x 30 23
  let mt := bits x 22 0
  if ex = 255 then (if mt = 0 then .inf s else .nan)
  else if ex = 0 then .fin s mt (-149)
  else .fin s (mt + 2 ^ 23) ((ex : Int) - 150)

/-- The value of a BF16 code. -/
def decBf16 (x : Nat) : FVal := dec32 ((x % 65536) <<< 16)

/-- `m × 2^e` brought to the grid of `p` significant bits and least exponent `q0`, nearest with ties to even:
the integer and its exponent. -/
def roundGrid (p : Nat) (q0 : Int) (m : Nat) (e : Int) : Nat × Int :=
  let q := max ((Nat.log2 m : Int) + e - ((p : Int) - 1)) q0
  let sh := q - e
  if sh ≤ 0 then (m <<< (-sh).toNat, q)
  else
    let k := sh.toNat
    let n := m >>> k
    let r := m % 2 ^ k
    let h := 2 ^ (k - 1)
    let n' := if r > h ∨ (r = h ∧ n % 2 = 1) then n + 1 else n
    if n' = 2 ^ p then (2 ^ (p - 1), q + 1) else (n', q)

/-- A value rounded to a format of 8 exponent bits and `p` significant bits and coded; beyond the largest finite
value it becomes an infinity (R98). -/
def encFp (p : Nat) (v : FVal) : Nat :=
  let sgn (neg : Bool) : Nat := if neg then 2 ^ (p + 7) else 0
  let infC := 255 * 2 ^ (p - 1)
  match v with
  | .nan => 255 * 2 ^ (p - 1) + 2 ^ (p - 2)
  | .inf neg => sgn neg + infC
  | .fin neg 0 _ => sgn neg
  | .fin neg m e =>
    let (n, q) := roundGrid p (-(125 + (p : Int))) m e
    if n < 2 ^ (p - 1) then sgn neg + n
    else
      let ex := q + (p : Int) - 1 + 127
      if ex ≥ 255 then sgn neg + infC else sgn neg + ex.toNat * 2 ^ (p - 1) + (n - 2 ^ (p - 1))

/-- round_fp32. -/
def enc32 (v : FVal) : Nat := encFp 24 v

/-- bf16: to nearest even, subnormals kept. -/
def encBf16 (v : FVal) : Nat := encFp 8 v

/-- The signed integer of a finite value at exponent `e0`, which is no larger than its own. -/
def atExp (e0 : Int) : FVal → Int
  | .fin neg m e => let x : Int := (m <<< (e - e0).toNat : Nat); if neg then -x else x
  | _ => 0

def FVal.isNan : FVal → Bool
  | .nan => true
  | _ => false

def FVal.isInf : FVal → Bool
  | .inf _ => true
  | _ => false

def FVal.isZero : FVal → Bool
  | .fin _ 0 _ => true
  | _ => false

def FVal.finite : FVal → Bool
  | .fin _ _ _ => true
  | _ => false

def FVal.neg? : FVal → Bool
  | .nan => false
  | .inf n => n
  | .fin n _ _ => n

def FVal.negate : FVal → FVal
  | .nan => .nan
  | .inf n => .inf (!n)
  | .fin n m e => .fin (!n) m e

def FVal.abs : FVal → FVal
  | .nan => .nan
  | .inf _ => .inf false
  | .fin _ m e => .fin false m e

/-- A code is NaN or infinite: what the NONFINITE counters count (R428). -/
def FVal.nonfinite (v : FVal) : Bool := v.isNan || v.isInf

/-- The exponent of a finite value. -/
def FVal.exp : FVal → Int
  | .fin _ _ e => e
  | _ => 0

/-- The least exponent of the nonzero finite addends. -/
def minExp : List FVal → Int
  | [] => 0
  | [v] => v.exp
  | v :: vs => min v.exp (minExp vs)

/-- The exact sum of a list, with the rules of R98 for NaN and infinities and of R16 for the sign of a zero. -/
def fsum (vs : List FVal) : FVal :=
  if vs.any FVal.isNan then .nan
  else
    let infs := vs.filter FVal.isInf
    match infs with
    | i :: rest => if rest.all (fun j => j.neg? == i.neg?) then i else .nan
    | [] =>
      let nz := vs.filter (fun v => !v.isZero)
      let e0 := minExp nz
      let t : Int := (nz.map (atExp e0)).foldl (· + ·) 0
      if t = 0 then .fin (!vs.isEmpty && vs.all (fun v => v.isZero && v.neg?)) 0 0
      else .fin (decide (t < 0)) t.natAbs e0

/-- The exact product (R16 for the sign of a zero; infinity times zero is NaN). -/
def fmul : FVal → FVal → FVal
  | .nan, _ => .nan
  | _, .nan => .nan
  | .inf a, .inf b => .inf (a != b)
  | .inf a, .fin b m _ => if m = 0 then .nan else .inf (a != b)
  | .fin a m _, .inf b => if m = 0 then .nan else .inf (a != b)
  | .fin a m e, .fin b n f => .fin (a != b) (m * n) (e + f)

/-- A value times 2^k. -/
def FVal.scale (k : Int) : FVal → FVal
  | .fin n m e => .fin n m (e + k)
  | v => v

/-- FP32 addition, subtraction, multiplication and fma with one rounding. -/
def add32 (a b : Nat) : Nat := enc32 (fsum [dec32 a, dec32 b])
def sub32 (a b : Nat) : Nat := enc32 (fsum [dec32 a, (dec32 b).negate])
def mul32 (a b : Nat) : Nat := enc32 (fmul (dec32 a) (dec32 b))
def fma32 (a b c : Nat) : Nat := enc32 (fsum [fmul (dec32 a) (dec32 b), dec32 c])

/-- Order of two values that are not NaN; zeros of both signs are equal. -/
def fcmp (a b : FVal) : Ordering :=
  match a, b with
  | .inf x, .inf y => if x == y then .eq else if x then .lt else .gt
  | .inf x, _ => if x then .lt else .gt
  | _, .inf y => if y then .gt else .lt
  | a, b =>
    let e0 := min a.exp b.exp
    compare (atExp e0 a) (atExp e0 b)

def flt (a b : FVal) : Bool := !a.isNan && !b.isNan && fcmp a b == .lt
def fle (a b : FVal) : Bool := !a.isNan && !b.isNan && fcmp a b != .gt
def feq (a b : FVal) : Bool := !a.isNan && !b.isNan && fcmp a b == .eq

/-- max and min of R101: a NaN input gives NaN; max(+0, -0) is +0 and min(+0, -0) is -0. -/
def fmax (a b : FVal) : FVal :=
  if a.isNan || b.isNan then .nan
  else if a.isZero && b.isZero then .fin (a.neg? && b.neg?) 0 0
  else if flt a b then b else a

def fmin (a b : FVal) : FVal :=
  if a.isNan || b.isNan then .nan
  else if a.isZero && b.isZero then .fin (a.neg? || b.neg?) 0 0
  else if flt b a then b else a

def max32 (a b : Nat) : Nat := enc32 (fmax (dec32 a) (dec32 b))

/-- `rcp` (R102): 1/x correctly rounded; the quotient carries a sticky bit below 64 extra bits. -/
def rcp32 (x : Nat) : Nat :=
  match dec32 x with
  | .nan => nan32
  | .inf n => enc32 (.fin n 0 0)
  | .fin n 0 _ => enc32 (.inf n)
  | .fin n m e =>
    let k := Nat.log2 m + 64
    let q := 2 ^ k / m
    let st := if 2 ^ k % m = 0 then 0 else 1
    enc32 (.fin n (2 * q + st) (-(k : Int) - e - 1))

/-- ln 2 × 2^256, rounded down. -/
def ln2Fix : Nat := 0xb17217f7d1cf79abc9e3b39803f2f6af40f343267298b62d8a0d175b8baafa2b

/-- The series of e^y for a fixed-point y (256 fraction bits): `n` more terms after `term` = y^k/k!. -/
def expSeries (y : Nat) : Nat → Nat → Nat → Nat → Nat
  | 0, _, _, acc => acc
  | n + 1, k, term, acc =>
    let t := (term * y) >>> 256 / (k + 1)
    expSeries y n (k + 1) t (acc + t)

/-- 2^f × 2^256 for a fraction f given with 256 bits, to within 2^-240 of the true value (log entry 14). -/
def exp2Frac (f : Nat) : Nat :=
  let y := (f * ln2Fix) >>> 256
  expSeries y 64 0 (2 ^ 256) (2 ^ 256)

/-- `exp2` (R102): 2^x correctly rounded under nearest even. -/
def exp2_32 (x : Nat) : Nat :=
  match dec32 x with
  | .nan => nan32
  | .inf n => if n then 0 else enc32 (.inf false)
  | .fin _ 0 _ => 0x3F800000
  | .fin n m e =>
    if (Nat.log2 m : Int) + e ≥ 9 then (if n then 0 else enc32 (.inf false))
    else
      -- x × 2^256 exactly: e is at least -149
      let xf : Int := ((m <<< (e + 256).toNat : Nat) : Int)
      let xs : Int := if n then -xf else xf
      let i : Int := xs / ((2 ^ 256 : Nat) : Int)
      let f : Nat := (xs % ((2 ^ 256 : Nat) : Int)).toNat
      if f = 0 then enc32 (.fin false 1 i)
      else enc32 (.fin false (2 * exp2Frac f + 1) (i - 257))

/-- Pairwise levels of the sum tree (R103). -/
def treeLevel : List Nat → List Nat
  | a :: b :: r => add32 a b :: treeLevel r
  | l => l

/-- The sum reduction over 64 lanes (R103). -/
def treeSum (lanes : List Nat) : Nat :=
  let l := (lanes ++ List.replicate 64 0).take 64
  (treeLevel (treeLevel (treeLevel (treeLevel (treeLevel (treeLevel l)))))).headD 0

/-- dot_block (R97, R98): scale bytes and stationary block as given, one rounding. -/
def dotBlock (a : List FVal) (sa : Nat) (b : List FVal) (sb : Nat) (acc : Nat) : Nat :=
  if sa = 0xFF ∨ sb = 0xFF then nan32
  else
    let k : Int := (sa : Int) - 127 + ((sb : Int) - 127)
    enc32 (fsum (dec32 acc :: (a.zip b).map (fun p => (fmul p.1 p.2).scale k)))

/-- One element of outer_block (R99). -/
def outerElem (v : FVal) (sv : Nat) (q : FVal) (sq : Nat) (acc : Nat) : Nat := dotBlock [v] sv [q] sq acc

/-- outer_block (R99). -/
def outerBlock (v : List FVal) (sv : Nat) (q : FVal) (sq : Nat) (acc : List Nat) : List Nat :=
  (v.zip acc).map (fun p => outerElem p.1 sv q sq p.2)

end Sys2Proof.Machine
end

