-- ==== Sys2Proof/Machine/Codec.lean ====
section
/-! DEFINITION. Machine/Codec.lean: the fixed-rate formats (R70 to R84) and the page summary codes (R138). -/

namespace Sys2Proof.Machine

/-- Parameters of an element format (R71): width, mantissa bits, bias, emin, emax, the largest value as
`maxm × 2^maxe`, and whether S.1111.111 is NaN. -/
structure Fmt where
  w    : Nat
  m    : Nat
  bias : Nat
  emin : Int
  emax : Int
  maxm : Nat
  maxe : Int
  nan  : Bool
deriving DecidableEq, Repr

def fmtE4M3 : Fmt := ⟨8, 3, 7, -6, 8, 448, 0, true⟩
def fmtE2M3 : Fmt := ⟨6, 3, 1, 0, 2, 15, -1, false⟩
def fmtE2M1 : Fmt := ⟨4, 1, 1, 0, 2, 6, 0, false⟩

/-- Element format of mode code 1 Z8, 2 Z6, 3 Z4 (R71). -/
def fmtOf (mode : Nat) : Fmt := if mode = 1 then fmtE4M3 else if mode = 2 then fmtE2M3 else fmtE2M1

/-- Block size s(m) in bytes (R35). -/
def blockSize (mode : Nat) : Nat := if mode = 1 then 32 else if mode = 2 then 24 else 16

/-- Granules of a page's payload (R35). -/
def pageGrans (mode : Nat) : Nat := if mode = 1 then 4 else if mode = 2 then 3 else 2

/-- Tokens per page T (R33, "Page geometry"). -/
def tokensOf (hdim : Nat) : Nat := if hdim = 0 then 128 else if hdim = 1 then 64 else 32

/-- head_dim of an HDIM code. -/
def dimOf (hdim : Nat) : Nat := if hdim = 0 then 64 else if hdim = 1 then 128 else 256

/-- The value of an element code (R71). -/
def decElem (f : Fmt) (c : Nat) : FVal :=
  let s := bit c (f.w - 1)
  let ex := bits c (f.w - 2) f.m
  let mt := c % 2 ^ f.m
  if f.nan && c % 2 ^ (f.w - 1) = 2 ^ (f.w - 1) - 1 then .nan
  else if ex = 0 then .fin s mt (f.emin - f.m)
  else .fin s (mt + 2 ^ f.m) ((ex : Int) - f.bias - f.m)

/-- The code of a value that lies on the grid: integer `n` at exponent `q` (R75); a zero takes sign bit 0 (R74). -/
def codeOf (f : Fmt) (neg : Bool) (n : Nat) (q : Int) : Nat :=
  let mag := if n < 2 ^ f.m then n else ((q + f.m + f.bias).toNat) * 2 ^ f.m + (n - 2 ^ f.m)
  if mag = 0 then 0 else (if neg then 2 ^ (f.w - 1) else 0) + mag

/-- nearest_on_grid and encode (R75). -/
def encElem (f : Fmt) (v : FVal) : Nat :=
  match v with
  | .fin _ 0 _ => 0
  | .fin neg m e => let (n, q) := roundGrid (f.m + 1) (f.emin - f.m) m e; codeOf f neg n q
  | _ => 0

/-- Magnitude order of two finite values: a > b in absolute value. -/
def absGt (a b : FVal) : Bool := flt b.abs a.abs

/-- The largest magnitude of a list. -/
def maxAbs (x : List FVal) : FVal := x.foldl (fun m v => if absGt v m then v.abs else m) (.fin false 0 0)

/-- The scale exponent of R74 for a nonzero largest magnitude. -/
def scaleExp (f : Fmt) (xm : FVal) : Int :=
  match xm with
  | .fin _ m e =>
    let s := (Nat.log2 m : Int) + e - f.emax
    let s := if flt (.fin false f.maxm (f.maxe + s)) (.fin false m e) then s + 1 else s
    max s (-127)
  | _ => 0

/-- encode_block (R74): the scale byte and the element codes. -/
def encodeBlock (f : Fmt) (x : List FVal) : Nat × List Nat :=
  if x.any FVal.nonfinite then (0xFF, x.map (fun _ => 0))
  else
    let xm := maxAbs x
    if xm.isZero then (0, x.map (fun _ => 0))
    else
      let s := scaleExp f xm
      ((s + 127).toNat, x.map (fun v => encElem f (v.scale (-s))))

/-- Element codes packed into the bytes of a Z-mode block (R72). -/
def packBlock (f : Fmt) (codes : List Nat) : List Byte :=
  toBytes (4 * f.w) (codes.reverse.foldl (fun acc c => acc * 2 ^ f.w + c % 2 ^ f.w) 0)

/-- Element codes of a Z-mode block (R72). -/
def unpackBlock (f : Fmt) (bs : List Byte) : List Nat :=
  let x := ofBytes bs
  (List.range 32).map (fun k => (x >>> (f.w * k)) % 2 ^ f.w)

/-- Split form of a block: exact element values (R77). -/
def splitBlock (mode : Nat) (bs : List Byte) : List FVal := (unpackBlock (fmtOf mode) bs).map (decElem (fmtOf mode))

/-- Decoded values of a block (R73). -/
def decodeBlock (mode : Nat) (bs : List Byte) (scale : Nat) : List FVal :=
  (splitBlock mode bs).map (fun v => if scale = 0xFF then .nan else v.scale ((scale : Int) - 127))

/-- BF16 form of a block (R77). -/
def bf16Form (mode : Nat) (bs : List Byte) (scale : Nat) : List Nat := (decodeBlock mode bs scale).map encBf16

/-- Values of a BF16 byte string. -/
def bf16Vals (bs : List Byte) : List Nat := (chunks 2 (bs.length / 2) bs).map ofBytes

/-- BF16 codes as bytes. -/
def bf16Bytes (xs : List Nat) : List Byte := xs.flatMap (toBytes 2)

/-- Encodes a run of blocks of 32 values: payload bytes, scale bytes and the count of blocks with scale 0xFF. -/
def encodeRun (mode : Nat) (blocks : List (List FVal)) : List Byte × List Byte × Nat :=
  let es := blocks.map (encodeBlock (fmtOf mode))
  (es.flatMap (fun e => packBlock (fmtOf mode) e.2), es.map (fun e => byteOf e.1 0), (es.filter (fun e => e.1 == 0xFF)).length)

/-- A page's 512 blocks from its key and value rows (R70): T rows each, zero rows beyond the filled ones (R36). -/
def pageBlocks (d : Nat) (keys values : List (List FVal)) : List (List FVal) :=
  let t := 8192 / d
  let row (rs : List (List FVal)) (k : Nat) : List FVal := (rs.getD k []) ++ List.replicate d (.fin false 0 0)
  let half (rs : List (List FVal)) : List (List FVal) :=
    (List.range t).flatMap (fun k => chunks 32 (d / 32) ((row rs k).take d))
  half keys ++ half values

/-- Sparse clamp (R83): indices kept among 32 values. -/
def sparseKeep (k : Nat) (x : List FVal) : List Nat :=
  let cand := (List.range 32).filter (fun i => !(x.getD i (.fin false 0 0)).isZero)
  let ord := sortBy (fun i j => absGt (x.getD i (.fin false 0 0)) (x.getD j (.fin false 0 0))) cand
  distinct (ord.take k)

/-- encode_sparse_block (R83): the block's bytes and how many values it drops. -/
def encodeSparse (k : Nat) (s : Int) (x : List FVal) : List Byte × Nat :=
  let keep := sparseKeep k x
  let mask := keep.foldl (fun m i => m ||| (1 <<< i)) 0
  let vals := keep.map (fun i => byteOf (encElem fmtE4M3 ((x.getD i (.fin false 0 0)).scale (-s))) 0)
  let cand := (x.filter (fun v => !v.isZero)).length
  (toBytes 4 mask ++ padTo k vals, cand - keep.length)

/-- A sparse row (R81, R82): row scale, blocks, drops and whether the row was non-finite. -/
def encodeSparseRow (k : Nat) (x : List FVal) : Nat × List Byte × Nat × Bool :=
  let n := ceilDiv x.length 32
  let blocks := chunks 32 n (x ++ List.replicate 31 (.fin false 0 0))
  if x.any FVal.nonfinite then (0xFF, zeros (n * (4 + k)), 0, true)
  else
    let xm := maxAbs x
    let s : Int := if xm.isZero then -127 else scaleExp fmtE4M3 xm
    let es := blocks.map (encodeSparse k s)
    ((s + 127).toNat, es.flatMap (·.1), (es.map (·.2)).foldl (· + ·) 0, false)

/-- Places the values of a sparse block at the set bits of its mask, from bit `i` on (R84). -/
def placeSparse (mask : Nat) : Nat → Nat → List Nat → List FVal
  | 0, _, _ => []
  | n + 1, i, vs =>
    if bit mask i then decElem fmtE4M3 (vs.headD 0) :: placeSparse mask n (i + 1) (vs.drop 1)
    else .fin false 0 0 :: placeSparse mask n (i + 1) vs

/-- Number of set bits of a 32-bit mask. -/
def popcount (n x : Nat) : Nat := ((List.range n).filter (bit x)).length

/-- A sparse block decoded to split form; `none` when it is malformed (R84). -/
def decodeSparse (k : Nat) (bs : List Byte) : Option (List FVal) :=
  let mask := ofBytes (bs.take 4)
  if popcount 32 mask > k then none else some (placeSparse mask 32 0 ((bs.drop 4).map BitVec.toNat))

/-- The least E4M3 code not below (`up`) or the greatest not above a finite value (R138). -/
def encDirected (up : Bool) (v : FVal) : Nat :=
  match v with
  | .fin _ 0 _ => 0
  | .fin neg m e =>
    let c := encElem fmtE4M3 v
    let r := decElem fmtE4M3 c
    let away : Bool := up != neg
    let short : Bool := if up then flt r v else flt v r
    if !short then c
    else
      let q := max ((Nat.log2 m : Int) + e - 3) (-9)
      let n := m >>> (q - e).toNat
      let n := if away then n + 1 else n
      if n = 16 then codeOf fmtE4M3 neg 8 (q + 1) else codeOf fmtE4M3 neg n q
  | _ => 0

/-- The summary of a page (R138): MAX, MIN, SCALE and FILL as the 516 bytes before VTAG. -/
def summaryOf (d : Nat) (keys : List (List FVal)) : List Byte :=
  let col (i : Nat) : List FVal := keys.map (fun r => r.getD i (.fin false 0 0))
  let ext (f : FVal → FVal → FVal) (l : List FVal) : FVal := match l with
    | [] => .fin false 0 0
    | v :: vs => vs.foldl f v
  let us := (List.range d).map (fun i => ext fmax (col i))
  let ws := (List.range d).map (fun i => ext fmin (col i))
  if (keys.flatten).any FVal.nonfinite then zeros 512 ++ [0xFF, byteOf keys.length 0] ++ zeros 2
  else
    let xm := maxAbs (us ++ ws)
    let s : Int := if xm.isZero then -127 else scaleExp fmtE4M3 xm
    let code (up : Bool) (v : FVal) : Byte := byteOf (encDirected up (v.scale (-s))) 0
    padTo 256 (us.map (code true)) ++ padTo 256 (ws.map (code false)) ++ [byteOf (s + 127).toNat 0, byteOf keys.length 0] ++ zeros 2

end Sys2Proof.Machine
end

