-- ==== Sys2Proof/Config.lean ====
section
/-! DEFINITION. Config.lean: what the spec leaves open and what it names without defining. Every constant here is opaque:
nothing can evaluate it, so a statement about the machine holds whatever it is. -/

namespace Sys2Proof

/-- The free value number `k` of a run (log entry 1): the allocator's choice among free places (R357), the window key
drawn by the random source (R273), the back-off strokes of R64, and every other value the manual does not fix. -/
opaque Config.freeNat : Nat → Nat

/-- SHA-384 of a byte string (R366, R368, R369): the manual names the algorithm and gives no bits (log entry 15). -/
opaque Config.sha384 : List Byte → BitVec 384

/-- ECDSA P-384 verification of a signature over a digest under a public key (R366; log entry 15). -/
opaque Config.ecdsaVerify : List Byte → BitVec 384 → List Byte → Bool

/-- The payload bytes of a message of the reserved queue pairs, which the manual does not spell (R256; log entry 16). -/
opaque Config.ctrlBytes : Ctrl → List Byte

/-- The signature of the SEC block over a byte string, under the key derived from the unique secret (R370; log entry 15). -/
opaque Config.secSign : BitVec 256 → List Byte → List Byte

/-- The certificate chain of slot 0 for a unique secret (R370; log entry 15). -/
opaque Config.certChain : BitVec 256 → List Byte

/-- The layout of a firmware slot: the manual gives the parts of an image, not their places (R366; log entry 15).
From the slot's bytes: public key, signature, signed bytes, security version, kernel store images. -/
opaque Config.imageKey : List Byte → List Byte
opaque Config.imageSig : List Byte → List Byte
opaque Config.imageSigned : List Byte → List Byte
opaque Config.imageSvn : List Byte → BitVec 8
opaque Config.imageKernels : List Byte → List Byte

/-- The boot ROM's bytes, and the key material of the fused state that are measured (R368; log entry 15). -/
opaque Config.romBytes : List Byte
opaque Config.fuseBytes : Nat → Nat → Nat → Nat → List Byte

/-- The set index function of the read cache, over node, window and line: not part of the contract (R286; log entry 25). -/
opaque Config.cacheSet : Nat → Nat → Nat → Nat

/-- Whether the boot memory has 1 Gbit; else it has 512 Mbit (R378). -/
opaque Config.nvmLarge : Bool

/-- The entries of the role image's sections whose content the manual gives without a layout (R380; log entry 15): the
partitions of `PARTS`, the mappings of `PLACE`, the fault manager addresses of `MGMT` and whether that section passes its own
checks (R382), and the node IDs of `PROXY`, by slot for a head, of the head for a member. -/
opaque Config.partsOf : List Byte → List PartInstr
opaque Config.placeOf : List Byte → List PlaceMap
opaque Config.mgmtOf : List Byte → List (BitVec 128)
opaque Config.mgmtGood : List Byte → Bool
opaque Config.proxySlots : List Byte → List (BitVec 6 × BitVec 16)
opaque Config.proxyHead : List Byte → BitVec 16

/-- What the SPDM responder answers to a request: SPDM 1.2's own messages, which the manual names and does not spell (R369;
log entry 15), over the code of the request, its bytes and what the answer is about. -/
opaque Config.spdmBody : Nat → List Byte → List Byte → List Byte

/-- The heartbeat period of a session in nanoseconds, which the manual does not give (R371). -/
opaque Config.heartbeatNs : Nat

/-- Results of vector operations that the manual does not state, by operation and operands: a conversion to integer outside its
range, a shift by 32 or more (R101; log entry 189). -/
opaque Config.vecOpen : Nat → Nat → Nat → BitVec 32

end Sys2Proof
end

