-- ==== Sys2Proof/Machine/Regs.lean ====
section
/-! DEFINITION. Machine/Regs.lean: the register map of BAR0 (R401 to R404): every register of the manual's tables with
its offset, strides, fields, access types (R11) and reset values, and the ranges R425 holds a write to. Fuse-set
fields have reset 0 here; their values are views (Ops.lean, R7). -/

namespace Sys2Proof.Machine

/-- Access types of R11. -/
inductive Acc where
  | rw | ro | rc | w1c | wo | rwl
deriving DecidableEq, Repr

/-- One field of a register: its bits, access, the values a write may give it (none listed: every value) and the
alignment its definition states (R425, log entry 12). -/
structure FieldSpec where
  hi    : Nat
  lo    : Nat
  acc   : Acc
  ok    : List (Nat × Nat)
  align : Nat
deriving DecidableEq, Repr

/-- One register of the map: first offset, first index, count and stride in each dimension, its word at reset and its
fields that are not reserved. -/
structure RegSpec where
  base   : Nat
  first  : Nat
  n1     : Nat
  s1     : Nat
  n2     : Nat
  s2     : Nat
  wreset : Nat
  fields : List FieldSpec
deriving DecidableEq, Repr

/-- A named field, with what is needed to reach it: the offset of its register, the strides, its bits and the
register's word at reset. -/
structure Fld where
  base   : Nat
  s1     : Nat
  s2     : Nat
  hi     : Nat
  lo     : Nat
  wreset : Nat
deriving DecidableEq, Repr

/-- Byte offset in BAR0 of the field's register at indices `i`, `j` (R404). -/
def Fld.off (f : Fld) (i j : Nat) : Nat := f.base + f.s1 * i + f.s2 * j


/-- `GLB_ID` (R7). -/
def Reg.GLB_ID : RegSpec := ⟨0x00000000, 0, 1, 0x0, 1, 0x0, 0xC4E000000000000,
  [⟨63, 48, .ro, [], 1⟩, ⟨47, 40, .ro, [], 1⟩, ⟨39, 32, .ro, [], 1⟩]⟩
def Fld.GLB_ID_FAMILY : Fld := ⟨0x00000000, 0x0, 0x0, 63, 48, 0xC4E000000000000⟩
def Fld.GLB_ID_ORDER : Fld := ⟨0x00000000, 0x0, 0x0, 47, 40, 0xC4E000000000000⟩
def Fld.GLB_ID_STEPPING : Fld := ⟨0x00000000, 0x0, 0x0, 39, 32, 0xC4E000000000000⟩

/-- `GLB_UNIT_EN` (R7). -/
def Reg.GLB_UNIT_EN : RegSpec := ⟨0x00000008, 0, 1, 0x0, 1, 0x0, 0x0,
  [⟨6, 6, .ro, [], 1⟩, ⟨5, 5, .ro, [], 1⟩, ⟨4, 4, .ro, [], 1⟩, ⟨3, 3, .ro, [], 1⟩, ⟨2, 2, .ro, [], 1⟩, ⟨1, 1, .ro, [], 1⟩, ⟨0, 0, .ro, [], 1⟩]⟩
def Fld.GLB_UNIT_EN_ROLE_ALL : Fld := ⟨0x00000008, 0x0, 0x0, 6, 6, 0x0⟩
def Fld.GLB_UNIT_EN_ROLE_CACHE : Fld := ⟨0x00000008, 0x0, 0x0, 5, 5, 0x0⟩
def Fld.GLB_UNIT_EN_ROLE_GEN : Fld := ⟨0x00000008, 0x0, 0x0, 4, 4, 0x0⟩
def Fld.GLB_UNIT_EN_ROLE_PROMPT : Fld := ⟨0x00000008, 0x0, 0x0, 3, 3, 0x0⟩
def Fld.GLB_UNIT_EN_IDX : Fld := ⟨0x00000008, 0x0, 0x0, 2, 2, 0x0⟩
def Fld.GLB_UNIT_EN_ADP : Fld := ⟨0x00000008, 0x0, 0x0, 1, 1, 0x0⟩
def Fld.GLB_UNIT_EN_SMP : Fld := ⟨0x00000008, 0x0, 0x0, 0, 0, 0x0⟩

/-- `GLB_BOAT_EN` (R7). -/
def Reg.GLB_BOAT_EN : RegSpec := ⟨0x00000010, 0, 1, 0x0, 1, 0x0, 0x0,
  [⟨63, 0, .ro, [], 1⟩]⟩
def Fld.GLB_BOAT_EN_BOAT : Fld := ⟨0x00000010, 0x0, 0x0, 63, 0, 0x0⟩

/-- `MEM_PD_BASE` (R30). -/
def Reg.MEM_PD_BASE : RegSpec := ⟨0x00E08000, 0, 1, 0x0, 1, 0x0, 0x0,
  [⟨26, 0, .rwl, [], 1⟩]⟩
def Fld.MEM_PD_BASE_GRAN : Fld := ⟨0x00E08000, 0x0, 0x0, 26, 0, 0x0⟩

/-- `MEM_SCALE_BASE` (R30). -/
def Reg.MEM_SCALE_BASE : RegSpec := ⟨0x00E08010, 0, 1, 0x0, 1, 0x0, 0x0,
  [⟨26, 0, .rwl, [], 1⟩]⟩
def Fld.MEM_SCALE_BASE_GRAN : Fld := ⟨0x00E08010, 0x0, 0x0, 26, 0, 0x0⟩

/-- `MEM_SEQ_BASE` (R30). -/
def Reg.MEM_SEQ_BASE : RegSpec := ⟨0x00E08018, 0, 1, 0x0, 1, 0x0, 0x0,
  [⟨26, 0, .rwl, [], 1⟩]⟩
def Fld.MEM_SEQ_BASE_GRAN : Fld := ⟨0x00E08018, 0x0, 0x0, 26, 0, 0x0⟩

/-- `MEM_PD_PAGES` (R30). -/
def Reg.MEM_PD_PAGES : RegSpec := ⟨0x00E08008, 0, 1, 0x0, 1, 0x0, 0x0,
  [⟨26, 0, .rwl, [(0, 67108864)], 1⟩]⟩
def Fld.MEM_PD_PAGES_PAGES : Fld := ⟨0x00E08008, 0x0, 0x0, 26, 0, 0x0⟩

/-- `MEM_PD_COUNT` (R30). -/
def Reg.MEM_PD_COUNT : RegSpec := ⟨0x00E08020, 0, 1, 0x0, 1, 0x0, 0x0,
  [⟨63, 32, .ro, [], 1⟩, ⟨31, 0, .ro, [], 1⟩]⟩
def Fld.MEM_PD_COUNT_QUAR : Fld := ⟨0x00E08020, 0x0, 0x0, 63, 32, 0x0⟩
def Fld.MEM_PD_COUNT_FREE : Fld := ⟨0x00E08020, 0x0, 0x0, 31, 0, 0x0⟩

/-- `MEM_PD_SWEEP` (R30). -/
def Reg.MEM_PD_SWEEP : RegSpec := ⟨0x00E08028, 0, 1, 0x0, 1, 0x0, 0x1000,
  [⟨63, 63, .ro, [], 1⟩, ⟨32, 32, .wo, [], 1⟩, ⟨31, 0, .rw, [], 1⟩]⟩
def Fld.MEM_PD_SWEEP_BUSY : Fld := ⟨0x00E08028, 0x0, 0x0, 63, 63, 0x1000⟩
def Fld.MEM_PD_SWEEP_START : Fld := ⟨0x00E08028, 0x0, 0x0, 32, 32, 0x1000⟩
def Fld.MEM_PD_SWEEP_QUAR_LIMIT : Fld := ⟨0x00E08028, 0x0, 0x0, 31, 0, 0x1000⟩

/-- `IDX_PT_CFG` (R61). -/
def Reg.IDX_PT_CFG : RegSpec := ⟨0x00D00000, 0, 1, 0x0, 1, 0x0, 0x0,
  [⟨57, 32, .rwl, [], 32⟩, ⟨4, 0, .rwl, [(0, 0), (12, 19)], 1⟩]⟩
def Fld.IDX_PT_CFG_BASE : Fld := ⟨0x00D00000, 0x0, 0x0, 57, 32, 0x0⟩
def Fld.IDX_PT_CFG_SIZE_LOG2 : Fld := ⟨0x00D00000, 0x0, 0x0, 4, 0, 0x0⟩

/-- `IDX_PT_KEY_SEL` (R61). -/
def Reg.IDX_PT_KEY_SEL : RegSpec := ⟨0x00D00008, 0, 1, 0x0, 1, 0x0, 0x0,
  [⟨7, 0, .rw, [], 1⟩]⟩
def Fld.IDX_PT_KEY_SEL_TENANT : Fld := ⟨0x00D00008, 0x0, 0x0, 7, 0, 0x0⟩

/-- `IDX_PT_KEY_LO` (R61). -/
def Reg.IDX_PT_KEY_LO : RegSpec := ⟨0x00D00010, 0, 1, 0x0, 1, 0x0, 0x0,
  [⟨63, 0, .wo, [], 1⟩]⟩
def Fld.IDX_PT_KEY_LO_KEY0 : Fld := ⟨0x00D00010, 0x0, 0x0, 63, 0, 0x0⟩

/-- `IDX_PT_KEY_HI` (R61). -/
def Reg.IDX_PT_KEY_HI : RegSpec := ⟨0x00D00018, 0, 1, 0x0, 1, 0x0, 0x0,
  [⟨63, 0, .wo, [], 1⟩]⟩
def Fld.IDX_PT_KEY_HI_KEY1 : Fld := ⟨0x00D00018, 0x0, 0x0, 63, 0, 0x0⟩

/-- `MOV_XFER_CFG` (R67). -/
def Reg.MOV_XFER_CFG : RegSpec := ⟨0x00800100, 0, 1, 0x0, 1, 0x0, 0x80000800100000,
  [⟨55, 40, .rw, [], 1⟩, ⟨39, 32, .rw, [], 1⟩, ⟨31, 16, .rw, [], 1⟩]⟩
def Fld.MOV_XFER_CFG_LFLUSH_ANGLE : Fld := ⟨0x00800100, 0x0, 0x0, 55, 40, 0x80000800100000⟩
def Fld.MOV_XFER_CFG_RSV_HOLD : Fld := ⟨0x00800100, 0x0, 0x0, 39, 32, 0x80000800100000⟩
def Fld.MOV_XFER_CFG_COMMIT_RETRY : Fld := ⟨0x00800100, 0x0, 0x0, 31, 16, 0x80000800100000⟩

/-- `MOV_CODEC_STAT` (R89). -/
def Reg.MOV_CODEC_STAT : RegSpec := ⟨0x00800140, 0, 1, 0x0, 1, 0x0, 0x0,
  [⟨63, 32, .rc, [], 1⟩, ⟨31, 0, .rc, [], 1⟩]⟩
def Fld.MOV_CODEC_STAT_NONFINITE : Fld := ⟨0x00800140, 0x0, 0x0, 63, 32, 0x0⟩
def Fld.MOV_CODEC_STAT_MALFORMED : Fld := ⟨0x00800140, 0x0, 0x0, 31, 0, 0x0⟩

/-- `MOV_CODEC_DROP` (R89). -/
def Reg.MOV_CODEC_DROP : RegSpec := ⟨0x00800148, 0, 1, 0x0, 1, 0x0, 0x0,
  [⟨63, 0, .rc, [], 1⟩]⟩
def Fld.MOV_CODEC_DROP_DROPPED : Fld := ⟨0x00800148, 0x0, 0x0, 63, 0, 0x0⟩

/-- `ATT_CORE_CTL` (R118). -/
def Reg.ATT_CORE_CTL : RegSpec := ⟨0x00900000, 0, 512, 0x1000, 1, 0x0, 0x1,
  [⟨1, 1, .rw, [], 1⟩, ⟨0, 0, .rw, [], 1⟩]⟩
def Fld.ATT_CORE_CTL_DRAIN : Fld := ⟨0x00900000, 0x1000, 0x0, 1, 1, 0x1⟩
def Fld.ATT_CORE_CTL_EN : Fld := ⟨0x00900000, 0x1000, 0x0, 0, 0, 0x1⟩

/-- `ATT_CORE_STAT` (R118). -/
def Reg.ATT_CORE_STAT : RegSpec := ⟨0x00900008, 0, 512, 0x1000, 1, 0x0, 0x10000000000000,
  [⟨63, 56, .ro, [], 1⟩, ⟨55, 55, .ro, [], 1⟩, ⟨54, 52, .ro, [], 1⟩, ⟨51, 50, .ro, [], 1⟩]⟩
def Fld.ATT_CORE_STAT_TENANT : Fld := ⟨0x00900008, 0x1000, 0x0, 63, 56, 0x10000000000000⟩
def Fld.ATT_CORE_STAT_PART : Fld := ⟨0x00900008, 0x1000, 0x0, 55, 55, 0x10000000000000⟩
def Fld.ATT_CORE_STAT_STATE : Fld := ⟨0x00900008, 0x1000, 0x0, 54, 52, 0x10000000000000⟩
def Fld.ATT_CORE_STAT_CLASS : Fld := ⟨0x00900008, 0x1000, 0x0, 51, 50, 0x10000000000000⟩

/-- `ATT_CORE_CUR` (R118). -/
def Reg.ATT_CORE_CUR : RegSpec := ⟨0x00900010, 0, 512, 0x1000, 1, 0x0, 0x0,
  [⟨50, 48, .ro, [], 1⟩, ⟨47, 32, .ro, [], 1⟩, ⟨31, 0, .ro, [], 1⟩]⟩
def Fld.ATT_CORE_CUR_FAULTS : Fld := ⟨0x00900010, 0x1000, 0x0, 50, 48, 0x0⟩
def Fld.ATT_CORE_CUR_RING : Fld := ⟨0x00900010, 0x1000, 0x0, 47, 32, 0x0⟩
def Fld.ATT_CORE_CUR_INDEX : Fld := ⟨0x00900010, 0x1000, 0x0, 31, 0, 0x0⟩

/-- `ATT_CORE_BUSY` (R118). -/
def Reg.ATT_CORE_BUSY : RegSpec := ⟨0x00900018, 0, 512, 0x1000, 1, 0x0, 0x0,
  [⟨63, 0, .rc, [], 1⟩]⟩
def Fld.ATT_CORE_BUSY_CYCLES : Fld := ⟨0x00900018, 0x1000, 0x0, 63, 0, 0x0⟩

/-- `ATT_CORE_STALL` (R118). -/
def Reg.ATT_CORE_STALL : RegSpec := ⟨0x00900020, 0, 512, 0x1000, 1, 0x0, 0x0,
  [⟨63, 32, .rc, [], 1⟩, ⟨31, 0, .rc, [], 1⟩]⟩
def Fld.ATT_CORE_STALL_OPERAND : Fld := ⟨0x00900020, 0x1000, 0x0, 63, 32, 0x0⟩
def Fld.ATT_CORE_STALL_FAULT : Fld := ⟨0x00900020, 0x1000, 0x0, 31, 0, 0x0⟩

/-- `ATT_CORE_NUM` (R118). -/
def Reg.ATT_CORE_NUM : RegSpec := ⟨0x00900028, 0, 512, 0x1000, 1, 0x0, 0x0,
  [⟨63, 32, .rc, [], 1⟩, ⟨31, 0, .rc, [], 1⟩]⟩
def Fld.ATT_CORE_NUM_CORR : Fld := ⟨0x00900028, 0x1000, 0x0, 63, 32, 0x0⟩
def Fld.ATT_CORE_NUM_NONFINITE : Fld := ⟨0x00900028, 0x1000, 0x0, 31, 0, 0x0⟩

/-- `ATT_CORE_ERR` (R118). -/
def Reg.ATT_CORE_ERR : RegSpec := ⟨0x00900030, 0, 512, 0x1000, 1, 0x0, 0x0,
  [⟨2, 2, .w1c, [], 1⟩, ⟨1, 1, .w1c, [], 1⟩, ⟨0, 0, .w1c, [], 1⟩]⟩
def Fld.ATT_CORE_ERR_UNCORR : Fld := ⟨0x00900030, 0x1000, 0x0, 2, 2, 0x0⟩
def Fld.ATT_CORE_ERR_WATCHDOG : Fld := ⟨0x00900030, 0x1000, 0x0, 1, 1, 0x0⟩
def Fld.ATT_CORE_ERR_MISFMT : Fld := ⟨0x00900030, 0x1000, 0x0, 0, 0, 0x0⟩

/-- `HAL_CFG` (R119). -/
def Reg.HAL_CFG : RegSpec := ⟨0x01400000, 0, 1, 0x0, 1, 0x0, 0x20,
  [⟨7, 0, .rwl, [], 1⟩]⟩
def Fld.HAL_CFG_AGE : Fld := ⟨0x01400000, 0x0, 0x0, 7, 0, 0x20⟩

/-- `HAL_CONFLICT` (R119). -/
def Reg.HAL_CONFLICT : RegSpec := ⟨0x01400100, 0, 1, 0x0, 1, 0x0, 0x0,
  [⟨63, 0, .rc, [], 1⟩]⟩
def Fld.HAL_CONFLICT_STALLS : Fld := ⟨0x01400100, 0x0, 0x0, 63, 0, 0x0⟩

/-- `HAL_WLOST` (R119). -/
def Reg.HAL_WLOST : RegSpec := ⟨0x01400108, 0, 1, 0x0, 1, 0x0, 0x0,
  [⟨63, 32, .rc, [], 1⟩, ⟨31, 0, .rc, [], 1⟩]⟩
def Fld.HAL_WLOST_HOST : Fld := ⟨0x01400108, 0x0, 0x0, 63, 32, 0x0⟩
def Fld.HAL_WLOST_ALL : Fld := ⟨0x01400108, 0x0, 0x0, 31, 0, 0x0⟩

/-- `HAL_ROTATE` (R119). -/
def Reg.HAL_ROTATE : RegSpec := ⟨0x01400110, 0, 1, 0x0, 1, 0x0, 0x0,
  [⟨63, 32, .rc, [], 1⟩, ⟨31, 0, .rc, [], 1⟩]⟩
def Fld.HAL_ROTATE_AGED : Fld := ⟨0x01400110, 0x0, 0x0, 63, 32, 0x0⟩
def Fld.HAL_ROTATE_UNALIGNED : Fld := ⟨0x01400110, 0x0, 0x0, 31, 0, 0x0⟩

/-- `HAL_ECC` (R119). -/
def Reg.HAL_ECC : RegSpec := ⟨0x01400118, 0, 1, 0x0, 1, 0x0, 0x0,
  [⟨63, 32, .rc, [], 1⟩, ⟨31, 0, .rc, [], 1⟩]⟩
def Fld.HAL_ECC_UNCORR : Fld := ⟨0x01400118, 0x0, 0x0, 63, 32, 0x0⟩
def Fld.HAL_ECC_CORR : Fld := ⟨0x01400118, 0x0, 0x0, 31, 0, 0x0⟩

/-- `HAL_FAULT` (R119). -/
def Reg.HAL_FAULT : RegSpec := ⟨0x01400120, 0, 1, 0x0, 1, 0x0, 0x0,
  [⟨63, 32, .rc, [], 1⟩, ⟨31, 0, .rc, [], 1⟩]⟩
def Fld.HAL_FAULT_DENY : Fld := ⟨0x01400120, 0x0, 0x0, 63, 32, 0x0⟩
def Fld.HAL_FAULT_MISALIGN : Fld := ⟨0x01400120, 0x0, 0x0, 31, 0, 0x0⟩

/-- `HAL_WAY` (R119). -/
def Reg.HAL_WAY : RegSpec := ⟨0x01401000, 0, 128, 0x8, 1, 0x0, 0x0,
  [⟨8, 8, .ro, [], 1⟩, ⟨7, 0, .ro, [], 1⟩]⟩
def Fld.HAL_WAY_TEN : Fld := ⟨0x01401000, 0x8, 0x0, 8, 8, 0x0⟩
def Fld.HAL_WAY_TENANT : Fld := ⟨0x01401000, 0x8, 0x0, 7, 0, 0x0⟩

/-- `IDX_SUM_BASE` (R143). -/
def Reg.IDX_SUM_BASE : RegSpec := ⟨0x00D00100, 0, 1, 0x0, 1, 0x0, 0x0,
  [⟨63, 63, .rwl, [], 1⟩, ⟨26, 0, .rwl, [], 1⟩]⟩
def Fld.IDX_SUM_BASE_EN : Fld := ⟨0x00D00100, 0x0, 0x0, 63, 63, 0x0⟩
def Fld.IDX_SUM_BASE_GRAN : Fld := ⟨0x00D00100, 0x0, 0x0, 26, 0, 0x0⟩

/-- `IDX_RSEL_STAT` (R143). -/
def Reg.IDX_RSEL_STAT : RegSpec := ⟨0x00D00108, 0, 1, 0x0, 1, 0x0, 0x0,
  [⟨63, 32, .rc, [], 1⟩, ⟨31, 0, .rc, [], 1⟩]⟩
def Fld.IDX_RSEL_STAT_SETS : Fld := ⟨0x00D00108, 0x0, 0x0, 63, 32, 0x0⟩
def Fld.IDX_RSEL_STAT_SKIPPED : Fld := ⟨0x00D00108, 0x0, 0x0, 31, 0, 0x0⟩

/-- `ATT_CORE_RSEL` (R143). -/
def Reg.ATT_CORE_RSEL : RegSpec := ⟨0x00900038, 0, 512, 0x1000, 1, 0x0, 0x0,
  [⟨63, 32, .rc, [], 1⟩, ⟨31, 0, .rc, [], 1⟩]⟩
def Fld.ATT_CORE_RSEL_FALLBACK : Fld := ⟨0x00900038, 0x1000, 0x0, 63, 32, 0x0⟩
def Fld.ATT_CORE_RSEL_SELECTED : Fld := ⟨0x00900038, 0x1000, 0x0, 31, 0, 0x0⟩

/-- `SMP_CFG` (R162). -/
def Reg.SMP_CFG : RegSpec := ⟨0x00B00000, 0, 1, 0x0, 1, 0x0, 0x20,
  [⟨31, 16, .rw, [], 1⟩, ⟨7, 0, .rw, [], 1⟩]⟩
def Fld.SMP_CFG_SCAN_ANGLE : Fld := ⟨0x00B00000, 0x0, 0x0, 31, 16, 0x20⟩
def Fld.SMP_CFG_MIRROR_GROUP : Fld := ⟨0x00B00000, 0x0, 0x0, 7, 0, 0x20⟩

/-- `SMP_TOKENS` (R162). -/
def Reg.SMP_TOKENS : RegSpec := ⟨0x00B00008, 0, 1, 0x0, 1, 0x0, 0x0,
  [⟨63, 0, .rc, [], 1⟩]⟩
def Fld.SMP_TOKENS_RELEASED : Fld := ⟨0x00B00008, 0x0, 0x0, 63, 0, 0x0⟩

/-- `SMP_OUTCOME` (R162). -/
def Reg.SMP_OUTCOME : RegSpec := ⟨0x00B00010, 0, 1, 0x0, 1, 0x0, 0x0,
  [⟨63, 48, .rc, [], 1⟩, ⟨47, 32, .rc, [], 1⟩, ⟨31, 16, .rc, [], 1⟩, ⟨15, 0, .rc, [], 1⟩]⟩
def Fld.SMP_OUTCOME_EMPTY_MASK : Fld := ⟨0x00B00010, 0x0, 0x0, 63, 48, 0x0⟩
def Fld.SMP_OUTCOME_NONFINITE : Fld := ⟨0x00B00010, 0x0, 0x0, 47, 32, 0x0⟩
def Fld.SMP_OUTCOME_REJECTED : Fld := ⟨0x00B00010, 0x0, 0x0, 31, 16, 0x0⟩
def Fld.SMP_OUTCOME_BAD_TABLE : Fld := ⟨0x00B00010, 0x0, 0x0, 15, 0, 0x0⟩

/-- `SMP_LAT` (R162). -/
def Reg.SMP_LAT : RegSpec := ⟨0x00B00018, 0, 1, 0x0, 1, 0x0, 0x0,
  [⟨63, 32, .rc, [], 1⟩, ⟨31, 0, .rc, [], 1⟩]⟩
def Fld.SMP_LAT_TTFT_MISS : Fld := ⟨0x00B00018, 0x0, 0x0, 63, 32, 0x0⟩
def Fld.SMP_LAT_TBT_MISS : Fld := ⟨0x00B00018, 0x0, 0x0, 31, 0, 0x0⟩

/-- `SMP_PROMO` (R162). -/
def Reg.SMP_PROMO : RegSpec := ⟨0x00B00020, 0, 1, 0x0, 1, 0x0, 0x0,
  [⟨63, 32, .rc, [], 1⟩, ⟨31, 0, .rc, [], 1⟩]⟩
def Fld.SMP_PROMO_BY_TTFT : Fld := ⟨0x00B00020, 0x0, 0x0, 63, 32, 0x0⟩
def Fld.SMP_PROMO_BY_TBT : Fld := ⟨0x00B00020, 0x0, 0x0, 31, 0, 0x0⟩

/-- `SMP_HELD` (R162). -/
def Reg.SMP_HELD : RegSpec := ⟨0x00B00028, 0, 1, 0x0, 1, 0x0, 0x0,
  [⟨15, 0, .ro, [], 1⟩]⟩
def Fld.SMP_HELD_HELD : Fld := ⟨0x00B00028, 0x0, 0x0, 15, 0, 0x0⟩

/-- `ADP_LARDER_BASE` (R183). -/
def Reg.ADP_LARDER_BASE : RegSpec := ⟨0x00C00000, 0, 1, 0x0, 1, 0x0, 0x0,
  [⟨26, 0, .rwl, [], 1⟩]⟩
def Fld.ADP_LARDER_BASE_GRAN : Fld := ⟨0x00C00000, 0x0, 0x0, 26, 0, 0x0⟩

/-- `ADP_LARDER_SIZE` (R183). "At least 33 when the engine is used" is taken as a demand on the user, not as a stated range of the field
(R425): 1 to 32 are taken as well (log entry 191). -/
def Reg.ADP_LARDER_SIZE : RegSpec := ⟨0x00C00008, 0, 1, 0x0, 1, 0x0, 0x0,
  [⟨26, 0, .rwl, [], 1⟩]⟩
def Fld.ADP_LARDER_SIZE_GRANS : Fld := ⟨0x00C00008, 0x0, 0x0, 26, 0, 0x0⟩

/-- `ADP_STAT` (R183). -/
def Reg.ADP_STAT : RegSpec := ⟨0x00C00010, 0, 1, 0x0, 1, 0x0, 0x0,
  [⟨63, 32, .rc, [], 1⟩, ⟨31, 0, .rc, [], 1⟩]⟩
def Fld.ADP_STAT_ROWS : Fld := ⟨0x00C00010, 0x0, 0x0, 63, 32, 0x0⟩
def Fld.ADP_STAT_PATCHES : Fld := ⟨0x00C00010, 0x0, 0x0, 31, 0, 0x0⟩

/-- `ADP_LOADS` (R183). -/
def Reg.ADP_LOADS : RegSpec := ⟨0x00C00018, 0, 1, 0x0, 1, 0x0, 0x0,
  [⟨63, 48, .rc, [], 1⟩, ⟨47, 32, .rc, [], 1⟩, ⟨31, 0, .rc, [], 1⟩]⟩
def Fld.ADP_LOADS_NONFINITE : Fld := ⟨0x00C00018, 0x0, 0x0, 63, 48, 0x0⟩
def Fld.ADP_LOADS_MC_FAIL : Fld := ⟨0x00C00018, 0x0, 0x0, 47, 32, 0x0⟩
def Fld.ADP_LOADS_LOADED : Fld := ⟨0x00C00018, 0x0, 0x0, 31, 0, 0x0⟩

/-- `MEM_FAULT_CFG` (R212). -/
def Reg.MEM_FAULT_CFG : RegSpec := ⟨0x00E00000, 0, 1, 0x0, 1, 0x0, 0x4000000032,
  [⟨47, 32, .rwl, [(0, 4096)], 1⟩, ⟨15, 0, .rw, [], 1⟩]⟩
def Fld.MEM_FAULT_CFG_SPARE_SLOTS : Fld := ⟨0x00E00000, 0x0, 0x0, 47, 32, 0x4000000032⟩
def Fld.MEM_FAULT_CFG_TIMEOUT : Fld := ⟨0x00E00000, 0x0, 0x0, 15, 0, 0x4000000032⟩

/-- `MEM_FAULT_STAT` (R212). -/
def Reg.MEM_FAULT_STAT : RegSpec := ⟨0x00E00008, 0, 1, 0x0, 1, 0x0, 0x0,
  [⟨51, 40, .ro, [], 1⟩, ⟨31, 0, .rc, [], 1⟩]⟩
def Fld.MEM_FAULT_STAT_QUEUED : Fld := ⟨0x00E00008, 0x0, 0x0, 51, 40, 0x0⟩
def Fld.MEM_FAULT_STAT_RAISED : Fld := ⟨0x00E00008, 0x0, 0x0, 31, 0, 0x0⟩

/-- `MEM_PF_CFG` (R212). -/
def Reg.MEM_PF_CFG : RegSpec := ⟨0x00E00010, 0, 1, 0x0, 1, 0x0, 0x2000401000000000,
  [⟨63, 48, .rw, [], 1⟩, ⟨47, 40, .rw, [], 1⟩, ⟨39, 32, .rw, [], 1⟩, ⟨26, 0, .rwl, [], 1⟩]⟩
def Fld.MEM_PF_CFG_EXT_MAX : Fld := ⟨0x00E00010, 0x0, 0x0, 63, 48, 0x2000401000000000⟩
def Fld.MEM_PF_CFG_EXT_STEP : Fld := ⟨0x00E00010, 0x0, 0x0, 47, 40, 0x2000401000000000⟩
def Fld.MEM_PF_CFG_DECAY : Fld := ⟨0x00E00010, 0x0, 0x0, 39, 32, 0x2000401000000000⟩
def Fld.MEM_PF_CFG_GRAN : Fld := ⟨0x00E00010, 0x0, 0x0, 26, 0, 0x2000401000000000⟩

/-- `MEM_PF_ENTRIES` (R212). -/
def Reg.MEM_PF_ENTRIES : RegSpec := ⟨0x00E00018, 0, 1, 0x0, 1, 0x0, 0x0,
  [⟨15, 0, .rwl, [], 1⟩]⟩
def Fld.MEM_PF_ENTRIES_ENTRIES : Fld := ⟨0x00E00018, 0x0, 0x0, 15, 0, 0x0⟩

/-- `MEM_CELLAR_BASE` (R212). -/
def Reg.MEM_CELLAR_BASE : RegSpec := ⟨0x00E00020, 0, 1, 0x0, 1, 0x0, 0x0,
  [⟨52, 27, .rwl, [], 1⟩, ⟨26, 0, .rwl, [], 1⟩]⟩
def Fld.MEM_CELLAR_BASE_COUNT : Fld := ⟨0x00E00020, 0x0, 0x0, 52, 27, 0x0⟩
def Fld.MEM_CELLAR_BASE_GRAN : Fld := ⟨0x00E00020, 0x0, 0x0, 26, 0, 0x0⟩

/-- `MEM_TOUCH_BASE` (R212). -/
def Reg.MEM_TOUCH_BASE : RegSpec := ⟨0x00E00028, 0, 1, 0x0, 1, 0x0, 0x0,
  [⟨26, 0, .rwl, [], 1⟩]⟩
def Fld.MEM_TOUCH_BASE_GRAN : Fld := ⟨0x00E00028, 0x0, 0x0, 26, 0, 0x0⟩

/-- `MEM_RECLAIM_CFG` (R212). -/
def Reg.MEM_RECLAIM_CFG : RegSpec := ⟨0x00E00030, 0, 1, 0x0, 1, 0x0, 0x4000,
  [⟨31, 0, .rw, [], 1⟩]⟩
def Fld.MEM_RECLAIM_CFG_RATE : Fld := ⟨0x00E00030, 0x0, 0x0, 31, 0, 0x4000⟩

/-- `MEM_STALL` (R212). -/
def Reg.MEM_STALL : RegSpec := ⟨0x00E00100, 0, 16, 0x8, 1, 0x0, 0x0,
  [⟨63, 32, .rc, [], 1⟩, ⟨31, 0, .rc, [], 1⟩]⟩
def Fld.MEM_STALL_EVENTS : Fld := ⟨0x00E00100, 0x8, 0x0, 63, 32, 0x0⟩
def Fld.MEM_STALL_TIME : Fld := ⟨0x00E00100, 0x8, 0x0, 31, 0, 0x0⟩

/-- `MEM_TT_ROOT` (R212). -/
def Reg.MEM_TT_ROOT : RegSpec := ⟨0x00E01000, 0, 256, 0x8, 1, 0x0, 0x0,
  [⟨26, 0, .ro, [], 1⟩]⟩
def Fld.MEM_TT_ROOT_GRAN : Fld := ⟨0x00E01000, 0x8, 0x0, 26, 0, 0x0⟩

/-- `MEM_QUOTA` (R212). -/
def Reg.MEM_QUOTA : RegSpec := ⟨0x00E02000, 0, 256, 0x20, 3, 0x8, 0x0,
  [⟨63, 32, .rw, [], 1⟩, ⟨31, 0, .ro, [], 1⟩]⟩
def Fld.MEM_QUOTA_LIMIT : Fld := ⟨0x00E02000, 0x20, 0x8, 63, 32, 0x0⟩
def Fld.MEM_QUOTA_USE : Fld := ⟨0x00E02000, 0x20, 0x8, 31, 0, 0x0⟩

/-- `MEM_QFLAG` (R212). -/
def Reg.MEM_QFLAG : RegSpec := ⟨0x00E02018, 0, 256, 0x20, 1, 0x0, 0x0,
  [⟨47, 32, .ro, [], 1⟩, ⟨4, 4, .rw, [], 1⟩, ⟨2, 2, .ro, [], 1⟩, ⟨1, 1, .ro, [], 1⟩, ⟨0, 0, .ro, [], 1⟩]⟩
def Fld.MEM_QFLAG_PF_EXT : Fld := ⟨0x00E02018, 0x20, 0x0, 47, 32, 0x0⟩
def Fld.MEM_QFLAG_RECLAIM : Fld := ⟨0x00E02018, 0x20, 0x0, 4, 4, 0x0⟩
def Fld.MEM_QFLAG_OVER_T3 : Fld := ⟨0x00E02018, 0x20, 0x0, 2, 2, 0x0⟩
def Fld.MEM_QFLAG_OVER_T2 : Fld := ⟨0x00E02018, 0x20, 0x0, 1, 1, 0x0⟩
def Fld.MEM_QFLAG_OVER_T1 : Fld := ⟨0x00E02018, 0x20, 0x0, 0, 0, 0x0⟩

/-- `MEM_CELLAR0` (R212). -/
def Reg.MEM_CELLAR0 : RegSpec := ⟨0x00E04000, 0, 256, 0x20, 1, 0x0, 0x0,
  [⟨63, 48, .rw, [], 1⟩, ⟨47, 32, .rw, [], 1⟩, ⟨31, 0, .wo, [], 1⟩]⟩
def Fld.MEM_CELLAR0_NODE : Fld := ⟨0x00E04000, 0x20, 0x0, 63, 48, 0x0⟩
def Fld.MEM_CELLAR0_WINDOW : Fld := ⟨0x00E04000, 0x20, 0x0, 47, 32, 0x0⟩
def Fld.MEM_CELLAR0_KEY : Fld := ⟨0x00E04000, 0x20, 0x0, 31, 0, 0x0⟩

/-- `MEM_CELLAR1` (R212). -/
def Reg.MEM_CELLAR1 : RegSpec := ⟨0x00E04008, 0, 256, 0x20, 1, 0x0, 0x0,
  [⟨31, 0, .rw, [], 1⟩]⟩
def Fld.MEM_CELLAR1_T2_GRANS : Fld := ⟨0x00E04008, 0x20, 0x0, 31, 0, 0x0⟩

/-- `MEM_CELLAR2` (R212). -/
def Reg.MEM_CELLAR2 : RegSpec := ⟨0x00E04010, 0, 256, 0x20, 1, 0x0, 0x0,
  [⟨51, 0, .rw, [], 4096⟩]⟩
def Fld.MEM_CELLAR2_T3_VA : Fld := ⟨0x00E04010, 0x20, 0x0, 51, 0, 0x0⟩

/-- `MEM_CELLAR3` (R212). -/
def Reg.MEM_CELLAR3 : RegSpec := ⟨0x00E04018, 0, 256, 0x20, 1, 0x0, 0x0,
  [⟨31, 0, .rw, [], 1⟩]⟩
def Fld.MEM_CELLAR3_T3_GRANS : Fld := ⟨0x00E04018, 0x20, 0x0, 31, 0, 0x0⟩

/-- `QUE_IDX` (R239). -/
def Reg.QUE_IDX : RegSpec := ⟨0x00400000, 0, 65536, 0x40, 1, 0x0, 0x0,
  [⟨63, 32, .ro, [], 1⟩, ⟨31, 0, .ro, [], 1⟩]⟩
def Fld.QUE_IDX_PI : Fld := ⟨0x00400000, 0x40, 0x0, 63, 32, 0x0⟩
def Fld.QUE_IDX_CI : Fld := ⟨0x00400000, 0x40, 0x0, 31, 0, 0x0⟩

/-- `QUE_SETUP` (R239). -/
def Reg.QUE_SETUP : RegSpec := ⟨0x00400008, 0, 65536, 0x40, 1, 0x0, 0x442000000001,
  [⟨63, 56, .rw, [], 1⟩, ⟨55, 50, .rw, [], 1⟩, ⟨49, 47, .rw, [(0, 4)], 1⟩, ⟨46, 45, .rw, [(1, 2)], 1⟩, ⟨44, 40, .rw, [(4, 16)], 1⟩, ⟨39, 35, .rw, [(4, 20)], 1⟩, ⟨34, 34, .rw, [], 1⟩, ⟨31, 16, .rw, [], 1⟩, ⟨15, 8, .rw, [], 1⟩, ⟨2, 2, .rw, [], 1⟩, ⟨1, 1, .rw, [], 1⟩, ⟨0, 0, .rw, [], 1⟩]⟩
def Fld.QUE_SETUP_TENANT : Fld := ⟨0x00400008, 0x40, 0x0, 63, 56, 0x442000000001⟩
def Fld.QUE_SETUP_FUNC : Fld := ⟨0x00400008, 0x40, 0x0, 55, 50, 0x442000000001⟩
def Fld.QUE_SETUP_ENGINE : Fld := ⟨0x00400008, 0x40, 0x0, 49, 47, 0x442000000001⟩
def Fld.QUE_SETUP_CLASS : Fld := ⟨0x00400008, 0x40, 0x0, 46, 45, 0x442000000001⟩
def Fld.QUE_SETUP_SIZE_LOG2 : Fld := ⟨0x00400008, 0x40, 0x0, 44, 40, 0x442000000001⟩
def Fld.QUE_SETUP_CQ_LOG2 : Fld := ⟨0x00400008, 0x40, 0x0, 39, 35, 0x442000000001⟩
def Fld.QUE_SETUP_CQ_HALL : Fld := ⟨0x00400008, 0x40, 0x0, 34, 34, 0x442000000001⟩
def Fld.QUE_SETUP_MSIX : Fld := ⟨0x00400008, 0x40, 0x0, 31, 16, 0x442000000001⟩
def Fld.QUE_SETUP_WD_STROKES : Fld := ⟨0x00400008, 0x40, 0x0, 15, 8, 0x442000000001⟩
def Fld.QUE_SETUP_IRQ_FULL : Fld := ⟨0x00400008, 0x40, 0x0, 2, 2, 0x442000000001⟩
def Fld.QUE_SETUP_IRQ_EMPTY : Fld := ⟨0x00400008, 0x40, 0x0, 1, 1, 0x442000000001⟩
def Fld.QUE_SETUP_IRQ_ERR : Fld := ⟨0x00400008, 0x40, 0x0, 0, 0, 0x442000000001⟩

/-- `QUE_BODY` (R239). -/
def Reg.QUE_BODY : RegSpec := ⟨0x00400010, 0, 65536, 0x40, 1, 0x0, 0x0,
  [⟨26, 0, .rw, [], 1⟩]⟩
def Fld.QUE_BODY_GRAN : Fld := ⟨0x00400010, 0x40, 0x0, 26, 0, 0x0⟩

/-- `QUE_CQ` (R239). -/
def Reg.QUE_CQ : RegSpec := ⟨0x00400018, 0, 65536, 0x40, 1, 0x0, 0x0,
  [⟨63, 0, .rw, [], 64⟩]⟩
def Fld.QUE_CQ_ADDR : Fld := ⟨0x00400018, 0x40, 0x0, 63, 0, 0x0⟩

/-- `QUE_CQIDX` (R239). -/
def Reg.QUE_CQIDX : RegSpec := ⟨0x00400020, 0, 65536, 0x40, 1, 0x0, 0x0,
  [⟨63, 32, .ro, [], 1⟩, ⟨31, 0, .rw, [], 1⟩]⟩
def Fld.QUE_CQIDX_CQ_PI : Fld := ⟨0x00400020, 0x40, 0x0, 63, 32, 0x0⟩
def Fld.QUE_CQIDX_CQ_CI : Fld := ⟨0x00400020, 0x40, 0x0, 31, 0, 0x0⟩

/-- `QUE_SYNC` (R239). -/
def Reg.QUE_SYNC : RegSpec := ⟨0x00400028, 0, 65536, 0x40, 1, 0x0, 0x0,
  [⟨63, 48, .rw, [], 1⟩, ⟨25, 0, .rw, [], 2048⟩]⟩
def Fld.QUE_SYNC_WD_MS : Fld := ⟨0x00400028, 0x40, 0x0, 63, 48, 0x0⟩
def Fld.QUE_SYNC_OFF : Fld := ⟨0x00400028, 0x40, 0x0, 25, 0, 0x0⟩

/-- `QUE_STAT` (R239). -/
def Reg.QUE_STAT : RegSpec := ⟨0x00400030, 0, 65536, 0x40, 1, 0x0, 0x0,
  [⟨63, 61, .ro, [], 1⟩, ⟨60, 60, .ro, [], 1⟩, ⟨59, 59, .w1c, [], 1⟩, ⟨58, 58, .w1c, [], 1⟩, ⟨57, 57, .w1c, [], 1⟩, ⟨47, 32, .ro, [], 1⟩, ⟨31, 0, .rc, [], 1⟩]⟩
def Fld.QUE_STAT_STATE : Fld := ⟨0x00400030, 0x40, 0x0, 63, 61, 0x0⟩
def Fld.QUE_STAT_FULL : Fld := ⟨0x00400030, 0x40, 0x0, 60, 60, 0x0⟩
def Fld.QUE_STAT_OVF : Fld := ⟨0x00400030, 0x40, 0x0, 59, 59, 0x0⟩
def Fld.QUE_STAT_BADPUSH : Fld := ⟨0x00400030, 0x40, 0x0, 58, 58, 0x0⟩
def Fld.QUE_STAT_WDOG : Fld := ⟨0x00400030, 0x40, 0x0, 57, 57, 0x0⟩
def Fld.QUE_STAT_RUNNING : Fld := ⟨0x00400030, 0x40, 0x0, 47, 32, 0x0⟩
def Fld.QUE_STAT_DROPPED : Fld := ⟨0x00400030, 0x40, 0x0, 31, 0, 0x0⟩

/-- `QUE_CTRL` (R239). -/
def Reg.QUE_CTRL : RegSpec := ⟨0x00400038, 0, 65536, 0x40, 1, 0x0, 0x0,
  [⟨34, 32, .wo, [], 1⟩, ⟨31, 0, .wo, [], 1⟩]⟩
def Fld.QUE_CTRL_OP : Fld := ⟨0x00400038, 0x40, 0x0, 34, 32, 0x0⟩
def Fld.QUE_CTRL_VALUE : Fld := ⟨0x00400038, 0x40, 0x0, 31, 0, 0x0⟩

/-- `HAL_QCFG` (R240). -/
def Reg.HAL_QCFG : RegSpec := ⟨0x01402000, 0, 1, 0x0, 1, 0x0, 0xC8040000400000,
  [⟨63, 48, .rw, [], 1⟩, ⟨47, 40, .rw, [], 1⟩, ⟨31, 16, .rw, [], 1⟩]⟩
def Fld.HAL_QCFG_WD_MS : Fld := ⟨0x01402000, 0x0, 0x0, 63, 48, 0xC8040000400000⟩
def Fld.HAL_QCFG_WD_STROKES : Fld := ⟨0x01402000, 0x0, 0x0, 47, 40, 0xC8040000400000⟩
def Fld.HAL_QCFG_POLL : Fld := ⟨0x01402000, 0x0, 0x0, 31, 16, 0xC8040000400000⟩

/-- `HAL_QMON` (R240). -/
def Reg.HAL_QMON : RegSpec := ⟨0x01402008, 0, 1, 0x0, 1, 0x0, 0x0,
  [⟨46, 32, .ro, [], 1⟩, ⟨31, 0, .rc, [], 1⟩]⟩
def Fld.HAL_QMON_WATCHES : Fld := ⟨0x01402008, 0x0, 0x0, 46, 32, 0x0⟩
def Fld.HAL_QMON_POLLED : Fld := ⟨0x01402008, 0x0, 0x0, 31, 0, 0x0⟩

/-- `HAL_QSTAT` (R240). -/
def Reg.HAL_QSTAT : RegSpec := ⟨0x01402010, 0, 1, 0x0, 1, 0x0, 0x0,
  [⟨63, 32, .rc, [], 1⟩, ⟨31, 0, .rc, [], 1⟩]⟩
def Fld.HAL_QSTAT_TIMEOUTS : Fld := ⟨0x01402010, 0x0, 0x0, 63, 32, 0x0⟩
def Fld.HAL_QSTAT_PREEMPT : Fld := ⟨0x01402010, 0x0, 0x0, 31, 0, 0x0⟩

/-- `HAL_QSLOT` (R240). -/
def Reg.HAL_QSLOT : RegSpec := ⟨0x01402018, 0, 1, 0x0, 1, 0x0, 0x0,
  [⟨63, 48, .ro, [], 1⟩, ⟨26, 0, .rwl, [], 1⟩]⟩
def Fld.HAL_QSLOT_FREE : Fld := ⟨0x01402018, 0x0, 0x0, 63, 48, 0x0⟩
def Fld.HAL_QSLOT_GRAN : Fld := ⟨0x01402018, 0x0, 0x0, 26, 0, 0x0⟩

/-- `HAL_QLC` (R240). -/
def Reg.HAL_QLC : RegSpec := ⟨0x01402020, 0, 1, 0x0, 1, 0x0, 0x0,
  [⟨63, 32, .rc, [], 1⟩, ⟨31, 0, .rc, [], 1⟩]⟩
def Fld.HAL_QLC_LC_WAIT : Fld := ⟨0x01402020, 0x0, 0x0, 63, 32, 0x0⟩
def Fld.HAL_QLC_CQ_STALL : Fld := ⟨0x01402020, 0x0, 0x0, 31, 0, 0x0⟩

/-- `FAB_CFG` (R271). -/
def Reg.FAB_CFG : RegSpec := ⟨0x00F00000, 0, 1, 0x0, 1, 0x0, 0x0,
  [⟨15, 0, .rwl, [], 1⟩]⟩
def Fld.FAB_CFG_NODE_ID : Fld := ⟨0x00F00000, 0x0, 0x0, 15, 0, 0x0⟩

/-- `FAB_EPOCH` (R271). -/
def Reg.FAB_EPOCH : RegSpec := ⟨0x00F00008, 0, 1, 0x0, 1, 0x0, 0x0,
  [⟨31, 0, .ro, [], 1⟩]⟩
def Fld.FAB_EPOCH_EPOCH : Fld := ⟨0x00F00008, 0x0, 0x0, 31, 0, 0x0⟩

/-- `FAB_QP_BASE` (R271). -/
def Reg.FAB_QP_BASE : RegSpec := ⟨0x00F00010, 0, 1, 0x0, 1, 0x0, 0x0,
  [⟨26, 0, .rwl, [], 1⟩]⟩
def Fld.FAB_QP_BASE_GRAN : Fld := ⟨0x00F00010, 0x0, 0x0, 26, 0, 0x0⟩

/-- `FAB_PEER_BASE` (R271). -/
def Reg.FAB_PEER_BASE : RegSpec := ⟨0x00F00018, 0, 1, 0x0, 1, 0x0, 0x0,
  [⟨26, 0, .rwl, [], 1⟩]⟩
def Fld.FAB_PEER_BASE_GRAN : Fld := ⟨0x00F00018, 0x0, 0x0, 26, 0, 0x0⟩

/-- `FAB_XPORT_CFG` (R271). -/
def Reg.FAB_XPORT_CFG : RegSpec := ⟨0x00F00020, 0, 1, 0x0, 1, 0x0, 0x10070800400000,
  [⟨63, 48, .rw, [], 1⟩, ⟨47, 40, .rw, [], 1⟩, ⟨39, 32, .rw, [(0, 32)], 1⟩, ⟨31, 16, .rw, [], 1⟩]⟩
def Fld.FAB_XPORT_CFG_RTO : Fld := ⟨0x00F00020, 0x0, 0x0, 63, 48, 0x10070800400000⟩
def Fld.FAB_XPORT_CFG_RETRY_MAX : Fld := ⟨0x00F00020, 0x0, 0x0, 47, 40, 0x10070800400000⟩
def Fld.FAB_XPORT_CFG_ACK_COAL : Fld := ⟨0x00F00020, 0x0, 0x0, 39, 32, 0x10070800400000⟩
def Fld.FAB_XPORT_CFG_SKIP : Fld := ⟨0x00F00020, 0x0, 0x0, 31, 16, 0x10070800400000⟩

/-- `FAB_RC_RATE` (R271). -/
def Reg.FAB_RC_RATE : RegSpec := ⟨0x00F00028, 0, 1, 0x0, 1, 0x0, 0x3D0900061A800000,
  [⟨63, 40, .rw, [], 1⟩, ⟨39, 16, .rw, [], 1⟩]⟩
def Fld.FAB_RC_RATE_RMAX : Fld := ⟨0x00F00028, 0x0, 0x0, 63, 40, 0x3D0900061A800000⟩
def Fld.FAB_RC_RATE_RINIT : Fld := ⟨0x00F00028, 0x0, 0x0, 39, 16, 0x3D0900061A800000⟩

/-- `FAB_RC_CFG` (R271). -/
def Reg.FAB_RC_CFG : RegSpec := ⟨0x00F00030, 0, 1, 0x0, 1, 0x0, 0x13880003E82832,
  [⟨63, 40, .rw, [], 1⟩, ⟨39, 16, .rw, [], 1⟩, ⟨15, 11, .rw, [], 1⟩, ⟨10, 0, .rw, [], 1⟩]⟩
def Fld.FAB_RC_CFG_RAI : Fld := ⟨0x00F00030, 0x0, 0x0, 63, 40, 0x13880003E82832⟩
def Fld.FAB_RC_CFG_RMIN : Fld := ⟨0x00F00030, 0x0, 0x0, 39, 16, 0x13880003E82832⟩
def Fld.FAB_RC_CFG_FAST : Fld := ⟨0x00F00030, 0x0, 0x0, 15, 11, 0x13880003E82832⟩
def Fld.FAB_RC_CFG_PERIOD : Fld := ⟨0x00F00030, 0x0, 0x0, 10, 0, 0x13880003E82832⟩

/-- `FAB_RX_MARK` (R271). -/
def Reg.FAB_RX_MARK : RegSpec := ⟨0x00F00038, 0, 1, 0x0, 1, 0x0, 0x100,
  [⟨15, 0, .rw, [], 1⟩]⟩
def Fld.FAB_RX_MARK_KIB : Fld := ⟨0x00F00038, 0x0, 0x0, 15, 0, 0x100⟩

/-- `FAB_STAT0` (R271). -/
def Reg.FAB_STAT0 : RegSpec := ⟨0x00F00040, 0, 1, 0x0, 1, 0x0, 0x0,
  [⟨63, 48, .rc, [], 1⟩, ⟨47, 32, .rc, [], 1⟩, ⟨31, 16, .rc, [], 1⟩, ⟨15, 8, .rc, [], 1⟩, ⟨7, 0, .rc, [], 1⟩]⟩
def Fld.FAB_STAT0_HCRC : Fld := ⟨0x00F00040, 0x0, 0x0, 63, 48, 0x0⟩
def Fld.FAB_STAT0_EPOCH_AHEAD : Fld := ⟨0x00F00040, 0x0, 0x0, 47, 32, 0x0⟩
def Fld.FAB_STAT0_NOQP : Fld := ⟨0x00F00040, 0x0, 0x0, 31, 16, 0x0⟩
def Fld.FAB_STAT0_MISROUTE : Fld := ⟨0x00F00040, 0x0, 0x0, 15, 8, 0x0⟩
def Fld.FAB_STAT0_BADOPC : Fld := ⟨0x00F00040, 0x0, 0x0, 7, 0, 0x0⟩

/-- `FAB_STAT1` (R271). -/
def Reg.FAB_STAT1 : RegSpec := ⟨0x00F00048, 0, 1, 0x0, 1, 0x0, 0x0,
  [⟨63, 32, .rc, [], 1⟩, ⟨31, 14, .rc, [], 1⟩, ⟨13, 0, .ro, [], 1⟩]⟩
def Fld.FAB_STAT1_CTX_MISS : Fld := ⟨0x00F00048, 0x0, 0x0, 63, 32, 0x0⟩
def Fld.FAB_STAT1_RETX : Fld := ⟨0x00F00048, 0x0, 0x0, 31, 14, 0x0⟩
def Fld.FAB_STAT1_OPS : Fld := ⟨0x00F00048, 0x0, 0x0, 13, 0, 0x0⟩

/-- `FAB_QP_STAGE` (R271). -/
def Reg.FAB_QP_STAGE : RegSpec := ⟨0x00F00200, 0, 16, 0x8, 1, 0x0, 0x0,
  [⟨63, 0, .rw, [], 1⟩]⟩
def Fld.FAB_QP_STAGE_WORD : Fld := ⟨0x00F00200, 0x8, 0x0, 63, 0, 0x0⟩

/-- `FAB_QP_OP` (R271). -/
def Reg.FAB_QP_OP : RegSpec := ⟨0x00F00280, 0, 1, 0x0, 1, 0x0, 0x0,
  [⟨63, 63, .ro, [], 1⟩, ⟨56, 56, .ro, [], 1⟩, ⟨50, 48, .wo, [], 1⟩, ⟨15, 0, .wo, [], 1⟩]⟩
def Fld.FAB_QP_OP_BUSY : Fld := ⟨0x00F00280, 0x0, 0x0, 63, 63, 0x0⟩
def Fld.FAB_QP_OP_RESULT : Fld := ⟨0x00F00280, 0x0, 0x0, 56, 56, 0x0⟩
def Fld.FAB_QP_OP_OP : Fld := ⟨0x00F00280, 0x0, 0x0, 50, 48, 0x0⟩
def Fld.FAB_QP_OP_QP : Fld := ⟨0x00F00280, 0x0, 0x0, 15, 0, 0x0⟩

/-- `FAB_LASER` (R271). -/
def Reg.FAB_LASER : RegSpec := ⟨0x00F00300, 0, 8, 0x8, 1, 0x0, 0x0,
  [⟨16, 16, .ro, [], 1⟩, ⟨15, 0, .ro, [], 1⟩]⟩
def Fld.FAB_LASER_LOW : Fld := ⟨0x00F00300, 0x8, 0x0, 16, 16, 0x0⟩
def Fld.FAB_LASER_POWER : Fld := ⟨0x00F00300, 0x8, 0x0, 15, 0, 0x0⟩

/-- `FAB_PORT_CTL` (R271). -/
def Reg.FAB_PORT_CTL : RegSpec := ⟨0x00F01000, 0, 24, 0x100, 1, 0x0, 0x0,
  [⟨7, 5, .ro, [], 1⟩, ⟨4, 4, .ro, [], 1⟩, ⟨0, 0, .rw, [], 1⟩]⟩
def Fld.FAB_PORT_CTL_STATE : Fld := ⟨0x00F01000, 0x100, 0x0, 7, 5, 0x0⟩
def Fld.FAB_PORT_CTL_MISCABLE : Fld := ⟨0x00F01000, 0x100, 0x0, 4, 4, 0x0⟩
def Fld.FAB_PORT_CTL_EN : Fld := ⟨0x00F01000, 0x100, 0x0, 0, 0, 0x0⟩

/-- `FAB_PORT_FEC` (R271). -/
def Reg.FAB_PORT_FEC : RegSpec := ⟨0x00F01008, 0, 24, 0x100, 1, 0x0, 0x0,
  [⟨63, 32, .rc, [], 1⟩, ⟨31, 0, .rc, [], 1⟩]⟩
def Fld.FAB_PORT_FEC_UNCORR : Fld := ⟨0x00F01008, 0x100, 0x0, 63, 32, 0x0⟩
def Fld.FAB_PORT_FEC_CORR : Fld := ⟨0x00F01008, 0x100, 0x0, 31, 0, 0x0⟩

/-- `FAB_PORT_BER` (R271). -/
def Reg.FAB_PORT_BER : RegSpec := ⟨0x00F01010, 0, 24, 0x100, 1, 0x0, 0x40800,
  [⟨63, 48, .rc, [], 1⟩, ⟨47, 32, .rc, [], 1⟩, ⟨31, 16, .rw, [], 1⟩, ⟨15, 0, .rw, [], 1⟩]⟩
def Fld.FAB_PORT_BER_RELEARNS : Fld := ⟨0x00F01010, 0x100, 0x0, 63, 48, 0x40800⟩
def Fld.FAB_PORT_BER_TUNES : Fld := ⟨0x00F01010, 0x100, 0x0, 47, 32, 0x40800⟩
def Fld.FAB_PORT_BER_UNCORR_MAX : Fld := ⟨0x00F01010, 0x100, 0x0, 31, 16, 0x40800⟩
def Fld.FAB_PORT_BER_TH : Fld := ⟨0x00F01010, 0x100, 0x0, 15, 0, 0x40800⟩

/-- `RMA_WIN_CFG` (R294). -/
def Reg.RMA_WIN_CFG : RegSpec := ⟨0x01100000, 0, 1, 0x0, 1, 0x0, 0x0,
  [⟨48, 32, .rwl, [(0, 65536)], 1⟩, ⟨26, 0, .rwl, [], 1⟩]⟩
def Fld.RMA_WIN_CFG_COUNT : Fld := ⟨0x01100000, 0x0, 0x0, 48, 32, 0x0⟩
def Fld.RMA_WIN_CFG_GRAN : Fld := ⟨0x01100000, 0x0, 0x0, 26, 0, 0x0⟩

/-- `RMA_IMP_CFG` (R294). -/
def Reg.RMA_IMP_CFG : RegSpec := ⟨0x01100008, 0, 1, 0x0, 1, 0x0, 0x0,
  [⟨26, 0, .rwl, [], 1⟩]⟩
def Fld.RMA_IMP_CFG_GRAN : Fld := ⟨0x01100008, 0x0, 0x0, 26, 0, 0x0⟩

/-- `RMA_MC_CFG` (R294). -/
def Reg.RMA_MC_CFG : RegSpec := ⟨0x01100010, 0, 1, 0x0, 1, 0x0, 0x0,
  [⟨26, 0, .rwl, [], 1⟩]⟩
def Fld.RMA_MC_CFG_GRAN : Fld := ⟨0x01100010, 0x0, 0x0, 26, 0, 0x0⟩

/-- `RMA_MAP_BASE` (R294). -/
def Reg.RMA_MAP_BASE : RegSpec := ⟨0x01100018, 0, 1, 0x0, 1, 0x0, 0x0,
  [⟨26, 0, .rwl, [], 1⟩]⟩
def Fld.RMA_MAP_BASE_GRAN : Fld := ⟨0x01100018, 0x0, 0x0, 26, 0, 0x0⟩

/-- `RMA_MAP_CUR` (R294). -/
def Reg.RMA_MAP_CUR : RegSpec := ⟨0x01100020, 0, 1, 0x0, 1, 0x0, 0x0,
  [⟨63, 48, .ro, [], 1⟩, ⟨47, 32, .ro, [], 1⟩, ⟨31, 0, .ro, [], 1⟩]⟩
def Fld.RMA_MAP_CUR_PREV : Fld := ⟨0x01100020, 0x0, 0x0, 63, 48, 0x0⟩
def Fld.RMA_MAP_CUR_VER : Fld := ⟨0x01100020, 0x0, 0x0, 47, 32, 0x0⟩
def Fld.RMA_MAP_CUR_DRAIN_END : Fld := ⟨0x01100020, 0x0, 0x0, 31, 0, 0x0⟩

/-- `RMA_MAP_NEXT` (R294). -/
def Reg.RMA_MAP_NEXT : RegSpec := ⟨0x01100028, 0, 1, 0x0, 1, 0x0, 0x0,
  [⟨63, 63, .ro, [], 1⟩, ⟨55, 48, .ro, [], 1⟩, ⟨47, 32, .ro, [], 1⟩, ⟨31, 0, .ro, [], 1⟩]⟩
def Fld.RMA_MAP_NEXT_PEND : Fld := ⟨0x01100028, 0x0, 0x0, 63, 63, 0x0⟩
def Fld.RMA_MAP_NEXT_DRAIN : Fld := ⟨0x01100028, 0x0, 0x0, 55, 48, 0x0⟩
def Fld.RMA_MAP_NEXT_VER : Fld := ⟨0x01100028, 0x0, 0x0, 47, 32, 0x0⟩
def Fld.RMA_MAP_NEXT_STROKE : Fld := ⟨0x01100028, 0x0, 0x0, 31, 0, 0x0⟩

/-- `RMA_GW_CFG` (R294). -/
def Reg.RMA_GW_CFG : RegSpec := ⟨0x01100030, 0, 1, 0x0, 1, 0x0, 0xA,
  [⟨15, 0, .rw, [], 1⟩]⟩
def Fld.RMA_GW_CFG_IDLE : Fld := ⟨0x01100030, 0x0, 0x0, 15, 0, 0xA⟩

/-- `RMA_STAT0` (R294). -/
def Reg.RMA_STAT0 : RegSpec := ⟨0x01100040, 0, 1, 0x0, 1, 0x0, 0x0,
  [⟨63, 48, .rc, [], 1⟩, ⟨47, 32, .rc, [], 1⟩, ⟨31, 16, .rc, [], 1⟩, ⟨15, 0, .rc, [], 1⟩]⟩
def Fld.RMA_STAT0_KEY : Fld := ⟨0x01100040, 0x0, 0x0, 63, 48, 0x0⟩
def Fld.RMA_STAT0_BOUNDS : Fld := ⟨0x01100040, 0x0, 0x0, 47, 32, 0x0⟩
def Fld.RMA_STAT0_RIGHTS : Fld := ⟨0x01100040, 0x0, 0x0, 31, 16, 0x0⟩
def Fld.RMA_STAT0_REVOKED : Fld := ⟨0x01100040, 0x0, 0x0, 15, 0, 0x0⟩

/-- `RMA_STAT1` (R294). -/
def Reg.RMA_STAT1 : RegSpec := ⟨0x01100048, 0, 1, 0x0, 1, 0x0, 0x0,
  [⟨63, 48, .rc, [], 1⟩, ⟨47, 32, .rc, [], 1⟩, ⟨31, 0, .rc, [], 1⟩]⟩
def Fld.RMA_STAT1_MAP_STALE : Fld := ⟨0x01100048, 0x0, 0x0, 63, 48, 0x0⟩
def Fld.RMA_STAT1_GW_LOST : Fld := ⟨0x01100048, 0x0, 0x0, 47, 32, 0x0⟩
def Fld.RMA_STAT1_INVAL : Fld := ⟨0x01100048, 0x0, 0x0, 31, 0, 0x0⟩

/-- `RMA_RC_STAT` (R294). -/
def Reg.RMA_RC_STAT : RegSpec := ⟨0x01100050, 0, 1, 0x0, 1, 0x0, 0x0,
  [⟨63, 32, .rc, [], 1⟩, ⟨31, 0, .rc, [], 1⟩]⟩
def Fld.RMA_RC_STAT_HITS : Fld := ⟨0x01100050, 0x0, 0x0, 63, 32, 0x0⟩
def Fld.RMA_RC_STAT_MISSES : Fld := ⟨0x01100050, 0x0, 0x0, 31, 0, 0x0⟩

/-- `RMA_RC` (R294). -/
def Reg.RMA_RC : RegSpec := ⟨0x01101000, 0, 256, 0x8, 1, 0x0, 0x0,
  [⟨63, 56, .ro, [], 1⟩, ⟨55, 26, .ro, [], 1⟩, ⟨25, 0, .ro, [], 1⟩]⟩
def Fld.RMA_RC_GWBUF : Fld := ⟨0x01101000, 0x8, 0x0, 63, 56, 0x0⟩
def Fld.RMA_RC_LINES : Fld := ⟨0x01101000, 0x8, 0x0, 55, 26, 0x0⟩
def Fld.RMA_RC_OFF : Fld := ⟨0x01101000, 0x8, 0x0, 25, 0, 0x0⟩

/-- `TRF_CFG` (R309). -/
def Reg.TRF_CFG : RegSpec := ⟨0x01000000, 0, 1, 0x0, 1, 0x0, 0x1000,
  [⟨15, 0, .rw, [], 1⟩]⟩
def Fld.TRF_CFG_SYS_WEIGHT : Fld := ⟨0x01000000, 0x0, 0x0, 15, 0, 0x1000⟩

/-- `TRF_QP_CLASS` (R309). -/
def Reg.TRF_QP_CLASS : RegSpec := ⟨0x01000008, 0, 1, 0x0, 1, 0x0, 0x0,
  [⟨49, 48, .wo, [], 1⟩, ⟨15, 0, .wo, [], 1⟩]⟩
def Fld.TRF_QP_CLASS_CLASS : Fld := ⟨0x01000008, 0x0, 0x0, 49, 48, 0x0⟩
def Fld.TRF_QP_CLASS_QP : Fld := ⟨0x01000008, 0x0, 0x0, 15, 0, 0x0⟩

/-- `TRF_FLOW` (R309). -/
def Reg.TRF_FLOW : RegSpec := ⟨0x01001000, 0, 256, 0x8, 1, 0x0, 0x1000100000000000,
  [⟨63, 48, .rw, [], 1⟩, ⟨47, 32, .rw, [], 1⟩, ⟨31, 31, .rw, [], 1⟩, ⟨30, 27, .rw, [], 1⟩, ⟨26, 26, .rw, [], 1⟩, ⟨25, 22, .rw, [], 1⟩]⟩
def Fld.TRF_FLOW_WEIGHT_LC : Fld := ⟨0x01001000, 0x8, 0x0, 63, 48, 0x1000100000000000⟩
def Fld.TRF_FLOW_WEIGHT_BE : Fld := ⟨0x01001000, 0x8, 0x0, 47, 32, 0x1000100000000000⟩
def Fld.TRF_FLOW_GLC_EN : Fld := ⟨0x01001000, 0x8, 0x0, 31, 31, 0x1000100000000000⟩
def Fld.TRF_FLOW_GLC : Fld := ⟨0x01001000, 0x8, 0x0, 30, 27, 0x1000100000000000⟩
def Fld.TRF_FLOW_GBE_EN : Fld := ⟨0x01001000, 0x8, 0x0, 26, 26, 0x1000100000000000⟩
def Fld.TRF_FLOW_GBE : Fld := ⟨0x01001000, 0x8, 0x0, 25, 22, 0x1000100000000000⟩

/-- `TRF_SHAPE` (R309). -/
def Reg.TRF_SHAPE : RegSpec := ⟨0x01002000, 0, 256, 0x8, 1, 0x0, 0x40000000,
  [⟨63, 40, .rw, [], 1⟩, ⟨39, 24, .rw, [], 1⟩]⟩
def Fld.TRF_SHAPE_RATE : Fld := ⟨0x01002000, 0x8, 0x0, 63, 40, 0x40000000⟩
def Fld.TRF_SHAPE_BURST : Fld := ⟨0x01002000, 0x8, 0x0, 39, 24, 0x40000000⟩

/-- `TRF_METER0` (R309). -/
def Reg.TRF_METER0 : RegSpec := ⟨0x01003000, 0, 256, 0x10, 1, 0x0, 0x0,
  [⟨63, 40, .rw, [], 1⟩, ⟨39, 16, .rw, [], 1⟩, ⟨0, 0, .rw, [], 1⟩]⟩
def Fld.TRF_METER0_CIR : Fld := ⟨0x01003000, 0x10, 0x0, 63, 40, 0x0⟩
def Fld.TRF_METER0_PIR : Fld := ⟨0x01003000, 0x10, 0x0, 39, 16, 0x0⟩
def Fld.TRF_METER0_RED_ACT : Fld := ⟨0x01003000, 0x10, 0x0, 0, 0, 0x0⟩

/-- `TRF_METER1` (R309). -/
def Reg.TRF_METER1 : RegSpec := ⟨0x01003008, 0, 256, 0x10, 1, 0x0, 0x10002000000000,
  [⟨63, 48, .rw, [], 1⟩, ⟨47, 32, .rw, [], 1⟩]⟩
def Fld.TRF_METER1_CBS : Fld := ⟨0x01003008, 0x10, 0x0, 63, 48, 0x10002000000000⟩
def Fld.TRF_METER1_PBS : Fld := ⟨0x01003008, 0x10, 0x0, 47, 32, 0x10002000000000⟩

/-- `TRF_MCNT0` (R309). -/
def Reg.TRF_MCNT0 : RegSpec := ⟨0x01004000, 0, 256, 0x10, 1, 0x0, 0x0,
  [⟨63, 32, .rc, [], 1⟩, ⟨31, 0, .rc, [], 1⟩]⟩
def Fld.TRF_MCNT0_GREEN : Fld := ⟨0x01004000, 0x10, 0x0, 63, 32, 0x0⟩
def Fld.TRF_MCNT0_YELLOW : Fld := ⟨0x01004000, 0x10, 0x0, 31, 0, 0x0⟩

/-- `TRF_MCNT1` (R309). -/
def Reg.TRF_MCNT1 : RegSpec := ⟨0x01004008, 0, 256, 0x10, 1, 0x0, 0x0,
  [⟨31, 0, .rc, [], 1⟩]⟩
def Fld.TRF_MCNT1_RED : Fld := ⟨0x01004008, 0x10, 0x0, 31, 0, 0x0⟩

/-- `TRF_GATE` (R309). -/
def Reg.TRF_GATE : RegSpec := ⟨0x01005000, 0, 16, 0x40, 8, 0x8, 0x0,
  [⟨63, 63, .rw, [], 1⟩, ⟨47, 32, .rw, [], 1⟩, ⟨31, 16, .rw, [], 1⟩, ⟨15, 0, .rw, [], 1⟩]⟩
def Fld.TRF_GATE_EN : Fld := ⟨0x01005000, 0x40, 0x8, 63, 63, 0x0⟩
def Fld.TRF_GATE_OPEN : Fld := ⟨0x01005000, 0x40, 0x8, 47, 32, 0x0⟩
def Fld.TRF_GATE_CLOSE : Fld := ⟨0x01005000, 0x40, 0x8, 31, 16, 0x0⟩
def Fld.TRF_GATE_GUARD : Fld := ⟨0x01005000, 0x40, 0x8, 15, 0, 0x0⟩

/-- `TRF_HWM` (R309). -/
def Reg.TRF_HWM : RegSpec := ⟨0x01006000, 0, 257, 0x10, 2, 0x8, 0x0,
  [⟨63, 32, .rc, [], 1⟩, ⟨31, 16, .rc, [], 1⟩, ⟨15, 0, .rw, [], 1⟩]⟩
def Fld.TRF_HWM_MAX : Fld := ⟨0x01006000, 0x10, 0x8, 63, 32, 0x0⟩
def Fld.TRF_HWM_EXCEED : Fld := ⟨0x01006000, 0x10, 0x8, 31, 16, 0x0⟩
def Fld.TRF_HWM_THRESH : Fld := ⟨0x01006000, 0x10, 0x8, 15, 0, 0x0⟩

/-- `TIM_CFG` (R323). -/
def Reg.TIM_CFG : RegSpec := ⟨0x00200000, 0, 1, 0x0, 1, 0x0, 0x7D0040041312D00,
  [⟨63, 48, .rw, [], 1⟩, ⟨47, 40, .rw, [], 1⟩, ⟨30, 30, .rw, [], 1⟩, ⟨29, 0, .rw, [(1000000, 1000000000)], 1⟩]⟩
def Fld.TIM_CFG_WIN : Fld := ⟨0x00200000, 0x0, 0x0, 63, 48, 0x7D0040041312D00⟩
def Fld.TIM_CFG_FREE_MAX : Fld := ⟨0x00200000, 0x0, 0x0, 47, 40, 0x7D0040041312D00⟩
def Fld.TIM_CFG_EN : Fld := ⟨0x00200000, 0x0, 0x0, 30, 30, 0x7D0040041312D00⟩
def Fld.TIM_CFG_SELF_PERIOD : Fld := ⟨0x00200000, 0x0, 0x0, 29, 0, 0x7D0040041312D00⟩

/-- `TIM_STROKE` (R323). -/
def Reg.TIM_STROKE : RegSpec := ⟨0x00200008, 0, 1, 0x0, 1, 0x0, 0x0,
  [⟨63, 0, .ro, [], 1⟩]⟩
def Fld.TIM_STROKE_NUMBER : Fld := ⟨0x00200008, 0x0, 0x0, 63, 0, 0x0⟩

/-- `TIM_STAT` (R323). -/
def Reg.TIM_STAT : RegSpec := ⟨0x00200010, 0, 1, 0x0, 1, 0x0, 0x40000000000,
  [⟨63, 48, .ro, [], 1⟩, ⟨47, 45, .ro, [], 1⟩, ⟨44, 44, .ro, [], 1⟩, ⟨43, 43, .ro, [], 1⟩, ⟨42, 42, .ro, [], 1⟩, ⟨41, 41, .w1c, [], 1⟩, ⟨40, 40, .ro, [], 1⟩, ⟨29, 0, .ro, [], 1⟩]⟩
def Fld.TIM_STAT_ANGLE : Fld := ⟨0x00200010, 0x0, 0x0, 63, 48, 0x40000000000⟩
def Fld.TIM_STAT_STATE : Fld := ⟨0x00200010, 0x0, 0x0, 47, 45, 0x40000000000⟩
def Fld.TIM_STAT_STROKE_LOST : Fld := ⟨0x00200010, 0x0, 0x0, 44, 44, 0x40000000000⟩
def Fld.TIM_STAT_SRC_HOLD : Fld := ⟨0x00200010, 0x0, 0x0, 43, 43, 0x40000000000⟩
def Fld.TIM_STAT_PPS_HOLD : Fld := ⟨0x00200010, 0x0, 0x0, 42, 42, 0x40000000000⟩
def Fld.TIM_STAT_STEPPED : Fld := ⟨0x00200010, 0x0, 0x0, 41, 41, 0x40000000000⟩
def Fld.TIM_STAT_TAI_VALID : Fld := ⟨0x00200010, 0x0, 0x0, 40, 40, 0x40000000000⟩
def Fld.TIM_STAT_PERIOD : Fld := ⟨0x00200010, 0x0, 0x0, 29, 0, 0x40000000000⟩

/-- `TIM_CNT` (R323). -/
def Reg.TIM_CNT : RegSpec := ⟨0x00200018, 0, 1, 0x0, 1, 0x0, 0x0,
  [⟨63, 0, .ro, [], 1⟩]⟩
def Fld.TIM_CNT_NS : Fld := ⟨0x00200018, 0x0, 0x0, 63, 0, 0x0⟩

/-- `TIM_TAI` (R323). -/
def Reg.TIM_TAI : RegSpec := ⟨0x00200020, 0, 1, 0x0, 1, 0x0, 0x0,
  [⟨63, 63, .ro, [], 1⟩, ⟨39, 0, .ro, [], 1⟩]⟩
def Fld.TIM_TAI_PEND : Fld := ⟨0x00200020, 0x0, 0x0, 63, 63, 0x0⟩
def Fld.TIM_TAI_SEC : Fld := ⟨0x00200020, 0x0, 0x0, 39, 0, 0x0⟩

/-- `TIM_PPS_CFG` (R323). -/
def Reg.TIM_PPS_CFG : RegSpec := ⟨0x00200028, 0, 1, 0x0, 1, 0x0, 0x3E8C35000000000,
  [⟨63, 48, .rw, [], 1⟩, ⟨47, 32, .rw, [], 1⟩]⟩
def Fld.TIM_PPS_CFG_STEP_TH : Fld := ⟨0x00200028, 0x0, 0x0, 63, 48, 0x3E8C35000000000⟩
def Fld.TIM_PPS_CFG_SLEW_MAX : Fld := ⟨0x00200028, 0x0, 0x0, 47, 32, 0x3E8C35000000000⟩

/-- `TIM_PPS_STAT` (R323). -/
def Reg.TIM_PPS_STAT : RegSpec := ⟨0x00200030, 0, 1, 0x0, 1, 0x0, 0x0,
  [⟨63, 32, .ro, [], 1⟩, ⟨31, 0, .ro, [], 1⟩]⟩
def Fld.TIM_PPS_STAT_OFFSET : Fld := ⟨0x00200030, 0x0, 0x0, 63, 32, 0x0⟩
def Fld.TIM_PPS_STAT_FREQ : Fld := ⟨0x00200030, 0x0, 0x0, 31, 0, 0x0⟩

/-- `TIM_ERR` (R323). -/
def Reg.TIM_ERR : RegSpec := ⟨0x00200038, 0, 1, 0x0, 1, 0x0, 0x0,
  [⟨63, 48, .rc, [], 1⟩, ⟨47, 32, .rc, [], 1⟩, ⟨31, 16, .rc, [], 1⟩, ⟨15, 0, .rc, [], 1⟩]⟩
def Fld.TIM_ERR_CRC : Fld := ⟨0x00200038, 0x0, 0x0, 63, 48, 0x0⟩
def Fld.TIM_ERR_JUMP : Fld := ⟨0x00200038, 0x0, 0x0, 47, 32, 0x0⟩
def Fld.TIM_ERR_MISSED : Fld := ⟨0x00200038, 0x0, 0x0, 31, 16, 0x0⟩
def Fld.TIM_ERR_PPS_GLITCH : Fld := ⟨0x00200038, 0x0, 0x0, 15, 0, 0x0⟩

/-- `PAIR_CFG` (R353). -/
def Reg.PAIR_CFG : RegSpec := ⟨0x01300000, 0, 1, 0x0, 1, 0x0, 0x8000000013880832,
  [⟨63, 63, .rw, [], 1⟩, ⟨47, 32, .ro, [], 1⟩, ⟨31, 16, .rw, [], 1⟩, ⟨15, 8, .rw, [], 1⟩, ⟨7, 0, .rw, [], 1⟩]⟩
def Fld.PAIR_CFG_AUTO : Fld := ⟨0x01300000, 0x0, 0x0, 63, 63, 0x8000000013880832⟩
def Fld.PAIR_CFG_TWIN : Fld := ⟨0x01300000, 0x0, 0x0, 47, 32, 0x8000000013880832⟩
def Fld.PAIR_CFG_AUTO_MS : Fld := ⟨0x01300000, 0x0, 0x0, 31, 16, 0x8000000013880832⟩
def Fld.PAIR_CFG_HB_MISS : Fld := ⟨0x01300000, 0x0, 0x0, 15, 8, 0x8000000013880832⟩
def Fld.PAIR_CFG_HB_US : Fld := ⟨0x01300000, 0x0, 0x0, 7, 0, 0x8000000013880832⟩

/-- `PAIR_STAT` (R353). -/
def Reg.PAIR_STAT : RegSpec := ⟨0x01300008, 0, 1, 0x0, 1, 0x0, 0x0,
  [⟨63, 61, .ro, [], 1⟩, ⟨60, 60, .ro, [], 1⟩, ⟨59, 59, .ro, [], 1⟩, ⟨58, 58, .ro, [], 1⟩, ⟨47, 32, .ro, [], 1⟩, ⟨31, 0, .ro, [], 1⟩]⟩
def Fld.PAIR_STAT_STATE : Fld := ⟨0x01300008, 0x0, 0x0, 63, 61, 0x0⟩
def Fld.PAIR_STAT_LINK_UP : Fld := ⟨0x01300008, 0x0, 0x0, 60, 60, 0x0⟩
def Fld.PAIR_STAT_PEER_MGMT : Fld := ⟨0x01300008, 0x0, 0x0, 59, 59, 0x0⟩
def Fld.PAIR_STAT_MGMT_UP : Fld := ⟨0x01300008, 0x0, 0x0, 58, 58, 0x0⟩
def Fld.PAIR_STAT_SERVED : Fld := ⟨0x01300008, 0x0, 0x0, 47, 32, 0x0⟩
def Fld.PAIR_STAT_SERVED_EPOCH : Fld := ⟨0x01300008, 0x0, 0x0, 31, 0, 0x0⟩

/-- `PAIR_CNT` (R353). -/
def Reg.PAIR_CNT : RegSpec := ⟨0x01300010, 0, 1, 0x0, 1, 0x0, 0x0,
  [⟨63, 32, .ro, [], 1⟩, ⟨31, 16, .rc, [], 1⟩, ⟨15, 0, .rc, [], 1⟩]⟩
def Fld.PAIR_CNT_UNACKED : Fld := ⟨0x01300010, 0x0, 0x0, 63, 32, 0x0⟩
def Fld.PAIR_CNT_PAGE_SKIP : Fld := ⟨0x01300010, 0x0, 0x0, 31, 16, 0x0⟩
def Fld.PAIR_CNT_LINK_LOSS : Fld := ⟨0x01300010, 0x0, 0x0, 15, 0, 0x0⟩

/-- `PAIR_TKO_ADDR` (R353). -/
def Reg.PAIR_TKO_ADDR : RegSpec := ⟨0x01300018, 0, 1, 0x0, 1, 0x0, 0x0,
  [⟨63, 0, .rw, [], 64⟩]⟩
def Fld.PAIR_TKO_ADDR_ADDR : Fld := ⟨0x01300018, 0x0, 0x0, 63, 0, 0x0⟩

/-- `PAIR_TKO_CNT` (R353). -/
def Reg.PAIR_TKO_CNT : RegSpec := ⟨0x01300020, 0, 1, 0x0, 1, 0x0, 0x0,
  [⟨63, 63, .w1c, [], 1⟩, ⟨47, 32, .rw, [], 1⟩, ⟨31, 0, .ro, [], 1⟩]⟩
def Fld.PAIR_TKO_CNT_DONE : Fld := ⟨0x01300020, 0x0, 0x0, 63, 63, 0x0⟩
def Fld.PAIR_TKO_CNT_MSIX : Fld := ⟨0x01300020, 0x0, 0x0, 47, 32, 0x0⟩
def Fld.PAIR_TKO_CNT_ENTRIES : Fld := ⟨0x01300020, 0x0, 0x0, 31, 0, 0x0⟩

/-- `PAIR_ADMIT` (R353). -/
def Reg.PAIR_ADMIT : RegSpec := ⟨0x01300028, 0, 1, 0x0, 1, 0x0, 0x0,
  [⟨63, 61, .ro, [], 1⟩, ⟨60, 60, .ro, [], 1⟩, ⟨31, 0, .ro, [], 1⟩]⟩
def Fld.PAIR_ADMIT_ADM : Fld := ⟨0x01300028, 0x0, 0x0, 63, 61, 0x0⟩
def Fld.PAIR_ADMIT_LOADER : Fld := ⟨0x01300028, 0x0, 0x0, 60, 60, 0x0⟩
def Fld.PAIR_ADMIT_STROKE : Fld := ⟨0x01300028, 0x0, 0x0, 31, 0, 0x0⟩

/-- `PAIR_MIR_BASE` (R353). -/
def Reg.PAIR_MIR_BASE : RegSpec := ⟨0x01300030, 0, 1, 0x0, 1, 0x0, 0x0,
  [⟨26, 0, .rwl, [], 1⟩]⟩
def Fld.PAIR_MIR_BASE_GRAN : Fld := ⟨0x01300030, 0x0, 0x0, 26, 0, 0x0⟩

/-- `PAIR_MCLASS` (R353). -/
def Reg.PAIR_MCLASS : RegSpec := ⟨0x01301000, 0, 256, 0x8, 1, 0x0, 0x0,
  [⟨1, 0, .ro, [], 1⟩]⟩
def Fld.PAIR_MCLASS_CLASS : Fld := ⟨0x01301000, 0x8, 0x0, 1, 0, 0x0⟩

/-- `LOG_HEAD` (R354). -/
def Reg.LOG_HEAD : RegSpec := ⟨0x00300000, 0, 1, 0x0, 1, 0x0, 0x0,
  [⟨31, 0, .ro, [], 1⟩]⟩
def Fld.LOG_HEAD_NEXT : Fld := ⟨0x00300000, 0x0, 0x0, 31, 0, 0x0⟩

/-- `LOG_STAT` (R354). -/
def Reg.LOG_STAT : RegSpec := ⟨0x00300008, 0, 1, 0x0, 1, 0x0, 0x0,
  [⟨63, 32, .rc, [], 1⟩, ⟨6, 0, .ro, [], 1⟩]⟩
def Fld.LOG_STAT_DROPPED : Fld := ⟨0x00300008, 0x0, 0x0, 63, 32, 0x0⟩
def Fld.LOG_STAT_FIFO : Fld := ⟨0x00300008, 0x0, 0x0, 6, 0, 0x0⟩

/-- `LOG_CFG` (R354). -/
def Reg.LOG_CFG : RegSpec := ⟨0x00300010, 0, 1, 0x0, 1, 0x0, 0x0,
  [⟨63, 63, .rw, [], 1⟩, ⟨15, 0, .rw, [], 1⟩]⟩
def Fld.LOG_CFG_IRQ : Fld := ⟨0x00300010, 0x0, 0x0, 63, 63, 0x0⟩
def Fld.LOG_CFG_MSIX : Fld := ⟨0x00300010, 0x0, 0x0, 15, 0, 0x0⟩

/-- `SEC_BOOT` (R373). -/
def Reg.SEC_BOOT : RegSpec := ⟨0x01200000, 0, 1, 0x0, 1, 0x0, 0x0,
  [⟨63, 62, .ro, [], 1⟩, ⟨61, 61, .ro, [], 1⟩, ⟨60, 59, .ro, [], 1⟩, ⟨47, 40, .ro, [], 1⟩, ⟨39, 32, .ro, [], 1⟩]⟩
def Fld.SEC_BOOT_RESULT : Fld := ⟨0x01200000, 0x0, 0x0, 63, 62, 0x0⟩
def Fld.SEC_BOOT_SLOT : Fld := ⟨0x01200000, 0x0, 0x0, 61, 61, 0x0⟩
def Fld.SEC_BOOT_KEY : Fld := ⟨0x01200000, 0x0, 0x0, 60, 59, 0x0⟩
def Fld.SEC_BOOT_SVN_IMG : Fld := ⟨0x01200000, 0x0, 0x0, 47, 40, 0x0⟩
def Fld.SEC_BOOT_SVN_FUSE : Fld := ⟨0x01200000, 0x0, 0x0, 39, 32, 0x0⟩

/-- `SEC_SCRUB` (R373). -/
def Reg.SEC_SCRUB : RegSpec := ⟨0x01200008, 0, 1, 0x0, 1, 0x0, 0x0,
  [⟨63, 32, .rc, [], 1⟩, ⟨31, 16, .rc, [], 1⟩, ⟨15, 0, .rc, [], 1⟩]⟩
def Fld.SEC_SCRUB_GRANS : Fld := ⟨0x01200008, 0x0, 0x0, 63, 32, 0x0⟩
def Fld.SEC_SCRUB_BOATS : Fld := ⟨0x01200008, 0x0, 0x0, 31, 16, 0x0⟩
def Fld.SEC_SCRUB_WAYS : Fld := ⟨0x01200008, 0x0, 0x0, 15, 0, 0x0⟩

/-- `SEC_SPDM` (R373). -/
def Reg.SEC_SPDM : RegSpec := ⟨0x01200010, 0, 1, 0x0, 1, 0x0, 0x0,
  [⟨63, 63, .ro, [], 1⟩, ⟨31, 0, .rc, [], 1⟩]⟩
def Fld.SEC_SPDM_SESSION : Fld := ⟨0x01200010, 0x0, 0x0, 63, 63, 0x0⟩
def Fld.SEC_SPDM_REJECTS : Fld := ⟨0x01200010, 0x0, 0x0, 31, 0, 0x0⟩

/-- `SEC_PART0` (R373). -/
def Reg.SEC_PART0 : RegSpec := ⟨0x01201000, 0, 64, 0x40, 1, 0x0, 0x0,
  [⟨63, 62, .ro, [], 1⟩, ⟨55, 48, .ro, [], 1⟩]⟩
def Fld.SEC_PART0_STATE : Fld := ⟨0x01201000, 0x40, 0x0, 63, 62, 0x0⟩
def Fld.SEC_PART0_TENANT : Fld := ⟨0x01201000, 0x40, 0x0, 55, 48, 0x0⟩

/-- `SEC_PART1` (R373). -/
def Reg.SEC_PART1 : RegSpec := ⟨0x01201008, 0, 64, 0x40, 1, 0x0, 0x0,
  [⟨63, 0, .ro, [], 1⟩]⟩
def Fld.SEC_PART1_BOATS : Fld := ⟨0x01201008, 0x40, 0x0, 63, 0, 0x0⟩

/-- `SEC_PART2` (R373). -/
def Reg.SEC_PART2 : RegSpec := ⟨0x01201010, 0, 64, 0x40, 1, 0x0, 0x0,
  [⟨63, 0, .ro, [], 1⟩]⟩
def Fld.SEC_PART2_PCS : Fld := ⟨0x01201010, 0x40, 0x0, 63, 0, 0x0⟩

/-- `SEC_PART3` (R373). -/
def Reg.SEC_PART3 : RegSpec := ⟨0x01201018, 0, 64, 0x40, 1, 0x0, 0x0,
  [⟨63, 0, .ro, [], 1⟩]⟩
def Fld.SEC_PART3_PCS : Fld := ⟨0x01201018, 0x40, 0x0, 63, 0, 0x0⟩

/-- `SEC_PART4` (R373). -/
def Reg.SEC_PART4 : RegSpec := ⟨0x01201020, 0, 64, 0x40, 1, 0x0, 0x0,
  [⟨63, 0, .ro, [], 1⟩]⟩
def Fld.SEC_PART4_PCS : Fld := ⟨0x01201020, 0x40, 0x0, 63, 0, 0x0⟩

/-- `SEC_PART5` (R373). -/
def Reg.SEC_PART5 : RegSpec := ⟨0x01201028, 0, 64, 0x40, 1, 0x0, 0x0,
  [⟨63, 0, .ro, [], 1⟩]⟩
def Fld.SEC_PART5_PCS : Fld := ⟨0x01201028, 0x40, 0x0, 63, 0, 0x0⟩

/-- `GLB_BOOT` (R399). -/
def Reg.GLB_BOOT : RegSpec := ⟨0x00000018, 0, 1, 0x0, 1, 0x0, 0x0,
  [⟨63, 61, .ro, [], 1⟩, ⟨60, 56, .ro, [], 1⟩, ⟨39, 32, .ro, [], 1⟩, ⟨31, 0, .ro, [], 1⟩]⟩
def Fld.GLB_BOOT_PHASE : Fld := ⟨0x00000018, 0x0, 0x0, 63, 61, 0x0⟩
def Fld.GLB_BOOT_CAUSE : Fld := ⟨0x00000018, 0x0, 0x0, 60, 56, 0x0⟩
def Fld.GLB_BOOT_ROLE : Fld := ⟨0x00000018, 0x0, 0x0, 39, 32, 0x0⟩
def Fld.GLB_BOOT_IMAGE_ID : Fld := ⟨0x00000018, 0x0, 0x0, 31, 0, 0x0⟩

/-- `GLB_CFG_LOCK` (R399). -/
def Reg.GLB_CFG_LOCK : RegSpec := ⟨0x00000020, 0, 1, 0x0, 1, 0x0, 0x0,
  [⟨63, 63, .w1c, [], 1⟩, ⟨57, 32, .ro, [], 1⟩, ⟨1, 1, .wo, [], 1⟩, ⟨0, 0, .ro, [], 1⟩]⟩
def Fld.GLB_CFG_LOCK_VIOL : Fld := ⟨0x00000020, 0x0, 0x0, 63, 63, 0x0⟩
def Fld.GLB_CFG_LOCK_VIOL_OFF : Fld := ⟨0x00000020, 0x0, 0x0, 57, 32, 0x0⟩
def Fld.GLB_CFG_LOCK_SET : Fld := ⟨0x00000020, 0x0, 0x0, 1, 1, 0x0⟩
def Fld.GLB_CFG_LOCK_LOCK : Fld := ⟨0x00000020, 0x0, 0x0, 0, 0, 0x0⟩

/-- `GLB_RESET` (R399). -/
def Reg.GLB_RESET : RegSpec := ⟨0x00000028, 0, 1, 0x0, 1, 0x0, 0x0,
  [⟨15, 0, .wo, [], 1⟩]⟩
def Fld.GLB_RESET_CODE : Fld := ⟨0x00000028, 0x0, 0x0, 15, 0, 0x0⟩

/-- `GLB_NVM` (R399). -/
def Reg.GLB_NVM : RegSpec := ⟨0x00000030, 0, 1, 0x0, 1, 0x0, 0x0,
  [⟨63, 63, .ro, [], 1⟩, ⟨47, 32, .ro, [], 1⟩, ⟨31, 0, .ro, [], 1⟩]⟩
def Fld.GLB_NVM_NVM_WORN : Fld := ⟨0x00000030, 0x0, 0x0, 63, 63, 0x0⟩
def Fld.GLB_NVM_SECTOR : Fld := ⟨0x00000030, 0x0, 0x0, 47, 32, 0x0⟩
def Fld.GLB_NVM_MAX_ERASES : Fld := ⟨0x00000030, 0x0, 0x0, 31, 0, 0x0⟩

/-- `GLB_GROUP_SEL` (R399). -/
def Reg.GLB_GROUP_SEL : RegSpec := ⟨0x00000038, 0, 1, 0x0, 1, 0x0, 0x0,
  [⟨3, 0, .rw, [], 1⟩]⟩
def Fld.GLB_GROUP_SEL_N : Fld := ⟨0x00000038, 0x0, 0x0, 3, 0, 0x0⟩

/-- `GLB_GROUP_MASK` (R399). -/
def Reg.GLB_GROUP_MASK : RegSpec := ⟨0x00000100, 0, 16, 0x8, 1, 0x0, 0x0,
  [⟨63, 0, .rw, [], 1⟩]⟩
def Fld.GLB_GROUP_MASK_MASK : Fld := ⟨0x00000100, 0x8, 0x0, 63, 0, 0x0⟩

/-- `GLB_PROXY_CFG` (R399). -/
def Reg.GLB_PROXY_CFG : RegSpec := ⟨0x00000200, 0, 1, 0x0, 1, 0x0, 0x2710,
  [⟨63, 63, .rwl, [], 1⟩, ⟨15, 0, .rw, [], 1⟩]⟩
def Fld.GLB_PROXY_CFG_HEAD : Fld := ⟨0x00000200, 0x0, 0x0, 63, 63, 0x2710⟩
def Fld.GLB_PROXY_CFG_TMO : Fld := ⟨0x00000200, 0x0, 0x0, 15, 0, 0x2710⟩

/-- `GLB_PROXY_STAT` (R399). -/
def Reg.GLB_PROXY_STAT : RegSpec := ⟨0x00000208, 0, 1, 0x0, 1, 0x0, 0x0,
  [⟨63, 32, .rc, [], 1⟩]⟩
def Fld.GLB_PROXY_STAT_TIMEOUTS : Fld := ⟨0x00000208, 0x0, 0x0, 63, 32, 0x0⟩

/-- `GLB_PROXY_MAP` (R399). -/
def Reg.GLB_PROXY_MAP : RegSpec := ⟨0x00000400, 1, 63, 0x8, 1, 0x0, 0x0,
  [⟨63, 63, .rwl, [], 1⟩, ⟨15, 0, .rwl, [], 1⟩]⟩
def Fld.GLB_PROXY_MAP_VALID : Fld := ⟨0x00000400, 0x8, 0x0, 63, 63, 0x0⟩
def Fld.GLB_PROXY_MAP_NODE : Fld := ⟨0x00000400, 0x8, 0x0, 15, 0, 0x0⟩

/-- Every register of BAR0 but the MSI-X table and the logbook window (R401). -/
def regTable0 : List RegSpec :=
  [Reg.GLB_ID, Reg.GLB_UNIT_EN, Reg.GLB_BOAT_EN, Reg.MEM_PD_BASE, Reg.MEM_SCALE_BASE, Reg.MEM_SEQ_BASE, Reg.MEM_PD_PAGES, Reg.MEM_PD_COUNT, Reg.MEM_PD_SWEEP, Reg.IDX_PT_CFG, Reg.IDX_PT_KEY_SEL, Reg.IDX_PT_KEY_LO, Reg.IDX_PT_KEY_HI, Reg.MOV_XFER_CFG, Reg.MOV_CODEC_STAT, Reg.MOV_CODEC_DROP, Reg.ATT_CORE_CTL, Reg.ATT_CORE_STAT, Reg.ATT_CORE_CUR, Reg.ATT_CORE_BUSY]
def regTable1 : List RegSpec :=
  [Reg.ATT_CORE_STALL, Reg.ATT_CORE_NUM, Reg.ATT_CORE_ERR, Reg.HAL_CFG, Reg.HAL_CONFLICT, Reg.HAL_WLOST, Reg.HAL_ROTATE, Reg.HAL_ECC, Reg.HAL_FAULT, Reg.HAL_WAY, Reg.IDX_SUM_BASE, Reg.IDX_RSEL_STAT, Reg.ATT_CORE_RSEL, Reg.SMP_CFG, Reg.SMP_TOKENS, Reg.SMP_OUTCOME, Reg.SMP_LAT, Reg.SMP_PROMO, Reg.SMP_HELD, Reg.ADP_LARDER_BASE]
def regTable2 : List RegSpec :=
  [Reg.ADP_LARDER_SIZE, Reg.ADP_STAT, Reg.ADP_LOADS, Reg.MEM_FAULT_CFG, Reg.MEM_FAULT_STAT, Reg.MEM_PF_CFG, Reg.MEM_PF_ENTRIES, Reg.MEM_CELLAR_BASE, Reg.MEM_TOUCH_BASE, Reg.MEM_RECLAIM_CFG, Reg.MEM_STALL, Reg.MEM_TT_ROOT, Reg.MEM_QUOTA, Reg.MEM_QFLAG, Reg.MEM_CELLAR0, Reg.MEM_CELLAR1, Reg.MEM_CELLAR2, Reg.MEM_CELLAR3, Reg.QUE_IDX, Reg.QUE_SETUP]
def regTable3 : List RegSpec :=
  [Reg.QUE_BODY, Reg.QUE_CQ, Reg.QUE_CQIDX, Reg.QUE_SYNC, Reg.QUE_STAT, Reg.QUE_CTRL, Reg.HAL_QCFG, Reg.HAL_QMON, Reg.HAL_QSTAT, Reg.HAL_QSLOT, Reg.HAL_QLC, Reg.FAB_CFG, Reg.FAB_EPOCH, Reg.FAB_QP_BASE, Reg.FAB_PEER_BASE, Reg.FAB_XPORT_CFG, Reg.FAB_RC_RATE, Reg.FAB_RC_CFG, Reg.FAB_RX_MARK, Reg.FAB_STAT0]
def regTable4 : List RegSpec :=
  [Reg.FAB_STAT1, Reg.FAB_QP_STAGE, Reg.FAB_QP_OP, Reg.FAB_LASER, Reg.FAB_PORT_CTL, Reg.FAB_PORT_FEC, Reg.FAB_PORT_BER, Reg.RMA_WIN_CFG, Reg.RMA_IMP_CFG, Reg.RMA_MC_CFG, Reg.RMA_MAP_BASE, Reg.RMA_MAP_CUR, Reg.RMA_MAP_NEXT, Reg.RMA_GW_CFG, Reg.RMA_STAT0, Reg.RMA_STAT1, Reg.RMA_RC_STAT, Reg.RMA_RC, Reg.TRF_CFG, Reg.TRF_QP_CLASS]
def regTable5 : List RegSpec :=
  [Reg.TRF_FLOW, Reg.TRF_SHAPE, Reg.TRF_METER0, Reg.TRF_METER1, Reg.TRF_MCNT0, Reg.TRF_MCNT1, Reg.TRF_GATE, Reg.TRF_HWM, Reg.TIM_CFG, Reg.TIM_STROKE, Reg.TIM_STAT, Reg.TIM_CNT, Reg.TIM_TAI, Reg.TIM_PPS_CFG, Reg.TIM_PPS_STAT, Reg.TIM_ERR, Reg.PAIR_CFG, Reg.PAIR_STAT, Reg.PAIR_CNT, Reg.PAIR_TKO_ADDR]
def regTable6 : List RegSpec :=
  [Reg.PAIR_TKO_CNT, Reg.PAIR_ADMIT, Reg.PAIR_MIR_BASE, Reg.PAIR_MCLASS, Reg.LOG_HEAD, Reg.LOG_STAT, Reg.LOG_CFG, Reg.SEC_BOOT, Reg.SEC_SCRUB, Reg.SEC_SPDM, Reg.SEC_PART0, Reg.SEC_PART1, Reg.SEC_PART2, Reg.SEC_PART3, Reg.SEC_PART4, Reg.SEC_PART5, Reg.GLB_BOOT, Reg.GLB_CFG_LOCK, Reg.GLB_RESET, Reg.GLB_NVM]
def regTable7 : List RegSpec :=
  [Reg.GLB_GROUP_SEL, Reg.GLB_GROUP_MASK, Reg.GLB_PROXY_CFG, Reg.GLB_PROXY_STAT, Reg.GLB_PROXY_MAP]

/-- The whole table, in pieces. -/
def regTable : List RegSpec :=
  regTable0 ++ regTable1 ++ regTable2 ++ regTable3 ++ regTable4 ++ regTable5 ++ regTable6 ++ regTable7

end Sys2Proof.Machine
end

