-- ==== Sys2Proof/Machine/Mem.lean ====
section
/-! DEFINITION. Machine/Mem.lean: sparse storage in ONE canonical form: keys strictly rising, no entry equal to what an
unlisted key reads as. Memories are byte storage (Host.Cell); the register file and the tables keyed by a number use
the same operations. -/

namespace Sys2Proof.Machine

/-- The value at key `k`; `dflt` is what an unlisted key reads as. -/
def sget {α : Type} (dflt : α) (k : Nat) : List (Nat × α) → α
  | [] => dflt
  | (j, v) :: m => if k = j then v else sget dflt k m

/-- `m` with every entry of `k` taken out. -/
def sdel {α : Type} (k : Nat) : List (Nat × α) → List (Nat × α)
  | [] => []
  | (j, v) :: m => if k = j then sdel k m else (j, v) :: sdel k m

/-- `m` with the value `v` at `k`, at its place among rising keys. -/
def sins {α : Type} (k : Nat) (v : α) : List (Nat × α) → List (Nat × α)
  | [] => [(k, v)]
  | (j, w) :: m => if k < j then (k, v) :: (j, w) :: m else if k = j then (k, v) :: m else (j, w) :: sins k v m

/-- Writing `v` at `k`: the unlisted value removes the entry, any other is listed. -/
def sput {α : Type} [DecidableEq α] (dflt : α) (k : Nat) (v : α) (m : List (Nat × α)) : List (Nat × α) :=
  if v = dflt then sdel k m else sins k v m

/-- Keys strictly rising, all above `lo`. -/
def risingFrom {α : Type} : Option Nat → List (Nat × α) → Bool
  | _, [] => true
  | none, (j, _) :: m => risingFrom (some j) m
  | some lo, (j, _) :: m => decide (lo < j) && risingFrom (some j) m

/-- The canonical form (R8 says nothing of it; it makes equal storage equal data). -/
def canonical {α : Type} [DecidableEq α] (dflt : α) (m : List (Nat × α)) : Bool :=
  risingFrom none m && m.all (fun e => !(decide (e.2 = dflt)))

/-- A byte memory. -/
abbrev Mem := List Host.Cell

/-- The form of a memory whose unlisted bytes read `dflt`. -/
abbrev Mem.wf (dflt : Byte) (m : Mem) : Bool := canonical dflt m

/-- One byte; unlisted bytes read zero (R376). -/
def Mem.read (m : Mem) (a : Nat) : Byte := sget 0 a m

/-- One byte written. -/
def Mem.write (m : Mem) (a : Nat) (b : Byte) : Mem := sput 0 a b m

/-- `n` bytes from `a`, lowest address first. -/
def Mem.readBytes (m : Mem) (a n : Nat) : List Byte := (List.range n).map (fun k => m.read (a + k))

/-- Bytes written from `a` up. -/
def Mem.writeBytes (m : Mem) (a : Nat) : List Byte → Mem
  | [] => m
  | b :: bs => Mem.writeBytes (m.write a b) (a + 1) bs

/-- An `n`-byte little-endian number (R8). -/
def Mem.readN (m : Mem) (n a : Nat) : Nat := ofBytes (m.readBytes a n)

/-- An `n`-byte little-endian number written (R8). -/
def Mem.writeN (m : Mem) (n a v : Nat) : Mem := m.writeBytes a (toBytes n v)

/-- `n` bytes from `a` zeroed: their entries are taken out. -/
def Mem.zero (m : Mem) (a n : Nat) : Mem := m.filter (fun e => !(decide (a ≤ e.1) && decide (e.1 < a + n)))

/-- The numbers `(address - base) / size` of the blocks of a region that hold a nonzero byte, rising. -/
def Mem.blocksOf (m : Mem) (base size count : Nat) : List Nat :=
  distinct ((m.filter (fun e => decide (base ≤ e.1) && decide (e.1 < base + size * count))).map (fun e => (e.1 - base) / size))

end Sys2Proof.Machine
end

