-- ==== Sys2Proof/Machine/State.lean ====
section
/-! DEFINITION. Machine/State.lean: the state of the Zwithen as plain data. Four parts: the queue of commands, the fuses, the
boot memory, and the device proper (`Dev`), which is exactly what a full reset returns to its reset state (R375).
INVENTORY.md, "State", gives for every field the rule that names it and its reset value. -/

namespace Sys2Proof.Machine

/-- Why the block stops: the model has no such stop; every row has an effect (see NOTES.md, "Stops"). The one
constructor is kept for a closed type; nothing raises it. Safe: a stop proves nothing of the hardware. -/
inductive Fault where
  /-- Raised by no meaning. -/
  | none
deriving DecidableEq, Repr

/-- Why a command is refused. -/
inductive Refusal where
  /-- Raised by a row of Dispatch.lean that has no meaning yet: safe, the model says nothing of that row. -/
  | notModelled (mnemonic : String)
deriving DecidableEq, Repr

/-- The fuses (R2, R4, R7, R366, R370, R386). -/
structure Fuses where
  order    : Nat
  stepping : Nat
  boats    : Nat
  keys     : List (BitVec 384)
  revoked  : List Bool
  svn      : Nat
  secret   : BitVec 256
  mac      : BitVec 48
deriving DecidableEq, Repr

/-- States of the stroke tracker (R313). -/
inductive Track where
  | acquire | locked | freerun | lost
deriving DecidableEq, Repr

/-- The timing unit (13). `now` and `catchAt` are in thirds of a nanosecond of the local count (a cycle is two, R101),
every other local time in nanoseconds. `cnt` and `frac` are the time counter and its remainder (R319);
`owed`: the traffic unit's acts of this catch still follow a map switch or handover (R440). -/
structure Clock where
  now      : Nat
  cnt      : Nat
  frac     : Nat
  slew     : Int
  state    : Track
  lost     : Bool
  number   : Nat
  period   : Nat
  latched  : Nat
  catchAt  : Nat
  refGood  : Option Bool
  inserted : Nat
  lastOut  : Option Nat
  entered  : Nat
  srcHold  : Bool
  halted   : Option Nat
  ppsHold  : Bool
  taiValid : Bool
  lastPps  : Option Nat
  flushed  : Bool
  scanned  : Bool
  pfIssued : List Nat
  owed     : Bool
deriving DecidableEq, Repr

/-- What an allocated run of granules serves (R357, R208). -/
inductive RunKind where
  | page (p : Nat) | pageMap (rec : Nat) | landing (rec : Nat) | localLeaf (va : Nat) | table | blockVec | larder (id : Nat)
deriving DecidableEq, Repr

/-- An allocated run of granules. `tenant` is the one whose quota counts it; `none`: the system's (R186). -/
structure Run where
  start  : Nat
  len    : Nat
  tenant : Option Nat
  kind   : RunKind
deriving DecidableEq, Repr

/-- A released run that the mover zero-fills (R39, R188, R364). -/
structure Zeroing where
  start  : Nat
  len    : Nat
  tenant : Option Nat
  page   : Option Nat
  counts : Bool
deriving DecidableEq, Repr

/-- Where a popped command stands (09; 08 R198, R199). -/
inductive Phase where
  | run
  | held
  | faulted
  | saving
  | preempted (reported : Bool)
  | parked
  | resumable
  | restoring
  | acks
deriving DecidableEq, Repr

/-- A command popped from its ring and not yet ended. `strokes` and `lostT` are its watchdog's counts while it waits for
fabric acknowledgements (R228); `waits`: such a wait inside phase `run`; `after`: what follows its save (R199, R234, R238);
`acks`: it was saved while it waited for acknowledgements; `lost`: one of its hall writes was lost (R113); `stage`: how far a
command of several parts has come (0: not begun); `holds`: an append of it is held (R50); `stalled`: the cause and
the beginning of a wait that the mover counts while it lasts (R207); `sent`, `loads`, `missed`: the blocks of its present store to the
rack that are on their way, what its present load has brought, by address, and the line that it missed, plus 1 (R285, R286). -/
structure RunCmd where
  ring   : Nat
  index  : Nat
  entry  : List Byte
  engine : Nat
  tenant : Nat
  lc     : Bool
  order  : Nat
  placed : Nat
  core   : Option Nat
  slot   : Option Nat
  phase  : Phase
  faults : Nat
  pos    : Nat
  status : Nat
  ops    : List Nat
  res    : List Nat
  since  : Nat
  note   : Nat
  need   : Nat
  strokes : Nat
  lostT  : Nat
  waits  : Bool
  after  : Nat
  acks   : Bool
  lost   : Bool
  stage  : Nat
  holds  : Bool
  stalled : Option (Nat × Nat)
  sent   : List Nat
  loads  : List (Nat × List Byte)
  missed : Nat
deriving DecidableEq, Repr

/-- A request that a bank has not granted yet, with the cycles it has stalled there (R111). -/
structure BankReq where
  bank : Nat
  age  : Nat
  req  : HallReq
deriving DecidableEq, Repr

/-- A WAIT armed at the head of its ring (R225 to R227); `lostT` counts thirds of a nanosecond under STROKE_LOST. -/
structure Watch where
  ring    : Nat
  addr    : Nat
  polled  : Bool
  polledAt : Nat
  strokes : Nat
  lostT   : Nat
deriving DecidableEq, Repr

/-- A completion that waits for room in its queue (R222) or for a mirror acknowledgement (R331). -/
structure HeldCpl where
  ring   : Nat
  index  : Nat
  status : Nat
  tag    : Nat
  res    : List Nat
  entry  : Bool
  irq    : Bool
  need   : Nat
deriving DecidableEq, Repr

/-- Where a transfer stands at its source (R62 to R66). -/
inductive XPhase where
  | waiting | reserving | retry | moving | committing
deriving DecidableEq, Repr

/-- A transfer of which this device is the source. -/
structure Xfer where
  xid      : Nat
  idx      : Nat
  ring     : Nat
  index    : Nat
  dest     : Nat
  recomp   : Nat
  retryMax : Nat
  bitmap   : Nat
  phase    : XPhase
  order    : Nat
  entries  : List Nat
  acked    : List Nat
  moved    : Nat
  copied   : Nat
  retries  : Nat
  waitFor  : Nat
  lastTry  : Nat
  parked   : Bool
  tried    : Bool
deriving DecidableEq, Repr

/-- A reservation this device holds as destination of a transfer (R62, R63, R65). -/
structure Rsv where
  src    : Nat
  xid    : Nat
  dst    : Nat
  epoch  : Nat
  idx    : Nat
  spare  : List (Nat × Nat)
  placed : List (Nat × Nat)
  silent : Nat
deriving DecidableEq, Repr

/-- A COMMIT answered, or to be answered once the twin holds the record (R66). -/
structure Committed where
  src    : Nat
  xid    : Nat
  dst    : Nat
  handle : Nat
  need   : Nat
  told   : Bool
deriving DecidableEq, Repr

/-- A tenant's prefix key (R61). -/
structure PrefixKey where
  key0 : Nat
  key1 : Nat
  gen  : Nat
deriving DecidableEq, Repr

/-- A running key scan (R61): tenant and next bucket. -/
structure KeyScan where
  tenant : Nat
  bucket : Nat
deriving DecidableEq, Repr

/-- A RETR_SELECT held for its angle (R140). -/
structure RetrWait where
  ring   : Nat
  index  : Nat
  stroke : Nat
deriving DecidableEq, Repr

/-- One committed token waiting for release (R153); `stamped`: its release stamp and flags, read once, while its record is still to
be written. -/
structure TokRel where
  idx     : Nat
  gen     : Nat
  addr    : Nat
  token   : Nat
  segment : Nat
  stamped : Option (Nat × Nat)
deriving DecidableEq, Repr

/-- A mirror group of the sampler (R153). -/
structure TokGroup where
  number : Nat
  ring   : Nat
  index  : Nat
  tokens : List TokRel
deriving DecidableEq, Repr

/-- What a page fault is about (R195): a LOWER leaf, a demand-zero leaf, or a layer of a sequence. -/
inductive FaultKind where
  | lower (tenant va cellar vtag : Nat)
  | zero (tenant va : Nat)
  | layer (rec layer : Nat)
deriving DecidableEq, Repr

/-- A record of Cox's fault queue (R195, R196); `asked`: the fetch of its data has begun (R197). -/
structure FaultRec where
  id     : Nat
  ring   : Nat
  index  : Nat
  kind   : FaultKind
  lc     : Bool
  raised : Nat
  asked  : Bool
deriving DecidableEq, Repr

/-- A prefetch in its course (R202 to R205): a command (`cmd`) or a table entry (`table`); `dueCnt`: the time counter's
reading at its due point, once that has passed (R204). -/
structure Pf where
  id      : Nat
  cmd     : Option (Nat × Nat)
  table   : Option Nat
  tenant  : Nat
  stroke  : Nat
  angle   : Nat
  issue   : Nat
  issueStroke : Nat
  issued  : Bool
  tries   : Nat
  dueCnt  : Option Nat
deriving DecidableEq, Repr

/-- What a demotion replaces once the lower tier has acknowledged (R193). -/
inductive DemRef where
  | entry (rec slot page : Nat)
  | leaf (tenant va gran len : Nat)
deriving DecidableEq, Repr

/-- A page or leaf being written to a cellar. `cmd`: the DEMOTE, or none for reclaim (R210). -/
structure Dem where
  cellar : Nat
  ref    : DemRef
  cmd    : Option (Nat × Nat)
deriving DecidableEq, Repr

/-- The kinds of fabric operations (R256, R283). -/
inductive OpKind where
  | write | read | atomic | reduce | mcast (member : Nat) | inval
deriving DecidableEq, Repr

/-- An entry of the operation table (R261). -/
structure Op where
  id      : Nat
  qp      : Nat
  node    : Nat
  kind    : OpKind
  cmd     : Option (Nat × Nat)
  total   : Nat
  acked   : Nat
  respAll : Nat
  resp    : Nat
  space   : Nat
  laddr   : Nat
  raddr   : Nat
  fence   : Bool
  stale   : Bool
deriving DecidableEq, Repr

/-- A packet sent and not acknowledged (R266); `live`: its operation still waits for it. -/
structure OutPkt where
  pkt    : Packet
  sentAt : Nat
  sent   : Bool
  crc    : Nat
  live   : Bool
deriving DecidableEq, Repr

/-- Transport state of a queue pair toward a node (R259, R265, R434); `rcAt`: its last rate update (R270); `ident`: the node ID that the node last addressed (R336). -/
structure QpT where
  qp      : Nat
  node    : Nat
  spsn    : Nat
  rpsn    : Nat
  got     : List Nat
  refused : List (Nat × Nat)
  answers : List (Nat × Packet)
  out     : List OutPkt
  tmo     : Nat
  rate    : Nat
  target  : Nat
  alpha   : Nat
  quiet   : Nat
  acked   : Nat
  marked  : Nat
  fresh   : Nat
  ce      : Nat
  firstAt : Nat
  paceAt  : Nat
  rcAt    : Nat
  ident   : Nat
deriving DecidableEq, Repr

/-- A packet formed and waiting in its queue pair for the traffic unit (R295). -/
structure TxPkt where
  pkt    : Packet
  qp     : Nat
  node   : Nat
  lc     : Bool
  flow   : Nat
  formed : Nat
  retx   : Bool
deriving DecidableEq, Repr

/-- A flow of a scheduler (R298); tags are 64-bit modular. -/
structure Flow where
  start    : Nat
  finish   : Option Nat
  backlog  : Bool
  lastQp   : Nat
  exceeded : Bool
deriving DecidableEq, Repr

/-- A token bucket with its remainder and the local time of its last refill, in tens of nanoseconds (R301, R303). -/
structure Bucket where
  tokens : Nat
  rem    : Nat
  at'    : Nat
deriving DecidableEq, Repr

/-- A port of the link layer beside its registers (R245 to R253): `codes` of its ring heaters, corrected symbols of each lane since
the last check, credits of each lane that received packets have freed, and whether the receiver waits for the next `SOP`. -/
structure Port where
  egress   : List (Nat × Packet)
  credits  : List Nat
  lastCtl  : Nat
  since    : Nat
  fails    : Nat
  relearns : List Nat
  uncorrMs : Nat
  lastBer  : Nat
  entropy  : Nat
  beat     : Nat
  codes    : List Nat
  corr     : List Nat
  freed    : List Nat
  resync   : Bool
deriving DecidableEq, Repr

/-- A line of a tenant's read cache (R286): tagged by (node, window, offset); `entry` filled it; `once`: delivered to the
loads of the command `forCmd` that wait for it and not kept (NC entries and stale fills, R284, R287). -/
structure Line where
  tenant : Nat
  node   : Nat
  window : Nat
  offset : Nat
  entry  : Nat
  used   : Nat
  forCmd : Option (Nat × Nat)
  once   : Bool
  data   : List Byte
deriving DecidableEq, Repr

/-- A gateway coalescing buffer of 4 KiB (R288); `sending`: what its flush in progress carries; `waits`: since when its flush waits for
room in the operation table (R207). -/
structure GwBuf where
  tenant : Nat
  entry  : Nat
  qp     : Nat
  block  : Nat
  bytes  : List (Nat × Byte)
  stored : Nat
  flight : List Nat
  sending : List (Nat × Byte)
  waits  : Option Nat
deriving DecidableEq, Repr

/-- The pairing unit beside its registers (14). Times are local nanoseconds. `unsent`: how many of the
last unacknowledged messages wait for room in the operation table, and since when each waits for credits (R332); `ahead`: mirror messages of node `aheadFrom` that wait for an earlier
one; `refused`: a record of the twin found no place here; `short`: one of ours found none there; `syncTo`: the last message of
the initial copy; `taking`: between steps 1 and 6 of a takeover, `tko` its list so far; `returned`: the records held for
`SERVED` or loaded for it; `missed`: the admission stroke found the loader not READY (R345). -/
structure Pair where
  next      : Nat
  acked     : Nat
  applied   : Nat
  unacked   : List MirrorMsg
  twinAt    : Nat
  hbAt      : Nat
  sentSince : Bool
  peerAt    : Nat
  otherAt   : Option Nat
  linkUp    : Bool
  mgmtHbAt  : Nat
  silentAt  : Option Nat
  fmAt      : Nat
  loadNode  : Nat
  newNode   : Nat
  newEpoch  : Nat
  returned  : List Nat
  waitAbort : List Nat
  unsent    : Nat
  waitAt    : List (Option Nat)
  ahead     : List MirrorMsg
  aheadFrom : Nat
  refused   : Bool
  short     : Bool
  syncTo    : Nat
  taking    : Bool
  tko       : List (List Nat)
  missed    : Bool
deriving DecidableEq, Repr

/-- An event in the logbook FIFO with the stamps of its moment (R348). -/
structure LogEv where
  stamp  : Nat
  code   : Nat
  src    : Nat
  hold   : Bool
  lost   : Bool
  stroke : Nat
  angle  : Nat
  data   : Nat
deriving DecidableEq, Repr

/-- The logbook writer (R349, R350). -/
structure Logbook where
  base    : Nat
  next    : Nat
  fifo    : List LogEv
  pending : Nat
  first   : Option LogEv
deriving DecidableEq, Repr

/-- The SEC block (15). -/
structure Sec where
  meas    : List (BitVec 384)
  session : Bool
  finished : Bool
  keyGen  : Nat
  lastMsg : Nat
deriving DecidableEq, Repr

/-- A calibration record held in RAM (R384, R385). -/
structure JRec where
  kind  : Nat
  key   : Nat
  value : Nat
deriving DecidableEq, Repr

/-- Cox's own memory (16, 08, 11). -/
structure Cox where
  answered  : List (Nat × Nat)
  managers  : List (BitVec 128)
  mgmtOk    : Bool
  journal   : List JRec
  dirty     : List JRec
  jnext     : Nat
  jlast     : Nat
  tune      : List Byte
  proxyNodes : List Nat
  drams     : Nat
deriving DecidableEq, Repr

/-- A scrub of a boat (R362): whether it is the second attempt and for which slot the boat leaves. -/
structure BoatScrub where
  boat  : Nat
  again : Bool
  drain : Bool
  slot  : Nat
deriving DecidableEq, Repr

/-- A read through the proxy window that the member has not answered (R395). -/
structure ProxyRead where
  slot : Nat
  at'  : Nat
  width : Nat
deriving DecidableEq, Repr

/-- The board and package facts of chapter 18. -/
structure Elec where
  pwrgd   : Bool
  perstN  : Bool
  sysref  : Bool
  held    : Bool
  trip    : Bool
  stopped : Bool
  tj      : Int
  alarm   : Int
  temps   : List Int
  refresh : List Bool
  straps  : Nat
  dynAddr : Option Nat
  nvmAddr : Nat
  nvmCmd  : Nat
  nvmBuf  : List Byte
deriving DecidableEq, Repr

/-- What the block emits (log entry 11). -/
inductive Output where
  | packet (port : Nat) (p : Packet)
  | linkctl (port node : Nat) (isSwitch : Bool) (beat : Nat) (credits : List Nat)
  | msix (fn vector : Nat)
  | readData (data : Nat)
  | unsupported
  | hallStatus (master status : Nat) (old : Nat)
  | mgmtAnswer (seq status : Nat)
  | mgmtHeartbeat
  | mgmtReport (code : Nat)
  | ibi (why : Nat)
  | spdm (code : Nat) (ok : Bool) (body : List Byte)
  | hostRequest (r : MemberReq) (slot : Nat)
  | thermtrip (asserted : Bool)
deriving DecidableEq, Repr

/-- The device proper (`stalled`: requests the hall's banks have not granted, R111; `hallLost`: hall words whose write an owner has lost, R113; `ctx`: the queue pairs whose contexts the cache holds, R257; `patches`: stores made while a fill of their line is in flight, by its operation and offset, R287; `ptParent`: for a tree node, by its hall offset, its parent's offset plus 1, or 0 once that is evicted, R60): all that a full reset returns to its reset state (R375). -/
structure Dev where
  clk      : Clock
  regs     : List (Nat × Word)
  latch    : List (Nat × Nat)
  dram     : Mem
  hall     : Mem
  hallBad  : List Nat
  stalled  : List BankReq
  hallLost : List (HallOwner × Nat)
  host     : Mem
  coreMem  : Mem
  boatBuf  : Mem
  kernels  : Mem
  runs     : List Run
  zeroing  : List Zeroing
  rotation : List (Nat × Nat)
  freeCtr  : Nat
  cmds     : List RunCmd
  orders   : Nat
  places   : Nat
  watches  : List Watch
  aborting : List Nat
  held     : List HeldCpl
  rr       : List Nat
  muted    : List Nat
  lcWait   : List (Nat × Nat)
  slots    : List (Nat × Nat)
  pool     : List Nat
  xfers    : List Xfer
  nextXid  : Nat
  rsvs     : List Rsv
  committed : List Committed
  keys     : List (Nat × PrefixKey)
  scans    : List KeyScan
  ptParent : List (Nat × Nat)
  retr     : List RetrWait
  groups   : List TokGroup
  faults   : List FaultRec
  nextId   : Nat
  pfs      : List Pf
  dems     : List Dem
  pfOnTime : List (Nat × Nat)
  reclaimed : List (Nat × Nat)
  ops      : List Op
  qpts     : List QpT
  ctx      : List Nat
  txq      : List TxPkt
  spray    : List TxPkt
  lastPort : Nat
  ports    : List Port
  flows    : List (Nat × Flow)
  vtime    : Nat × Nat
  shapers  : List (Nat × Bucket)
  meters   : List (Nat × Bucket × Bucket)
  gates    : List (Nat × Word)
  binds    : List (Nat × Word)
  flights  : List (Nat × Nat)
  revokes  : List (Nat × Nat × Nat)
  pins     : List (Nat × Nat × Nat)
  lines    : List Line
  gw       : List GwBuf
  gwLost   : List Nat
  patches  : List (Nat × Nat × List Byte)
  mapBank  : Nat
  changed  : List Nat
  drainTo  : Option Nat
  pair     : Pair
  mirRings : List (Nat × Nat × Nat × Nat)
  mirLand  : List (Nat × Nat × Nat)
  log      : Logbook
  sec      : Sec
  cox      : Cox
  cellarHeld : List Nat
  scrubs   : List BoatScrub
  wayScrubs : List (Nat × Nat)
  proxy    : List ProxyRead
  elec     : Elec
  msixTab  : List (Nat × Word)
  out      : List Output
deriving DecidableEq, Repr

/-- The whole block: the queue of waiting commands first, what survives a full reset, and the device. -/
structure State where
  pending : List Instr
  fuse    : Fuses
  nvm     : Mem
  dev     : Dev
deriving DecidableEq, Repr

/-- The timing unit at reset: EN is 1, so ACQUIRE from local time 0 (R313, R319, R322). -/
def Clock.reset : Clock :=
  { now := 0, cnt := 0, frac := 0, slew := 0, state := .acquire, lost := false, number := 0, period := 0, latched := 0, catchAt := 0,
    refGood := none, inserted := 0, lastOut := none, entered := 0, srcHold := false, halted := none, ppsHold := true, taiValid := false,
    lastPps := none, flushed := false, scanned := false, pfIssued := [], owed := false }

/-- One port at reset: DOWN, with the lane credits of log entry 8. -/
def Port.reset : Port :=
  { egress := [], credits := [1024, 1024, 1024, 1024], lastCtl := 0, since := 0, fails := 0, relearns := [], 
    uncorrMs := 0, lastBer := 0, entropy := 0, beat := 0, codes := List.replicate 16 0, corr := List.replicate 16 0,
    freed := [0, 0, 0, 0], resync := false }

/-- The pairing unit at reset: SOLO, no messages (R327). -/
def Pair.reset : Pair :=
  { next := 1, acked := 0, applied := 0, unacked := [], twinAt := 0, hbAt := 0, sentSince := false, peerAt := 0, otherAt := none,
    linkUp := true, mgmtHbAt := 0, silentAt := none, fmAt := 0, loadNode := 0, newNode := 0, newEpoch := 0, returned := [],
    waitAbort := [], unsent := 0, waitAt := [], ahead := [], aheadFrom := 0, refused := false, short := false, syncTo := 0, taking := false, tko := [], missed := false }

/-- Chapter 18 at reset (log entry 10): power good, clocks present, 25 °C, alarm threshold 100 (R388). -/
def Elec.reset : Elec :=
  { pwrgd := true, perstN := true, sysref := true, held := false, trip := false, stopped := false, tj := 25, alarm := 100,
    temps := List.replicate 8 25, refresh := List.replicate 8 false, straps := 0, dynAddr := none, nvmAddr := 0, nvmCmd := 0,
    nvmBuf := zeros 256 }

/-- Cox's memory at reset. -/
def Cox.reset : Cox :=
  { answered := [], managers := [], mgmtOk := false, journal := [], dirty := [], jnext := 0, jlast := 0, tune := [], proxyNodes := [],
    drams := 0 }

/-- GLB_UNIT_EN of an order code (R2, R3, R7). -/
def Fuses.units (f : Fuses) : Nat :=
  if f.order = 1 then 0x7F else if f.order = 2 then 0x17 else if f.order = 3 then 0x0E else if f.order = 4 then 0x24 else 0

/-- How many set bits the low `n` bits of a number have. -/
def bitCount (n x : Nat) : Nat := ((List.range n).filter (bit x)).length

/-- The boats of one bay that an order code leaves enabled (R2, R4): all on A and G; on P and K the fused ones, exactly 4 or 2
(a fuse pattern of another count, which no die has, counts as the lowest ones). -/
def bayBoats (order fused : Nat) : Nat :=
  if order = 3 then (if bitCount 8 fused = 4 then fused else 0x0F)
  else if order = 4 then (if bitCount 8 fused = 2 then fused else 0x03)
  else 0xFF

/-- GLB_BOAT_EN: the enabled boats of the die (R2, R4, R7). -/
def Fuses.boatMask (f : Fuses) : Nat :=
  (List.range 8).foldl (fun m k => m + bayBoats f.order (f.boats / 2 ^ (8 * k) % 256) * 2 ^ (8 * k)) 0

/-- The identity registers as the fuses set them (R7): GLB_ID, GLB_UNIT_EN, GLB_BOAT_EN. -/
def Fuses.regs (f : Fuses) : List (Nat × Word) :=
  sput 0x0C4E000000000000 0 (BitVec.ofNat 64 (0x0C4E000000000000 + f.order % 256 * 2 ^ 40 + f.stepping % 256 * 2 ^ 32))
    (sput 0 8 (BitVec.ofNat 64 f.units) (sput 0 16 (BitVec.ofNat 64 f.boatMask) []))

/-- The device after a full reset (R375): registers at their tables' reset values (only the fused ones listed), SRAM
and DRAM zero, every unit idle. -/
def Dev.reset (f : Fuses) : Dev :=
  { clk := Clock.reset, regs := f.regs, latch := [], dram := [], hall := [], hallBad := [], stalled := [], hallLost := [], host := [], coreMem := [], boatBuf := [], kernels := [], runs := [],
    zeroing := [], rotation := [], freeCtr := 0, cmds := [], orders := 0, places := 0, watches := [], aborting := [], held := [],
    rr := [], muted := [], lcWait := [], slots := [], pool := [], xfers := [],
    nextXid := 1, rsvs := [], committed := [], keys := [], scans := [], ptParent := [], retr := [], groups := [], faults := [],
    nextId := 0, pfs := [], dems := [], pfOnTime := [], reclaimed := [], ops := [], qpts := [], ctx := [], txq := [], spray := [], lastPort := 23,
    ports := List.replicate 24 Port.reset, flows := [], vtime := (0, 0), shapers := [], meters := [], gates := [], binds := [],
    flights := [], revokes := [], pins := [], lines := [], gw := [], gwLost := [], patches := [], mapBank := 0, changed := [], drainTo := none,
    pair := Pair.reset, mirRings := [], mirLand := [], log := ⟨0, 0, [], 0, none⟩, sec := ⟨[], false, false, 0, 0⟩, cox := Cox.reset,
    cellarHeld := [], scrubs := [], wayScrubs := [], proxy := [], elec := Elec.reset, msixTab := [], out := [] }

/-- The fuses of the modelled part (log entry 3): a ZW-S1-A, stepping 1, all 64 boats. -/
def Fuses.fitted : Fuses :=
  { order := 1, stepping := 1, boats := 2 ^ 64 - 1, keys := List.replicate 4 0, revoked := List.replicate 4 false, svn := 0, secret := 0,
    mac := 0 }

/-- The block right after reset: an empty queue, an erased boot memory, phase ROM (R376). -/
def State.reset : State := { pending := [], fuse := Fuses.fitted, nvm := [], dev := Dev.reset Fuses.fitted }

end Sys2Proof.Machine
end

