-- ==== Sys2Proof/Machine/Flags.lean ====
section
/-! DEFINITION. Machine/Flags.lean: registers of the device, their counters that do not wrap, sticky flags, the completion
status codes (R14) and the logbook event codes (R352, R374, R400). -/

namespace Sys2Proof.Machine

/-- The word of a register (its reset word where nothing is listed). -/
def Dev.word (d : Dev) (off wreset : Nat) : Nat := (sget (BitVec.ofNat 64 wreset) off d.regs).toNat

/-- A register's word set, keeping the canonical form of the register file. -/
def Dev.setWord (d : Dev) (off wreset v : Nat) : Dev :=
  { d with regs := sput (BitVec.ofNat 64 wreset) off (BitVec.ofNat 64 v) d.regs }

/-- The value of a field at indices `i`, `j`. -/
def Dev.get (d : Dev) (f : Fld) (i : Nat := 0) (j : Nat := 0) : Nat := bits (d.word (f.off i j) f.wreset) f.hi f.lo

/-- A field set, the rest of its register unchanged. -/
def Dev.put (d : Dev) (f : Fld) (v : Nat) (i : Nat := 0) (j : Nat := 0) : Dev :=
  d.setWord (f.off i j) f.wreset (setBits (d.word (f.off i j) f.wreset) f.hi f.lo v)

/-- The largest value of a field. -/
def Fld.max (f : Fld) : Nat := 2 ^ (f.hi + 1 - f.lo) - 1

/-- A counter that does not wrap advanced by `n`: it holds at its largest value (R120, R143, R162, R183, R212, R240, R399). -/
def Dev.bump (d : Dev) (f : Fld) (n : Nat := 1) (i : Nat := 0) (j : Nat := 0) : Dev :=
  d.put f (min f.max (d.get f i j + n)) i j

/-- A one-bit field as a proposition. -/
def Dev.flag (d : Dev) (f : Fld) (i : Nat := 0) (j : Nat := 0) : Bool := d.get f i j == 1

/-- A stored number 0 that its register treats as 1 (R67, R119, R212, R240, R323, R353, R399). -/
def atLeast1 (n : Nat) : Nat := if n = 0 then 1 else n

/-- Status codes (R14). -/
def stOK : Nat := 0x00
def stPartialFail : Nat := 0x01
def stWriteLost : Nat := 0x02
def stStaleEpoch : Nat := 0x03
def stMapStale : Nat := 0x04
def stKeyFault : Nat := 0x05
def stBoundsFault : Nat := 0x06
def stRightsFault : Nat := 0x07
def stPageFault : Nat := 0x08
def stWaitTimeout : Nat := 0x09
def stQuotaBlocked : Nat := 0x0A
def stPreempted : Nat := 0x0B
def stTenantMismatch : Nat := 0x0C
def stCrcFault : Nat := 0x0D
def stReserveDenied : Nat := 0x0E
def stAborted : Nat := 0x0F
def stRevoked : Nat := 0x10

/-- Logbook event codes (R352, R374, R400). -/
def evOverflow : Nat := 0x01
def evTagMismatch : Nat := 0x02
def evSweepDone : Nat := 0x03
def evEccUncorr : Nat := 0x04
def evLaserLow : Nat := 0x05
def evStrokeJump : Nat := 0x06
def evStrokeRenumber : Nat := 0x07
def evStrokeLost : Nat := 0x08
def evTimeStep : Nat := 0x09
def evLatencyHwm : Nat := 0x0A
def evMapRefused : Nat := 0x0B
def evPairState : Nat := 0x0C
def evTakeover : Nat := 0x0D
def evAdmission : Nat := 0x0E
def evUnitFailed : Nat := 0x0F
def evFenced : Nat := 0x10
def evPartState : Nat := 0x20
def evPartRefused : Nat := 0x21
def evScrubFault : Nat := 0x22
def evSpdmSession : Nat := 0x23
def evBootDone : Nat := 0x30
def evRoleRefused : Nat := 0x31
def evLockViolation : Nat := 0x32
def evNvmWorn : Nat := 0x33
def evProxyTimeout : Nat := 0x34
def evMgmtRefused : Nat := 0x35

/-- Stall causes of R207. -/
def csFabCredit : Nat := 7

/-- One stall of cause `c` with its time in µs counted (R207, R429). -/
def Dev.stall (d : Dev) (c us : Nat) : Dev := (d.bump Fld.MEM_STALL_EVENTS 1 c).bump Fld.MEM_STALL_TIME us c

end Sys2Proof.Machine
end

