-- ==== Sys2Proof/Machine/Ops.lean ====
section
/-! DEFINITION. Machine/Ops.lean: the operations every command uses: free values, outputs, interrupts, the two clocks, the
logbook FIFO, the hall and its ways, host memory, and the messages of the reserved queue pairs. -/

namespace Sys2Proof.Machine

/-- Hall masters (R110). -/
def mCox : Nat := 0
def mRma : Nat := 1
def mRx : Nat := 2
def mPair : Nat := 3
def mMover : Nat := 4
def mIndex : Nat := 5
def mSampler : Nat := 6
def mAdapter : Nat := 7
def mQueue : Nat := 8
def mTraffic : Nat := 9
def mTiming : Nat := 10
def mHost : Nat := 11
def mBoat (b : Nat) : Nat := 16 + b

/-- Engines by `QUE_SETUP.ENGINE` (R239). -/
def engMover : Nat := 0
def engAttn : Nat := 1
def engSampler : Nat := 2
def engAdapter : Nat := 3
def engIndex : Nat := 4

/-- A number among `n` choices that the manual leaves open: a free value (log entry 1), and the counter that makes the
next one another. -/
def Dev.choose (d : Dev) (n : Nat) : Nat × Dev := (Config.freeNat d.freeCtr % n, { d with freeCtr := d.freeCtr + 1 })

/-- Something the block emits (log entry 11). -/
def Dev.emit (d : Dev) (o : Output) : Dev := { d with out := d.out ++ [o] }

/-- Local time in nanoseconds (13, "Tracking"). -/
def Dev.ns (d : Dev) : Nat := d.clk.now / 3

/-- Whether `STROKE_LOST` reads 1: lost, or halted with EN 0 (R313, R315, R438). -/
def Dev.strokeLost (d : Dev) : Bool := d.clk.lost

/-- The stroke angle (R317); 0 in ACQUIRE, held while halted (R313, R438). -/
def Dev.angle (d : Dev) : Nat :=
  match d.clk.halted with
  | some a => a
  | none =>
    if d.clk.state = .acquire then 0
    else min 65535 ((d.clk.now - d.clk.catchAt) * 65536 / (3 * atLeast1 d.clk.latched))

/-- Whether scheduled events fire: not in ACQUIRE, and not while halted (R318, R438). -/
def Dev.firing (d : Dev) : Bool := d.clk.halted.isNone && !(d.clk.state == .acquire)

/-- Whether a point of stroke and angle has come (R318). -/
def Dev.reached (d : Dev) (stroke angle : Nat) : Bool :=
  let m := modDiff 64 d.clk.number stroke
  d.firing && (decide (0 < m) || (decide (m = 0) && decide (angle ≤ d.angle)))

/-- Bits [31:0] of the stroke number. -/
def Dev.stroke32 (d : Dev) : Nat := d.clk.number % 2 ^ 32

/-- An event handed to the logbook FIFO by hall master `src` (R348, R350). -/
def Dev.logEv (d : Dev) (code src data : Nat) : Dev :=
  let ev : LogEv := ⟨d.clk.cnt, code, src, d.clk.ppsHold, d.strokeLost, d.stroke32, d.angle, data % 2 ^ 64⟩
  if d.log.pending = 0 ∧ d.log.fifo.length < 64 then { d with log := { d.log with fifo := d.log.fifo ++ [ev] } }
  else
    ({ d with log := { d.log with pending := d.log.pending + 1, first := d.log.first.orElse (fun _ => some ev) } } : Dev).bump
      Fld.LOG_STAT_DROPPED

/-- State codes of a core (R118). -/
def csOff : Nat := 0
def csIdle : Nat := 1
def csRun : Nat := 2
def csFaultStall : Nat := 3
def csSaving : Nat := 4
def csRestoring : Nat := 5
def csScrub : Nat := 6
def csFailed : Nat := 7

/-- `n` cycles counted for the core of a command (R118): BUSY in RUN, STALL.FAULT in FAULT_STALL. -/
def Dev.coreCycles (d : Dev) (n core : Nat) : Dev :=
  if d.get Fld.ATT_CORE_STAT_STATE core = csRun then d.bump Fld.ATT_CORE_BUSY_CYCLES n core
  else if d.get Fld.ATT_CORE_STAT_STATE core = csFaultStall then d.bump Fld.ATT_CORE_STALL_FAULT n core
  else d

/-- Whether completions of ring `r` wait for room (R222). -/
def Dev.cqFull (d : Dev) (r : Nat) : Bool :=
  subMod 32 (d.get Fld.QUE_CQIDX_CQ_PI r) (d.get Fld.QUE_CQIDX_CQ_CI r) == 2 ^ d.get Fld.QUE_SETUP_CQ_LOG2 r

/-- A prefetch whose due point comes while `dt` pass keeps the time counter's reading there (R204). -/
def Dev.dueStamp (d : Dev) (dt : Nat) (p : Pf) : Pf :=
  let k := d.clk
  let due := k.catchAt + ceilDiv (3 * k.latched * p.angle) 65536
  if p.dueCnt = none ∧ p.stroke = k.number ∧ d.firing ∧ due ≤ k.now + dt then
    let rate : Int := 1000000000 + ofField 32 (d.get Fld.TIM_PPS_STAT_FREQ) + k.slew
    { p with dueCnt := some ((k.cnt + (k.frac + (due - k.now) * rate.toNat) / 3000000000) % 2 ^ 64) }
  else p

/-- `dt` thirds of a nanosecond pass: the due points of prefetches on the way (R204), the local count, the time counter (R319), the cycle counters of cores (R118), waits
for a core (R234) and for completion room (R240), and the milliseconds of waits under STROKE_LOST (R227). -/
def Dev.advance (dt : Nat) (d : Dev) : Dev :=
  let d := { d with pfs := d.pfs.map (d.dueStamp dt) }
  let k := d.clk
  let rate : Int := 1000000000 + ofField 32 (d.get Fld.TIM_PPS_STAT_FREQ) + k.slew
  let acc := k.frac + dt * rate.toNat
  let n := (k.now + dt) / 2 - k.now / 2
  let d := { d with clk := { k with now := k.now + dt, cnt := (k.cnt + acc / 3000000000) % 2 ^ 64, frac := acc % 3000000000 } }
  let d := if d.clk.lost then { d with
                                              watches := d.watches.map (fun w => { w with lostT := w.lostT + dt })
                                              cmds := d.cmds.map (fun c => if c.phase = .acks ∨ c.acks = true ∨ c.waits = true then { c with lostT := c.lostT + dt } else c) } else d
  if n = 0 then d else
    let d := (d.cmds.filterMap (·.core)).foldl (Dev.coreCycles · n) d
    let d := if d.lcWait.isEmpty then d else d.bump Fld.HAL_QLC_LC_WAIT (n * d.lcWait.length)
    let full := (d.held.filter (fun h => h.entry && d.cqFull h.ring)).length
    if full = 0 then d else d.bump Fld.HAL_QLC_CQ_STALL (n * full)

/-- Local time moved on to `t` ns, or left where it is when `t` has passed. -/
def Dev.advanceTo (t : Nat) (d : Dev) : Dev := d.advance (3 * t - d.clk.now)

/-- The way of a hall offset (R108). -/
def wayOf (a : Nat) : Nat := a / 524288

/-- Bytes of the hall. -/
def hallSize : Nat := 67108864

/-- Whether an access to `n` bytes at hall offset `a` is allowed to its attribution, a tenant or the system (R109). An
offset beyond the hall is in no way of anyone. -/
def Dev.hallOk (d : Dev) (att : Option Nat) (a n : Nat) : Bool :=
  decide (a + n ≤ hallSize) && ((List.range (wayOf (a + n - 1) + 1 - wayOf a)).all fun k =>
    match att with
    | some t => d.flag Fld.HAL_WAY_TEN (wayOf a + k) && d.get Fld.HAL_WAY_TENANT (wayOf a + k) == t
    | none => !(d.flag Fld.HAL_WAY_TEN (wayOf a + k)))

/-- A refused hall access counted (R109). -/
def Dev.deny (d : Dev) : Dev := d.bump Fld.HAL_FAULT_DENY

/-- The hall word at byte offset `a` (R114). -/
def Dev.hallWord (d : Dev) (a : Nat) : Nat := d.hall.readN 8 a

/-- The uncorrectable words among the `n` bytes from hall offset `a` (R117). -/
def Dev.badWords (d : Dev) (a n : Nat) : List Nat := d.hallBad.filter fun w => decide (a < w + 8) && decide (w < a + n)

/-- Those of them that a write of the bytes does not replace whole. -/
def Dev.badPart (d : Dev) (a n : Nat) : List Nat := (d.badWords a n).filter fun w => !(decide (a ≤ w) && decide (w + 8 ≤ a + n))

/-- An access of master `m` that met uncorrectable words: each is counted and recorded (R117). -/
def Dev.meetBad (d : Dev) (m : Nat) (ws : List Nat) : Dev := ws.foldl (fun (d : Dev) w => (d.bump Fld.HAL_ECC_UNCORR).logEv evEccUncorr m w) d

/-- A plain access through the rotate path is counted: it spans words and does not start one (R116). -/
def Dev.rotated (d : Dev) (a n : Nat) : Dev := if a % 8 ≠ 0 ∧ a / 8 ≠ (a + n - 1) / 8 then d.bump Fld.HAL_ROTATE_UNALIGNED else d

/-- A read by master `m` of `n` hall bytes its attribution allows: whether it met an uncorrectable word (R116, R117). -/
def Dev.hallSees (d : Dev) (m a n : Nat) : Dev × Bool :=
  let ws := d.badWords a n
  ((d.rotated a n).meetBad m ws, !ws.isEmpty)

/-- Bytes written to the hall without any check of their way: whole words replace uncorrectable ones, a part of one is not
performed (R117). -/
def Dev.hallPut (d : Dev) (a : Nat) (bs : List Byte) : Dev :=
  let part := d.badPart a bs.length
  let hall := part.foldl (fun (h : Mem) w => h.writeBytes w (d.hall.readBytes w 8)) (d.hall.writeBytes a bs)
  let ws := d.badWords a bs.length
  ({ d with hall := hall, hallBad := d.hallBad.filter fun w => !(ws.contains w) || part.contains w } : Dev).rotated a bs.length

/-- A plain write by master `m`: whether a part of an uncorrectable word kept it from being performed there (R117). -/
def Dev.hallStore (d : Dev) (m a : Nat) (bs : List Byte) : Dev × Bool :=
  let part := d.badPart a bs.length
  ((d.hallPut a bs).meetBad m part, !part.isEmpty)

/-- The words of `n` bytes at hall offset `a` whose write `o` has lost to a lower master (R112, R113). -/
def Dev.lostWords (d : Dev) (o : HallOwner) (a n : Nat) : List Nat :=
  (d.hallLost.filter fun x => decide (x.1 = o) && decide (a < x.2 + 8) && decide (x.2 < a + n)).map (·.2)

/-- A plain write on behalf of `o`: words it has lost keep what the winner stored (R112). -/
def Dev.hallStoreFor (d : Dev) (o : HallOwner) (m a : Nat) (bs : List Byte) : Dev × Bool :=
  let ws := d.lostWords o a bs.length
  if ws.isEmpty then d.hallStore m a bs
  else
    let kept := (List.range bs.length).map fun k => if ws.any fun w => decide (w ≤ a + k) && decide (a + k < w + 8) then d.hall.read (a + k) else bs.getD k 0
    d.hallStore m a kept

/-- What `o` had lost is forgotten: its work has ended. -/
def Dev.forgetLost (d : Dev) (o : HallOwner) : Dev := { d with hallLost := d.hallLost.filter fun x => !(decide (x.1 = o)) }

/-- DRAM bytes written. -/
def Dev.dramPut (d : Dev) (a : Nat) (bs : List Byte) : Dev := { d with dram := d.dram.writeBytes a bs }

/-- A little-endian number of `n` bytes written to DRAM. -/
def Dev.dramPutN (d : Dev) (n a v : Nat) : Dev := { d with dram := d.dram.writeN n a v }

/-- A DRAM word (R8). -/
def Dev.dramWord (d : Dev) (a : Nat) : Nat := d.dram.readN 8 a

/-- Bytes of one granule. -/
def granBytes : Nat := 4096

/-- This device's node ID and epoch (R271, R340). -/
def Dev.node (d : Dev) : Nat := d.get Fld.FAB_CFG_NODE_ID
def Dev.epoch (d : Dev) : Nat := d.get Fld.FAB_EPOCH_EPOCH

/-- Pair states (R327). -/
def psSolo : Nat := 0
def psSyncing : Nat := 1
def psPaired : Nat := 2
def psDetached : Nat := 3
def psServing : Nat := 4
def psFenced : Nat := 5

def Dev.pairState (d : Dev) : Nat := d.get Fld.PAIR_STAT_STATE

/-- Whether effects wait for the twin's acknowledgement: while SYNCING or PAIRED, until a takeover ends in SERVING (R331). -/
def Dev.mirrors (d : Dev) : Bool := d.pairState == psSyncing || d.pairState == psPaired

/-- Whether changes are mirrored: while SYNCING or PAIRED, and to a spare in admission (R331, R342). -/
def Dev.sendsMirror (d : Dev) : Bool :=
  d.mirrors || (d.pairState == psServing && d.flag Fld.PAIR_ADMIT_LOADER
    && (d.get Fld.PAIR_ADMIT_ADM == 2 || d.get Fld.PAIR_ADMIT_ADM == 3))

/-- The pair state changed, with its logbook record (R352). -/
def Dev.setPairState (d : Dev) (n : Nat) : Dev :=
  if d.pairState = n then d
  else (d.logEv evPairState mPair (d.pairState * 256 + n)).put Fld.PAIR_STAT_STATE n

/-- Packet opcodes (R256). -/
def pkWrite : Nat := 0x01
def pkReadReq : Nat := 0x02
def pkReadResp : Nat := 0x03
def pkAtomic : Nat := 0x04
def pkAtomicResp : Nat := 0x05
def pkReduce : Nat := 0x06
def pkMcast : Nat := 0x07
def pkInval : Nat := 0x08
def pkCtrl : Nat := 0x10
def pkAck : Nat := 0x20
def pkNak : Nat := 0x21

/-- FLAGS bits (R254), counted from bit 48. -/
def pfCE : Nat := 1
def pfRetx : Nat := 2
def pfLast : Nat := 4
def pfWin : Nat := 8
def pfAckNow : Nat := 16

/-- The packet with nothing in it. -/
def pktBlank : Packet := ⟨1, 0, 0, 0, 0, 0, 0, 0, 0, 0, 0, 0, 0, 0, 0, 0, 0, 0, 0, 0, 0, 0, [], 0, 0⟩

/-- The packets of an operation's payload: 4,096 bytes each, from `raddr` up (R261). -/
def splitPayload (opc raddr flags key window aux : Nat) (payload : List Byte) : List Packet :=
  let n := max 1 (ceilDiv payload.length 4096)
  (List.range n).map fun k =>
    let body := slice payload (4096 * k) 4096
    { pktBlank with
      opc := BitVec.ofNat 6 opc, flags := BitVec.ofNat 6 (flags + if k + 1 = n then pfLast else 0), raddr := BitVec.ofNat 64 (raddr + 4096 * k),
      key := BitVec.ofNat 32 key, window := BitVec.ofNat 16 window, len := BitVec.ofNat 13 body.length, pkt := BitVec.ofNat 18 k,
      pktsM1 := BitVec.ofNat 18 (n - 1), aux := BitVec.ofNat 32 aux, payload := body }

/-- The reserved queue pair that a message travels on (R258): the mover's, the pairing unit's or Cox's lowest (log entry 16). -/
def pairOf (m : Ctrl) : Nat :=
  match m with
  | .rsvReq _ | .rsvGrant _ | .rsvNak _ _ _ | .page _ | .pageAck _ _ _ | .commit _ | .commitAck _ _ | .commitUnknown _ | .abort _
  | .abortAck _ | .xferHold _ => 0
  | .mirror _ | .mirrorAck _ _ _ | .mirrorGrant _ | .mirrorNak _ | .heartbeat | .notice _ _ => 8
  | .adpAck _ _ | .load _ _ _ _ _ _ | .proxy _ _ _ _ | .hostReq _ => 12

/-- A message to a node formed as CTRL packets of its reserved pair, for the same pair there, under the identity `src` (R256, R258,
R434). A device whose epoch is 0 sends nothing (R340). -/
def Dev.ctrlAs (d : Dev) (node src : Nat) (m : Ctrl) : Dev :=
  if d.epoch = 0 then d
  else
    let q := pairOf m
    let body := Config.ctrlBytes m
    let pkts := splitPayload pkCtrl 0 0 0 0 0 (padTo (ceilDiv body.length 8 * 8) body)
    { d with spray := d.spray ++ pkts.map fun p =>
        ⟨{ p with dstNode := BitVec.ofNat 16 node, srcNode := BitVec.ofNat 16 src, dstQp := BitVec.ofNat 16 q, srcQp := BitVec.ofNat 16 q },
         q, node, true, 256, d.clk.cnt, false⟩ }

/-- A message sent under the device's own identity. -/
def Dev.ctrl (d : Dev) (node : Nat) (m : Ctrl) : Dev := d.ctrlAs node d.node m

/-- A member's request of the host, which travels to its head (R393, R396); a device that is no member has the host itself. -/
def Dev.toHead (d : Dev) (r : MemberReq) : Dev :=
  match d.cox.proxyNodes with
  | [] => d
  | h :: _ => d.ctrl h (.hostReq r)

/-- MSI-X vector `v` of function `fn` raised; of a member, the head raises it, but for vectors of 32 and above, which are never
delivered (R396). -/
def Dev.raise (d : Dev) (fn v : Nat) : Dev :=
  if d.cox.proxyNodes.isEmpty then d.emit (.msix fn v) else if v < 32 then d.toHead (.msix (BitVec.ofNat 16 v)) else d

/-- Host memory written through a function, unless a function-level reset holds its writes back (R392); a member's write travels to
its head (R396). -/
def Dev.hostPut (d : Dev) (fn a : Nat) (bs : List Byte) : Dev :=
  if fn ∈ d.muted then d else ({ d with host := d.host.writeBytes a bs } : Dev).toHead (.write (BitVec.ofNat 64 a) bs)

/-- Whether `src` names the node this device serves beside its own (R336). -/
def Dev.serves (d : Dev) (n : Nat) : Bool := (d.pair.taking || d.pairState == psServing) && d.get Fld.PAIR_STAT_SERVED == n

/-- An answer to a message addressed to `dst`: under the served identity when that is what was addressed (R336). -/
def Dev.answer (d : Dev) (node dst : Nat) (m : Ctrl) : Dev :=
  if d.serves dst then d.ctrlAs node dst m else d.ctrl node m

/-- Entries of the operation table (R261). -/
def opTableSize : Nat := 16384

/-- Those in use: mirror messages are operations, in use until they are acknowledged (R332). -/
def Dev.opsUsed (d : Dev) : Nat := d.ops.length + (d.pair.unacked.length - d.pair.unsent)

/-- Whether the handover of an admission is due on the loader (R345): commands that name a returned sequence are refused. -/
def Dev.handing (d : Dev) : Bool :=
  d.get Fld.PAIR_ADMIT_ADM == 3 && !d.pair.missed && d.firing && decide (0 ≤ modDiff 32 d.stroke32 (d.get Fld.PAIR_ADMIT_STROKE))

/-- Whether this device is a spare that is not admitted, one that failed its test among them (R342, R343). -/
def Dev.spare (d : Dev) : Bool := !(d.flag Fld.PAIR_ADMIT_LOADER) && d.get Fld.PAIR_ADMIT_ADM != 0 && d.get Fld.PAIR_ADMIT_ADM != 4

/-- Whether the device exchanges packets with a node on a queue pair: a spare only on pairs 8 to 15, and only with the loader (R343). -/
def Dev.takesPart (d : Dev) (q node : Nat) : Bool := !d.spare || (decide (8 ≤ q) && decide (q < 16) && node == d.pair.loadNode)

/-- Whether every change of record `i` is mirrored, whatever its class: a record held for the served node while its spare is
loaded (R342). -/
def Dev.loads (d : Dev) (i : Nat) : Bool := d.pairState == psServing && d.pair.returned.contains i

/-- The node that mirror messages go to and come from: the spare or the loader during an admission, else the twin. -/
def Dev.mirrorNode (d : Dev) : Nat :=
  if d.pairState = psServing ∨ d.pairState = psSolo then d.pair.loadNode else d.get Fld.PAIR_CFG_TWIN

/-- A mirror message sent (R331, R332): numbered, kept until acknowledged; one that finds the operation table full waits for
room behind those that wait already, and while the epoch is 0 nothing is sent (R340). -/
def Dev.mirrorMsg (d : Dev) (objs : List MirrorObj) : Dev :=
  let m : MirrorMsg := ⟨BitVec.ofNat 64 d.pair.next, objs⟩
  let full := decide (0 < d.pair.unsent) || decide (opTableSize ≤ d.opsUsed) || d.epoch == 0
  let unsent := if full then d.pair.unsent + 1 else 0
  let waitAt := if full then d.pair.waitAt ++ [if d.epoch = 0 then none else some d.ns] else []
  let d := { d with pair := { d.pair with next := d.pair.next + 1, unacked := d.pair.unacked ++ [m], unsent := unsent, waitAt := waitAt,
                                          sentSince := d.pair.sentSince || !full } }
  if full then d else d.ctrl d.mirrorNode (.mirror m)

/-- Messages that waited for room in the operation table sent, oldest first, as far as it admits them; each wait is counted (R207, R332). -/
def Dev.sendWaiting : Nat → Dev → Dev
  | 0, d => d
  | n + 1, d =>
    if d.pair.unsent = 0 ∨ d.epoch = 0 ∨ opTableSize ≤ d.opsUsed then d
    else
      match d.pair.unacked[d.pair.unacked.length - d.pair.unsent]? with
      | none => d
      | some m =>
        let d := match d.pair.waitAt.headD none with
          | some t => d.stall csFabCredit ((d.ns - t) / 1000)
          | none => d
        let d := { d with pair := { d.pair with unsent := d.pair.unsent - 1, waitAt := d.pair.waitAt.tail, sentSince := true } }
        Dev.sendWaiting n (d.ctrl d.mirrorNode (.mirror m))

/-- Changes mirrored in one message (R328, R331). -/
def Dev.mirror (d : Dev) (objs : List MirrorObj) : Dev := if objs.isEmpty || !d.sendsMirror then d else d.mirrorMsg objs

/-- The mirror number that covers what was mirrored since `n0` was the next number; 0 when nothing was (R331). -/
def Dev.needSince (n0 : Nat) (d : Dev) : Nat := if d.pair.next = n0 then 0 else d.pair.next - 1

end Sys2Proof.Machine
end

