-- ==== Sys2Proof/Machine/Cores.lean ====
section
/-! DEFINITION. Machine/Cores.lean: the parts of a core that its kernels use: the vector unit's operations (R101, R103), the
operand expanders (R77, R84, R86), FP8 operation (R95, R96), the scratchpad's banks (R104) and the boat buffer's arbiter (R105).
No row of the opcode table issues one of them alone: Machine/Attention.lean composes what R135 uses. -/

namespace Sys2Proof.Machine

/-! ## The vector unit (R101) -/

/-- The lanes of the vector unit. -/
def lanes : Nat := 64

/-- Lane operations of three FP32 or 32-bit integer operands; one that takes fewer ignores the rest. -/
inductive VecOp where
  | add | sub | mul | fma | abs | neg
  | min | max
  | exp2 | rcp
  | toBf16 | fromBf16 | toInt | fromInt
  | iadd | isub | iand | ior | ixor | shl | shr | sar
deriving DecidableEq, Repr

/-- Lane comparisons; `eq16` and `lt16` compare 16-bit segment numbers. -/
inductive VecCmp where
  | eq | lt | le | unordered | eq16 | lt16
deriving DecidableEq, Repr

/-- An FP32 code with its sign set as `neg` says; a NaN is the one NaN of R101. -/
def signed32 (neg : Bool) (x : Nat) : Nat := if (dec32 x).isNan then nan32 else x % 2 ^ 31 + (if neg then 2 ^ 31 else 0)

def abs32 (x : Nat) : Nat := signed32 false x
def negate32 (x : Nat) : Nat := signed32 (!(bit x 31)) x
def min32 (a b : Nat) : Nat := enc32 (fmin (dec32 a) (dec32 b))

/-- `m × 2^e` rounded to an integer, nearest with ties to even. -/
def roundInt (m : Nat) (e : Int) : Nat :=
  if 0 ≤ e then m * 2 ^ e.toNat
  else
    let k := (-e).toNat
    let q := m / 2 ^ k
    let r := 2 * (m % 2 ^ k)
    if 2 ^ k < r ∨ (r = 2 ^ k ∧ q % 2 = 1) then q + 1 else q

/-- FP32 to a signed 32-bit integer, to nearest even. What a NaN, an infinity or a value outside the range gives is not stated: a
free value of the operand (log entry 189). -/
def toInt32 (x : Nat) : Nat :=
  match dec32 x with
  | .fin neg m e =>
    let n : Int := if neg then -((roundInt m e : Nat) : Int) else ((roundInt m e : Nat) : Int)
    if -2147483648 ≤ n ∧ n ≤ 2147483647 then (n % 4294967296).toNat else (Config.vecOpen 0 x 0).toNat
  | _ => (Config.vecOpen 0 x 0).toNat

/-- A signed 32-bit integer to FP32. -/
def fromInt32 (x : Nat) : Nat := enc32 (if bit x 31 then .fin true (2 ^ 32 - x % 2 ^ 32) 0 else .fin false (x % 2 ^ 32) 0)

/-- A shift; by 32 or more its result is not stated: a free value of the operands (log entry 189). -/
def shift32 (kind : Nat) (f : Nat → Nat) (x n : Nat) : Nat := if n < 32 then f n % 2 ^ 32 else (Config.vecOpen kind x n).toNat

/-- One lane of a vector operation. -/
def vecLane (op : VecOp) (a b c : Nat) : Nat :=
  match op with
  | .add => add32 a b
  | .sub => sub32 a b
  | .mul => mul32 a b
  | .fma => fma32 a b c
  | .abs => abs32 a
  | .neg => negate32 a
  | .min => min32 a b
  | .max => max32 a b
  | .exp2 => exp2_32 a
  | .rcp => rcp32 a
  | .toBf16 => encBf16 (dec32 a)
  | .fromBf16 => enc32 (decBf16 a)
  | .toInt => toInt32 a
  | .fromInt => fromInt32 a
  | .iadd => (a + b) % 2 ^ 32
  | .isub => subMod 32 a b
  | .iand => a &&& b
  | .ior => a ||| b
  | .ixor => a ^^^ b
  | .shl => shift32 1 (fun n => a <<< n) a b
  | .shr => shift32 2 (fun n => a >>> n) a b
  | .sar => shift32 3 (fun n => a >>> n + (if bit a 31 then 2 ^ 32 - 2 ^ (32 - n) else 0)) a b

/-- One lane of a comparison. -/
def cmpLane (op : VecCmp) (a b : Nat) : Bool :=
  match op with
  | .eq => feq (dec32 a) (dec32 b)
  | .lt => flt (dec32 a) (dec32 b)
  | .le => fle (dec32 a) (dec32 b)
  | .unordered => (dec32 a).isNan || (dec32 b).isNan
  | .eq16 => a % 65536 == b % 65536
  | .lt16 => decide (a % 65536 < b % 65536)

/-- An operation, a comparison and a selection over all lanes. -/
def vecOp (op : VecOp) (a b c : List Nat) : List Nat := (List.range lanes).map fun k => vecLane op (a.getD k 0) (b.getD k 0) (c.getD k 0)
def vecCmp (op : VecCmp) (a b : List Nat) : List Bool := (List.range lanes).map fun k => cmpLane op (a.getD k 0) (b.getD k 0)
def vecSelect (mask : List Bool) (a b : List Nat) : List Nat :=
  (List.range lanes).map fun k => if mask.getD k false then a.getD k 0 else b.getD k 0

/-- The max reduction (R103): NaN when any lane is NaN. -/
def maxLanes (a : List Nat) : Nat := ((List.range (lanes - 1)).map fun k => a.getD (k + 1) 0).foldl max32 (enc32 (dec32 (a.getD 0 0)))

/-- `VQBLK` (R74, R101): 32 FP32 lanes to one Z8 block, its scale byte and bytes. -/
def vqblk (x : List Nat) : Nat × List Byte :=
  let e := encodeBlock fmtE4M3 ((List.range 32).map fun k => dec32 (x.getD k 0))
  (e.1, packBlock fmtE4M3 e.2)

/-! ## Operand expanders and FP8 operation -/

/-- What an expander reads: a block of a Z mode, or a sparse block of 12 or 28 slots (R86). -/
inductive BlockForm where
  | z (mode : Nat)
  | s12
  | s28
deriving DecidableEq, Repr

/-- The split form that an operand expander delivers (R77): a malformed sparse block gives 32 zeros (R84), which the flag says. -/
def expandOperand (f : BlockForm) (bs : List Byte) : List FVal × Bool :=
  let sparse (k : Nat) : List FVal × Bool := match decodeSparse k bs with
    | some x => (x, false)
    | none => (List.replicate 32 (.fin false 0 0), true)
  match f with
  | .z mode => (splitBlock mode bs, false)
  | .s12 => sparse 12
  | .s28 => sparse 28

/-- Whether a value is exactly representable in E4M3 (R96); NaN is a code of it. -/
def exactE4M3 (v : FVal) : Bool := v.isNan || feq (decElem fmtE4M3 (encElem fmtE4M3 v)) v

/-- FP8 `DOT` (R95, R96): any other value gives the result of the BF16 mode, which the flag says (`ATT_CORE_ERR.MISFMT`). -/
def dotFp8 (a : List FVal) (sa : Nat) (b : List FVal) (sb acc : Nat) : Nat × Bool := (dotBlock a sa b sb acc, !((a ++ b).all exactE4M3))

/-- FP8 `OUTER` (R95, R96, R99). -/
def outerFp8 (v : List FVal) (sv : Nat) (q : FVal) (sq : Nat) (acc : List Nat) : List Nat × Bool :=
  (outerBlock v sv q sq acc, !((q :: v).all exactE4M3))

/-! ## The scratchpad (R104) -/

/-- Who uses a core's scratchpad, in the order in which it serves them. -/
inductive PadUser where
  | vector | matrix | fetcher
deriving DecidableEq, Repr

/-- The rank of a user. -/
def PadUser.rank : PadUser → Nat
  | .vector => 0
  | .matrix => 1
  | .fetcher => 2

/-- A write of one 8-byte word. -/
structure PadWrite where
  user : PadUser
  word : Nat
  data : Nat
deriving DecidableEq, Repr

/-- Words of a scratchpad, and the bank of one. -/
def padWords : Nat := 32768
def padBank (w : Nat) : Nat := w % 32

/-- The cycles of an access (R104): the most of its words that fall in one bank. -/
def padCycles (ws : List Nat) : Nat := ((List.range 32).map fun b => (ws.filter fun w => padBank w == b).length).foldl max 0

/-- The writes of one cycle that are kept: of those that reach one word, the first in the order of service. -/
def padKept (ws : List PadWrite) : List PadWrite :=
  (sortBy (fun (a b : PadWrite) => decide (a.user.rank < b.user.rank)) ws).foldl (fun acc w => if acc.any (·.word == w.word) then acc else acc ++ [w]) []

/-- The writes of one cycle to the scratchpad of a core, whose storage lies at `base` of the cores' memory. -/
def padCycle (m : Mem) (base : Nat) (ws : List PadWrite) : Mem :=
  (padKept ws).foldl (fun m w => m.writeN 8 (base + 8 * (w.word % padWords)) w.data) m

/-! ## The boat buffer (R105) -/

/-- A request of a master for one 32-byte word of a boat buffer. -/
structure BoatReq where
  master : Nat
  word   : Nat
  write  : Bool
  be     : BitVec 32
  data   : List Byte
  age    : Nat
deriving DecidableEq, Repr

/-- Masters of a boat buffer: its fetcher, and its cores. -/
def boatFetcher : Nat := 0
def boatCore (k : Nat) : Nat := k + 1

/-- The bank of a word, and the bytes of the buffer of one boat. -/
def boatBank (w : Nat) : Nat := w % 64
def boatBytes : Nat := 4194304

/-- The word that a write would leave (R112). -/
def boatMerge (old : List Byte) (r : BoatReq) : List Byte :=
  (List.range 32).map fun k => if bit r.be.toNat k then r.data.getD k 0 else old.getD k 0

/-- The request that a bank grants: aged before others, then the lowest master (R111). -/
def boatPick (age : Nat) (reqs : List BoatReq) : Option BoatReq :=
  let least (l : List BoatReq) : Option BoatReq := (sortBy (fun (a b : BoatReq) => decide (a.master < b.master)) l).head?
  (least (reqs.filter fun r => decide (age ≤ r.age))).orElse fun _ => least reqs

/-- One cycle of one bank of the boat buffer at `base` (R111 to R114): the memory, each served master's status with what a read
returns, and the requests that stall. -/
def boatCycle (m : Mem) (base age : Nat) (reqs : List BoatReq) : Mem × List (Nat × Nat × List Byte) × List BoatReq :=
  match boatPick age reqs with
  | none => (m, [], [])
  | some r =>
    let a := base + 32 * r.word
    let old := m.readBytes a 32
    let served := if r.write then
        sortBy (fun (x y : BoatReq) => decide (x.master < y.master)) (reqs.filter fun q => q.write && q.word == r.word)
      else [r]
    let rest := (served.foldl List.erase reqs).map fun (q : BoatReq) => { q with age := q.age + 1 }
    if !r.write then (m, [(r.master, stOK, old)], rest)
    else
      let words := served.map (boatMerge old)
      let w := words.headD old
      let same := words.all (· == w)
      (m.writeBytes a w, ((List.range served.length).zip served).map fun kq => (kq.2.master, if kq.1 = 0 ∨ same then stOK else stWriteLost, []), rest)

end Sys2Proof.Machine
end

