-- ==== Sys2Proof/Machine/Operands.lean ====
section
/-! DEFINITION. Machine/Operands.lean: the fields of a 64-byte command entry (R68, R128, R211, R219, R224, R230 and the
command tables of chapters 6, 7, 11 and 14), and which engine executes which opcode. -/

namespace Sys2Proof.Machine

/-- An entry as its 64 bytes. -/
abbrev Entry := List Byte

/-- The unsigned field of `n` bytes at byte `o` (R8). -/
def fld (e : Entry) (o n : Nat) : Nat := ofBytes (slice e o n)

def u8 (e : Entry) (o : Nat) : Nat := fld e o 1
def u16 (e : Entry) (o : Nat) : Nat := fld e o 2
def u32 (e : Entry) (o : Nat) : Nat := fld e o 4
def u64 (e : Entry) (o : Nat) : Nat := fld e o 8

/-- The common header (R219). -/
def opOf (e : Entry) : Nat := u8 e 0
def isLast (e : Entry) : Bool := bit (u8 e 1) 0
def noCmpl (e : Entry) : Bool := bit (u8 e 1) 1
def wantsIrq (e : Entry) : Bool := bit (u8 e 1) 2
def tagOf (e : Entry) : Nat := u64 e 8

/-- Opcodes (R68, R128, R211, R220, R334 and the tables of chapters 6, 7 and 11). -/
def opNop : Nat := 0x00
def opWait : Nat := 0x01
def opSignal : Nat := 0x02
def opSeqCreate : Nat := 0x10
def opSeqRelease : Nat := 0x11
def opKvTransfer : Nat := 0x12
def opPrefetch : Nat := 0x13
def opDemote : Nat := 0x14
def opVmMap : Nat := 0x15
def opVmUnmap : Nat := 0x16
def opWinOpen : Nat := 0x17
def opWinRevoke : Nat := 0x18
def opRmOp : Nat := 0x19
def opRmCtl : Nat := 0x1A
def opSeqHot : Nat := 0x1B
def opPrefixLookup : Nat := 0x20
def opPrefixInsert : Nat := 0x21
def opRetrSelect : Nat := 0x22
def opAttnMerge : Nat := 0x30
def opAttnStep : Nat := 0x31
def opSample : Nat := 0x40
def opSampSet : Nat := 0x41
def opLoraApply : Nat := 0x50
def opWstream : Nat := 0x51
def opAdpLoad : Nat := 0x52
def opAdpUnload : Nat := 0x53
def opAdpBind : Nat := 0x54

/-- The engine that executes an opcode (R68, R128, R220 and the tables of chapters 6, 7, 8, 11 and 14); none for the queue
commands and the reserved opcodes. -/
def engineOf (op : Nat) : Option Nat :=
  if 0x10 ≤ op ∧ op ≤ 0x1B then some engMover
  else if 0x20 ≤ op ∧ op ≤ 0x22 then some engIndex
  else if op = 0x30 ∨ op = 0x31 then some engAttn
  else if op = 0x40 ∨ op = 0x41 then some engSampler
  else if 0x50 ≤ op ∧ op ≤ 0x54 then some engAdapter
  else none

/-- The byte offset of the handle a command names, when it names one sequence. -/
def handleAt (op : Nat) : Option Nat :=
  if op = opSeqRelease ∨ op = opKvTransfer ∨ op = opPrefetch ∨ op = opDemote ∨ op = opSeqHot ∨ op = opPrefixLookup
    ∨ op = opPrefixInsert ∨ op = opSampSet ∨ op = opAdpBind then some 16 else none

/-- The index and generation of a handle (R31). -/
def hIndex (h : Nat) : Nat := h % 32768
def hGen (h : Nat) : Nat := h / 32768 % 131072

/-- The handle of an index and generation. -/
def mkHandle (i g : Nat) : Nat := g * 32768 + i

end Sys2Proof.Machine
end

