-- ==== Sys2Proof/Machine/Rings.lean ====
section
/-! DEFINITION. Machine/Rings.lean: ring contexts, pushes and pops, completions and their holding, waits on sync words, and
the commands an engine has popped (chapter 9). -/

namespace Sys2Proof.Machine

/-- Ring states (R238). -/
def rsOff : Nat := 0
def rsRun : Nat := 1
def rsWait : Nat := 2
def rsStopped : Nat := 3

def Dev.ringState (d : Dev) (r : Nat) : Nat := d.get Fld.QUE_STAT_STATE r
def Dev.ringPI (d : Dev) (r : Nat) : Nat := d.get Fld.QUE_IDX_PI r
def Dev.ringCI (d : Dev) (r : Nat) : Nat := d.get Fld.QUE_IDX_CI r
def Dev.ringSize (d : Dev) (r : Nat) : Nat := 2 ^ d.get Fld.QUE_SETUP_SIZE_LOG2 r
def Dev.ringTenant (d : Dev) (r : Nat) : Nat := d.get Fld.QUE_SETUP_TENANT r
def Dev.ringFunc (d : Dev) (r : Nat) : Nat := d.get Fld.QUE_SETUP_FUNC r
def Dev.ringEngine (d : Dev) (r : Nat) : Nat := d.get Fld.QUE_SETUP_ENGINE r

/-- The depth of a ring (R213). -/
def Dev.depth (d : Dev) (r : Nat) : Nat := subMod 32 (d.ringPI r) (d.ringCI r)

/-- The DRAM address of the slot of index `i` (R213). -/
def Dev.slotAddr (d : Dev) (r i : Nat) : Nat := d.get Fld.QUE_BODY_GRAN r * granBytes + i % d.ringSize r * 64

/-- The entry of index `i`. -/
def Dev.entryAt (d : Dev) (r i : Nat) : Entry := d.dram.readBytes (d.slotAddr r i) 64

/-- The head entry of a ring. -/
def Dev.head (d : Dev) (r : Nat) : Entry := d.entryAt r (d.ringCI r)

/-- The ring's MSI-X vector raised (R239). -/
def Dev.ringIrq (d : Dev) (r : Nat) : Dev := if d.ringFunc r ∈ d.muted then d else d.raise (d.ringFunc r) (d.get Fld.QUE_SETUP_MSIX r)

/-- A sticky error bit of a ring set, with its interrupt (R239). -/
def Dev.ringErr (d : Dev) (f : Fld) (r : Nat) : Dev :=
  let d := d.put f 1 r
  if d.flag Fld.QUE_SETUP_IRQ_ERR r then d.ringIrq r else d

/-- A malformed or refused push or control write (R216, R217, R238). -/
def Dev.badPush (d : Dev) (r n : Nat) : Dev := (d.bump Fld.QUE_STAT_DROPPED n r).ringErr Fld.QUE_STAT_BADPUSH r

/-- One entry written at `PI` (R214), with the full event (R215). -/
def Dev.pushOne (r : Nat) (d : Dev) (e : Entry) : Dev :=
  let d := d.dramPut (d.slotAddr r (d.ringPI r)) e
  let d := d.put Fld.QUE_IDX_PI (d.ringPI r + 1) r
  if d.depth r = d.ringSize r ∧ d.flag Fld.QUE_SETUP_IRQ_FULL r then d.ringIrq r else d

/-- What happens to a ring in a cycle in which one of its events is not raised: its interrupt is masked meanwhile (R215). -/
def Dev.without (d : Dev) (irq : Fld) (r : Nat) (act : Dev → Dev) : Dev := (act (d.put irq 0 r)).put irq (d.get irq r) r

/-- The head entry taken off (R214), with the EMPTY event (R215). -/
def Dev.pop (d : Dev) (r : Nat) : Dev :=
  let d := d.put Fld.QUE_IDX_CI (d.ringCI r + 1) r
  if d.depth r = 0 ∧ d.flag Fld.QUE_SETUP_IRQ_EMPTY r then d.ringIrq r else d

/-- The mirror message of a ring's indices (R328), sent at every completion write. -/
def Dev.mirrorRing (d : Dev) (r : Nat) : Dev :=
  d.mirror [.ring (BitVec.ofNat 16 r) (BitVec.ofNat 32 (d.ringPI r)) (BitVec.ofNat 32 (d.ringCI r))
    (BitVec.ofNat 32 (d.get Fld.QUE_CQIDX_CQ_PI r))]

/-- The 32 bytes of a completion entry (R221); a result wider than 32 bits holds at its largest value. -/
def cplBytes (index ring status phase tag : Nat) (res : List Nat) : List Byte :=
  toBytes 4 index ++ toBytes 2 ring ++ toBytes 1 status ++ toBytes 1 phase ++ toBytes 8 tag
    ++ ((List.range 4).flatMap fun k => toBytes 4 (min 0xFFFFFFFF (res.getD k 0)))

/-- A completion entry written at `CQ_PI` (R222): to the host through the ring's function, or to the hall in the tenant's ways. -/
def Dev.writeCpl (d : Dev) (h : HeldCpl) : Dev :=
  let r := h.ring
  let c := d.get Fld.QUE_CQIDX_CQ_PI r
  let n := d.get Fld.QUE_SETUP_CQ_LOG2 r
  let a := d.get Fld.QUE_CQ_ADDR r + 32 * (c % 2 ^ n)
  let bs := cplBytes h.index r h.status (if bit c n then 0 else 1) h.tag h.res
  let d := if d.flag Fld.QUE_SETUP_CQ_HALL r then
      (if d.hallOk (some (d.ringTenant r)) a 32 then d.hallPut a bs else d.deny)
    else d.hostPut (d.ringFunc r) a bs
  (d.put Fld.QUE_CQIDX_CQ_PI (c + 1) r).mirrorRing r

/-- Whether a completion may become visible now: its mirrored changes acknowledged (R331), nothing at all when FENCED
(R341), and room for its entry (R222). -/
def Dev.cplReady (d : Dev) (h : HeldCpl) : Bool :=
  !(d.pairState == psFenced) && (!d.mirrors || decide (h.need ≤ d.pair.acked)) && (!h.entry || !d.cqFull h.ring)

/-- The first completion that may be written: ready, and the oldest of its ring (R222). -/
def Dev.nextCpl (d : Dev) : Option HeldCpl :=
  d.held.find? fun h => d.cplReady h && decide (d.held.find? (fun k => k.ring == h.ring) = some h)

/-- Every completion that can become visible does, in the order in which commands ended; its vector follows it (R432). -/
def Dev.flushHeld : Nat → Dev → Dev
  | 0, d => d
  | n + 1, d =>
    match d.nextCpl with
    | none => d
    | some h =>
      let d := { d with held := d.held.erase h }
      let d := if h.entry then d.writeCpl h else d
      Dev.flushHeld n (if h.irq then d.ringIrq h.ring else d)

/-- All held completions tried (R222, R331). -/
def Dev.release (d : Dev) : Dev := d.flushHeld d.held.length

/-- A command's end reported (R221 to R223, R432): an entry unless it ended OK with NOCMPL; the vector when IRQ is set.
`need` is the mirror number that must be acknowledged first (R331). -/
def Dev.complete (d : Dev) (r index : Nat) (e : Entry) (status : Nat) (res : List Nat) (need : Nat) : Dev :=
  let d := if status = stWaitTimeout then d.bump Fld.HAL_QSTAT_TIMEOUTS else d
  let entry := decide (status ≠ stOK) || !(noCmpl e)
  if !entry && !(wantsIrq e) then d
  else Dev.release { d with held := d.held ++ [⟨r, index, status, tagOf e, res, entry, wantsIrq e, need⟩] }

/-- The head popped and ended at once, by the queue manager or for want of an engine (R220, R228). -/
def Dev.popEnd (d : Dev) (r status : Nat) (res : List Nat) : Dev :=
  let i := d.ringCI r
  let e := d.head r
  (({ d with lcWait := d.lcWait.filter (fun x => x != (r, i)), retr := d.retr.filter (fun w => !(w.ring == r && w.index == i)) } : Dev).pop r).complete
    r i e status res 0

/-- Entries of an ended list popped without execution, each completing ABORTED, up to and including its LAST entry
(R228). A list whose LAST entry has not been pushed yet goes on ending as entries arrive. -/
def Dev.dropList (r : Nat) : Nat → Dev → Dev
  | 0, d => d
  | n + 1, d =>
    if r ∉ d.aborting ∨ d.depth r = 0 then d
    else
      let last := isLast (d.head r)
      let d := d.popEnd r stAborted []
      Dev.dropList r n (if last then { d with aborting := d.aborting.filter (· ≠ r) } else d)

/-- A WAIT's watch taken out of the monitor. -/
def Dev.unwatch (d : Dev) (r : Nat) : Dev := { d with watches := d.watches.filter (·.ring ≠ r) }

/-- The end of the WAIT at the head of ring `r` (R225, R228): popped, its watch released; a status other than OK ends the
command list. -/
def Dev.endWait (d : Dev) (r status : Nat) (res : List Nat) : Dev :=
  let last := isLast (d.head r)
  let d := (d.unwatch r).put Fld.QUE_STAT_STATE rsRun r
  let d := if status = stWaitTimeout then d.ringErr Fld.QUE_STAT_WDOG r else d
  let d := d.popEnd r status res
  if status = stOK ∨ last then d
  else
    let d := { d with aborting := insertNat r d.aborting }
    d.dropList r (d.depth r)

/-- The condition of a WAIT on a word (R224); none for a reserved COND. -/
def waitHolds (e : Entry) (w : Nat) : Option Bool :=
  let v := u64 e 24
  let c := u8 e 20
  if c = 0 then some (w == v) else if c = 1 then some (!(w == v))
  else if c = 2 then some (decide (subMod 64 w v < 2 ^ 63))
  else if c = 3 then some ((w &&& u64 e 32) == v) else none

/-- The word value as RES0 and RES1 (R225, R230). -/
def halves (w : Nat) : List Nat := [w % 2 ^ 32, w / 2 ^ 32 % 2 ^ 32]

/-- The first armed WAIT whose condition holds, in ring order of arming. -/
def Dev.satisfied (d : Dev) : Option Watch :=
  d.watches.find? fun w => !w.polled && waitHolds (d.head w.ring) (d.hallWord w.addr) == some true

/-- Every watched word looked at again after bank write events (R115, R225). -/
def Dev.settleN : Nat → Dev → Dev
  | 0, d => d
  | n + 1, d =>
    match d.satisfied with
    | none => d
    | some w => Dev.settleN n (d.endWait w.ring stOK (halves (d.hallWord w.addr)))

/-- The monitor's work after a command that wrote the hall. -/
def Dev.settle (d : Dev) : Dev := d.settleN d.watches.length

/-- Watches of the monitor in use (R226). -/
def Dev.armed (d : Dev) : Nat := (d.watches.filter (fun w => !w.polled)).length

/-- The WAIT at the head of ring `r` armed (R225, R226, R228): a malformed one, one outside the tenant's ways or one whose word is
uncorrectable (R117; log entry 174) ends at once, one whose word already satisfies it ends with that word, any other blocks its ring. -/
def Dev.armWait (d : Dev) (r : Nat) : Dev :=
  let e := d.head r
  let a := u32 e 16
  if a % 8 ≠ 0 ∨ waitHolds e 0 = none then d.endWait r stAborted []
  else if !(d.hallOk (some (d.ringTenant r)) a 8) then d.deny.endWait r stTenantMismatch []
  else if !(d.badWords a 8).isEmpty then (d.meetBad mQueue (d.badWords a 8)).endWait r stCrcFault []
  else if waitHolds e (d.hallWord a) = some true then
    (if d.armed < 16384 then d else d.bump Fld.HAL_QMON_POLLED).endWait r stOK (halves (d.hallWord a))
  else
    let polled := decide (16384 ≤ d.armed)
    let d := if polled then d.bump Fld.HAL_QMON_POLLED else d
    let d := { d with watches := d.watches ++ [(⟨r, a, polled, d.clk.now, 0, 0⟩ : Watch)] }
    d.put Fld.QUE_STAT_STATE rsWait r

/-- The watchdog limits of a wait (R227): its own, then the ring's, then the device's; 0 in all three never applies. -/
def Dev.wdStrokes (d : Dev) (own r : Nat) : Nat :=
  if own ≠ 0 then own else if d.get Fld.QUE_SETUP_WD_STROKES r ≠ 0 then d.get Fld.QUE_SETUP_WD_STROKES r
  else d.get Fld.HAL_QCFG_WD_STROKES
def Dev.wdMs (d : Dev) (own r : Nat) : Nat :=
  if own ≠ 0 then own else if d.get Fld.QUE_SYNC_WD_MS r ≠ 0 then d.get Fld.QUE_SYNC_WD_MS r
  else d.get Fld.HAL_QCFG_WD_MS

/-- Whether a wait on ring `r` that counted `strokes` catches and `lostT` thirds of a nanosecond has run out (R227). -/
def Dev.expired (d : Dev) (ownS ownM r strokes lostT : Nat) : Bool :=
  let s := d.wdStrokes ownS r
  let m := d.wdMs ownM r
  (decide (s ≠ 0) && decide (s ≤ strokes)) || (decide (m ≠ 0) && decide (m * 3000000 ≤ lostT))

/-- Whether the ring has a running command of this index; commands are named as their completions name them (R221). -/
def Dev.cmd (d : Dev) (r i : Nat) : Option RunCmd := d.cmds.find? fun c => c.ring == r && c.index == i

/-- The command a row names. -/
def Dev.cmdOf (d : Dev) (c : CmdId) : Option RunCmd := d.cmd c.ring.toNat c.index.toNat

/-- The command a row names, when it stands in the phase and has the opcode the row acts on. -/
def Dev.cmdAs (d : Dev) (c : CmdId) (op : Nat) (ph : Phase) : Option RunCmd :=
  (d.cmdOf c).filter fun k => opOf k.entry == op && decide (k.phase = ph)

/-- One command changed in place. -/
def Dev.setCmd (d : Dev) (k : RunCmd) : Dev :=
  { d with cmds := d.cmds.map fun c => if c.ring = k.ring ∧ c.index = k.index then k else c }

/-- One command changed in place but for what the rows of its accesses keep: its waits, and what it has sent or loaded already. -/
def Dev.setAt (d : Dev) (k : RunCmd) : Dev :=
  match d.cmd k.ring k.index with
  | some c => d.setCmd { k with stalled := c.stalled, sent := c.sent, loads := c.loads, missed := c.missed }
  | none => d

/-- A running command waits for the fabric: its watchdog counts from the first such wait on (R228). -/
def Dev.markWait (d : Dev) (k : RunCmd) : Dev :=
  { d with cmds := d.cmds.map fun c =>
      if c.ring = k.ring ∧ c.index = k.index ∧ c.waits = false then { c with waits := true, strokes := 0, lostT := 0 } else c }

/-- A command's wait under a stall cause begins, unless it waits already (R207). -/
def Dev.stallOn (d : Dev) (c : Nat × Nat) (cause : Nat) : Dev :=
  { d with cmds := d.cmds.map fun k =>
      if k.ring = c.1 ∧ k.index = c.2 ∧ k.stalled = none then { k with stalled := some (cause, d.ns) } else k }

/-- The wait of a command is over: it is counted with the microseconds it lasted (R207). -/
def Dev.wentOn (d : Dev) (c : Nat × Nat) : Dev :=
  match d.cmd c.1 c.2 with
  | none => d
  | some k => match k.stalled with
    | none => d
    | some (cause, since) => (d.stall cause ((d.ns - since) / 1000)).setCmd { k with stalled := none }

/-- Whether a command's watchdog counts: it waits for fabric acknowledgements (R228). -/
def RunCmd.watched (k : RunCmd) : Bool := decide (k.phase = .acks) || k.acks || k.waits

/-- A command taken off the list of running ones. -/
def Dev.dropCmd (d : Dev) (k : RunCmd) : Dev := { d with cmds := d.cmds.filter fun c => !(c.ring == k.ring && c.index == k.index) }

/-- The save slot of a core (log entry 7). -/
def Dev.slotOf (d : Dev) (core : Nat) : Nat := sget core core d.slots

/-- A core given another slot. -/
def Dev.setSlot (d : Dev) (core s : Nat) : Dev := { d with slots := sput core core s d.slots }

/-- The state, class and command shown by a core (R118). -/
def Dev.coreShow (d : Dev) (core state cls faults ring index : Nat) : Dev :=
  let d := d.put Fld.ATT_CORE_STAT_STATE state core
  let d := d.put Fld.ATT_CORE_STAT_CLASS cls core
  let d := d.put Fld.ATT_CORE_CUR_FAULTS faults core
  (d.put Fld.ATT_CORE_CUR_RING ring core).put Fld.ATT_CORE_CUR_INDEX index core

/-- A core left idle; a FAILED core stays so (R107). -/
def Dev.coreFree (d : Dev) (core : Nat) : Dev :=
  if d.get Fld.ATT_CORE_STAT_STATE core = csFailed then d.coreShow core csFailed 0 0 0 0 else d.coreShow core csIdle 0 0 0 0

/-- DRAM address of a save slot (R237). -/
def Dev.slotBase (d : Dev) (s : Nat) : Nat := d.get Fld.HAL_QSLOT_GRAN * granBytes + s * 327680

/-- `VALID` of a slot cleared, when it is restored or freed (R237). -/
def Dev.slotInvalid (d : Dev) (s : Nat) : Dev :=
  let a := d.slotBase s + 0x4A440
  d.dramPutN 8 a (d.dramWord a % 2 ^ 63)

/-- Bytes and granules of a save slot (R237). -/
def slotBytes : Nat := 327680
def slotGrans : Nat := slotBytes / granBytes

/-- A save slot freed (R237, R238): it joins the spare ones once it is zero-filled (R364). -/
def Dev.freeSlot (d : Dev) (s : Nat) : Dev :=
  { (d.slotInvalid s) with zeroing := d.zeroing ++ [(⟨d.get Fld.HAL_QSLOT_GRAN + slotGrans * s, slotGrans, none, none, false⟩ : Zeroing)] }

/-- The name of a command (R221). -/
def RunCmd.id (k : RunCmd) : CmdId := ⟨BitVec.ofNat 16 k.ring, BitVec.ofNat 32 k.index⟩

/-- What the core and the slot of a command become when it ends. -/
def Dev.leave (d : Dev) (k : RunCmd) : Dev :=
  let d := match k.core with
    | some n => d.coreFree n
    | none => d
  let d := match k.slot with
    | some s => d.freeSlot s
    | none => d
  let d : Dev := { (d.dropCmd k) with lcWait := d.lcWait.filter (fun x => !(decide (x = (k.ring, k.index)))) }
  d.forgetLost (.cmd k.id)

/-- The directory entry of an adapter (R163, R164), and its count of readers. -/
def Dev.adpAddr (d : Dev) (id : Nat) : Nat := d.get Fld.ADP_LARDER_BASE_GRAN * granBytes + 32 * id
def Dev.adpUsers (d : Dev) (id : Nat) : Nat := d.dramWord (d.adpAddr id + 24) % 2 ^ 32

/-- A WSTREAM that has begun gives up its hold on the `DIFF` entry when it ends (R164, R181). -/
def Dev.dropUser (d : Dev) (k : RunCmd) : Dev :=
  let id := u16 k.entry 28
  if opOf k.entry = opWstream ∧ k.res ≠ [] ∧ id < 4096 ∧ 0 < d.adpUsers id then d.dramPutN 4 (d.adpAddr id + 24) (d.adpUsers id - 1) else d

/-- Operation spaces beyond those of an RM_OP: a read-cache fill, a near store, a gateway run, the parts of an output send, the traffic
of a T2 cellar. -/
def spHall : Nat := 0
def spVa : Nat := 1
def spFill : Nat := 3
def spStore : Nat := 4
def spGw : Nat := 5
def spSend : Nat := 6
def spCellar : Nat := 7

/-- The stage of a command that has ended but for the near stores it made, which may still be refused (R284). -/
def noteStores : Nat := 11

/-- The near stores of a command that have not completed (R285). -/
def Dev.storesOf (d : Dev) (k : RunCmd) : List Nat :=
  (d.ops.filter fun o => o.space == spStore && o.cmd == some (k.ring, k.index)).map (·.id)

/-- A running command ends (R221, R223): its core and slot are free, its queued faults are discarded (R200), its
completion follows. One that lost a hall write and ended `OK` otherwise ends `WRITE_LOST` (R113). One that would end `OK` while near
stores of its own are on their way waits for them, since a refusal ends it with the refusal's status (R284). `n0` is the next mirror
number when the row that ends it began. -/
def Dev.endCmd (d : Dev) (k : RunCmd) (n0 status : Nat) (res : List Nat) : Dev :=
  let status := if status = stOK ∧ k.lost = true then stWriteLost else status
  let need := max k.need (d.needSince n0)
  if status = stOK ∧ d.storesOf k ≠ [] then
    d.setAt { k with phase := .acks, note := noteStores, status := stOK, pos := stOK, ops := d.storesOf k, res := res, need := need,
                     strokes := 0, lostT := 0 }
  else
    let d := ((d.wentOn (k.ring, k.index)).leave k).dropUser k
    let d := { d with faults := d.faults.filter fun f => !(f.ring == k.ring && f.index == k.index) }
    let d := { d with lines := d.lines.filter fun l => !(l.once && l.forCmd == some (k.ring, k.index))
                      retr := d.retr.filter fun r => !(r.ring == k.ring && r.index == k.index) }
    d.complete k.ring k.index k.entry status res need

end Sys2Proof.Machine
end

