-- ==== Sys2Proof/Machine/Alloc.lean ====
section
/-! DEFINITION. Machine/Alloc.lean: partitions, quotas and the granule allocator (R29, R40, R186, R208, R209, R356, R357,
R364, R429). Which free place an allocation takes, where the manual leaves it open, is a free value (log entry 1). -/

namespace Sys2Proof.Machine

/-- Tiers of a quota (R212). -/
def t1 : Nat := 0
def t2 : Nat := 1
def t3 : Nat := 2

/-- Partition states (R359). -/
def ptFree : Nat := 0
def ptActive : Nat := 1
def ptChanging : Nat := 2
def ptReleasing : Nat := 3

/-- The slot of a tenant's partition (R355): a tenant holds at most one. -/
def Dev.slotOfTenant (d : Dev) (t : Nat) : Option Nat :=
  (List.range 64).find? fun k => d.get Fld.SEC_PART0_STATE k != ptFree && d.get Fld.SEC_PART0_TENANT k == t

/-- Whether a tenant is leaving the device (R359). -/
def Dev.leaving (d : Dev) (t : Nat) : Bool :=
  match d.slotOfTenant t with
  | some k => d.get Fld.SEC_PART0_STATE k == ptReleasing
  | none => false

/-- The pseudo-channels of a slot as one 256-bit mask (R373). -/
def Dev.slotPcs (d : Dev) (k : Nat) : Nat :=
  d.get Fld.SEC_PART2_PCS k + d.get Fld.SEC_PART3_PCS k * 2 ^ 64 + d.get Fld.SEC_PART4_PCS k * 2 ^ 128 + d.get Fld.SEC_PART5_PCS k * 2 ^ 192

/-- The pseudo-channels of a tenant. -/
def Dev.tenantPcs (d : Dev) (t : Nat) : Nat :=
  match d.slotOfTenant t with
  | some k => d.slotPcs k
  | none => 0

/-- The pseudo-channels of no partition: the system's (R357). -/
def Dev.systemPcs (d : Dev) : Nat :=
  (List.range 64).foldl (fun m k => if d.get Fld.SEC_PART0_STATE k = ptFree then m else m &&& (2 ^ 256 - 1 - d.slotPcs k)) (2 ^ 256 - 1)

/-- Granules of one pseudo-channel (R356). -/
def pcGrans : Nat := 524288

/-- The boats of a tenant's partition (R356). -/
def Dev.tenantBoats (d : Dev) (t : Nat) : Nat :=
  match d.slotOfTenant t with
  | some k => d.get Fld.SEC_PART1_BOATS k
  | none => 0

/-- A region given by its first granule and its bytes. -/
def regionOf (gran bytes : Nat) : Nat × Nat := (gran, ceilDiv bytes granBytes)

/-- Entries of the page directory. -/
def Dev.pages (d : Dev) : Nat := d.get Fld.MEM_PD_PAGES_PAGES

/-- The pinned regions that registers place (R29, R137, R163, R191, R202, R210, R237, R257, R271, R272, R282, R284, R289,
R329). -/
def Dev.pinnedRegions (d : Dev) : List (Nat × Nat) :=
  [ regionOf (d.get Fld.MEM_PD_BASE_GRAN) (d.pages * 16), regionOf (d.get Fld.MEM_SCALE_BASE_GRAN) (d.pages * 512),
    regionOf (d.get Fld.MEM_SEQ_BASE_GRAN) (32768 * 128),
    regionOf (d.get Fld.IDX_SUM_BASE_GRAN) (if d.flag Fld.IDX_SUM_BASE_EN then d.pages * 528 else 0),
    (d.get Fld.ADP_LARDER_BASE_GRAN, d.get Fld.ADP_LARDER_SIZE_GRANS),
    regionOf (d.get Fld.MEM_CELLAR_BASE_GRAN) (d.get Fld.MEM_CELLAR_BASE_COUNT * 32),
    regionOf (d.get Fld.MEM_PF_CFG_GRAN) (d.get Fld.MEM_PF_ENTRIES_ENTRIES * 32), regionOf (d.get Fld.MEM_TOUCH_BASE_GRAN) 131072,
    regionOf (d.get Fld.HAL_QSLOT_GRAN) ((512 + d.get Fld.MEM_FAULT_CFG_SPARE_SLOTS) * 327680),
    regionOf (d.get Fld.FAB_QP_BASE_GRAN) (65536 * 128), regionOf (d.get Fld.FAB_PEER_BASE_GRAN) (65536 * 8),
    regionOf (d.get Fld.RMA_WIN_CFG_GRAN) (d.get Fld.RMA_WIN_CFG_COUNT * 32), regionOf (d.get Fld.RMA_MC_CFG_GRAN) (1024 * 512),
    regionOf (d.get Fld.RMA_IMP_CFG_GRAN) (4096 * 32), regionOf (d.get Fld.RMA_MAP_BASE_GRAN) (2 * 65536 * 8),
    regionOf (d.get Fld.PAIR_MIR_BASE_GRAN) 524288 ]

/-- Rings that are not OFF: the register file lists a nonzero `QUE_STAT` for each. -/
def Dev.liveRings (d : Dev) : List Nat :=
  ((d.regs.filter fun e => decide (0x00400000 ≤ e.1) && decide (e.1 < 0x00800000) && decide (e.1 % 64 = 0x30)).map
    fun e => (e.1 - 0x00400000) / 64).filter fun r => d.ringState r != rsOff

/-- Bodies of the rings in use, which are pinned (R189, R213). -/
def Dev.ringRegions (d : Dev) : List (Nat × Nat) :=
  d.liveRings.map fun r => regionOf (d.get Fld.QUE_BODY_GRAN r) (d.ringSize r * 64)

/-- Every occupied run of granules: pinned regions, ring bodies, allocations, and what the mover still zero-fills. -/
def Dev.busyRuns (d : Dev) : List (Nat × Nat) :=
  sortBy (fun a b => decide (a.1 < b.1))
    ((d.pinnedRegions ++ d.ringRegions ++ d.runs.map (fun r => (r.start, r.len)) ++ d.zeroing.map (fun z => (z.start, z.len))).filter
      fun r => decide (0 < r.2))

/-- The gaps of `[lo, hi)` between runs sorted by start. -/
def gapsOf (hi : Nat) : Nat → List (Nat × Nat) → List (Nat × Nat)
  | lo, [] => if lo < hi then [(lo, hi - lo)] else []
  | lo, (s, l) :: rest =>
    (if lo < min s hi then [(lo, min s hi - lo)] else []) ++ gapsOf hi (max lo (s + l)) rest

/-- How many runs of `n` granules a list of gaps holds. -/
def countPlaces (n : Nat) (gaps : List (Nat × Nat)) : Nat := (gaps.map fun g => g.2 + 1 - n).foldl (· + ·) 0

/-- The start of the `k`-th of them. -/
def placeAt (n : Nat) : Nat → List (Nat × Nat) → Nat
  | _, [] => 0
  | k, (s, l) :: rest => if k < l + 1 - n then s + k else placeAt n (k - (l + 1 - n)) rest

/-- The pseudo-channels of `mask` in rotation after `last` (R357). -/
def rotate (mask : Nat) (last : Option Nat) : List Nat :=
  let from' := match last with
    | some p => p + 1
    | none => 0
  ((List.range 256).map fun k => (from' + k) % 256).filter (bit mask)

/-- The first pseudo-channel in rotation that can hold a run of `n` granules from granule `lo` on, whose start is a multiple of
`align` granules (1 for any, 512 for a 2 MiB leaf): it, and its gaps in units of `align`. -/
def Dev.pcFor (d : Dev) (lo n align : Nat) (pcs : List Nat) : Option (Nat × List (Nat × Nat)) :=
  let busy := d.busyRuns
  pcs.findSome? fun p =>
    let gaps := gapsOf ((p + 1) * pcGrans) (max lo (p * pcGrans)) busy
    let units := (gaps.map fun g => (ceilDiv g.1 align, (g.1 + g.2) / align - ceilDiv g.1 align)).filter (fun g => decide (0 < g.2))
    if 0 < countPlaces (ceilDiv n align) units then some (p, units) else none

/-- One allocation of `n` contiguous granules for a tenant (or the system), which takes one step of the tenant's rotation
(R357); none when no pseudo-channel can hold it. Use is counted (R208). The system's own tables never take granule 0, which in
`MEM_TT_ROOTn` stands for no table (log entry 34). -/
def Dev.allocRun (d : Dev) (tenant : Option Nat) (n align : Nat) (kind : RunKind) : Option (Nat × Dev) :=
  let pcs := match tenant with
    | some t => rotate (d.tenantPcs t) (if (d.rotation.map (·.1)).contains t then some (sget 0 t d.rotation) else none)
    | none => rotate d.systemPcs none
  match d.pcFor (if tenant.isNone then 1 else 0) n align pcs with
  | none => none
  | some (p, units) =>
    let (k, d) := d.choose (countPlaces (ceilDiv n align) units)
    let g := placeAt (ceilDiv n align) k units * align
    let d := { d with runs := d.runs ++ [(⟨g, n, tenant, kind⟩ : Run)] }
    match tenant with
    | none => some (g, d)
    | some t => some (g, ({ d with rotation := sins t p d.rotation } : Dev).put Fld.MEM_QUOTA_USE (d.get Fld.MEM_QUOTA_USE t t1 + n) t t1)

/-- Whether a tenant's quota of a tier admits `n` granules more (R209). -/
def Dev.admits (d : Dev) (t tier n : Nat) : Bool := decide (d.get Fld.MEM_QUOTA_USE t tier + n ≤ d.get Fld.MEM_QUOTA_LIMIT t tier)

/-- A refused allocation counted under its cause (R207, R429). -/
def Dev.refusedQuota (d : Dev) : Dev := d.stall 5 0
def Dev.refusedPool (d : Dev) : Dev := d.stall 8 0

/-- A tenant's use of a tier lowered. -/
def Dev.unuse (d : Dev) (t tier n : Nat) : Dev := d.put Fld.MEM_QUOTA_USE (d.get Fld.MEM_QUOTA_USE t tier - n) t tier

/-- An allocated run released: it goes to the mover's zero-filling, and is counted until that is done (R39, R188, R208, R364). -/
def Dev.freeRun (d : Dev) (start : Nat) (page : Option Nat) : Dev :=
  match d.runs.find? (fun r => r.start == start) with
  | none => d
  | some r =>
    { d with runs := d.runs.filter (fun x => x.start != start), zeroing := d.zeroing ++ [(⟨r.start, r.len, r.tenant, page, true⟩ : Zeroing)] }

/-- Every run of a kind released. -/
def Dev.freeKind (d : Dev) (p : RunKind → Bool) : Dev :=
  ((d.runs.filter fun r => p r.kind).map (·.start)).foldl (fun d g => d.freeRun g none) d

/-- The tenants whose quota flags show use above the limit (R209, R212). -/
def Dev.overQuota (d : Dev) (t tier : Nat) : Bool := decide (d.get Fld.MEM_QUOTA_LIMIT t tier < d.get Fld.MEM_QUOTA_USE t tier)

end Sys2Proof.Machine
end

