-- ==== Sys2Proof/Machine/Kv.lean ====
section
/-! DEFINITION. Machine/Kv.lean: sequence records, handles, the page directory, page maps, landing bodies, the flush of
landing rows and their expansion (chapter 2), with what each change mirrors (R328). -/

namespace Sys2Proof.Machine

/-- Record states (R34). -/
def recFree : Nat := 0
def recActive : Nat := 1
def recLeaving : Nat := 2
def recArriving : Nat := 3
def recMirror : Nat := 4

/-- Page states (R38). -/
def pgFree : Nat := 0
def pgReserved : Nat := 1
def pgOwned : Nat := 2
def pgShared : Nat := 3
def pgMirror : Nat := 4
def pgZeroing : Nat := 5
def pgQuarantined : Nat := 6

/-- Address of a sequence record (R33). -/
def Dev.recAddr (d : Dev) (i : Nat) : Nat := d.get Fld.MEM_SEQ_BASE_GRAN * granBytes + i * 128

/-- Word `w` of a record. -/
def Dev.rword (d : Dev) (i w : Nat) : Nat := d.dramWord (d.recAddr i + 8 * w)

/-- A field of a record's word. -/
def Dev.rget (d : Dev) (i w hi lo : Nat) : Nat := bits (d.rword i w) hi lo

/-- A field of a record's word written. -/
def Dev.rput (d : Dev) (i w hi lo v : Nat) : Dev := d.dramPutN 8 (d.recAddr i + 8 * w) (setBits (d.rword i w) hi lo v)

/-- Fields of words 0 to 4 (R33). -/
def Dev.rGen (d : Dev) (i : Nat) : Nat := d.rget i 0 63 47
def Dev.rState (d : Dev) (i : Nat) : Nat := d.rget i 0 46 44
def Dev.rTenant (d : Dev) (i : Nat) : Nat := d.rget i 0 43 36
def Dev.rLayers (d : Dev) (i : Nat) : Nat := d.rget i 0 35 28
def Dev.rHeads (d : Dev) (i : Nat) : Nat := d.rget i 0 27 20
def Dev.rHdim (d : Dev) (i : Nat) : Nat := d.rget i 0 19 18
def Dev.rKvmode (d : Dev) (i : Nat) : Nat := d.rget i 0 17 16
def Dev.rMaxslots (d : Dev) (i : Nat) : Nat := d.rget i 0 15 0
def Dev.rPositions (d : Dev) (i : Nat) : Nat := d.rget i 2 31 0
def Dev.rLand (d : Dev) (i : Nat) : Nat := d.rget i 3 53 27
def Dev.rPmap (d : Dev) (i : Nat) : Nat := d.rget i 3 26 0
def Dev.rEpoch (d : Dev) (i : Nat) : Nat := d.rget i 4 63 32
def Dev.rXfer (d : Dev) (i : Nat) : Nat := d.rget i 4 31 0

/-- The handle now issued for an index (R31). -/
def Dev.handleOf (d : Dev) (i : Nat) : Nat := mkHandle i (d.rGen i)

/-- T and head_dim of a record. -/
def Dev.rT (d : Dev) (i : Nat) : Nat := tokensOf (d.rHdim i)
def Dev.rDim (d : Dev) (i : Nat) : Nat := dimOf (d.rHdim i)

/-- A record mirrored as it stands (R328): the twin's own copies are not. -/
def Dev.mirrorRec (d : Dev) (i : Nat) : Dev :=
  if d.rState i = recMirror then d
  else
    let dest := ((d.xfers.find? (·.idx == i)).map (·.dest)).getD 0
    d.mirror [.record (BitVec.ofNat 15 i) ((List.range 16).map fun w => BitVec.ofNat 64 (d.rword i w)) (BitVec.ofNat 16 dest)]

/-- The records of the array in state other than FREE, by index: the array's blocks that hold a nonzero byte. -/
def Dev.liveRecs (d : Dev) : List Nat :=
  (d.dram.blocksOf (d.get Fld.MEM_SEQ_BASE_GRAN * granBytes) 128 32768).filter fun i => d.rState i != recFree

/-- The lowest-numbered free record (R31). -/
def Dev.freeRec (d : Dev) : Option Nat :=
  let live := d.liveRecs
  findFrom (fun i => !(live.contains i)) 0 (min 32768 (live.length + 1))

/-- The generation after a retirement (R31). -/
def genAfter (g : Nat) : Nat := if g = 0x1FFFF then 1 else g + 1

/-- The generation with which a free record is issued (R31). -/
def genIssued (g : Nat) : Nat := if g = 0 then 1 else g

/-- The touch stamp of a record (R210). -/
def Dev.touch (d : Dev) (i : Nat) : Dev := d.dramPutN 4 (d.get Fld.MEM_TOUCH_BASE_GRAN * granBytes + 4 * i) d.stroke32

/-- Whether a command accepted as number `order` came before the transfer that made record `i` LEAVING: to it the sequence is
still here, and the transfer waits for its end (R25). -/
def Dev.before (d : Dev) (i order : Nat) : Bool := d.xfers.any fun x => x.idx == i && decide (order < x.order)

/-- The three checks of a handle named by a command accepted as number `order`, in their order (R25, R32). -/
def Dev.checkHandle (d : Dev) (h tenant order : Nat) : Nat :=
  let i := hIndex h
  let st := d.rState i
  if st = recFree ∨ hGen h ≠ d.rGen i then stAborted
  else if d.rTenant i ≠ tenant then stTenantMismatch
  else if (st = recLeaving ∧ d.before i order = false) ∨ st = recArriving ∨ st = recMirror then stAborted
  else stOK

/-- A page directory entry (R37). -/
structure PageE where
  epoch : Nat
  refc  : Nat
  tenant : Nat
  fill  : Nat
  vtag  : Nat
  gran  : Nat
  mode  : Nat
  state : Nat
  hdim  : Nat
  hot   : Bool
  tree  : Bool
  tree2 : Bool
deriving DecidableEq, Repr

/-- Address of entry `p` (R37). -/
def Dev.pdAddr (d : Dev) (p : Nat) : Nat := d.get Fld.MEM_PD_BASE_GRAN * granBytes + p * 16

/-- The directory entry of a page read. -/
def Dev.page (d : Dev) (p : Nat) : PageE :=
  let lo := d.dramWord (d.pdAddr p)
  let hi := d.dramWord (d.pdAddr p + 8)
  { epoch := bits hi 63 32, refc := bits hi 31 16, tenant := bits hi 15 8, fill := bits hi 7 0, vtag := bits lo 63 40, gran := bits lo 39 13,
    mode := bits lo 12 10, state := bits lo 9 7, hdim := bits lo 6 5, hot := bit lo 4, tree := bit lo 3, tree2 := bit lo 2 }

/-- The directory entry of a page written. -/
def Dev.setPage (d : Dev) (p : Nat) (e : PageE) : Dev :=
  let lo := e.vtag % 2 ^ 24 * 2 ^ 40 + e.gran % 2 ^ 27 * 2 ^ 13 + e.mode % 8 * 2 ^ 10 + e.state % 8 * 2 ^ 7 + e.hdim % 4 * 2 ^ 5
    + (if e.hot then 16 else 0) + (if e.tree then 8 else 0) + (if e.tree2 then 4 else 0)
  let hi := e.epoch % 2 ^ 32 * 2 ^ 32 + e.refc % 2 ^ 16 * 2 ^ 16 + e.tenant % 256 * 256 + e.fill % 256
  (d.dramPutN 8 (d.pdAddr p) lo).dramPutN 8 (d.pdAddr p + 8) hi

/-- Pages whose entry holds a nonzero byte. -/
def Dev.listedPages (d : Dev) : List Nat := d.dram.blocksOf (d.get Fld.MEM_PD_BASE_GRAN * granBytes) 16 d.pages

/-- Pages of the directory in a state. -/
def Dev.pagesIn (d : Dev) (st : Nat) : List Nat := d.listedPages.filter fun p => (d.page p).state == st

/-- Entries of the directory in state FREE (R30). -/
def Dev.freePages (d : Dev) : Nat := d.pages - (d.listedPages.filter fun p => (d.page p).state != pgFree).length

/-- An epoch sweep begun, unless one runs (R42). -/
def Dev.startSweep (d : Dev) : Dev := d.put Fld.MEM_PD_SWEEP_BUSY 1

/-- The page's granules and scale plane released to the mover (R39, R364). -/
def Dev.zeroPage (d : Dev) (p : Nat) : Dev :=
  let e := d.page p
  (d.setPage p { e with state := pgZeroing, refc := 0, tree := false, tree2 := false }).freeRun e.gran (some p)

/-- STATE kept with REFCNT and TREE (R39). -/
def sharedState (refc : Nat) (tree : Bool) : Nat := if 2 ≤ refc ∨ tree then pgShared else pgOwned

/-- One reference to a page dropped (R39). -/
def Dev.dropRef (d : Dev) (p : Nat) : Dev :=
  let e := d.page p
  if e.refc ≤ 1 then d.zeroPage p else d.setPage p { e with refc := e.refc - 1, state := sharedState (e.refc - 1) e.tree }

/-- One reference to a page added (R39, R57). -/
def Dev.addRef (d : Dev) (p : Nat) : Dev :=
  let e := d.page p
  d.setPage p { e with refc := e.refc + 1, state := sharedState (e.refc + 1) e.tree }

/-- A reference whose tag differs from the page's entry, logged (R41). -/
def Dev.tagMismatch (d : Dev) (src p tag : Nat) : Dev := d.logEv evTagMismatch src (tag * 2 ^ 40 + p)

/-- The `k`-th number not in a rising list. -/
def kthFree (k : Nat) (busy : List Nat) : Nat := busy.foldl (fun k b => if b ≤ k then k + 1 else k) k

/-- A page taken out of FREE with its granules (R36, R40): its tag advances by one; a page whose tag cannot is quarantined
and another taken, and a quarantine count at its limit starts a sweep (R42). An error carries the device as the attempt leaves
it, pages quarantined meanwhile included. -/
def Dev.allocPage (st tenant mode hdim : Nat) : Nat → Dev → Except Dev (Nat × Dev)
  | 0, d => .error d
  | n + 1, d =>
    let free := d.freePages
    if free = 0 then .error d else
      let (k, d) := d.choose free
      let p := kthFree k (d.listedPages.filter fun p => (d.page p).state != pgFree)
      let e := d.page p
      if e.vtag = 0xFFFFFF then
        let d := d.setPage p { e with state := pgQuarantined, vtag := 0 }
        let d := if d.get Fld.MEM_PD_SWEEP_QUAR_LIMIT ≤ (d.pagesIn pgQuarantined).length then d.startSweep else d
        Dev.allocPage st tenant mode hdim n d
      else
        match d.allocRun (some tenant) (pageGrans mode) 1 (.page p) with
        | none => .error d
        | some (g, d) =>
          .ok (p, d.setPage p ⟨d.epoch, 0, tenant, 0, e.vtag + 1, g, mode, st, hdim, false, false, false⟩)

/-- One page taken, trying every listed page that might have to be quarantined first. -/
def Dev.takePage (d : Dev) (st tenant mode hdim : Nat) : Except Dev (Nat × Dev) :=
  Dev.allocPage st tenant mode hdim (d.listedPages.length + 1) d

/-- `n` pages taken one after another. -/
def Dev.allocPages (d : Dev) (st tenant mode hdim : Nat) : Nat → Except Dev (List Nat × Dev)
  | 0 => .ok ([], d)
  | n + 1 =>
    match d.allocPages st tenant mode hdim n with
    | .error d => .error d
    | .ok (ps, d) => (d.takePage st tenant mode hdim).map fun (p, d) => (ps ++ [p], d)

/-- `d` after an attempt that took nothing in the end (R51, R62): the pages it quarantined stay so (R40), with the sweep begun
for them (R42). -/
def Dev.keepQuarantined (d d' : Dev) : Dev :=
  let d := (d'.pagesIn pgQuarantined).foldl (fun d p => d.setPage p (d'.page p)) { d with freeCtr := d'.freeCtr }
  if d'.flag Fld.MEM_PD_SWEEP_BUSY then d.startSweep else d

/-- A page-map entry (R45). -/
structure PEntry where
  vtag : Nat
  page : Nat
  loc  : Nat
deriving DecidableEq, Repr

def unpackEntry (w : Nat) : PEntry := ⟨bits w 63 40, bits w 39 14, bits w 13 12⟩
def packEntry (e : PEntry) : Nat := e.vtag % 2 ^ 24 * 2 ^ 40 + e.page % 2 ^ 26 * 2 ^ 14 + e.loc % 4 * 2 ^ 12

/-- The empty entry. -/
def PEntry.empty : PEntry := ⟨0, 0, 0⟩

/-- Index of the entry of slot `j`, layer `l`, head `h` (R44). -/
def Dev.entIndex (d : Dev) (i j l h : Nat) : Nat := (j * d.rLayers i + l) * d.rHeads i + h

/-- Address of entry number `x` of a record's page map (R44). -/
def Dev.entAddr (d : Dev) (i x : Nat) : Nat := (d.rPmap i + 1) * granBytes + 8 * x

def Dev.entry (d : Dev) (i x : Nat) : PEntry := unpackEntry (d.dramWord (d.entAddr i x))

/-- One page-map entry written; an entry made empty is mirrored as empty (R328). -/
def Dev.setEntry (d : Dev) (i x : Nat) (e : PEntry) : Dev :=
  let d := d.dramPutN 8 (d.entAddr i x) (packEntry e)
  if e.loc = 1 ∨ d.rState i = recMirror then d else d.mirror [.emptyEntry (BitVec.ofNat 15 i) (BitVec.ofNat 32 x)]

/-- Entries of a record's page map. -/
def Dev.entCount (d : Dev) (i : Nat) : Nat := d.rMaxslots i * d.rLayers i * d.rHeads i

/-- Granules of a record's page map (R44). -/
def pmapGrans (maxslots layers heads : Nat) : Nat := 1 + ceilDiv (maxslots * layers * heads * 8) granBytes

/-- Granules of a record's landing bodies (R47). -/
def landGrans (layers heads : Nat) : Nat := 16 * layers * heads

/-- The numbers of the entries that are not empty, in page-map order. -/
def Dev.usedEntries (d : Dev) (i : Nat) : List Nat :=
  (d.dram.blocksOf ((d.rPmap i + 1) * granBytes) 8 (d.entCount i)).filter fun x => (d.entry i x).loc != 0

/-- The header word of a layer (R44). -/
def Dev.hdrAddr (d : Dev) (i l : Nat) : Nat := d.rPmap i * granBytes + 8 * l
def Dev.paged (d : Dev) (i l : Nat) : Nat := bits (d.dramWord (d.hdrAddr i l)) 31 0
def Dev.lrows (d : Dev) (i l : Nat) : Nat := bits (d.dramWord (d.hdrAddr i l)) 47 32

/-- The least PAGED + LROWS over the layers (R49). -/
def Dev.leastHeld (d : Dev) (i : Nat) : Nat :=
  match (List.range (d.rLayers i)).map (fun l => d.paged i l + d.lrows i l) with
  | [] => 0
  | x :: xs => xs.foldl min x

/-- A header word written in one write and mirrored (R48, R328). -/
def Dev.putHdr (d : Dev) (i l paged lrows : Nat) : Dev :=
  let w := lrows % 2 ^ 16 * 2 ^ 32 + paged % 2 ^ 32
  let d := d.dramPutN 8 (d.hdrAddr i l) w
  if d.rState i = recMirror then d else d.mirror [.header (BitVec.ofNat 15 i) (BitVec.ofNat 8 l) (BitVec.ofNat 64 w)]

/-- A header write that changes what a layer holds; POSITIONS follows (R49). -/
def Dev.setHdr (d : Dev) (i l paged lrows : Nat) : Dev :=
  let was := d.paged i l + d.lrows i l
  let d := d.putHdr i l paged lrows
  if paged + lrows = was then d else (d.rput i 2 31 0 (d.leastHeld i)).mirrorRec i

/-- Address of the row of position `q` in the landing body of (layer, head) (R47). -/
def Dev.rowAddr (d : Dev) (i l h q : Nat) : Nat :=
  d.rLand i * granBytes + (l * d.rHeads i + h) * 65536 + q % (2 * d.rT i) * (4 * d.rDim i)

/-- Bytes of a landing row: key then value, BF16 (R47). -/
def Dev.rowBytes (d : Dev) (i : Nat) : Nat := 4 * d.rDim i
def Dev.row (d : Dev) (i l h q : Nat) : List Byte := d.dram.readBytes (d.rowAddr i l h q) (d.rowBytes i)

/-- A run of granules taken, zero-filled, for a mirror: control state is never skipped, whatever the quota (R329). -/
def Dev.takeZeroed (d : Dev) (t n : Nat) (kind : RunKind) : Option (Nat × Dev) :=
  (d.allocRun (some t) n 1 kind).map fun (g, d) => (g, { d with dram := d.dram.zero (g * granBytes) (n * granBytes) })

/-- Landing bodies given to a record that has none (R47, R329); none when there is no room. -/
def Dev.takeLanding (d : Dev) (i : Nat) : Option Dev :=
  if d.runs.any (fun r => r.kind == .landing i) then some d
  else (d.takeZeroed (d.rTenant i) (landGrans (d.rLayers i) (d.rHeads i)) (.landing i)).map fun (g, d) => d.rput i 3 53 27 g

/-- Key and value codes of a row. -/
def Dev.rowKV (d : Dev) (i l h q : Nat) : List Nat × List Nat :=
  let xs := bf16Vals (d.row i l h q)
  (xs.take (d.rDim i), xs.drop (d.rDim i))

/-- Address of a page's scale plane (R35), and of its summary (R137). -/
def Dev.scaleAddr (d : Dev) (p : Nat) : Nat := d.get Fld.MEM_SCALE_BASE_GRAN * granBytes + p * 512
def Dev.sumAddr (d : Dev) (p : Nat) : Nat := d.get Fld.IDX_SUM_BASE_GRAN * granBytes + p * 528

/-- Stored bytes of a page: payload, scale plane, summary (R35, R137). -/
def Dev.payload (d : Dev) (p : Nat) : List Byte := d.dram.readBytes ((d.page p).gran * granBytes) (512 * blockSize (d.page p).mode)
def Dev.scales (d : Dev) (p : Nat) : List Byte := d.dram.readBytes (d.scaleAddr p) 512
def Dev.summary (d : Dev) (p : Nat) : List Byte := if d.flag Fld.IDX_SUM_BASE_EN then d.dram.readBytes (d.sumAddr p) 528 else []

/-- One block of page bytes and its scale byte. -/
def blkOf (mode : Nat) (payload scales : List Byte) (b : Nat) : List Byte × Nat :=
  (slice payload (b * blockSize mode) (blockSize mode), ((scales.getD b 0).toNat))

/-- The decoded values of rows `0` to `n - 1` of the key half (`half` 0) or value half of page bytes (R70, R73). -/
def rowsOf (mode hdim half n : Nat) (payload scales : List Byte) : List (List FVal) :=
  let c := dimOf hdim / 32
  (List.range n).map fun t =>
    (List.range c).flatMap fun k =>
      let (bs, s) := blkOf mode payload scales (256 * half + t * c + k)
      decodeBlock mode bs s

/-- The summary bytes that a page's writer stores, tag included (R137, R138). -/
def summaryBytes (mode hdim fill vtag : Nat) (payload scales : List Byte) : List Byte :=
  summaryOf (dimOf hdim) (rowsOf mode hdim 0 fill payload scales) ++ toBytes 3 vtag ++ zeros 9

/-- A page's bytes written: payload, scale plane and, with summaries on, the summary given or made here (R35, R138). -/
def Dev.fillPage (d : Dev) (p : Nat) (payload scales : List Byte) (summary : Option (List Byte)) : Dev :=
  let e := d.page p
  let d := (d.dramPut (e.gran * granBytes) payload).dramPut (d.scaleAddr p) scales
  if d.flag Fld.IDX_SUM_BASE_EN then
    d.dramPut (d.sumAddr p) (match summary with
      | some s => slice s 0 516 ++ toBytes 3 e.vtag ++ zeros 9
      | none => summaryBytes e.mode e.hdim e.fill e.vtag payload scales)
  else d

/-- Whether a page is in its tenant's mirror class (R328, R353). -/
def Dev.pageInClass (d : Dev) (e : PageE) : Bool :=
  let c := d.get Fld.PAIR_MCLASS_CLASS e.tenant
  c == 2 || (c == 1 && e.hot)

/-- A page of a record mirrored with its bytes (R328). -/
def Dev.sendPage (d : Dev) (i x p : Nat) : Dev :=
  let e := d.page p
  d.mirror [.page (BitVec.ofNat 15 i) (BitVec.ofNat 32 x) (BitVec.ofNat 2 e.mode) (BitVec.ofNat 2 e.hdim) (BitVec.ofNat 8 e.fill) e.hot
    (d.payload p) (d.scales p) (d.summary p)]

/-- A page that became OWNED or SHARED, or was marked hot: mirrored when in class, otherwise its entry as empty (R328). -/
def Dev.mirrorPage (d : Dev) (i x p : Nat) : Dev :=
  if d.loads i || d.pageInClass (d.page p) then d.sendPage i x p else d.mirror [.emptyEntry (BitVec.ofNat 15 i) (BitVec.ofNat 32 x)]

/-- Rows of a layer encoded as one page and put in its slot (R51): blocks and scale plane before the entry becomes OWNED
(R76), then the page-map entry. -/
def Dev.flushHead (i l first n : Nat) (d : Dev) (hp : Nat × Nat) : Dev :=
  let (h, p) := hp
  let mode := d.rKvmode i
  let kv := (List.range n).map fun k => d.rowKV i l h (first + k)
  let (payload, scales, bad) := encodeRun mode
    (pageBlocks (d.rDim i) (kv.map fun r => r.1.map decBf16) (kv.map fun r => r.2.map decBf16))
  let d := d.setPage p { (d.page p) with fill := n }
  let d := (d.fillPage p payload scales none).bump Fld.MOV_CODEC_STAT_NONFINITE bad
  let d := d.setPage p { (d.page p) with state := pgOwned, refc := 1, epoch := d.epoch, hdim := d.rHdim i }
  let x := d.entIndex i (first / d.rT i) l h
  (d.setEntry i x ⟨(d.page p).vtag, p, 1⟩).mirrorPage i x p

/-- A flush of the first `n` landing rows of a layer (R51): H pages all or none, then the rows of every head, then one
header write. `false`: refused, nothing done but the count of the refusal (R52, R429). -/
def Dev.flush (d : Dev) (i l n : Nat) : Bool × Dev :=
  let first := d.paged i l
  let hs := d.rHeads i
  let t := d.rTenant i
  if n = 0 then (true, d)
  else if d.rMaxslots i ≤ first / d.rT i then (false, d)
  else if !(d.admits t t1 (hs * pageGrans (d.rKvmode i))) then (false, d.refusedQuota)
  else
    match d.allocPages pgReserved t (d.rKvmode i) (d.rHdim i) hs with
    | .error d' => (false, (d.keepQuarantined d').refusedPool)
    | .ok (ps, d) =>
      let d := ((List.range hs).zip ps).foldl (Dev.flushHead i l first n) d
      (true, d.setHdr i l (first + n) (d.lrows i l - n))

/-- Rows in the first half held: a complete half can be flushed when `PAGED` is at a page boundary and T rows are held (R50). -/
def Dev.halfReady (d : Dev) (i l : Nat) : Bool := decide (d.paged i l % d.rT i = 0) && decide (d.rT i ≤ d.lrows i l)

/-- Every complete half of a layer flushed (R50): at most two stand in a body. A refused half is left for the next flush
point (R52). -/
def Dev.flushHalves (i : Nat) (d : Dev) (l : Nat) : Dev :=
  if !(d.halfReady i l) then d
  else
    match d.flush i l (d.rT i) with
    | (false, d) => d
    | (true, d) => if d.halfReady i l then (d.flush i l (d.rT i)).2 else d

/-- BF16 codes of row `t` of a page, as an expander delivers them (R77). -/
def Dev.pageRow (d : Dev) (p half t : Nat) : List Nat :=
  let e := d.page p
  let c := dimOf e.hdim / 32
  (List.range c).flatMap fun k =>
    let b := 256 * half + t * c + k
    bf16Form e.mode (d.dram.readBytes (e.gran * granBytes + b * blockSize e.mode) (blockSize e.mode)) (d.dram.read (d.scaleAddr p + b)).toNat

/-- One head of an expansion (R53): the used rows of the partial page decoded into the body, the entry emptied, the
reference dropped. -/
def Dev.expandHead (i l : Nat) (d : Dev) (h : Nat) : Dev :=
  let t := d.rT i
  let pg := d.paged i l
  let x := d.entIndex i (pg / t) l h
  let p := (d.entry i x).page
  let d := (List.range (pg % t)).foldl (fun d k =>
    d.dramPut (d.rowAddr i l h (pg / t * t + k)) (bf16Bytes (d.pageRow p 0 k ++ d.pageRow p 1 k))) d
  (d.setEntry i x PEntry.empty).dropRef p

/-- What stands in a slot of a layer and head: its page, an absent one (R195), a stale reference (R41), or nothing. -/
inductive Slot where
  | page (p : Nat)
  | absent
  | stale (p tag : Nat)
  | empty
deriving DecidableEq, Repr

/-- Slot `j` of layer `l` and head `h`. -/
def Dev.slot (d : Dev) (i j l h : Nat) : Slot :=
  let e := d.entry i (d.entIndex i j l h)
  if e.loc = 1 then (if (d.page e.page).vtag = e.vtag then .page e.page else .stale e.page e.vtag)
  else if e.loc = 2 then .absent else .empty

/-- Whether a slot holds a page that can be read. -/
def Slot.present : Slot → Bool
  | .page _ => true
  | _ => false

/-- The first head whose part of the layer's partial page cannot be read, with what stands there. -/
def Dev.expandStop (d : Dev) (i l : Nat) : Option Slot :=
  let pg := d.paged i l
  if pg % d.rT i = 0 then none
  else ((List.range (d.rHeads i)).map fun h => d.slot i (pg / d.rT i) l h).find? fun x => !x.present

/-- The expansion of a layer's partial page, when it has one (R53) and every head's page is present (`expandStop`). -/
def Dev.expand (d : Dev) (i l : Nat) : Dev :=
  let pg := d.paged i l
  let r := pg % d.rT i
  if r = 0 then d
  else
    let d := (List.range (d.rHeads i)).foldl (Dev.expandHead i l) d
    d.setHdr i l (pg - r) (d.lrows i l + r)

/-- A cellar table entry (R191). -/
structure CellarE where
  vtag   : Nat
  state  : Nat
  tier   : Nat
  mode   : Nat
  tenant : Nat
  fill   : Nat
  hdim   : Nat
  crc    : Nat
  grans  : Nat
  off    : Nat
deriving DecidableEq, Repr

/-- Cellar entry states (R191). -/
def clFree : Nat := 0
def clWriting : Nat := 1
def clHeld : Nat := 2
def clFetching : Nat := 3

/-- Address of cellar entry `c` (R191). -/
def Dev.cellarAddr (d : Dev) (c : Nat) : Nat := d.get Fld.MEM_CELLAR_BASE_GRAN * granBytes + c * 32

def Dev.cellar (d : Dev) (c : Nat) : CellarE :=
  let w := d.dramWord (d.cellarAddr c)
  let v := d.dramWord (d.cellarAddr c + 8)
  { vtag := bits w 63 40, state := bits w 39 37, tier := bits w 36 35, mode := bits w 34 32, tenant := bits w 31 24, fill := bits w 23 16,
    hdim := bits w 15 14, crc := bits v 63 32, grans := bits v 31 0, off := bits (d.dramWord (d.cellarAddr c + 16)) 39 0 }

def Dev.setCellar (d : Dev) (c : Nat) (e : CellarE) : Dev :=
  let w := e.vtag % 2 ^ 24 * 2 ^ 40 + e.state % 8 * 2 ^ 37 + e.tier % 4 * 2 ^ 35 + e.mode % 8 * 2 ^ 32 + e.tenant % 256 * 2 ^ 24
    + e.fill % 256 * 2 ^ 16 + e.hdim % 4 * 2 ^ 14
  let d := d.dramPutN 8 (d.cellarAddr c) w
  let d := d.dramPutN 8 (d.cellarAddr c + 8) (e.crc % 2 ^ 32 * 2 ^ 32 + e.grans % 2 ^ 32)
  d.dramPutN 8 (d.cellarAddr c + 16) (e.off % 2 ^ 40)

/-- A cellar entry freed, its use given back (R197, R208); its tag stays. -/
def Dev.freeCellar (d : Dev) (c : Nat) : Dev :=
  let e := d.cellar c
  if e.state = clFree then d else (d.setCellar c { e with state := clFree }).unuse e.tenant (e.tier - 1) e.grans

/-- Whether a reference's tag differs from the entry it names (R41, R42, R192). -/
def Dev.staleRef (d : Dev) (e : PEntry) : Bool :=
  (e.loc == 1 && (d.page e.page).vtag != e.vtag) || (e.loc == 2 && (d.cellar e.page).vtag != e.vtag)

/-- The first stale reference of a record's page map: what it names and its tag (R41). -/
def Dev.staleOf (d : Dev) (i : Nat) : Option (Nat × Nat) :=
  (d.usedEntries i).findSome? fun x => if d.staleRef (d.entry i x) then some ((d.entry i x).page, (d.entry i x).vtag) else none

/-- Every reference of a record's page map dropped: pages (R39) and cellar entries; a reference whose tag differs is recorded
and not followed (R41). -/
def Dev.dropRefs (d : Dev) (i : Nat) : Dev :=
  (d.usedEntries i).foldl (fun d x =>
    let e := d.entry i x
    if e.loc = 1 ∧ (d.page e.page).vtag = e.vtag then d.dropRef e.page
    else if e.loc = 2 ∧ (d.cellar e.page).vtag = e.vtag then d.freeCellar e.page
    else if d.staleRef e then d.tagMismatch mMover e.page e.vtag
    else d) d

/-- A record retired (R31, R69): its references dropped, its page map and landing bodies released, FREE with GEN
advanced. -/
def Dev.retireBare (d : Dev) (i : Nat) : Dev :=
  let d := (d.dropRefs i).freeKind fun k => k == .pageMap i || k == .landing i
  (d.rput i 0 63 47 (genAfter (d.rGen i))).rput i 0 46 44 recFree

/-- A record of this device retired, its twin's copy with it (R330). -/
def Dev.retire (d : Dev) (i : Nat) : Dev :=
  let d := (d.retireBare i).mirror [.freed (BitVec.ofNat 15 i)]
  { d with pair := { d.pair with returned := d.pair.returned.filter (· ≠ i) } }

/-- The distinct pages a record's map names with the right tag. -/
def Dev.recPages (d : Dev) (i : Nat) : List Nat :=
  distinct ((d.usedEntries i).filterMap fun x =>
    let e := d.entry i x
    if e.loc = 1 ∧ (d.page e.page).vtag = e.vtag then some e.page else none)

end Sys2Proof.Machine
end

