-- ==== Sys2Proof/Machine/Fabric.lean ====
section
/-! DEFINITION. Machine/Fabric.lean: queue pairs and their transport state, packets and their bytes, the operation table,
and the flows of the traffic unit as packets enter them (R254 to R263, R295 to R298). -/

namespace Sys2Proof.Machine

/-- Whether a packet carries a flag. -/
def pktHas (p : Packet) (f : Nat) : Bool := p.flags.toNat &&& f == f

/-- Header words 0 to 5 and the AUX half of word 6 (R254). -/
def pktWords (p : Packet) : List Nat :=
  [ p.ver.toNat * 2 ^ 60 + p.opc.toNat * 2 ^ 54 + p.flags.toNat * 2 ^ 48 + p.dstNode.toNat * 2 ^ 32 + p.srcNode.toNat * 2 ^ 16 + p.dstQp.toNat,
    p.srcQp.toNat * 2 ^ 48 + p.entropy.toNat * 2 ^ 32 + p.psn.toNat,
    p.epoch.toNat * 2 ^ 32 + p.mapVer.toNat * 2 ^ 16 + p.tenant.toNat * 2 ^ 8 + p.stat.toNat, p.raddr.toNat,
    p.key.toNat * 2 ^ 32 + p.window.toNat * 2 ^ 16 + p.len.toNat,
    p.opId.toNat * 2 ^ 50 + p.pkt.toNat * 2 ^ 32 + p.pktsM1.toNat * 2 ^ 14 ]

/-- HCRC of R254: header bytes 0 to 47, then 52 to 55. -/
def pktHeadCrc (p : Packet) : Nat := crc32c ((pktWords p).flatMap (toBytes 8) ++ toBytes 4 p.aux.toNat)

/-- The 56 header bytes (R254). -/
def pktHeader (p : Packet) : List Byte := (pktWords p).flatMap (toBytes 8) ++ toBytes 4 p.hcrc.toNat ++ toBytes 4 p.aux.toNat

/-- ICRC of R254: every header and payload byte. -/
def pktBodyCrc (p : Packet) : Nat := crc32c (pktHeader p ++ p.payload)

/-- Wire length (R296). -/
def pktWire (p : Packet) : Nat := 64 + p.len.toNat

/-- Queue pair states (R259). -/
def qsReset : Nat := 0
def qsInit : Nat := 1
def qsActive : Nat := 2
def qsDraining : Nat := 3
def qsError : Nat := 4

/-- Address of the context of queue pair `q` (R257), and its words. -/
def Dev.qpAddr (d : Dev) (q : Nat) : Nat := d.get Fld.FAB_QP_BASE_GRAN * granBytes + q * 128
def Dev.qw (d : Dev) (q w : Nat) : Nat := d.dramWord (d.qpAddr q + 8 * w)
def Dev.qget (d : Dev) (q w hi lo : Nat) : Nat := bits (d.qw q w) hi lo
def Dev.qput (d : Dev) (q w hi lo v : Nat) : Dev := d.dramPutN 8 (d.qpAddr q + 8 * w) (setBits (d.qw q w) hi lo v)
def Dev.qState (d : Dev) (q : Nat) : Nat := d.qget q 0 63 61
def Dev.qClass (d : Dev) (q : Nat) : Nat := d.qget q 0 60 59
def Dev.qTenant (d : Dev) (q : Nat) : Nat := d.qget q 0 55 48
def Dev.qRnode (d : Dev) (q : Nat) : Nat := d.qget q 0 47 32
def Dev.qRqp (d : Dev) (q : Nat) : Nat := d.qget q 0 31 16

/-- Whether a queue pair is reserved (R258). -/
def qReserved (q : Nat) : Bool := decide (q < 64)

/-- Transport state of a pair toward a node before its first exchange, and at ENABLE (R260, R270, R434). -/
def Dev.freshQpT (d : Dev) (q node : Nat) : QpT :=
  { qp := q, node := node, spsn := 0, rpsn := 0, got := [], refused := [], answers := [], out := [], tmo := 0,
    rate := d.get Fld.FAB_RC_RATE_RINIT, target := d.get Fld.FAB_RC_RATE_RINIT, alpha := 1024, quiet := 0, acked := 0, marked := 0,
    fresh := 0, ce := 0, firstAt := 0, paceAt := 0, rcAt := d.ns, ident := d.node }

/-- Transport state of a pair toward a node. -/
def Dev.qpt (d : Dev) (q node : Nat) : QpT := (d.qpts.find? fun t => t.qp == q && t.node == node).getD (d.freshQpT q node)

/-- Transport state put back. -/
def Dev.setQpt (d : Dev) (t : QpT) : Dev :=
  { d with qpts := d.qpts.filter (fun u => !(u.qp == t.qp && u.node == t.node)) ++ [t] }

/-- Transport state forgotten (R260, R434). -/
def Dev.clearQpt (d : Dev) (q node : Nat) : Dev := { d with qpts := d.qpts.filter fun u => !(u.qp == q && u.node == node) }

/-- Entries of the context cache (R257). -/
def ctxSize : Nat := 4096

/-- A pipeline takes up the context of a pair: a miss is counted, and loads it in place of one the manual does not name (R257). -/
def Dev.useCtx (d : Dev) (q : Nat) : Dev :=
  if d.ctx.contains q then d
  else
    let d := d.bump Fld.FAB_STAT1_CTX_MISS
    if d.ctx.length < ctxSize then { d with ctx := d.ctx ++ [q] }
    else
      let (k, d) := d.choose ctxSize
      { d with ctx := d.ctx.eraseIdx k ++ [q] }

/-- The scheduler of a class: 0 for VL1, 1 for VL2; and the key of a flow in it (R295). -/
def schedOf (lc : Bool) : Nat := if lc then 0 else 1
def flowKey (s f : Nat) : Nat := s * 257 + f

/-- The weight of a flow (R298). -/
def Dev.weight (d : Dev) (s f : Nat) : Nat :=
  atLeast1 (if f = 256 then d.get Fld.TRF_CFG_SYS_WEIGHT
    else if s = 0 then d.get Fld.TRF_FLOW_WEIGHT_LC f else d.get Fld.TRF_FLOW_WEIGHT_BE f)

/-- cost(f, p) of R298. -/
def Dev.cost (d : Dev) (s f : Nat) (p : Packet) : Nat := pktWire p * 65536 / d.weight s f

/-- A flow before it was ever backlogged. -/
def Flow.fresh : Flow := ⟨0, none, false, 65535, false⟩

def Dev.flow (d : Dev) (k : Nat) : Flow := sget Flow.fresh k d.flows
def Dev.setFlow (d : Dev) (k : Nat) (f : Flow) : Dev := { d with flows := sput Flow.fresh k f d.flows }

/-- Virtual time of a scheduler. -/
def Dev.vt (d : Dev) (s : Nat) : Nat := if s = 0 then d.vtime.1 else d.vtime.2
def Dev.setVt (d : Dev) (s v : Nat) : Dev := { d with vtime := if s = 0 then (v, d.vtime.2) else (d.vtime.1, v) }

/-- The later of two 64-bit tags in modular order (R9, R298). -/
def later64 (a b : Nat) : Nat := if 0 ≤ modDiff 64 a b then a else b

/-- Packets of a flow waiting, and those at the head of their queue pairs. -/
def Dev.flowPkts (d : Dev) (s f : Nat) : List TxPkt := d.txq.filter fun t => schedOf t.lc == s && t.flow == f
def pairHeads : List TxPkt → List Nat → List TxPkt
  | [], _ => []
  | t :: ts, seen => if t.qp ∈ seen then pairHeads ts seen else t :: pairHeads ts (t.qp :: seen)

/-- Round robin of queue pairs after `last` (R297): the first of the given packets in that order. -/
def rrNext (last : Nat) (ts : List TxPkt) : Option TxPkt :=
  (sortBy (fun a b => decide ((a.qp + 65535 - last) % 65536 < (b.qp + 65535 - last) % 65536)) ts).head?

/-- The packet at a flow's head, whatever its eligibility. -/
def Dev.flowHead (d : Dev) (s f : Nat) : Option TxPkt := rrNext (d.flow (flowKey s f)).lastQp (pairHeads (d.flowPkts s f) [])

/-- on_backlog of R298: a flow that gains its first packet. -/
def Dev.onBacklog (d : Dev) (s f : Nat) : Dev :=
  let k := flowKey s f
  let fl := d.flow k
  match d.flowHead s f with
  | none => d
  | some h =>
    if fl.backlog then d
    else
      let st := match fl.finish with
        | none => d.vt s
        | some x => later64 (d.vt s) x
      d.setFlow k { fl with start := st, finish := some ((st + d.cost s f h.pkt) % 2 ^ 64), backlog := true }

/-- Whether a packet travels outside the traffic unit's lanes: on VL0 or VL3 (R252, R295). -/
def TxPkt.direct (t : TxPkt) : Bool :=
  let opc := t.pkt.opc.toNat
  opc == pkAck || opc == pkNak || opc == pkCtrl || (decide (8 ≤ t.qp) && decide (t.qp ≤ 11))

/-- Whether a packet has a number of its pair and is kept until it is acknowledged (R261, R266): every packet but ACK and NAK. -/
def kept (p : Packet) : Bool := !(p.opc.toNat == pkAck || p.opc.toNat == pkNak)

/-- A packet takes the next PSN of its pair and joins those outstanding (R261, R269); one sent again keeps its own. -/
def QpT.number (q : QpT) (t : TxPkt) : QpT × TxPkt :=
  if t.retx then (q, t)
  else
    let p := { t.pkt with psn := BitVec.ofNat 32 q.spsn }
    ({ q with spsn := (q.spsn + 1) % 2 ^ 32, answers := q.answers.map (fun (a : Nat × Packet) => if a.2 = t.pkt then (a.1, p) else a),
              out := q.out ++ [(⟨p, 0, false, 0, true⟩ : OutPkt)] }, { t with pkt := p })

/-- Packets a pair may have unacknowledged (R261). -/
def unackedMax : Nat := 1024

/-- A packet formed: VL0 and the pairing lane go straight to spraying, every other packet waits in its pair (R252, R295). -/
def Dev.enqueue (d : Dev) (t : TxPkt) : Dev :=
  if t.direct then { d with spray := d.spray ++ [t] }
  else ({ d with txq := if t.retx then t :: d.txq else d.txq ++ [t] } : Dev).onBacklog (schedOf t.lc) t.flow

/-- The flow of a pair (R295). -/
def Dev.flowOf (d : Dev) (q : Nat) : Nat := if qReserved q then 256 else d.qTenant q

/-- A packet of a pair toward a node, its identity and numbering filled in (R254, R261); `psn` none for answers that
carry their own. -/
def Dev.form (d : Dev) (q node : Nat) (p : Packet) : Packet :=
  { p with ver := 1, dstNode := BitVec.ofNat 16 node, srcNode := BitVec.ofNat 16 d.node, srcQp := BitVec.ofNat 16 q,
           dstQp := BitVec.ofNat 16 (if q < 16 then q else d.qRqp q), mapVer := BitVec.ofNat 16 (d.get Fld.RMA_MAP_CUR_VER),
           tenant := BitVec.ofNat 8 (d.qTenant q) }

/-- A packet put on its way; it takes the next PSN of its pair when it is handed to spraying (R261, R268). -/
def Dev.sendPkt (q node : Nat) (d : Dev) (p : Packet) : Dev :=
  d.enqueue ⟨d.form q node p, q, node, d.qClass q == 1, d.flowOf q, d.clk.cnt, false⟩

/-- A free entry of the operation table (R261). -/
def Dev.freeOp (d : Dev) : Option Nat :=
  if d.opsUsed < opTableSize then findFrom (fun k => !(d.ops.any (fun o => o.id == k))) 0 (d.ops.length + 1) else none

/-- The issuer of an operation finds the table full and waits: counted under FAB_CREDIT (R207, R261). -/
def Dev.creditWait (d : Dev) (cmd : Option (Nat × Nat)) : Dev :=
  match cmd with
  | some c => d.stallOn c csFabCredit
  | none => d.stall csFabCredit 0

/-- The issuer's wait for an entry, if it waited, is over. -/
def Dev.creditGot (d : Dev) (cmd : Option (Nat × Nat)) : Dev := cmd.elim d d.wentOn

/-- An operation issued on a pair (R261, R263): a table entry and its packets, each with the entry's number. `none`: the
table is full and the issuer waits. -/
def Dev.issue (d : Dev) (q node : Nat) (kind : OpKind) (cmd : Option (Nat × Nat)) (respAll space laddr raddr : Nat) (fence : Bool)
    (pkts : List Packet) : Option (Nat × Dev) :=
  d.freeOp.map fun id =>
    let o : Op := { id := id, qp := q, node := node, kind := kind, cmd := cmd, total := pkts.length, acked := 0, respAll := respAll, resp := 0,
                    space := space, laddr := laddr, raddr := raddr, fence := fence, stale := false }
    let d := { d with ops := d.ops ++ [o] }
    (id, ((pkts.map fun p => { p with opId := BitVec.ofNat 14 id }).foldl (Dev.sendPkt q node) d).creditGot cmd)

/-- Flows whose last packet was dropped are backlogged no more (R298). -/
def Dev.fixFlows (d : Dev) : Dev :=
  let idle (e : Nat × Flow) : Bool := !(d.txq.any fun t => flowKey (schedOf t.lc) t.flow == e.1)
  { d with flows := d.flows.map fun e => if e.2.backlog && idle e then (e.1, { e.2 with backlog := false }) else e }

/-- Whether a packet is one of an operation of its sender (R256): not a response, an answer or a message. -/
def isReqPkt (p : Packet) : Bool :=
  p.opc.toNat == pkWrite || p.opc.toNat == pkReadReq || p.opc.toNat == pkAtomic || p.opc.toNat == pkReduce || p.opc.toNat == pkMcast
    || p.opc.toNat == pkInval

/-- The packets of an ended operation: those not yet sent are dropped, those outstanding answer to no operation (R268). -/
def Dev.dropUnsent (d : Dev) (o : Op) : Dev :=
  let mine (p : Packet) : Bool := isReqPkt p && p.opId.toNat == o.id
  let t := d.qpt o.qp o.node
  let t := { t with out := t.out.map fun (x : OutPkt) => if mine x.pkt then { x with live := false } else x }
  let d := if t.out.isEmpty then d else d.setQpt t
  Dev.fixFlows { d with txq := d.txq.filter (fun t => !(t.qp == o.qp && t.node == o.node && !t.retx && mine t.pkt)) }

/-- A packet row encoded by the egress compressor (R82, R83, R172, R259): an 8-byte header with the row scale in byte 0,
then the sparse blocks. -/
def sparseRow (k : Nat) (vals : List FVal) : List Byte × Nat × Bool :=
  let (s, bs, drops, bad) := encodeSparseRow k vals
  (toBytes 8 s ++ bs, drops, bad)

/-- A WRITE payload as a pair carries it (R259): as stored, or row by row in S12 or S28; none when its checks fail. -/
def Dev.egress (d : Dev) (q : Nat) (payload : List Byte) : Option (List Byte × Dev) :=
  let pm := d.qget q 0 58 56
  let v := d.qget q 0 15 0
  if pm ≠ 4 ∧ pm ≠ 5 then some (payload, d)
  else if v = 0 ∨ v % 32 ≠ 0 ∨ payload.length % (2 * v) ≠ 0 then none
  else
    let rows := (chunks (2 * v) (payload.length / (2 * v)) payload).map fun r => sparseRow (if pm = 4 then 12 else 28) ((bf16Vals r).map decBf16)
    let d := d.bump Fld.MOV_CODEC_DROP_DROPPED ((rows.map (·.2.1)).foldl (· + ·) 0)
    let d := d.bump Fld.MOV_CODEC_STAT_NONFINITE (rows.filter (·.2.2)).length
    some (rows.flatMap (·.1), d)

/-- The peer table's entry of a node (R271): valid, and its epoch. -/
def Dev.peerAddr (d : Dev) (n : Nat) : Nat := d.get Fld.FAB_PEER_BASE_GRAN * granBytes + n * 8
def Dev.peerValid (d : Dev) (n : Nat) : Bool := bit (d.dramWord (d.peerAddr n)) 63
def Dev.peerEpoch (d : Dev) (n : Nat) : Nat := d.dramWord (d.peerAddr n) % 2 ^ 32

/-- Whether a sender's epoch is the peer table's (R63, R67, R264). -/
def Dev.epochOk (d : Dev) (n e : Nat) : Bool := d.peerValid n && d.peerEpoch n == e

end Sys2Proof.Machine
end

