-- ==== Sys2Proof/Machine/Trans.lean ====
section
/-! DEFINITION. Machine/Trans.lean: the rack address space (R284 to R288), translation of tenant addresses (R185 to R187),
accesses to tenant memory, page faults as units raise them (R195, R196, R200) and cellar space (R190, R192). -/

namespace Sys2Proof.Machine

/-- What an access answers: a value; the command ends ABORTED; a page fault; the unit waits (for a fill, a free operation
entry or an earlier store) and makes the access again; a status that ends the command. -/
inductive Res (α : Type) where
  | ok (a : α) (d : Dev)
  | abort
  | fault (k : FaultKind)
  | wait (d : Dev)
  | status (st : Nat)

/-- An access continued with the value of another. -/
def Res.andThen {α β : Type} (r : Res α) (f : α → Dev → Res β) : Res β :=
  match r with
  | .ok a d => f a d
  | .abort => .abort
  | .fault k => .fault k
  | .wait d => .wait d
  | .status st => .status st

/-- An import table entry (R284). -/
structure ImpE where
  valid  : Bool
  far    : Bool
  nc     : Bool
  tenant : Nat
  window : Nat
  qp     : Nat
  base   : Nat
  len    : Nat
  key    : Nat
  woff   : Nat
deriving DecidableEq, Repr

def Dev.impAddr (d : Dev) (e : Nat) : Nat := d.get Fld.RMA_IMP_CFG_GRAN * granBytes + e * 32

/-- An import entry from its four words. -/
def impOf (w0 w1 w2 w3 : Nat) : ImpE :=
  { valid := bit w0 63, far := bit w0 62, nc := bit w0 61, tenant := bits w0 55 48, window := bits w0 47 32, qp := bits w0 31 16,
    base := bits w1 51 0, len := bits w2 39 0, key := bits w3 63 32, woff := bits w3 31 0 }

def Dev.imp (d : Dev) (e : Nat) : ImpE :=
  let a := d.impAddr e
  impOf (d.dramWord a) (d.dramWord (a + 8)) (d.dramWord (a + 16)) (d.dramWord (a + 24))

/-- Entries of the import table that hold a nonzero byte. -/
def Dev.imports (d : Dev) : List Nat := d.dram.blocksOf (d.get Fld.RMA_IMP_CFG_GRAN * granBytes) 32 4096

/-- The tenant's entry that covers a rack offset (R284). -/
def Dev.importOf (d : Dev) (t x : Nat) : Option Nat :=
  d.imports.find? fun e => let i := d.imp e; i.valid && i.tenant == t && decide (i.base ≤ x) && decide (x < i.base + i.len)

/-- RADDR of a rack offset through an entry (R284). -/
def ImpE.raddr (i : ImpE) (x : Nat) : Nat := i.woff * 4096 + x - i.base

/-- A tenant's cached line (R286), or one that a fill delivered to the command `cmd` alone. -/
def Dev.line (d : Dev) (cmd : Option (Nat × Nat)) (t node window off : Nat) : Option Line :=
  d.lines.find? fun l => l.tenant == t && l.node == node && l.window == window && l.offset == off && (!l.once || l.forCmd == cmd)

/-- A fill of `len` bytes at remote offset `off` through entry `e`, unless one is in flight (R286, R288); failing
operations report to the command `cmd`. -/
def Dev.fill (d : Dev) (cmd : Option (Nat × Nat)) (e off len : Nat) : Res Unit :=
  let i := d.imp e
  if d.ops.any (fun o => o.space == spFill && o.laddr == off && o.raddr == e && !o.stale) then .wait d
  else if d.qState i.qp ≠ qsActive then .abort
  else
    let p := { pktBlank with
      opc := BitVec.ofNat 6 pkReadReq, flags := BitVec.ofNat 6 (pfWin + pfLast), raddr := BitVec.ofNat 64 off, key := BitVec.ofNat 32 i.key,
      window := BitVec.ofNat 16 i.window, aux := BitVec.ofNat 32 len }
    match d.issue i.qp (d.qRnode i.qp) .read cmd (ceilDiv len 4096) spFill off e false [p] with
    | none => .wait (d.creditWait cmd)
    | some (_, d) => .wait d

/-- Bytes written over a block of bytes that begins at `off`. -/
def overlay (off : Nat) (new : List (Nat × Byte)) (bs : List Byte) : List Byte :=
  (List.range bs.length).map fun k => (new.find? (·.1 == off + k)).elim (bs.getD k 0) (·.2)

/-- Bytes that the tenant's coalescing buffers hold for a remote block laid over fetched bytes, those of a flush in progress first
(R287, R288). -/
def Dev.overlayGw (d : Dev) (t e off : Nat) (bs : List Byte) : List Byte :=
  (d.gw.filter fun g => g.tenant == t && g.entry == e).foldl (fun bs g =>
    let at' (l : List (Nat × Byte)) : List (Nat × Byte) := l.map fun b => (g.block * 4096 + b.1, b.2)
    overlay off (at' g.bytes) (overlay off (at' g.sending) bs)) bs

/-- A change of the command that makes an access, if any. -/
def Dev.onCmd (d : Dev) (cmd : Option (Nat × Nat)) (f : RunCmd → RunCmd) : Dev :=
  match cmd.bind fun c => d.cmd c.1 c.2 with
  | some k => d.setCmd (f k)
  | none => d

/-- Whether a command's load missed a line and has waited for it: it is counted once (R294). -/
def Dev.hasMissed (d : Dev) (cmd : Option (Nat × Nat)) (line : Nat) : Bool :=
  match cmd.bind fun c => d.cmd c.1 c.2 with
  | some k => k.missed == line + 1
  | none => false

/-- A load of bytes within one 256-byte line of the rack space (R285 to R288, R294; what counts as hit and miss: log entry 192). -/
def Dev.rackLine (d : Dev) (cmd : Option (Nat × Nat)) (t x n : Nat) : Res (List Byte) :=
  match d.importOf t x with
  | none => .abort
  | some e =>
    let i := d.imp e
    let node := d.qRnode i.qp
    let off := i.raddr x
    let base := off / 256 * 256
    let again := d.hasMissed cmd (x / 256)
    match d.line cmd t node i.window base with
    | some l =>
      let d := if l.once then { d with lines := d.lines.filter (fun m => !(decide (m = l))) }
        else { d with lines := d.lines.map (fun m => if m = l then { m with used := d.clk.now } else m) }
      let d := if l.once ∨ again = true then d else d.bump Fld.RMA_RC_STAT_HITS
      let bs := slice l.data (off - base) n
      .ok (if i.far then d.overlayGw t e off bs else bs) (d.onCmd cmd fun k => { k with missed := 0 })
    | none =>
      let d := if i.nc ∨ again = true then d else (d.bump Fld.RMA_RC_STAT_MISSES).onCmd cmd fun k => { k with missed := x / 256 + 1 }
      (if i.far then d.fill cmd e (off / 4096 * 4096) 4096 else d.fill cmd e base 256).andThen fun _ d => .wait d

/-- A store's bytes laid over any cached copy, and kept for the fills in flight that its bytes belong to (R286, R287). -/
def Dev.patchLines (d : Dev) (t node window off : Nat) (bs : List Byte) : Dev :=
  let fills := d.ops.filter fun o => o.space == spFill && o.node == node && (d.imp o.raddr).window == window && (d.imp o.raddr).tenant == t
    && decide (off < o.laddr + 4096) && decide (o.laddr < off + bs.length)
  { d with
      lines := d.lines.map fun l =>
        if l.tenant = t ∧ l.node = node ∧ l.window = window then
          { l with data := (List.range l.data.length).map fun k =>
              if off ≤ l.offset + k ∧ l.offset + k < off + bs.length then bs.getD (l.offset + k - off) 0 else l.data.getD k 0 }
        else l
      patches := d.patches ++ fills.map fun o => (o.id, off, bs) }

/-- The enclosing words of a store, and AUX with the byte enables of its first and last words (R277, R285). -/
def encloseWords (off : Nat) (bs : List Byte) : Nat × List Byte × Nat :=
  let a := off / 8 * 8
  let body := zeros (off - a) ++ bs
  let len := ceilDiv body.length 8 * 8
  let en (w : Nat) : Nat := ((List.range 8).filter fun k => decide (off ≤ a + 8 * w + k) && decide (a + 8 * w + k < off + bs.length)).foldl (fun m k => m + 2 ^ k) 0
  (a, padTo len body, en 0 + en (len / 8 - 1) * 256)

/-- Bytes put into a coalescing buffer (R288): later bytes replace earlier ones, kept by offset. -/
def mergeBytes (old : List (Nat × Byte)) (at' : Nat) : List Byte → List (Nat × Byte)
  | [] => old
  | b :: bs => mergeBytes (sins at' b old) (at' + 1) bs

/-- Maximal runs of written bytes of a buffer (R288). -/
def byteRuns : List (Nat × Byte) → List (Nat × List Byte)
  | [] => []
  | (k, b) :: rest =>
    match byteRuns rest with
    | [] => [(k, [b])]
    | (j, bs) :: more => if j = k + 1 then (k, b :: bs) :: more else (k, [b]) :: (j, bs) :: more

/-- `AUX` of a write of whole words: every byte of its first and last words enabled (R277). -/
def allBytes : Nat := 0xFFFF

/-- One WRITE operation of a run of bytes through an import entry, byte enables included, carried as the pair's `PMODE` says (R259).
On a pair that is not ACTIVE, or whose compressor refuses the payload, nothing is sent (R259, R260). -/
def Dev.writeRun (d : Dev) (cmd : Option (Nat × Nat)) (e off space laddr : Nat) (bs : List Byte) : Res Nat :=
  let i := d.imp e
  let (a, words, aux) := encloseWords off bs
  if d.qState i.qp ≠ qsActive then .abort
  else match d.egress i.qp words with
    | none => .abort
    | some (body, d') =>
      let aux := if body = words then aux else allBytes
      match d'.issue i.qp (d'.qRnode i.qp) .write cmd 0 space laddr e false (splitPayload pkWrite a pfWin i.key i.window aux body) with
      | none => .wait (d.creditWait cmd)
      | some (id, d) => .ok id d

/-- A gateway buffer that cannot be sent is lost to the flush that waits for it (R260, R288). -/
def Dev.dropGw (d : Dev) (g : GwBuf) : Dev :=
  { d with gw := d.gw.filter (fun h => !(decide (h = g))), gwLost := insertNat g.tenant d.gwLost }

/-- The runs of a buffer sent one after another: the operations, or none when an entry must be waited for; a run that the pair
refuses is lost. -/
def Dev.sendRuns (g : GwBuf) : List (Nat × List Byte) → List Nat → Bool → Dev → Option (List Nat × Bool × Dev)
  | [], ids, lost, d => some (ids, lost, d)
  | run :: runs, ids, lost, d =>
    match d.writeRun none g.entry (g.block * 4096 + run.1) spGw g.block run.2 with
    | .ok id d => Dev.sendRuns g runs (ids ++ [id]) lost d
    | .wait _ => none
    | _ => Dev.sendRuns g runs ids true d

/-- A gateway buffer flushed: one WRITE per run; what it carries stays until they complete, and later stores of its block take a
buffer whose flush waits for it (R288). None: no operation entry is free. -/
def Dev.startGwFlush (d : Dev) (g : GwBuf) : Option Dev :=
  if g.bytes.isEmpty ∨ d.gw.any (fun h => h.tenant == g.tenant && h.entry == g.entry && h.block == g.block && !h.flight.isEmpty) then some d
  else (Dev.sendRuns g (byteRuns g.bytes) [] false d).map fun (ids, lost, d) =>
    let d := if lost then { d with gwLost := insertNat g.tenant d.gwLost } else d
    let d := g.waits.elim d fun t => d.stall csFabCredit ((d.ns - t) / 1000)
    if ids.isEmpty then d.dropGw g
    else { d with gw := d.gw.map fun h => if h = g then { h with flight := ids, sending := h.bytes, bytes := [], waits := none } else h }

/-- A gateway buffer flushed without a command that waits for it: a flush that finds no room waits, and its wait is counted when it
goes (R207, R261). -/
def Dev.flushGw (d : Dev) (g : GwBuf) : Dev :=
  match d.startGwFlush g with
  | some d => d
  | none => { d with gw := d.gw.map fun h => if h = g ∧ h.waits = none then { h with waits := some d.ns } else h }

/-- A store of bytes within one 64-byte block of the rack space (R285, R288). -/
def Dev.rackStore (d : Dev) (cmd : Option (Nat × Nat)) (t x : Nat) (bs : List Byte) : Res Unit :=
  match d.importOf t x with
  | none => .abort
  | some e =>
    let i := d.imp e
    let node := d.qRnode i.qp
    let off := i.raddr x
    if d.qState i.qp ≠ qsActive then .abort
    else if !i.far then
      if d.ops.any (fun o => o.space == spStore && o.raddr == e && o.laddr == off / 64) then .wait d
      else (d.writeRun cmd e off spStore (off / 64) bs).andThen fun _ d => .ok () (d.patchLines t node i.window off bs)
    else
      let blk := off / 4096
      let open' := d.gw.find? fun g => g.tenant == t && g.entry == e && g.block == blk && g.flight.isEmpty
      match open' with
      | some g =>
        let g' := { g with bytes := mergeBytes g.bytes (off % 4096) bs, stored := d.clk.now }
        let d := ({ d with gw := d.gw.map fun h => if h = g then g' else h } : Dev).patchLines t node i.window off bs
        .ok () (if g'.bytes.length < 4096 then d else d.flushGw g')
      | none =>
        let mine := d.gw.filter (·.tenant == t)
        if mine.length < d.get Fld.RMA_RC_GWBUF t then
          .ok () (({ d with gw := d.gw ++ [(⟨t, e, i.qp, blk, mergeBytes [] (off % 4096) bs, d.clk.now, [], [], none⟩ : GwBuf)] } : Dev).patchLines t node i.window off bs)
        else
          match (sortBy (fun a b => decide (a.stored < b.stored)) (mine.filter (·.flight.isEmpty))).head? with
          | none => .wait d
          | some g => match d.startGwFlush g with
            | some d => .wait d
            | none => .wait (d.creditWait cmd)

/-- Leaf types (R185). -/
def lfNone : Nat := 0
def lfTable : Nat := 1
def lfLocal : Nat := 2
def lfLower : Nat := 3
def lfHost : Nat := 4
def lfRack : Nat := 5

/-- A leaf found by a walk: the address of its entry, whether it maps 2 MiB, and its word. -/
structure Leaf where
  addr : Nat
  big  : Bool
  word : Nat
deriving DecidableEq, Repr

/-- What a walk finds (R185): a malformed entry, a leaf, or nothing mapped at a level above the leaves. -/
inductive Walk where
  | bad
  | leaf (l : Leaf)
  | absent
deriving DecidableEq, Repr

/-- Fields of an entry (R185). -/
def lfType (w : Nat) : Nat := bits w 63 61
def lfPin (w : Nat) : Bool := bit w 60
def lfAlloc (w : Nat) : Bool := bit w 59
def lfW (w : Nat) : Bool := bit w 58
def lfR (w : Nat) : Bool := bit w 57
def lfFrame (w : Nat) : Nat := bits w 51 12

/-- A leaf at one of the two leaf levels, or a malformed one (R185). -/
def leafAt (a w : Nat) (big : Bool) : Walk :=
  let ty := lfType w
  if ty = lfTable ∨ 6 ≤ ty ∨ (ty = lfLocal ∧ bits w 51 39 ≠ 0) ∨ (big ∧ (ty = lfLocal ∨ ty = lfHost ∨ ty = lfRack) ∧ lfFrame w % 512 ≠ 0)
  then .bad else .leaf ⟨a, big, w⟩

/-- The walk of a tenant address (R185). A tenant without a root table has nothing mapped. -/
def Dev.walk (d : Dev) (t va : Nat) : Walk :=
  let root := d.get Fld.MEM_TT_ROOT_GRAN t
  if ¬ va < 2 ^ 52 then .bad
  else if root = 0 then .absent
  else
    let w0 := d.dramWord (root * granBytes + 8 * bits va 51 39)
    if lfType w0 = lfNone ∧ !lfAlloc w0 then .absent
    else if lfType w0 ≠ lfTable then .bad
    else
      let w1 := d.dramWord (lfFrame w0 * granBytes + 8 * bits va 38 30)
      if lfType w1 = lfNone ∧ !lfAlloc w1 then .absent
      else if lfType w1 ≠ lfTable then .bad
      else
        let a2 := lfFrame w1 * granBytes + 8 * bits va 29 21
        let w2 := d.dramWord a2
        if lfType w2 ≠ lfTable then leafAt a2 w2 true
        else
          let a3 := lfFrame w2 * granBytes + 8 * bits va 20 12
          leafAt a3 (d.dramWord a3) false

/-- Where an access goes (R187). -/
inductive Where' where
  | abort
  | fault (k : FaultKind)
  | dram (a : Nat)
  | host (a : Nat)
  | rack (x : Nat)
deriving DecidableEq, Repr

/-- Base of the leaf that maps `va`. -/
def leafBase (big : Bool) (va : Nat) : Nat := if big then va / 2097152 * 2097152 else va / 4096 * 4096

/-- The rows of R187, the first that applies deciding. -/
def Dev.locate (d : Dev) (t va : Nat) (write : Bool) : Where' :=
  match d.walk t va with
  | .bad => .abort
  | .absent => .abort
  | .leaf l =>
    let w := l.word
    let ty := lfType w
    let off := va - leafBase l.big va
    if ty = lfNone ∧ !lfAlloc w then .abort
    else if (write && !lfW w) || (!write && !lfR w) then .abort
    else if ty = lfNone then .fault (.zero t (leafBase l.big va))
    else if ty = lfLocal then .dram (bits w 38 12 * granBytes + off)
    else if ty = lfLower then .fault (.lower t (leafBase l.big va) (bits w 25 0) (bits w 51 28))
    else if ty = lfHost then .host (lfFrame w * 4096 + off)
    else .rack (lfFrame w * 4096 + off)

/-- The function of a tenant (R187, R355). -/
def Dev.tenantFn (d : Dev) (t : Nat) : Nat := (d.slotOfTenant t).getD 0

/-- What a command's load has brought from the rack already for the piece at `va`. -/
def Dev.loadOf (d : Dev) (cmd : Option (Nat × Nat)) (va n : Nat) : Option (List Byte) :=
  (cmd.bind fun c => d.cmd c.1 c.2).bind fun k => (k.loads.find? fun x => x.1 == va && x.2.length == n).map (·.2)

/-- A tenant memory read, piece by piece within 256-byte lines. A piece that came from the rack is kept for a load that must wait for
a later one, so that it is made once (R286). -/
def Dev.readVA (cmd : Option (Nat × Nat)) (t : Nat) : Nat → Nat → Nat → Dev → Res (List Byte)
  | 0, _, _, d => .ok [] d
  | f + 1, va, n, d =>
    if n = 0 then .ok [] d
    else
      let k := min n (256 - va % 256)
      let here : Res (List Byte) :=
        match d.locate t va false with
        | .abort => .abort
        | .fault kd => .fault kd
        | .dram a => .ok (d.dram.readBytes a k) d
        | .host a => .ok (d.host.readBytes a k) d
        | .rack x => match d.loadOf cmd va k with
          | some bs => .ok bs d
          | none => (d.rackLine cmd t x k).andThen fun bs d => .ok bs (d.onCmd cmd fun c => { c with loads := c.loads ++ [(va, bs)] })
      here.andThen fun bs d => (Dev.readVA cmd t f (va + k) (n - k) d).andThen fun more d => .ok (bs ++ more) d

/-- `n` bytes of tenant memory. -/
def Dev.vaRead (d : Dev) (cmd : Option (Nat × Nat)) (t va n : Nat) : Res (List Byte) :=
  (Dev.readVA cmd t (n / 256 + 2) va n d).andThen fun bs d =>
    .ok bs (d.onCmd cmd fun c => { c with loads := c.loads.filter fun x => !(decide (va ≤ x.1) && decide (x.1 < va + n)) })

/-- Whether the piece of a command's store at `va` is on its way to the rack already. -/
def Dev.isSent (d : Dev) (cmd : Option (Nat × Nat)) (va : Nat) : Bool :=
  match cmd.bind fun c => d.cmd c.1 c.2 with
  | some k => k.sent.contains va
  | none => false

/-- A tenant memory write, piece by piece within 64-byte blocks. A piece that went to the rack is not sent again by a store that must
wait for a later one (R285). -/
def Dev.writeVA (cmd : Option (Nat × Nat)) (t : Nat) : Nat → Nat → List Byte → Dev → Res Unit
  | 0, _, _, d => .ok () d
  | f + 1, va, bs, d =>
    if bs.isEmpty then .ok () d
    else
      let k := min bs.length (64 - va % 64)
      let here : Res Unit :=
        match d.locate t va true with
        | .abort => .abort
        | .fault kd => .fault kd
        | .dram a => .ok () (d.dramPut a (bs.take k))
        | .host a => .ok () (d.hostPut (d.tenantFn t) a (bs.take k))
        | .rack x => if d.isSent cmd va then .ok () d
          else (d.rackStore cmd t x (bs.take k)).andThen fun _ d => .ok () (d.onCmd cmd fun c => { c with sent := c.sent ++ [va] })
      here.andThen fun _ d => Dev.writeVA cmd t f (va + k) (bs.drop k) d

/-- Bytes written to tenant memory. -/
def Dev.vaWrite (d : Dev) (cmd : Option (Nat × Nat)) (t va : Nat) (bs : List Byte) : Res Unit :=
  (Dev.writeVA cmd t (bs.length / 64 + 2) va bs d).andThen fun _ d =>
    .ok () (d.onCmd cmd fun c => { c with sent := c.sent.filter fun x => !(decide (va ≤ x) && decide (x < va + bs.length)) })

/-! ## The cellars a fault is about (R190, R191, R195) -/

/-- The leaf that maps an address, if any. -/
def Dev.leafOf (d : Dev) (t va : Nat) : Option Leaf :=
  match d.walk t va with
  | .leaf l => some l
  | _ => none

/-- Granules of a leaf (R185). -/
def leafGrans (big : Bool) : Nat := if big then 512 else 1

/-- The cellar entry of a `LOWER` leaf (R185). -/
def lowerCellar (w : Nat) : Nat := bits w 25 0
def lowerTag (w : Nat) : Nat := bits w 51 28

/-- The absent entries of a layer, in page-map order. -/
def Dev.absentIn (d : Dev) (i l : Nat) : List Nat :=
  (d.usedEntries i).filter fun x => x / d.rHeads i % d.rLayers i == l && (d.entry i x).loc == 2

/-- Bytes that a cellar entry stores (R191). -/
def Dev.storedLen (d : Dev) (e : CellarE) : Nat :=
  if e.mode = 0 then e.grans * granBytes else 512 * blockSize e.mode + 512 + if d.flag Fld.IDX_SUM_BASE_EN then 528 else 0

/-- Cox's queue pair for the traffic of T2 cellars (R258; log entry 16). -/
def qpCellar : Nat := 12

/-- The packets that read a T2 cellar's entry through the holder's window (R190, R277): at most 1,048,576 bytes each. -/
def Dev.cellarReads (d : Dev) (e : CellarE) : List Packet :=
  let n := d.storedLen e
  (List.range (ceilDiv n 1048576)).map fun j =>
    { pktBlank with
      opc := BitVec.ofNat 6 pkReadReq, flags := BitVec.ofNat 6 (pfWin + pfLast), raddr := BitVec.ofNat 64 (e.off * granBytes + 1048576 * j),
      key := BitVec.ofNat 32 (d.get Fld.MEM_CELLAR0_KEY e.tenant), window := BitVec.ofNat 16 (d.get Fld.MEM_CELLAR0_WINDOW e.tenant),
      aux := BitVec.ofNat 32 (min 1048576 (n - 1048576 * j)) }

/-- The read requests for an entry of a T2 cellar (R190): the node of the cellar is asked on Cox's pair. An operation table without
room counts FAB_CREDIT; the fetch itself is not put off (log entry 175). -/
def Dev.askCellar (d : Dev) (c : Nat) : Dev :=
  let e := d.cellar c
  if e.tier ≠ 2 then d
  else
    let node := d.get Fld.MEM_CELLAR0_NODE e.tenant
    (d.cellarReads e).foldl (fun (d : Dev) p =>
      match d.issue qpCellar node .read none (ceilDiv p.aux.toNat 4096) spCellar c p.raddr.toNat false [p] with
      | some (_, d) => d
      | none => d.stall csFabCredit 0) d

/-- A fetch begun (R197): the entry `FETCHING`, its holder asked. -/
def Dev.beginFetch (d : Dev) (c : Nat) : Dev :=
  let e := d.cellar c
  if e.state = clHeld then (d.setCellar c { e with state := clFetching }).askCellar c else d

/-- A fetch given up: its entry `HELD` again (R197). -/
def Dev.giveUp (d : Dev) (c : Nat) : Dev :=
  let e := d.cellar c
  if e.state = clFetching then d.setCellar c { e with state := clHeld } else d

/-- The cellar entries whose data a fault asks for. -/
def Dev.faultCells (d : Dev) (k : FaultKind) : List Nat :=
  match k with
  | .lower t va c tag => (match d.leafOf t va with
    | some l => if lfType l.word = lfLower ∧ (d.cellar c).vtag = tag then [c] else []
    | none => [])
  | .zero _ _ => []
  | .layer i l => ((d.absentIn i l).filter fun x => (d.cellar (d.entry i x).page).vtag == (d.entry i x).vtag).map fun x => (d.entry i x).page

/-- Granules of T1 that the resolution of a fault allocates. -/
def Dev.faultGrans (d : Dev) (k : FaultKind) : Nat :=
  match k with
  | .lower t va _ _ | .zero t va => (d.leafOf t va).elim 0 fun l => leafGrans l.big
  | .layer i l => ((d.absentIn i l).map fun x => pageGrans (d.cellar (d.entry i x).page).mode).foldl (· + ·) 0

/-- The tenant whose quota the resolution of a fault counts against. -/
def Dev.faultTenant (d : Dev) (k : FaultKind) : Nat :=
  match k with
  | .lower t _ _ _ | .zero t _ => t
  | .layer i _ => d.rTenant i

/-- Whether a fault must wait: for an entry that is being written, or that a prefetch fetches (R194, R206). -/
def Dev.faultWaits (d : Dev) (k : FaultKind) : Bool :=
  (d.faultCells k).any fun c =>
    (d.cellar c).state == clWriting
      || ((d.cellar c).state == clFetching && !(d.faults.any fun f => f.asked && (d.faultCells f.kind).contains c))

/-- The fault that Cox serves next: latency-critical commands' first, otherwise in order of arrival (R196). -/
def Dev.nextFault (d : Dev) : Option FaultRec :=
  let fs := d.faults.filter fun f => !(d.faultWaits f.kind)
  (fs.find? (·.lc)).orElse fun _ => fs.head?

/-- Cox begins the fault it serves next: where the quota admits, the fetches of its data begin (R197). -/
def Dev.serveFault (d : Dev) : Dev :=
  match d.nextFault with
  | none => d
  | some f =>
    if f.asked = true ∨ !(d.admits (d.faultTenant f.kind) t1 (d.faultGrans f.kind)) then d
    else (d.faultCells f.kind).foldl Dev.beginFetch { d with faults := d.faults.map fun g => if g.id = f.id then { g with asked := true } else g }

/-- Records of the fault queue (R196). -/
def faultQueueSize : Nat := 4096

/-- The fault budget of a command (R200). -/
def faultBudget : Nat := 4

/-- The stall cause of a unit that waits for a fault-queue record (R207). -/
def csFaultQueue : Nat := 11

/-- When a fault's own stall began: with the wait for a free record, if it waited for one (R196). -/
def RunCmd.raisedAt (k : RunCmd) (now : Nat) : Nat :=
  match k.stalled with
  | some (c, since) => if c = csFaultQueue then since else now
  | none => now

/-- A page fault raised for a command (R195, R196, R200): counted when raised; `true`: it is the fifth, which ends the
command. A unit that finds the queue full stalls and raises nothing yet: it raises the fault when its row is taken again and a record
is free, and the wait counts under FAULT_QUEUE and under the cause of the fault (R196, R207; log entry 193). A core stands in FAULT_STALL (R199),
any other engine parks (R198). -/
def Dev.raiseFault (d : Dev) (k : RunCmd) (kind : FaultKind) : Bool × Dev :=
  if faultQueueSize ≤ d.faults.length then (false, d.stallOn (k.ring, k.index) csFaultQueue)
  else
    let at' := ((d.cmd k.ring k.index).getD k).raisedAt d.ns
    let d := (d.wentOn (k.ring, k.index)).bump Fld.MEM_FAULT_STAT_RAISED
    let k' := { k with faults := k.faults + 1 }
    if faultBudget < k'.faults then (true, d.setAt k')
    else
      let d := { d with faults := d.faults ++ [(⟨d.nextId, k.ring, k.index, kind, k.lc, at', false⟩ : FaultRec)], nextId := d.nextId + 1 }
      let d := (d.setAt { k' with phase := .faulted, since := d.ns }).serveFault
      match k.core with
      | some n => (false, (d.put Fld.ATT_CORE_STAT_STATE csFaultStall n).put Fld.ATT_CORE_CUR_FAULTS k'.faults n)
      | none => (false, d)

/-- Cellar entries that are not FREE, and those whose table words hold anything. -/
def Dev.listedCellars (d : Dev) : List Nat :=
  d.dram.blocksOf (d.get Fld.MEM_CELLAR_BASE_GRAN * granBytes) 32 (d.get Fld.MEM_CELLAR_BASE_COUNT)

/-- The size of a tenant's cellar of a tier (R190, R212). -/
def Dev.cellarSize (d : Dev) (t tier : Nat) : Nat :=
  if tier = 2 then d.get Fld.MEM_CELLAR1_T2_GRANS t else d.get Fld.MEM_CELLAR3_T3_GRANS t

/-- The first-fit offset of `n` granules in a tenant's cellar (R190). -/
def Dev.cellarFit (d : Dev) (t tier n : Nat) : Option Nat :=
  let used := d.listedCellars.filterMap fun c =>
    let e := d.cellar c
    if e.state ≠ clFree ∧ e.tenant = t ∧ e.tier = tier then some (e.off, e.grans) else none
  ((gapsOf (d.cellarSize t tier) 0 (sortBy (fun a b => decide (a.1 < b.1)) used)).find? fun g => decide (n ≤ g.2)).map (·.1)

/-- A cellar entry taken as WRITING under the tenant's quota (R190 to R192): its tag advances; an entry whose tag cannot
is held FREE until an epoch sweep and another taken. Callers have checked the quota. -/
def Dev.allocCellar (t tier n : Nat) (e' : CellarE) : Nat → Dev → Option (Nat × Dev)
  | 0, _ => none
  | f + 1, d =>
    match d.cellarFit t tier n with
    | none => none
    | some off =>
      let busy := d.listedCellars.filter fun c => (d.cellar c).state != clFree
      let busy := d.cellarHeld.foldl (fun b c => insertNat c b) busy
      let free := d.get Fld.MEM_CELLAR_BASE_COUNT - busy.length
      if free = 0 then none
      else
        let (k, d) := d.choose free
        let c := kthFree k busy
        let e := d.cellar c
        if e.vtag = 0xFFFFFF then
          Dev.allocCellar t tier n e' f { (d.setCellar c { e with vtag := 0 }) with cellarHeld := insertNat c d.cellarHeld }
        else
          let d := d.setCellar c { e' with vtag := e.vtag + 1, state := clWriting, tier := tier, tenant := t, grans := n, off := off }
          some (c, d.put Fld.MEM_QUOTA_USE (d.get Fld.MEM_QUOTA_USE t (tier - 1) + n) t (tier - 1))

end Sys2Proof.Machine
end

