-- ==== Sys2Proof/Machine/Steps.lean ====
section
/-! DEFINITION. Machine/Steps.lean: step tables in the hall (R125 to R127), the sequences a command names (R157, R231), and
the lifting of device effects to the whole state. -/

namespace Sys2Proof.Machine

/-- The header of a step table (R125). -/
structure StepTab where
  off      : Nat
  ropeHalf : Nat
  rsel     : Bool
  ropeForm : Bool
  rope     : Bool
  qheads   : Nat
  nsegs    : Nat
  nentries : Nat
  scale    : Nat
  ropeVa   : Nat
  maxAge   : Nat
  window   : Nat
  sink     : Nat
  p        : Nat
  outRsync : Nat
  outQp    : Nat
deriving DecidableEq, Repr

/-- A step table's header read from the hall. -/
def Dev.stepTab (d : Dev) (off : Nat) : StepTab :=
  let w (k : Nat) : Nat := d.hallWord (off + 8 * k)
  { off := off, ropeHalf := bits (w 0) 63 56, rsel := bit (w 0) 46, ropeForm := bit (w 0) 45, rope := bit (w 0) 44,
    qheads := bits (w 0) 43 32, nsegs := bits (w 0) 31 16, nentries := bits (w 0) 15 0, scale := bits (w 1) 31 0, ropeVa := bits (w 2) 51 0,
    maxAge := bits (w 3) 55 48, window := bits (w 3) 47 32, sink := bits (w 3) 31 16, p := bits (w 3) 15 0, outRsync := w 4,
    outQp := bits (w 5) 15 0 }

/-- Segment entry `k` (R125): handle, segment number, retrieval record. -/
def Dev.segHandle (d : Dev) (t : StepTab) (k : Nat) : Nat := d.hall.readN 4 (t.off + 64 + 16 * k)
def Dev.segNumber (d : Dev) (t : StepTab) (k : Nat) : Nat := d.hall.readN 2 (t.off + 64 + 16 * k + 4)
def Dev.segRsel (d : Dev) (t : StepTab) (k : Nat) : Nat := d.hallWord (t.off + 64 + 16 * k + 8)

/-- Entry tag `e` (R125): position and segment. -/
def Dev.tagPos (d : Dev) (t : StepTab) (e : Nat) : Nat := d.hall.readN 4 (t.off + 64 + 16 * t.nsegs + 8 * e + 4)
def Dev.tagSeg (d : Dev) (t : StepTab) (e : Nat) : Nat := d.hall.readN 2 (t.off + 64 + 16 * t.nsegs + 8 * e)

/-- Padding entries (R125). -/
def segPad : Nat := 0xFFFF

/-- Bytes of a step table. -/
def StepTab.bytes (t : StepTab) : Nat := 64 + 16 * t.nsegs + 8 * t.nentries

/-- Whether the whole table lies in the tenant's ways. -/
def Dev.stepOk (d : Dev) (tenant off : Nat) : Bool :=
  d.hallOk (some tenant) off 64 && d.hallOk (some tenant) off (d.stepTab off).bytes

/-- The segment entry with a given segment number. -/
def Dev.segOf (d : Dev) (t : StepTab) (seg : Nat) : Option Nat := findFrom (fun k => d.segNumber t k == seg) 0 t.nsegs

/-- The entries `first` to `first + count - 1` that are not padding. -/
def Dev.liveEntries (d : Dev) (t : StepTab) (first count : Nat) : List Nat :=
  ((List.range count).map (first + ·)).filter fun e => d.tagSeg t e != segPad

/-- The handles that a range of entries names, each segment once. -/
def Dev.entryHandles (d : Dev) (t : StepTab) (first count : Nat) : List Nat :=
  ((distinct ((d.liveEntries t first count).map (d.tagSeg t))).filterMap (d.segOf t)).map (d.segHandle t)

/-- The handles a command names: its own field, or the segments of its step table (R68, R128, R158, R211 and chapter 7). -/
def Dev.namedHandles (d : Dev) (tenant : Nat) (e : Entry) : List Nat :=
  let op := opOf e
  match handleAt op with
  | some o => if (op = opPrefetch ∨ op = opDemote) ∧ bit (u8 e 26) 0 then [] else [u32 e o]
  | none =>
    if op = opAttnMerge ∨ op = opAttnStep ∨ op = opLoraApply ∨ op = opSample ∨ op = opRetrSelect then
      let off := u32 e 16
      if !(d.stepOk tenant off) then []
      else
        let t := d.stepTab off
        if op = opAttnMerge then d.entryHandles t (u16 e 24) (min (u16 e 26) t.nentries)
        else if op = opSample then (List.range (min (u16 e 22) t.nsegs)).map fun k => d.segHandle t (u16 e 20 + k)
        else if op = opRetrSelect then ((List.range t.nsegs).filter fun k => d.segRsel t k != 0).map (d.segHandle t)
        else d.entryHandles t (u16 e 28) (min (u16 e 30) t.nentries)
    else []

/-- The records a command names: handles that pass R32's generation check. -/
def Dev.named (d : Dev) (tenant : Nat) (e : Entry) : List Nat :=
  ((d.namedHandles tenant e).filter fun h => d.rState (hIndex h) != recFree && d.rGen (hIndex h) == hGen h).map hIndex

/-- `PROMOTED` of a record (R144). -/
def Dev.promoted (d : Dev) (i : Nat) : Bool := bit (d.rword i 7) 45

/-- Whether a command at the head of a ring is latency-critical (R231, R157). -/
def Dev.isLc (d : Dev) (r : Nat) (e : Entry) : Bool :=
  d.get Fld.QUE_SETUP_CLASS r == 1 || (d.named (d.ringTenant r) e).any d.promoted

/-- Whether a command that names a record and was popped before `order` still runs (R25, R194). -/
def Dev.earlierNaming (d : Dev) (i order : Nat) : Bool :=
  d.cmds.any fun c => decide (c.order < order) && (d.named c.tenant c.entry).contains i

/-- Whether a demotion holds a command back: one accepted earlier that names the sequence, or reclaim's (R194, R210); the
command starts when it ends. -/
def Dev.demoted (d : Dev) (k : RunCmd) : Bool :=
  (d.cmds.any fun j => opOf j.entry == opDemote && decide (j.order < k.order) && !(bit (u8 j.entry 26) 0)
      && (d.named k.tenant k.entry).contains (hIndex (u32 j.entry 16)))
    || (d.dems.any fun m => match m.cmd, m.ref with
        | none, .entry i _ _ => (d.named k.tenant k.entry).contains i
        | _, _ => false)

/-- The running command a row acts on, unless a demotion holds it back. -/
def Dev.act (d : Dev) (c : CmdId) (op : Nat) : Option RunCmd := (d.cmdAs c op .run).filter fun k => !(d.demoted k)

/-- What an engine command comes to after its accesses: its status and results; ABORTED; a fault, the fifth of which ends
it (R200); or a wait, after which the row is taken again. -/
def Dev.settleCmd (d : Dev) (k : RunCmd) (r : Res (Nat × List Nat)) : Dev :=
  let n0 := d.pair.next
  match r with
  | .ok (st, res) d => d.endCmd k n0 st res
  | .abort => d.endCmd k n0 stAborted []
  | .fault kind =>
    match d.raiseFault k kind with
    | (true, d) => d.endCmd k n0 stPageFault []
    | (false, d) => d
  | .wait d => d.markWait k
  | .status st => d.endCmd k n0 st []

/-- The stage of a command that has ended but for the bitmap of its completion (R69, R180, R283): its results stand in `k.res`,
`k.pos` of them, and the bitmap's bytes behind. -/
def stageBitmap : Nat := 9

/-- A command that completes with a bitmap at `va`: it is written before the completion. A page fault or a store that must wait
holds the completion back until it is resolved; the fifth fault ends the command (R195, R200); a place that cannot be written is
left out (log entry 20). -/
def Dev.endBitmap (d : Dev) (k : RunCmd) (n0 va st : Nat) (res : List Nat) (bits : List Byte) : Dev :=
  let k := { k with stage := stageBitmap, status := st, pos := res.length, res := res ++ bits.map BitVec.toNat, phase := .run,
                    need := max k.need (d.needSince n0) }
  match d.vaWrite (some (k.ring, k.index)) k.tenant va bits with
  | .ok _ d => d.endCmd k n0 st res
  | .wait d => (d.setAt k).markWait k
  | .fault kd =>
    match (d.setAt k).raiseFault k kd with
    | (true, d) => d.endCmd k n0 stPageFault res
    | (false, d) => d
  | _ => d.endCmd k n0 st res

/-- Such a command taken up again. -/
def Dev.endRest (d : Dev) (k : RunCmd) (va : Nat) : Dev :=
  d.endBitmap k d.pair.next va k.status (k.res.take k.pos) ((k.res.drop k.pos).map (BitVec.ofNat 8))

/-- Whether the device runs: not held in full reset (R411, R413, R415), its clocks not stopped (R419). -/
def Dev.alive (d : Dev) : Bool := !d.elec.held && !d.elec.stopped

/-- An effect on the device alone; a device held in reset, or whose clocks stand still, does nothing. -/
def onDev (f : Dev → Dev) (s : State) : Host.Outcome State Fault Refusal := .next (if s.dev.alive then { s with dev := f s.dev } else s)

/-- An effect on the device that may write the hall: the monitor looks at its watches afterwards (R225). -/
def onHall (f : Dev → Dev) (s : State) : Host.Outcome State Fault Refusal := onDev (fun d => (f d).settle) s

end Sys2Proof.Machine
end

