-- ==== Sys2Proof/Machine/Engines.lean ====
section
/-! DEFINITION. Machine/Engines.lean: how engines choose, place, pre-empt, save and restore commands, and the control of
rings (R213 to R240, chapter 9; R198, R199). -/

namespace Sys2Proof.Machine

/-- Phase 5, `READY`: the data path accepts commands (R376, R377). -/
def Dev.open' (d : Dev) : Bool := d.get Fld.GLB_BOOT_PHASE == 5

/-- Whether function `fn` reaches ring `r` (R391, R431). -/
def Dev.assigned (d : Dev) (fn r : Nat) : Bool := d.ringFunc r == fn && (fn == 0 || r / 1024 == fn)

/-- Class codes of a core's command (R118). -/
def classCode (lc : Bool) : Nat := if lc then 1 else 2

/-- The head of ring `r` popped into a running command (R214), named by its index, on a core when it has one; `st` is the status
that its row ends it with at once when it is not `OK`. -/
def Dev.take (d : Dev) (r eng : Nat) (lc : Bool) (core : Option Nat) (ph : Phase) (st : Nat := stOK) : Dev :=
  let i := d.ringCI r
  let e := d.head r
  let k : RunCmd := { ring := r, index := i, entry := e, engine := eng, tenant := d.ringTenant r, lc := lc, order := d.orders, placed := d.places,
                      core := core, slot := none, phase := ph, faults := 0, pos := 0, status := st, ops := [], res := [], since := d.ns, note := 0,
                      need := 0, strokes := 0, lostT := 0, waits := false, after := 0, acks := false, lost := false, stage := 0, holds := false,
                      stalled := none, sent := [], loads := [], missed := 0 }
  let d := d.pop r
  { d with cmds := d.cmds ++ [k], orders := d.orders + 1, places := d.places + 1, lcWait := d.lcWait.filter (fun x => x != (r, i)) }

/-- Whether a ring's completions wait for room (R222). -/
def Dev.cqWaits (d : Dev) (r : Nat) : Bool := d.held.any fun h => h.ring == r && h.entry && d.cqFull r

/-- Whether ring `r` has a head that may be popped (R217, R222, R238): of a tenant that leaves the device none is (R359). -/
def Dev.ready (d : Dev) (r : Nat) : Bool :=
  d.ringState r == rsRun && decide (d.depth r ≠ 0) && !(d.cqWaits r) && !(d.leaving (d.ringTenant r))

/-- A head that an engine looks at: the queue commands belong to the queue manager (R220). -/
def Dev.engineHead (d : Dev) (r : Nat) : Bool := d.ready r && decide (opSignal < opOf (d.head r))

/-- How many commands an engine runs at once (R152, R182, R233); the attention engine has its cores. -/
def room (eng : Nat) : Nat := if eng = engMover then 64 else if eng = engIndex then 8 else 1

/-- Commands that occupy an engine; one parked on a fault keeps its place and goes on from it (R198). -/
def Dev.running (d : Dev) (eng : Nat) : Nat := (d.cmds.filter fun k => k.engine == eng).length

/-- The cores of a tenant's partition (R90, R356). -/
def Dev.tenantCores (d : Dev) (t : Nat) : List Nat :=
  ((List.range 64).filter (bit (d.tenantBoats t))).flatMap fun b => (List.range 8).map (8 * b + ·)

/-- Whether a core may take a command when it is idle (R118, R233). -/
def Dev.usable (d : Dev) (n : Nat) : Bool := d.flag Fld.ATT_CORE_CTL_EN n && !(d.flag Fld.ATT_CORE_CTL_DRAIN n)

/-- The first free core of a tenant's partition (R233). -/
def Dev.freeCore (d : Dev) (t : Nat) : Option Nat :=
  (d.tenantCores t).find? fun n => d.usable n && d.get Fld.ATT_CORE_STAT_STATE n == csIdle

/-- The command that a latency-critical one pre-empts: the youngest best-effort command running in the partition (R234). -/
def Dev.victim (d : Dev) (t : Nat) : Option RunCmd :=
  (sortBy (fun (a b : RunCmd) => decide (b.placed < a.placed)) (d.cmds.filter fun k =>
    k.engine == engAttn && (decide (k.phase = .run) || decide (k.phase = .acks)) && !k.lc && k.tenant == t
      && (match k.core with
        | some n => d.usable n
        | none => false))).head?

/-- The head of ring `r` started on core `n` (R233). -/
def Dev.startOn (d : Dev) (r n : Nat) : Dev :=
  let lc := d.isLc r (d.head r)
  let i := d.ringCI r
  (d.take r engAttn lc (some n) .run).coreShow n csRun (classCode lc) 0 r i

/-- A core's state begins to be saved into its own slot, which passes with the command; the core takes a spare slot at
once (R199, R234). `after` says what follows the save. None: no spare slot is free. -/
def Dev.beginSave (d : Dev) (k : RunCmd) (after : Nat) : Option Dev :=
  match k.core, d.pool with
  | some n, s :: rest =>
    let d := d.setCmd { k with phase := .saving, slot := some (d.slotOf n), after := after, acks := decide (k.phase = .acks) }
    some ((({ d with pool := rest } : Dev).setSlot n s).put Fld.ATT_CORE_STAT_STATE csSaving n)
  | _, _ => none

/-- What follows a save: 0 a park (R199), 1 a STOP (R238), the start of a ring's latency-critical head, or the resumption of a
latency-critical command (R232, R234). -/
def afterPark : Nat := 0
def afterStop : Nat := 1
def afterStart (r : Nat) : Nat := r + 2
def afterResume (k : RunCmd) : Nat := 2 + 65536 * (k.index + 1) + k.ring

/-- A latency-critical command `x`, a ring head or one to be resumed, without a free core (R234): it waits, and pre-empts when
a command and a spare slot allow. -/
def Dev.preemptFor (d : Dev) (x : Nat × Nat) (tenant after : Nat) : Dev :=
  let d := if d.lcWait.contains x then d else { d with lcWait := d.lcWait ++ [x] }
  if d.cmds.any (fun k => decide (k.phase = .saving) && k.after == after) then d
  else
    match d.victim tenant with
    | none => d
    | some k => match d.beginSave k after with
      | none => d
      | some d => d.bump Fld.HAL_QSTAT_PREEMPT

/-- The head of ring `r` waits for a core and pre-empts (R234). -/
def Dev.preempt (d : Dev) (r : Nat) : Dev := d.preemptFor (r, d.ringCI r) (d.ringTenant r) (afterStart r)

/-- The last ring an engine served, and its next (R232). -/
def Dev.lastServed (d : Dev) (eng : Nat) : Nat := d.rr.getD eng 65535
def Dev.served (d : Dev) (eng r : Nat) : Dev :=
  { d with rr := (List.range 5).map fun k => if k = eng then r else d.rr.getD k 65535 }

/-- Rings in round-robin order after the last one served. -/
def Dev.inTurn (d : Dev) (eng : Nat) (rs : List Nat) : List Nat :=
  sortBy (fun a b => decide ((a + 65535 - d.lastServed eng) % 65536 < (b + 65535 - d.lastServed eng) % 65536)) rs

/-- The resumable commands of an engine in their order (R232): latency-critical first, then by turn of their rings. -/
def Dev.resumables (d : Dev) (eng : Nat) (lc : Bool) : List RunCmd :=
  let ks := d.cmds.filter fun k => k.engine == eng && decide (k.phase = .resumable) && k.lc == lc
  (d.inTurn eng (distinct (ks.map (·.ring)))).flatMap fun r => ks.filter (·.ring == r)

/-- A resumable command's state begins to be restored on core `n` (R235): its wait for a core is over. -/
def Dev.beginRestore (d : Dev) (k : RunCmd) (n : Nat) : Dev :=
  let d := d.setCmd { k with phase := .restoring, core := some n, placed := d.places }
  ({ d with places := d.places + 1, lcWait := d.lcWait.filter (fun x => x != (k.ring, k.index)) } : Dev).coreShow n csRestoring (classCode k.lc) k.faults
    k.ring k.index

/-- A resumable command restored on the first free core of its partition (R199, R235). None: no core is free. -/
def Dev.resumeCmd (d : Dev) (k : RunCmd) : Option Dev := (d.freeCore k.tenant).map (d.beginRestore k)

/-- Whether an engine is fused off (R4, R5). -/
def Dev.fusedOff (d : Dev) (eng : Nat) : Bool :=
  (eng == engSampler && !(d.flag Fld.GLB_UNIT_EN_SMP)) || (eng == engAdapter && !(d.flag Fld.GLB_UNIT_EN_ADP))
    || (eng == engIndex && !(d.flag Fld.GLB_UNIT_EN_IDX))

/-- Role codes of `GLB_BOOT.ROLE` (R380). -/
def rolePrompt : Nat := 1

/-- Whether a command completes ABORTED without having been begun: its engine does not execute its opcode or is fused off (R5,
R220), or it would sample on a device of role `PROMPT` (R22). -/
def Dev.unserved (d : Dev) (eng : Nat) (e : Entry) : Bool :=
  engineOf (opOf e) != some eng || d.fusedOff eng || (opOf e == opSample && d.get Fld.GLB_BOOT_ROLE == rolePrompt)

/-- Commands that add 1 to a done word whatever becomes of them (R123, R175). -/
def addsDone (op : Nat) : Bool := op == opAttnMerge || op == opAttnStep || op == opLoraApply

/-- Whether a ring's head is a RETR_SELECT, which the index engine holds there until its angle (R140). -/
def Dev.holdsRetr (d : Dev) (r : Nat) : Bool :=
  d.ringEngine r == engIndex && opOf (d.head r) == opRetrSelect && !(d.fusedOff engIndex)

/-- A ring head taken by its engine: one that cannot be served completes ABORTED, and so does one that names a sequence being
handed over (R345), which still makes its addition when it has a done word. None: the engine has no room, or no core can be had, and nothing was done. -/
def Dev.serve (d : Dev) (eng r : Nat) : Option Dev :=
  let e := d.head r
  if d.unserved eng e then some (d.popEnd r stAborted [])
  else if d.handing && (d.named (d.ringTenant r) e).any d.pair.returned.contains then
    some (if addsDone (opOf e) then d.take r eng (d.isLc r e) none .run stAborted else d.popEnd r stAborted [])
  else if eng = engAttn then
    match d.freeCore (d.ringTenant r) with
    | some n => some (d.startOn r n)
    | none => none
  else if d.running eng < room eng then some (d.take r eng (d.isLc r e) none .run) else none

/-- The heads of latency-critical or best-effort commands, in turn. -/
def Dev.heads (d : Dev) (eng : Nat) (lc : Bool) : List Nat :=
  d.inTurn eng (d.liveRings.filter fun r => d.ringEngine r == eng && d.engineHead r && !(d.holdsRetr r) && d.isLc r (d.head r) == lc)

/-- The first of a list that can be acted on. -/
def firstOf {α : Type} (f : α → Option Dev) : List α → Option Dev
  | [] => none
  | a :: as => match f a with
    | some d => some d
    | none => firstOf f as

/-- A latency-critical head: served, or on the attention engine waiting for a core and pre-empting when it can. -/
def Dev.serveLc (eng : Nat) (d : Dev) : List Nat → Dev × Bool
  | [] => (d, false)
  | r :: rs =>
    match d.serve eng r with
    | some d => (d.served eng r, true)
    | none => if eng = engAttn then Dev.serveLc eng (d.preempt r) rs else Dev.serveLc eng d rs

/-- Latency-critical commands to be resumed that no core is free for (R234): each waits, and pre-empts when it can. -/
def Dev.pressLc (d : Dev) (eng : Nat) : Dev :=
  if eng = engAttn then
    (d.resumables eng true).foldl (fun (d : Dev) k => d.preemptFor (k.ring, k.index) k.tenant (afterResume k)) d
  else d

/-- One choice of an engine (R232). -/
def Dev.dispatch (d : Dev) (eng : Nat) : Dev :=
  let back (d : Dev) (lc : Bool) : Option Dev := firstOf (fun k => (d.resumeCmd k).map (·.served eng k.ring)) (d.resumables eng lc)
  match back d true with
  | some d => d
  | none =>
    let d := d.pressLc eng
    match back d false with
    | some d => d
    | none =>
      match Dev.serveLc eng d (d.heads eng true) with
      | (d, true) => d
      | (d, false) => (firstOf (fun r => (d.serve eng r).map (·.served eng r)) (d.heads eng false)).getD d

/-- Bytes of a core's state as a save slot lays them out (R106, R237). -/
def coreBytes : Nat := 0x4A400

/-- A region of one memory laid over a region of another: what it lists, zero elsewhere. -/
def Mem.copyRegion (src dst : Mem) (a b n : Nat) : Mem :=
  (src.filter fun e => decide (a ≤ e.1) && decide (e.1 < a + n)).foldl (fun m e => m.write (b + (e.1 - a)) e.2) (dst.zero b n)

/-- Offset of the scalar registers, stream positions and kernel control in a slot (R237), and their bytes. -/
def scalarAt : Nat := 0x4A000
def scalarBytes : Nat := 1024

/-- Where a command stands, as the core's scalar state holds it: the kernel that its opcode selects, its stream position, its
results so far (R92, R106; log entry 45). -/
def RunCmd.scalars (k : RunCmd) : List Byte := (([opOf k.entry, k.pos, k.res.length] ++ k.res).flatMap (toBytes 8)).take scalarBytes

/-- The command's place read back from the scalar state of core `n`. -/
def Dev.placeOf (d : Dev) (n : Nat) : Nat × List Nat :=
  let a := n * slotBytes + scalarAt
  (d.coreMem.readN 8 (a + 8), (List.range (min 125 (d.coreMem.readN 8 (a + 16)))).map fun j => d.coreMem.readN 8 (a + 24 + 8 * j))

/-- The core's storage holds the place of its command. -/
def Dev.putPlace (d : Dev) (k : RunCmd) (n : Nat) : Dev :=
  let a := n * slotBytes + scalarAt
  { d with coreMem := (d.coreMem.zero a scalarBytes).writeBytes a k.scalars }

/-- The commands a save slot is written for (R237): state, entry, header, `VALID` last. -/
def Dev.writeSlot (d : Dev) (k : RunCmd) (n s : Nat) : Dev :=
  let d := d.putPlace k n
  let a := d.slotBase s
  let d := { d with dram := Mem.copyRegion d.coreMem d.dram (n * slotBytes) a coreBytes }
  let d := d.dramPut (a + 0x4A400) k.entry
  let d := d.dramPutN 8 (a + 0x4A448) d.clk.cnt
  d.dramPutN 8 (a + 0x4A440) (k.index % 2 ^ 32 + k.ring * 2 ^ 32 + k.tenant * 2 ^ 48 + k.faults % 8 * 2 ^ 56 + classCode k.lc * 2 ^ 59 + 2 ^ 63)

/-- A command reported `PREEMPTED` by a STOP: it stays, resumable after RESUME (R238). -/
def Dev.reportPreempted (d : Dev) (k : RunCmd) : Dev :=
  let d := d.setCmd { k with core := none, phase := .preempted true, after := 0 }
  d.complete k.ring k.index k.entry stPreempted [] k.need

/-- A command that leaves its ring's engine to wait: resumable, or, on a ring that stands STOPPED, reported `PREEMPTED`. -/
def Dev.makeResumable (d : Dev) (k : RunCmd) : Dev :=
  if d.ringState k.ring = rsStopped ∧ k.engine = engAttn then d.reportPreempted k
  else d.setCmd { k with core := none, phase := .resumable, after := 0 }

/-- Whether core `n` can take a command of tenant `t` now (R233). -/
def Dev.coreFor (d : Dev) (t n : Nat) : Bool :=
  (d.tenantCores t).contains n && d.usable n && d.get Fld.ATT_CORE_STAT_STATE n == csIdle

/-- The latency-critical command that a core was taken for (R234): the head of ring `x`, or the resumable command that
`afterResume` names. -/
def Dev.startAfter (d : Dev) (x n : Nat) : Dev :=
  if x < 65536 then
    (if d.engineHead x && d.ringEngine x == engAttn && engineOf (opOf (d.head x)) == some engAttn && d.isLc x (d.head x) && d.coreFor (d.ringTenant x) n
     then (d.startOn x n).served engAttn x else d)
  else
    match d.cmd (x % 65536) (x / 65536 - 1) with
    | none => d
    | some k => if k.phase = .resumable ∧ d.coreFor k.tenant n = true then (d.beginRestore k n).served engAttn k.ring else d

/-- The end of a save on core `n` (R199, R234, R238). -/
def Dev.saveDone (d : Dev) (n : Nat) : Dev :=
  match d.cmds.find? (fun k => k.core == some n && decide (k.phase = .saving)) with
  | none => d
  | some k =>
    match k.slot with
    | none => d
    | some s =>
      let d := (d.writeSlot k n s).coreFree n
      if k.after = afterPark then
        (if d.faults.any (fun f => f.ring == k.ring && f.index == k.index) then d.setCmd { k with core := none, phase := .parked }
         else d.makeResumable k)
      else if k.after = afterStop then
        (if d.ringState k.ring = rsOff then ((d.freeSlot s).dropCmd k).complete k.ring k.index k.entry stPreempted [] k.need
         else if d.ringState k.ring = rsStopped then d.reportPreempted k
         else (d.reportPreempted k).setCmd { k with core := none, phase := .resumable, after := 0 })
      else (d.makeResumable k).startAfter (k.after - 2) n

/-- The end of a restore on core `n` (R235): the command continues at the place its slot holds, in the wait it was saved in, if
any; the slot becomes the core's, the core's old one joins the pool. -/
def Dev.restoreDone (d : Dev) (n : Nat) : Dev :=
  match d.cmds.find? (fun k => k.core == some n && decide (k.phase = .restoring)) with
  | none => d
  | some k =>
    match k.slot with
    | none => d
    | some s =>
      let old := d.slotOf n
      let d := { d with coreMem := Mem.copyRegion d.dram d.coreMem (d.slotBase s) (n * slotBytes) coreBytes }
      let d := (d.slotInvalid s).setSlot n s
      let d := { d with pool := insertNat old d.pool }
      let place := d.placeOf n
      (d.setCmd { k with slot := none, phase := if k.acks then .acks else .run, acks := false, pos := place.1, res := place.2 }).put
        Fld.ATT_CORE_STAT_STATE csRun n

/-- ENABLE (R238); the twin learns of a ring that leaves `OFF` (R338; log entry 199). -/
def Dev.ringEnable (d : Dev) (r : Nat) : Dev :=
  if d.ringState r = rsOff then (({ d with muted := d.muted.filter (· ≠ d.ringFunc r) } : Dev).put Fld.QUE_STAT_STATE rsRun r).mirrorRing r
  else d.ringErr Fld.QUE_STAT_BADPUSH r

/-- One attention command of a ring that stops: a resumable one completes `PREEMPTED`, a running one is saved when a spare
slot is free and otherwise runs to its end (R238). -/
def Dev.stopCmd (d : Dev) (k : RunCmd) : Dev :=
  if k.phase = .resumable then d.reportPreempted k
  else if k.phase = .run ∨ k.phase = .acks then (d.beginSave k afterStop).getD d
  else d

/-- STOP (R238). -/
def Dev.ringStop (d : Dev) (r : Nat) : Dev :=
  if d.ringState r = rsRun ∨ d.ringState r = rsWait then
    let d := ({ (d.unwatch r) with lcWait := d.lcWait.filter (fun x => x.1 != r) } : Dev).put Fld.QUE_STAT_STATE rsStopped r
    (d.cmds.filter fun k => k.ring == r && k.engine == engAttn).foldl Dev.stopCmd d
  else d.ringErr Fld.QUE_STAT_BADPUSH r

/-- RESUME (R238). -/
def Dev.ringResume (d : Dev) (r : Nat) : Dev :=
  if d.ringState r = rsStopped then
    let d := { d with cmds := d.cmds.map fun (k : RunCmd) => if k.ring = r ∧ k.phase = Phase.preempted true then { k with phase := .resumable } else k }
    let d := d.put Fld.QUE_STAT_STATE rsRun r
    let d := d.dropList r (d.depth r)
    if d.depth r ≠ 0 ∧ opOf (d.head r) = opWait then d.armWait r else d
  else d.ringErr Fld.QUE_STAT_BADPUSH r

/-- FLUSH (R238); the twin learns of a ring that turns `OFF` (R338; log entry 199). -/
def Dev.ringFlush (d : Dev) (r : Nat) : Dev :=
  if d.ringState r = rsStopped then
    let gone := d.cmds.filter fun k => k.ring == r && decide (k.phase = .preempted true)
    let d := gone.foldl (fun d k => match k.slot with
      | some s => (d.freeSlot s).dropCmd k
      | none => d.dropCmd k) d
    let d := { d with aborting := d.aborting.filter (· ≠ r), retr := d.retr.filter (fun w => w.ring != r) }
    ((d.put Fld.QUE_IDX_CI (d.ringPI r) r).put Fld.QUE_STAT_STATE rsOff r).mirror [.ringOff (BitVec.ofNat 16 r)]
  else d.ringErr Fld.QUE_STAT_BADPUSH r

/-- RESET (R238). -/
def Dev.ringReset (d : Dev) (r v : Nat) : Dev :=
  if d.ringState r = rsOff then
    (((d.put Fld.QUE_IDX_PI v r).put Fld.QUE_IDX_CI v r).put Fld.QUE_CQIDX_CQ_PI 0 r).put Fld.QUE_CQIDX_CQ_CI 0 r
  else d.ringErr Fld.QUE_STAT_BADPUSH r

/-- A write of `QUE_CTRL` (R238): the reserved operations are permitted from no state. -/
def Dev.ringCtl (d : Dev) (r op v : Nat) : Dev :=
  if op = 1 then d.ringEnable r else if op = 2 then d.ringStop r else if op = 3 then d.ringResume r
  else if op = 4 then d.ringFlush r else if op = 5 then d.ringReset r v else d.ringErr Fld.QUE_STAT_BADPUSH r

end Sys2Proof.Machine
end

