-- ==== Sys2Proof/Machine/Sends.lean ====
section
/-! DEFINITION. Machine/Sends.lean: the done words and output sends of the step commands (R121, R123, R124, R175), the waits
of commands for fabric operations, and the end of an operation (R228, R268, R269). -/

namespace Sys2Proof.Machine

/-- Whether a command may use a queue pair: the status that refuses it (R254, R260). -/
def Dev.pairRefuses (d : Dev) (t q : Nat) : Nat :=
  if qReserved q ∨ d.qTenant q ≠ t then stTenantMismatch else if d.qState q ≠ qsActive then stAborted else stOK

/-- The hall ADD of 1 at a done word (R115, R117, R123) by the unit of master `m`, a bank write event at once (R225): its status,
and whether the count reached `target`. -/
def Dev.doneAdd (d : Dev) (m t off target : Nat) : Dev × Nat × Bool :=
  if off % 8 ≠ 0 then (d.bump Fld.HAL_FAULT_MISALIGN, stAborted, false)
  else if !(d.hallOk (some t) off 8) then (d.deny, stTenantMismatch, false)
  else if !(d.badWords off 8).isEmpty then (d.meetBad m (d.badWords off 8), stCrcFault, false)
  else
    let v := d.hallWord off + 1
    ((d.hallPut off (toBytes 8 v)).settle, stOK, v % 65536 == target % 65536)

/-- The parts of an output send (R124, R128, R175). -/
structure SendOf where
  qp    : Nat
  raddr : Nat
  rsync : Nat
  addr  : Nat
  len   : Nat
deriving DecidableEq, Repr

/-- Stages of a command in phase `acks`, kept in `note`: the data write to be posted, outstanding, the atomic outstanding. -/
def sendPost : Nat := 1
def sendData : Nat := 2
def sendSync : Nat := 3

/-- The hall master of a command's engine: its core's boat for the attention engine (R110). -/
def RunCmd.master (k : RunCmd) : Nat :=
  if k.engine = engAttn then mBoat (k.core.getD 0 / 8) else if k.engine = engMover then mMover else if k.engine = engSampler then mSampler
  else if k.engine = engAdapter then mAdapter else if k.engine = engIndex then mIndex else mQueue

/-- A WRITE operation of a command's own bytes on a pair, compressed as its `PMODE` says (R259, R261). The command waits for
it in phase `acks` at stage `stage`; without a free operation entry it stays at the stage it stands at. -/
def Dev.sendWrite (d : Dev) (k : RunCmd) (q raddr flags key window stage : Nat) (fence : Bool) (bs : List Byte) : Option Dev :=
  match d.egress q bs with
  | none => some (d.setCmd { k with phase := .acks, note := stage, pos := stAborted, strokes := 0, lostT := 0 })
  | some (body, d) =>
    (d.issue q (d.qRnode q) .write (some (k.ring, k.index)) 0 spSend 0 raddr fence (splitPayload pkWrite raddr flags key window allBytes body)).map fun (id, d) =>
      d.setAt { k with phase := .acks, note := stage, ops := k.ops ++ [id] }

/-- The fabric atomic add of 1 that follows an output send (R121 step 6, R124). -/
def Dev.sendAtomic (d : Dev) (k : RunCmd) (q raddr stage : Nat) : Option Dev :=
  let p := { pktBlank with opc := BitVec.ofNat 6 pkAtomic, flags := BitVec.ofNat 6 pfLast, raddr := BitVec.ofNat 64 raddr, len := 16,
                           payload := toBytes 8 1 ++ zeros 8 }
  (d.issue q (d.qRnode q) .atomic (some (k.ring, k.index)) 1 spSend 0 raddr false [p]).map fun (id, d) =>
    d.setAt { k with phase := .acks, note := stage, ops := k.ops ++ [id] }

/-- The end of a command that waited for its sends: its own status when that is not OK, else the send's (R124). -/
def Dev.endSend (d : Dev) (k : RunCmd) : Dev := d.endCmd k d.pair.next (if k.status ≠ stOK then k.status else k.pos) k.res

/-- One stage of an output send after the other (R124): `k.pos` holds the send's status. -/
def Dev.sendStep (d : Dev) (k : RunCmd) (s : SendOf) : Dev :=
  if !k.ops.isEmpty then d
  else if k.pos ≠ stOK ∨ k.note = sendSync then d.endSend k
  else if d.pairRefuses k.tenant s.qp ≠ stOK then d.endSend { k with pos := d.pairRefuses k.tenant s.qp }
  else if k.note = sendPost ∧ s.len ≠ 0 then
    if !(d.hallOk (some k.tenant) s.addr s.len) then d.deny.endSend { k with pos := stTenantMismatch }
    else if !(d.badWords s.addr s.len).isEmpty then (d.meetBad k.master (d.badWords s.addr s.len)).endSend { k with pos := stCrcFault }
    else (d.sendWrite k s.qp s.raddr 0 0 0 sendData false (d.hall.readBytes s.addr s.len)).getD (d.creditWait (some (k.ring, k.index)))
  else (d.sendAtomic k s.qp s.rsync sendSync).getD (d.creditWait (some (k.ring, k.index)))

/-- An output send posted by the command whose addition reached `DONE_TARGET` (R121, R124); `st` and `res` are the
command's own, and `extra` what it keeps behind them while it waits. -/
def Dev.postSend (d : Dev) (k : RunCmd) (s : SendOf) (st : Nat) (res extra : List Nat) : Dev :=
  let r := d.pairRefuses k.tenant s.qp
  let k := { k with status := st, res := res, phase := .acks, note := sendPost, pos := r, strokes := 0, lostT := 0 }
  (d.setCmd { k with res := res ++ extra }).sendStep k s

/-- Word `w` of multicast group `g` (R282). -/
def Dev.grpWord (d : Dev) (g w : Nat) : Nat := d.dramWord (d.get Fld.RMA_MC_CFG_GRAN * granBytes + 512 * g + 8 * w)
def Dev.grpTenant (d : Dev) (g : Nat) : Nat := bits (d.grpWord g 0) 15 8
def Dev.grpCount (d : Dev) (g : Nat) : Nat := bits (d.grpWord g 0) 5 0

/-- Member `i` of a group: its queue pair, window and key (R282). -/
def Dev.grpMember (d : Dev) (g i : Nat) : Nat × Nat × Nat :=
  let w := d.grpWord g (i + 1)
  (bits w 63 48, bits w 47 32, bits w 31 0)

/-- The stage of a command that waits for the members of a multicast. -/
def sendMcast : Nat := 6

/-- Operation table entries of a multicast, one per member (R283). -/
def Dev.mcastOps (d : Dev) (k : RunCmd) (g raddr n : Nat) (fence : Bool) : List Nat → Option (List (Nat × Nat) × Dev)
  | [] => some ([], d)
  | i :: is =>
    match d.freeOp with
    | none => none
    | some id =>
      let q := (d.grpMember g i).1
      let o : Op := { id := id, qp := q, node := d.qRnode q, kind := .mcast i, cmd := some (k.ring, k.index), total := n, acked := 0, respAll := 0,
                      resp := 0, space := spSend, laddr := 0, raddr := raddr, fence := fence, stale := false }
      (Dev.mcastOps { d with ops := d.ops ++ [o] } k g raddr n fence is).map fun r => ((i, id) :: r.1, r.2)

/-- A payload sent to every member of a group (R283): one packet per member in turn. A member whose pair cannot be used
fails at once. `k.res` gathers the members that completed `OK`. None: the operation table has no room for all. -/
def Dev.mcastSend (d : Dev) (k : RunCmd) (g raddr : Nat) (fence : Bool) (body : List Byte) : Option Dev :=
  let members := (List.range (d.grpCount g)).filter fun i => d.pairRefuses k.tenant (d.grpMember g i).1 == stOK
  let pkts := splitPayload pkMcast raddr pfWin 0 0 allBytes body
  (d.mcastOps k g raddr pkts.length fence members).map fun (ids, d) =>
    let d := pkts.foldl (fun (d : Dev) p => ids.foldl (fun (d : Dev) (x : Nat × Nat) =>
      let (q, w, key) := d.grpMember g x.1
      d.sendPkt q (d.qRnode q) { p with opId := BitVec.ofNat 14 x.2, window := BitVec.ofNat 16 w, key := BitVec.ofNat 32 key }) d) d
    (d.creditGot (some (k.ring, k.index))).setAt
      { k with phase := .acks, note := sendMcast, ops := ids.map (·.2), res := [0], pos := stOK, strokes := 0, lostT := 0 }

/-- The end of a multicast (R180, R283): `OK` when every member completed, else `PARTIAL_FAIL` with the bitmap of those that
did. -/
def Dev.mcastEnd (d : Dev) (k : RunCmd) (count va : Nat) : Dev :=
  let bm := k.res.getD 0 0
  if bm = 2 ^ count - 1 then d.endCmd k d.pair.next stOK [] else d.endBitmap k d.pair.next va stPartialFail [] (toBytes 8 bm)

/-- A pair in RESET: its cached context is cleared (R365). -/
def Dev.qpCleared (d : Dev) (q : Nat) : Dev := ({ d with ctx := d.ctx.filter (· ≠ q) } : Dev).qput q 0 63 61 qsReset

/-- A pair that is draining is back in INIT when it has nothing left to do (R260), or reset when its tenant is leaving (R361). -/
def Dev.drainCheck (d : Dev) (q : Nat) : Dev :=
  if d.qState q = qsDraining ∧ !(d.ops.any (·.qp == q)) ∧ d.qpts.all (fun t => t.qp != q || t.fresh == 0) then
    if d.leaving (d.qTenant q) then d.qpCleared q else d.qput q 0 63 61 qsInit
  else d

/-- An operation taken off the table, with the stores kept for its fill, its status given to the command that waits for it: the first that is not OK stays. -/
def Dev.opDone (d : Dev) (o : Op) (st : Nat) : Dev :=
  let d := (d.dropUnsent o)
  let d := { d with ops := d.ops.filter fun p => p.id != o.id, patches := d.patches.filter fun x => x.1 != o.id }
  match o.cmd.bind fun c => d.cmd c.1 c.2 with
  | none => d
  | some k =>
    let ops := k.ops.filter (· != o.id)
    let k := match o.kind with
      | .mcast i => if st = stOK then { k with res := [k.res.getD 0 0 ||| 2 ^ i] } else k
      | _ => k
    if k.phase = .acks ∨ k.acks = true then d.setCmd { k with ops := ops, pos := if k.pos ≠ stOK then k.pos else st }
    else d.setCmd { k with ops := ops, status := if k.status ≠ stOK then k.status else st, waits := false }

/-! ## Answers, and messages of the reserved pairs as they come in (R264, R265, R336, R343, R434) -/

/-- An ACK or NAK toward a node, under the identity that the node addressed. -/
def Dev.answerPkt (d : Dev) (q node rqp ident opc psn stat aux : Nat) : Dev :=
  let p := { pktBlank with
    opc := BitVec.ofNat 6 opc, dstNode := BitVec.ofNat 16 node, srcNode := BitVec.ofNat 16 ident, dstQp := BitVec.ofNat 16 rqp,
    srcQp := BitVec.ofNat 16 q, psn := BitVec.ofNat 32 psn, stat := BitVec.ofNat 8 stat, aux := BitVec.ofNat 32 aux,
    tenant := BitVec.ofNat 8 (if qReserved q then 0 else d.qTenant q) }
  d.enqueue ⟨p, q, node, true, d.flowOf q, d.clk.cnt, false⟩

/-- The receive bitmap of an ACK: bit i for `RPSN` + i + 1 (R265). -/
def QpT.bitmap (t : QpT) : Nat :=
  (List.range 32).foldl (fun m i => if t.got.contains ((t.rpsn + i + 1) % 2 ^ 32) then m + 2 ^ i else m) 0

/-- An ACK of what a pair has received from a node (R265). -/
def Dev.sendAck (d : Dev) (q node : Nat) : Dev :=
  let t := d.qpt q node
  let rqp := if q < 16 then q else d.qRqp q
  let d := d.answerPkt q node rqp t.ident pkAck t.rpsn (min 255 t.ce) t.bitmap
  (d.setQpt { t with fresh := 0, ce := 0 }).drainCheck q

/-- Whether messages of a node are taken on a pair: it is ACTIVE or DRAINING, and the device takes part (R264, R343). -/
def Dev.hears (d : Dev) (q node : Nat) : Bool := (d.qState q == qsActive || d.qState q == qsDraining) && d.takesPart q node

/-- The packets of a message (log entry 16). -/
def ctrlPkts (m : Ctrl) : Nat := max 1 (ceilDiv (Config.ctrlBytes m).length 4096)

/-- The packets of a message count as received, and are acknowledged as any others (R265). -/
def Dev.took (d : Dev) (m : Ctrl) (node : Nat) : Dev :=
  let q := pairOf m
  let d := d.useCtx q
  let t := d.qpt q node
  let n := t.fresh + ctrlPkts m
  let d := d.setQpt { t with rpsn := (t.rpsn + ctrlPkts m) % 2 ^ 32, fresh := n, firstAt := if t.fresh = 0 then d.ns else t.firstAt }
  if atLeast1 (d.get Fld.FAB_XPORT_CFG_ACK_COAL) ≤ n then d.sendAck q node else d

/-- A message of a node acted on; on a pair that takes none it is dropped and counted (R264). -/
def Dev.hear (d : Dev) (m : Ctrl) (node : Nat) (go : Dev → Dev) : Dev :=
  if d.hears (pairOf m) node then go (d.took m node) else d.bump Fld.FAB_STAT0_NOQP

end Sys2Proof.Machine
end

