-- ==== Sys2Proof/Machine/Attention.lean ====
section
/-! DEFINITION. Machine/Attention.lean: the hall bank's grant (R111 to R117), the attention commands (R121 to R136) and
retrieval selection (R137 to R142), with the arithmetic of one attention unit (R96 to R103). -/

namespace Sys2Proof.Machine

/-! ## The hall bank -/

/-- Byte offset of a word of a bank (R108). -/
def bankAddr (bank row : Nat) : Nat := 8 * (256 * row + bank)

/-- The word a write leaves: its enabled bytes merged into the contents (R112, R116). -/
def mergeWord (old new be : Nat) : Nat :=
  ofBytes ((List.range 8).map fun k => if bit be k then byteOf new k else byteOf old k)

/-- The request a bank grants (R111): an aged one before others, then the lowest master. -/
def pickReq (age : Nat) (reqs : List BankReq) : Option BankReq :=
  let least (l : List BankReq) : Option BankReq := (sortBy (fun (a b : BankReq) => decide (a.req.master.toNat < b.req.master.toNat)) l).head?
  match least (reqs.filter fun r => decide (age ≤ r.age)) with
  | some r => some r
  | none => least reqs

/-- Whether a request's attribution allows its word (R109). -/
def Dev.reqOk (d : Dev) (bank : Nat) (r : HallReq) : Bool := d.hallOk (r.tenant.map BitVec.toNat) (bankAddr bank r.row.toNat) 8

/-- Whether a write can be performed on its word: an uncorrectable word takes whole words only (R117). -/
def Dev.writeOk (d : Dev) (bank : Nat) (r : HallReq) : Bool :=
  decide (r.be.toNat = 255) || !(d.hallBad.contains (bankAddr bank r.row.toNat))

/-- The merge group of a granted write (R112). A ready write that R109 refuses, or one that R117 does not perform, joins none: it
stalls until a grant of its own answers it (log entry 182). -/
def Dev.mergeGroup (d : Dev) (bank : Nat) (r : HallReq) (reqs : List BankReq) : List BankReq :=
  sortBy (fun (a b : BankReq) => decide (a.req.master.toNat < b.req.master.toNat))
    (reqs.filter fun q => decide (q.req.kind = .write) && q.req.row == r.row && d.reqOk bank q.req && d.writeOk bank q.req)

/-- The requests that one grant serves (R111, R112). -/
def Dev.servedBy (d : Dev) (bank : Nat) (r : BankReq) (reqs : List BankReq) : List BankReq :=
  if r.req.kind = .write ∧ d.reqOk bank r.req ∧ d.writeOk bank r.req then d.mergeGroup bank r.req reqs else [r]

/-- A write of an owner lost at a word (R113): a command will complete WRITE_LOST, a packet's response will say so, and what the
winner stored stays. -/
def Dev.loses (d : Dev) (o : HallOwner) (a : Nat) : Dev :=
  match o with
  | .unit => d
  | .packet _ _ _ => { d with hallLost := d.hallLost ++ [(o, a)] }
  | .cmd c =>
    { d with
      hallLost := d.hallLost ++ [(o, a)]
      cmds := d.cmds.map fun (k : RunCmd) => if k.ring = c.ring.toNat ∧ k.index = c.index.toNat then { k with lost := true } else k }

/-- The merge group stored and answered (R112, R113). -/
def Dev.grantWrites (d : Dev) (bank : Nat) (r : HallReq) (g : List BankReq) : Dev :=
  let a := bankAddr bank r.row.toNat
  let old := d.hallWord a
  let words := g.map fun q => mergeWord old q.req.data.toNat q.req.be.toNat
  let w := words.headD old
  let same := words.all (· == w)
  let d := d.hallPut a (toBytes 8 w)
  ((List.range g.length).zip g).foldl (fun (d : Dev) (kq : Nat × BankReq) =>
    let m := kq.2.req.master.toNat
    if kq.1 = 0 ∨ same then d.emit (.hallStatus m stOK 0)
    else
      let d := ((d.bump Fld.HAL_WLOST_ALL).loses kq.2.req.owner a).emit (.hallStatus m stWriteLost 0)
      if m = mHost then d.bump Fld.HAL_WLOST_HOST else d) d

/-- The new word of a hall atomic (R115). -/
def atomicWord (k : HallKind) (old data cmp : Nat) : Nat :=
  match k with
  | .add => (old + data) % 2 ^ 64
  | .swap => data
  | .cswap => if old = cmp then data else old
  | _ => old

/-- One granted request (R109, R112 to R117). A partial write refused on an uncorrectable word is counted and recorded as a read
of it is (log entry 183). -/
def Dev.grant (d : Dev) (bank : Nat) (r : HallReq) (served : List BankReq) : Dev :=
  let a := bankAddr bank r.row.toNat
  let m := r.master.toNat
  let old := d.hallWord a
  if !(d.reqOk bank r) then d.deny.emit (.hallStatus m stTenantMismatch 0)
  else if r.kind = .write then
    (if d.writeOk bank r then d.grantWrites bank r served else (d.meetBad m [a]).emit (.hallStatus m stCrcFault 0))
  else if d.hallBad.contains a then (d.meetBad m [a]).emit (.hallStatus m stCrcFault 0)
  else if r.kind = .read then d.emit (.hallStatus m stOK old)
  else if r.kind = .cswap ∧ m ≠ mRma then d.emit (.hallStatus m stAborted 0)
  else (d.hallPut a (toBytes 8 (atomicWord r.kind old r.data.toNat r.compare.toNat))).emit (.hallStatus m stOK old)

/-- The requests ready at a bank in a cycle: those that stalled there, then the new ones (R111). -/
def Dev.readyAt (d : Dev) (bank : Nat) (reqs : List HallReq) : List BankReq :=
  (d.stalled.filter fun q => q.bank == bank) ++ reqs.map fun r => ⟨bank, 0, r⟩

/-- One cycle of one bank (R111): a grant, and one stall for every request that it does not serve. -/
def Dev.bankCycle (d : Dev) (bank : Nat) (reqs : List HallReq) : Dev :=
  let all := d.readyAt bank reqs
  let age := atLeast1 (d.get Fld.HAL_CFG_AGE)
  match pickReq age all with
  | none => d
  | some r =>
    let served := d.servedBy bank r all
    let rest := served.foldl List.erase all
    let d := (d.bump Fld.HAL_CONFLICT_STALLS rest.length).bump Fld.HAL_ROTATE_AGED (served.filter fun q => decide (age ≤ q.age)).length
    let d := { d with stalled := (d.stalled.filter fun (q : BankReq) => q.bank != bank) ++ rest.map fun (q : BankReq) => { q with age := q.age + 1 } }
    d.grant bank r.req served

/-- HALL_BANK_GRANT (R111): one cycle of one bank with the requests that become ready at it. Errors that struck words of the
bank come first: a correctable one is corrected and counted (R117). -/
def execHallBankGrant (bank : BitVec 8) (reqs : List HallReq) (errors : List (BitVec 15 × Bool)) (s : State) :
    Host.Outcome State Fault Refusal :=
  onHall (fun d =>
    let b := bank.toNat
    let d := errors.foldl (fun (d : Dev) e =>
      if e.2 then { d with hallBad := insertNat (bankAddr b e.1.toNat) d.hallBad } else d.bump Fld.HAL_ECC_CORR) d
    d.bankCycle b reqs) s

/-! ## Cores -/

/-- A core taken out of placement or put back by its bits alone: an idle core at once, a busy one after its command (R118). -/
def Dev.writeCoreCtl (d : Dev) (n v : Nat) : Dev :=
  (d.put Fld.ATT_CORE_CTL_DRAIN (bits v 1 1) n).put Fld.ATT_CORE_CTL_EN (bits v 0 0) n

/-- Whether the boat of a core is fitted (R5, R7). -/
def Dev.boatFitted (d : Dev) (b : Nat) : Bool := bit (d.get Fld.GLB_BOAT_EN_BOAT) b

/-- ATT_CORE_CTL_WRITE (R118). -/
def execAttCoreCtlWrite (core : BitVec 9) (v : Word) (s : State) : Host.Outcome State Fault Refusal :=
  onDev (fun d => if d.open' && d.boatFitted (core.toNat / 8) then d.writeCoreCtl core.toNat v.toNat else d) s

/-! ## What the step commands check -/

/-- The shape of a step: layers, KV heads, HDIM code and group size. -/
structure Shape where
  layers : Nat
  heads  : Nat
  hdim   : Nat
  group  : Nat
deriving DecidableEq, Repr

/-- The records that a step table's segments name. -/
def Dev.tableRecs (d : Dev) (t : StepTab) : List Nat :=
  ((List.range t.nsegs).map (d.segHandle t)).filterMap fun h =>
    if d.rState (hIndex h) ≠ recFree ∧ d.rGen (hIndex h) = hGen h then some (hIndex h) else none

/-- The table that a command's output is laid out by: nothing of a table it cannot read (R109, R117). -/
def Dev.layoutTab (d : Dev) (tenant off : Nat) : StepTab :=
  if off % 8 = 0 ∧ d.stepOk tenant off ∧ (d.badWords off (d.stepTab off).bytes).isEmpty then d.stepTab off
  else ⟨off, 0, false, false, false, 0, 0, 0, 0, 0, 0, 0, 0, 0, 0, 0⟩

/-- The shape that a command's output is laid out by, whether or not the table passes R126: that of the first sequence it names
(log entry 184). -/
def Dev.layoutShape (d : Dev) (t : StepTab) : Option Shape :=
  (d.tableRecs t).head?.map fun i => ⟨d.rLayers i, d.rHeads i, d.rHdim i, t.qheads / d.rHeads i⟩

/-- The one shape of a table's sequences (R126). -/
def Dev.tableShape (d : Dev) (t : StepTab) : Option Shape :=
  match d.tableRecs t with
  | [] => none
  | i :: is =>
    let l := d.rLayers i
    let h := d.rHeads i
    let x := d.rHdim i
    let g := t.qheads / h
    if is.all (fun j => d.rLayers j == l && d.rHeads j == h && d.rHdim j == x) ∧ h ≠ 0 ∧ g * h = t.qheads ∧ 1 ≤ g ∧ g ≤ 8
    then some ⟨l, h, x, g⟩ else none

/-- Whether segment numbers are distinct and every tag names one of them (R125, R126). -/
def Dev.tableSound (d : Dev) (t : StepTab) : Bool :=
  let segs := (List.range t.nsegs).map (d.segNumber t)
  decide (1 ≤ t.nsegs) && decide (t.nsegs ≤ 4096) && decide (1 ≤ t.nentries) && decide (t.nentries ≤ 8192)
    && decide ((distinct segs).length = segs.length) && !(segs.contains segPad)
    && (d.liveEntries t 0 t.nentries).all (fun e => segs.contains (d.tagSeg t e))

/-- The record of an entry's segment. -/
def Dev.entryRec (d : Dev) (t : StepTab) (e : Nat) : Nat := hIndex (d.segHandle t ((d.segOf t (d.tagSeg t e)).getD 0))

/-- The first status that is not `OK`. -/
def firstBad (sts : List Nat) : Nat := sts.foldl (fun st x => if st ≠ stOK then st else x) stOK

/-- The first failed handle check of a range (R32). -/
def Dev.rangeHandles (d : Dev) (k : RunCmd) (t : StepTab) (first count : Nat) : Nat :=
  firstBad ((d.entryHandles t first count).map (d.checkHandle · k.tenant k.order))

/-- The checks that the commands of a step table share: the table readable (R109, R117), R126, the range, the handles. -/
def Dev.stepCheck (d : Dev) (k : RunCmd) (off first count : Nat) : Dev × Nat :=
  if off % 8 ≠ 0 then (d, stAborted)
  else if !(d.stepOk k.tenant off) then (d.deny, stTenantMismatch)
  else
    let t := d.stepTab off
    if !(d.badWords off t.bytes).isEmpty then (d.meetBad k.master (d.badWords off t.bytes), stCrcFault)
    else if !(d.tableSound t) ∨ d.tableShape t = none ∨ t.nentries < first + count then (d, stAborted)
    else (d, d.rangeHandles k t first count)

/-! ## Rotation (R134) -/

/-- The pairs of elements rotated. -/
def ropePair (t : StepTab) (i : Nat) : Nat × Nat := if t.ropeForm then (i, i + t.ropeHalf) else (2 * i, 2 * i + 1)

/-- An FP32 code negated. -/
def neg32 (x : Nat) : Nat := x ^^^ 0x80000000

/-- One pair rotated by its cosine and sine; FP32 codes of BF16 values in, BF16 codes out. -/
def ropeStep (t : StepTab) (tab : List Byte) (x : List Nat) (i : Nat) : List Nat :=
  let (ia, ib) := ropePair t i
  let c := ofBytes (slice tab (8 * i) 4)
  let s := ofBytes (slice tab (8 * i + 4) 4)
  let a := x.getD ia 0 <<< 16
  let b := x.getD ib 0 <<< 16
  (x.set ia (encBf16 (dec32 (fma32 a c (neg32 (mul32 b s)))))).set ib (encBf16 (dec32 (fma32 a s (mul32 b c))))

/-- rotate of R134 over BF16 codes, given the table's row of the position. -/
def ropeRow (t : StepTab) (tab : List Byte) (x : List Nat) : List Nat := (List.range t.ropeHalf).foldl (ropeStep t tab) x

/-- The rotary table's row of a position; nothing is read when nothing is rotated. -/
def Dev.ropeTab (d : Dev) (k : RunCmd) (t : StepTab) (p : Nat) : Res (List Byte) :=
  if t.rope then d.vaRead (some (k.ring, k.index)) k.tenant (t.ropeVa + p * t.ropeHalf * 8) (t.ropeHalf * 8) else .ok [] d

/-- BF16 codes that are NaN or infinite (R428). -/
def badBf16 (x : List Nat) : Nat := (x.filter fun c => (decBf16 c).nonfinite).length

/-- The NaN and infinite values counted for the core of a command. -/
def Dev.countBad (d : Dev) (k : RunCmd) (n : Nat) : Dev :=
  match k.core with
  | some c => if n = 0 then d else d.bump Fld.ATT_CORE_NUM_NONFINITE n c
  | none => d

/-! ## The ends of step commands -/

/-- Place of a step command's done word and target (R128, R175's own in Adapter.lean). -/
def doneOf (e : Entry) : Nat × Nat := if opOf e = opAttnMerge then (u32 e 32, u16 e 36) else (u32 e 36, u16 e 40)

/-- The output send of an ATTN_STEP (R121, R127, R128), posted whatever its status. -/
def Dev.stepSend (d : Dev) (k : RunCmd) : SendOf :=
  let e := k.entry
  let t := d.layoutTab k.tenant (u32 e 16)
  let n := match d.layoutShape t with
    | some sh => 2 * t.qheads * dimOf sh.hdim
    | none => 0
  ⟨t.outQp, u64 e 48, t.outRsync, u32 e 24 + u16 e 42 * n, u16 e 44 * n⟩

/-- The end of an attention command (R123, R124): the addition whatever the status; an ATTN_STEP that reaches the target
posts the output send. A command that lost a hall write ends WRITE_LOST unless another status ends it (R113). -/
def Dev.attEnd (d : Dev) (k : RunCmd) (n0 st : Nat) (res : List Nat) : Dev :=
  let (off, target) := doneOf k.entry
  let (d, ds, hit) := d.doneAdd k.master k.tenant off target
  let st := if st ≠ stOK then st else if ds ≠ stOK then ds else if k.lost then stWriteLost else stOK
  if hit ∧ opOf k.entry = opAttnStep then d.postSend { k with need := max k.need (d.needSince n0) } (d.stepSend k) st res []
  else d.endCmd k n0 st res

/-- What befell the core of a command as it ran (R107, R118): corrected errors and waits of the matrix engine counted. -/
def Dev.coreEvents (d : Dev) (k : RunCmd) (ev : CoreEvents) : Dev :=
  match k.core with
  | none => d
  | some n => (d.bump Fld.ATT_CORE_NUM_CORR ev.corrected.toNat n).bump Fld.ATT_CORE_STALL_OPERAND ev.waits.toNat n

/-- An uncorrectable error in a core (R107, R346): the core is FAILED; the command's row ends it with CRC_FAULT. -/
def Dev.coreFailed (d : Dev) (k : RunCmd) : Dev :=
  match k.core with
  | none => d
  | some n =>
    let d := (d.put Fld.ATT_CORE_ERR_UNCORR 1 n).put Fld.ATT_CORE_STAT_STATE csFailed n
    let (a, d) := d.choose (2 ^ 64)
    (d.logEv evEccUncorr k.master a).logEv evUnitFailed k.master (n % 256)

/-- A fault raised by an attention command; the fifth ends it by `fin`. -/
def Dev.attFault (d : Dev) (k : RunCmd) (kind : FaultKind) (fin : Dev → Nat → Dev) : Dev :=
  match d.raiseFault k kind with
  | (true, d) => fin d stPageFault
  | (false, d) => d

/-! ## ATTN_MERGE -/

/-- Offset of the new rows of KV head `h` of entry `e` in a head area (R127). -/
def headRow (t : StepTab) (sh : Shape) (head e h : Nat) : Nat :=
  let dim := dimOf sh.hdim
  head + e * (2 * t.qheads * dim + 4 * sh.heads * dim) + 2 * t.qheads * dim + h * 4 * dim

/-- The entries of a range in the order of the merge: by segment as they first appear, in entry order within one. -/
def Dev.mergeOrder (d : Dev) (t : StepTab) (first count : Nat) : List Nat :=
  let es := d.liveEntries t first count
  let segs := es.foldl (fun (acc : List Nat) e => if acc.contains (d.tagSeg t e) then acc else acc ++ [d.tagSeg t e]) []
  segs.flatMap fun s => es.filter fun e => d.tagSeg t e == s

/-- Whether the entries of each segment carry consecutive positions from `PAGED` + `LROWS` on and all lie in the range (R130). -/
def Dev.mergeOk (d : Dev) (t : StepTab) (first count l : Nat) : Bool :=
  let es := d.liveEntries t first count
  es.all fun e =>
    let i := d.entryRec t e
    let before := (es.filter fun f => d.tagSeg t f == d.tagSeg t e && decide (f < e)).length
    d.tagPos t e == d.paged i l + d.lrows i l + before
      && (d.liveEntries t 0 t.nentries).all fun f => d.tagSeg t f != d.tagSeg t e || (decide (first ≤ f) && decide (f < first + count))

/-- The rows of one entry written into the bodies of every head (R131), their keys rotated; how many values were not finite. -/
def Dev.putRows (d : Dev) (t : StepTab) (sh : Shape) (tab : List Byte) (head i l e : Nat) : Dev × Nat :=
  let dim := dimOf sh.hdim
  let p := d.tagPos t e
  (List.range sh.heads).foldl (fun (r : Dev × Nat) h =>
    let row := r.1.hall.readBytes (headRow t sh head e h) (4 * dim)
    let key := bf16Vals (row.take (2 * dim))
    let key' := if t.rope then ropeRow t tab key else key
    (r.1.dramPut (r.1.rowAddr i l h p) (bf16Bytes key' ++ row.drop (2 * dim)), r.2 + (if t.rope then badBf16 key' else 0))) (d, 0)

/-- Rows appended and counted in one header write (R131), the landing rows mirrored before it (R328). -/
def Dev.countRows (d : Dev) (i l n : Nat) : Dev :=
  if n = 0 then d
  else
    let first := d.paged i l + d.lrows i l
    let d := if d.loads i || d.get Fld.PAIR_MCLASS_CLASS (d.rTenant i) == 2 then
        (List.range (d.rHeads i)).foldl (fun d h => d.mirror [.rows (BitVec.ofNat 15 i) (BitVec.ofNat 8 l) (BitVec.ofNat 8 h) (BitVec.ofNat 32 first)
          ((List.range n).flatMap fun q => d.row i l h (first + q))]) d
      else d
    d.setHdr i l (d.paged i l) (d.lrows i l + n)

/-- What a merge comes to. -/
inductive Merged where
  | done | held
  | fault (k : FaultKind)
  | fin (st : Nat)
  | wait
deriving DecidableEq, Repr

/-- One entry's rows made ready for (R50, R53, R131): the landing bodies a converted mirror lacks, the partial page expanded, and
the rotary row read. -/
inductive Ready where
  | go (tab : List Byte) (d : Dev)
  | stop (m : Merged) (d : Dev)

def Dev.readyRow (d : Dev) (k : RunCmd) (t : StepTab) (sh : Shape) (head l e : Nat) : Ready :=
  let i := d.entryRec t e
  match d.takeLanding i with
  | none => .stop .held d.refusedPool
  | some d =>
    match d.expandStop i l with
    | some .absent => .stop (.fault (.layer i l)) d
    | some (.stale p tag) => .stop (.fin stAborted) (d.tagMismatch k.master p tag)
    | some _ => .stop (.fin stAborted) d
    | none =>
      let d := d.expand i l
      let bad := d.badWords (headRow t sh head e 0) (4 * sh.heads * dimOf sh.hdim)
      if !bad.isEmpty then .stop (.fin stCrcFault) (d.meetBad k.master bad)
      else match d.ropeTab k t (d.tagPos t e) with
        | .fault kd => .stop (.fault kd) d
        | .abort => .stop (.fin stAborted) d
        | .status st => .stop (.fin st) d
        | .wait d => .stop .wait d
        | .ok tab d => .go tab d

/-- Where a merge stands: entries whose rows are written, of which the last `un` of the running segment are not yet counted. -/
structure MergeAt where
  rows : Nat
  un   : Nat
deriving DecidableEq, Repr

/-- Entries merged one after another (R53, R131). A segment's rows are counted in one header write after its last row. A row that
would fall on an unflushed half holds the append: what is written is counted, the half is flushed at once (R50), a record without landing bodies (a converted mirror, R337) is given them first, and holds the append
while there is no room. -/
def Dev.mergeFrom (k : RunCmd) (t : StepTab) (sh : Shape) (head l : Nat) : List Nat → MergeAt → Dev → Merged × MergeAt × Dev
  | [], m, d => (.done, m, d)
  | e :: es, m, d =>
    let i := d.entryRec t e
    let p := d.tagPos t e
    match d.readyRow k t sh head l e with
    | .stop .held d => (.held, { m with un := 0 }, d.countRows i l m.un)
    | .stop x d => (x, m, d)
    | .go tab d =>
      let full := decide (d.paged i l + 2 * d.rT i ≤ p)
      let (ok, d) := if full then
((d.countRows i l m.un).stall 6 0).flush i l (d.rT i)
        else (true, d)
      let m := if full then { m with un := 0 } else m
      if !ok then (.held, m, d)
      else
        let (d, bad) := d.putRows t sh tab head i l e
        let d := d.countBad k bad
        let last := match es with
          | [] => true
          | f :: _ => d.tagSeg t f != d.tagSeg t e
        let d := if last then d.countRows i l (m.un + 1) else d
        Dev.mergeFrom k t sh head l es ⟨m.rows + 1, if last then 0 else m.un + 1⟩ d

/-- Entries of a merge whose rows a header write has counted (R128, R131): `k.pos` written, the last `k.res` of them not counted. -/
def RunCmd.merged (k : RunCmd) : Nat := k.pos - k.res.getD 0 0

/-- A merge run from where it stands (R131): `k.holds` marks an append held. -/
def Dev.runMerge (d : Dev) (k : RunCmd) : Dev :=
  let n0 := d.pair.next
  let e := k.entry
  let t := d.stepTab (u32 e 16)
  match d.tableShape t with
  | none => d.attEnd k n0 stAborted [k.merged]
  | some sh =>
    let es := (d.mergeOrder t (u16 e 24) (u16 e 26)).drop k.pos
    let blocked := match es with
      | [] => false
      | f :: _ => k.holds && ((d.takeLanding (d.entryRec t f)).isNone ||
          decide (d.paged (d.entryRec t f) (u8 e 28) + 2 * d.rT (d.entryRec t f) ≤ d.tagPos t f))
    if blocked then d
    else
      let d := if k.holds then d.bump Fld.MEM_STALL_TIME ((d.ns - k.since) / 1000) 6 else d
      let (r, m, d) := Dev.mergeFrom k t sh (u32 e 20) (u8 e 28) es ⟨k.pos, k.res.getD 0 0⟩ d
      let k := { k with pos := m.rows, res := [m.un], holds := false, need := max k.need (d.needSince n0) }
      match r with
      | .done => d.attEnd k n0 stOK [k.merged]
      | .fin st => d.attEnd k n0 st [k.merged]
      | .held => d.setAt { k with holds := true, since := d.ns }
      | .wait => (d.setAt k).markWait k
      | .fault kd => (d.setAt k).attFault k kd (fun d st => d.attEnd k n0 st [k.merged])

/-- The checks of a merge over its whole range (R130). -/
def Dev.mergeCheck (d : Dev) (k : RunCmd) : Dev × Nat :=
  let e := k.entry
  let first := u16 e 24
  let count := u16 e 26
  let (d, st) := d.stepCheck k (u32 e 16) first count
  if st ≠ stOK then (d, st)
  else
    let t := d.stepTab (u32 e 16)
    match d.tableShape t with
    | none => (d, stAborted)
    | some sh =>
      if count = 0 ∨ sh.layers ≤ u8 e 28 ∨ u32 e 20 % 8 ≠ 0 ∨ (t.rope = true ∧ (t.ropeHalf = 0 ∨ dimOf sh.hdim < 2 * t.ropeHalf)) then (d, stAborted)
      else if !(d.mergeOk t first count (u8 e 28)) then (d, stAborted)
      else if (d.liveEntries t first count).all (fun f => d.hallOk (some k.tenant) (headRow t sh (u32 e 20) f 0) (4 * sh.heads * dimOf sh.hdim)) then (d, stOK)
      else (d.deny, stTenantMismatch)

/-- Whether a command has already begun: what its range check decided stands. -/
def RunCmd.begun (k : RunCmd) : Bool := k.stage == 1

/-- An ATTN_MERGE begun or taken up again (R130, R131). -/
def Dev.merge (d : Dev) (k : RunCmd) : Dev :=
  if k.begun then d.runMerge k
  else
    let (d, st) := d.mergeCheck k
    if st ≠ stOK then d.attEnd k d.pair.next st [0]
    else
      let k := { k with stage := 1 }
      let d := d.setAt k
      ((d.named k.tenant k.entry).foldl Dev.touch d).runMerge k

/-- ATTN_MERGE (R107, R130, R131). `ev`: what befalls the core as it runs. -/
def execAttnMerge (c : CmdId) (ev : CoreEvents) (s : State) : Host.Outcome State Fault Refusal :=
  onHall (fun d =>
    match d.act c opAttnMerge with
    | none => d
    | some k =>
      if k.status ≠ stOK then d.attEnd k d.pair.next k.status [k.merged]
      else
        let d := d.coreEvents k ev
        if ev.uncorrectable then (d.coreFailed k).attEnd k d.pair.next stCrcFault [k.merged] else d.merge k) s

/-- APPEND_HOLD_TIMEOUT (R52): an append held longer than the fault timeout ends its command. -/
def execAppendHoldTimeout (c : CmdId) (t : BitVec 64) (s : State) : Host.Outcome State Fault Refusal :=
  onHall (fun d =>
    let d := d.advanceTo t.toNat
    match d.cmdAs c opAttnMerge .run with
    | none => d
    | some k =>
      if k.holds ∧ k.since + 1000 * d.get Fld.MEM_FAULT_CFG_TIMEOUT ≤ d.ns then
        (d.bump Fld.MEM_STALL_TIME ((d.ns - k.since) / 1000) 6).attEnd k d.pair.next stQuotaBlocked [k.merged]
      else d) s

/-! ## One attention unit (R135) -/

/-- A streaming row: its blocks with their scale bytes. -/
abbrev StreamRow := List (List FVal × Nat)

/-- A row of BF16 codes as blocks with scale byte 0x7F (R96). -/
def bf16Row (x : List Nat) : StreamRow := (chunks 32 (x.length / 32) x).map fun b => (b.map decBf16, 0x7F)

/-- Whether an FP32 code is NaN or infinite, as a count. -/
def bad32 (x : Nat) : Nat := if (dec32 x).nonfinite then 1 else 0

/-- A dot product block by block (R97, R100), with the accumulator writes that were not finite (R428). -/
def dotRow (key q : StreamRow) : Nat × Nat :=
  (key.zip q).foldl (fun (r : Nat × Nat) kb =>
    let a := dotBlock kb.1.1 kb.1.2 kb.2.1 kb.2.2 r.1
    (a, r.2 + bad32 a)) (0, 0)

/-- State of the online softmax: maximum, sum, outputs and the count of R428. -/
structure Soft where
  m   : Nat
  l   : Nat
  o   : List Nat
  bad : Nat
deriving DecidableEq, Repr

/-- -infinity in FP32. -/
def negInf32 : Nat := 0xFF800000

/-- One tile of keys and values (R135). A tile whose scores are all −infinity makes every output NaN, a later tile too, as R136 says in
words (log entry 185). -/
def tileStep (q : StreamRow) (scale : Nat) (st : Soft) (tile : List (StreamRow × StreamRow)) : Soft :=
  let dots := tile.map fun kv => dotRow kv.1 q
  let z := dots.map fun d => mul32 d.1 scale
  let mn := z.foldl max32 st.m
  let alpha := if z.all (· == negInf32) then nan32 else exp2_32 (sub32 st.m mn)
  let pk := z.map fun x => encBf16 (dec32 (exp2_32 (sub32 x mn)))
  let r := treeSum (pk.map (· <<< 16))
  let o := st.o.map (mul32 · alpha)
  let step (ob : List Nat × Nat) (pv : Nat × StreamRow) : List Nat × Nat :=
    let rows := (List.range pv.2.length).map fun b =>
      let (v, sv) := pv.2.getD b ([], 0x7F)
      outerBlock v sv (decBf16 pv.1) 0x7F (slice ob.1 (32 * b) 32)
    let o' := rows.flatten
    (o', ob.2 + (o'.map bad32).foldl (· + ·) 0)
  let (o, bad) := (pk.zip (tile.map (·.2))).foldl step (o, (dots.map (·.2)).foldl (· + ·) 0)
  { m := mn, l := fma32 st.l alpha r, o := o, bad := st.bad + bad }

/-- attend of R135: the output's BF16 codes, and the accumulator writes that were not finite. -/
def attend (dim scale : Nat) (q : StreamRow) (rows : List (StreamRow × StreamRow)) : List Nat × Nat :=
  let st := (chunks 32 (ceilDiv rows.length 32) rows).foldl (tileStep q scale) ⟨negInf32, 0, List.replicate dim 0, 0⟩
  (st.o.map (fun x => encBf16 (dec32 (mul32 x (rcp32 st.l)))), st.bad)

/-! ## ATTN_STEP -/

/-- Row `t` of one half of a page in split form (R35, R77). -/
def Dev.splitRow (d : Dev) (p half t : Nat) : StreamRow :=
  let e := d.page p
  let c := dimOf e.hdim / 32
  (List.range c).map fun k =>
    let b := 256 * half + t * c + k
    ((expandOperand (.z e.mode) (d.dram.readBytes (e.gran * granBytes + b * blockSize e.mode) (blockSize e.mode))).1, (d.dram.read (d.scaleAddr p + b)).toNat)

/-- Bytes of a retrieval record (R139). -/
def rselBytes (t : StepTab) (sh : Shape) : Nat := ceilDiv (16 + 2 * t.qheads * dimOf sh.hdim + 2 * sh.heads * t.p) 4096 * 4096

/-- The retrieval record of an entry's segment for a layer; none when the segment has none. -/
def Dev.rselVa (d : Dev) (t : StepTab) (sh : Shape) (e l : Nat) : Option Nat :=
  let va := d.segRsel t ((d.segOf t (d.tagSeg t e)).getD 0)
  if va = 0 then none else some (va + l * rselBytes t sh)

/-- The stroke difference `a - b` of bits [31:0] (R142). -/
def strokesPast (now then' : Nat) : Nat := subMod 32 now then'

/-- The visible slots of a unit (R132, R142), and how the selection went: 0 none in use, 1 applied, 2 stale. -/
def Dev.visible (d : Dev) (k : RunCmd) (t : StepTab) (sh : Shape) (useSel : Bool) (e i l h : Nat) : Res (List Nat × Nat) :=
  let u := ceilDiv (d.paged i l) (d.rT i)
  match (if useSel ∧ t.sink + t.window + t.p < u then d.rselVa t sh e l else none) with
  | none => .ok (List.range u, 0) d
  | some va =>
    (d.vaRead (some (k.ring, k.index)) k.tenant (va + 4) 4).andThen fun w d =>
      if t.maxAge < strokesPast d.stroke32 (ofBytes w) then .ok (List.range u, 2) d
      else (d.vaRead (some (k.ring, k.index)) k.tenant (va + 16 + 2 * t.qheads * dimOf sh.hdim + 2 * h * t.p) (2 * t.p)).andThen fun bs d =>
        let listed := (bf16Vals bs).filter fun j => decide (j < u)
        .ok (distinct (List.range t.sink ++ listed ++ (List.range t.window).map (u - t.window + ·)), 1) d

/-- The keys and values of a unit in order (R132), with the pages read. -/
inductive Keys where
  | rows (l : List (StreamRow × StreamRow)) (pages : Nat)
  | absent
  | stale (p tag : Nat)
deriving DecidableEq, Repr

/-- Rows of the visible slots, page by page. -/
def Dev.slotRows (d : Dev) (i l h p : Nat) : List Nat → List (StreamRow × StreamRow) → Nat → Keys
  | [], acc, n => .rows acc n
  | j :: js, acc, n =>
    let lo := j * d.rT i
    let hi := min (d.rT i) (min (d.paged i l) (p + 1) - lo)
    if p < lo ∨ d.paged i l ≤ lo then Dev.slotRows d i l h p js acc n
    else match d.slot i j l h with
      | .absent => .absent
      | .stale q tag => .stale q tag
      | .empty => .stale 0 0
      | .page q => Dev.slotRows d i l h p js (acc ++ (List.range hi).map fun x => (d.splitRow q 0 x, d.splitRow q 1 x)) (n + 1)

/-- Visible keys: pages first, then body rows (R132). -/
def Dev.unitKeys (d : Dev) (i l h p : Nat) (slots : List Nat) : Keys :=
  match d.slotRows i l h p slots [] 0 with
  | .rows acc n =>
    let body := (List.range (d.lrows i l)).filter fun x => decide (d.paged i l + x ≤ p)
    .rows (acc ++ body.map fun x =>
      let kv := d.rowKV i l h (d.paged i l + x)
      (bf16Row kv.1, bf16Row kv.2)) n
  | r => r

/-- Query head `g` of an entry as the head area holds it (R127). -/
def Dev.queryRow (d : Dev) (t : StepTab) (sh : Shape) (head e g : Nat) : List Nat :=
  let dim := dimOf sh.hdim
  bf16Vals (d.hall.readBytes (head + e * (2 * t.qheads * dim + 4 * sh.heads * dim) + 2 * dim * g) (2 * dim))

/-- What one unit gives: outputs of its query heads, keys attended (once a unit, log entry 186), pages read, the count of R428 but
for the outputs, how a selection went, and the stale reference that ended it (R41; page and tag 0: an empty slot, log entry 178). -/
structure UnitOut where
  out   : List Nat
  keys  : Nat
  pages : Nat
  bad   : Nat
  sel   : Nat
  stale : Option (Nat × Nat)
deriving DecidableEq, Repr

/-- The queries of a unit, rotated when `ROPE` is 1, and their count of R428. -/
def Dev.unitQueries (d : Dev) (t : StepTab) (sh : Shape) (tab : List Byte) (head e h : Nat) : List (List Nat) × Nat :=
  let qs := (List.range sh.group).map fun g =>
    let q := d.queryRow t sh head e (h * sh.group + g)
    if t.rope then ropeRow t tab q else q
  (qs, if t.rope then (qs.map badBf16).foldl (· + ·) 0 else 0)

/-- The captured queries of a unit stored in its retrieval record (R139): those of the KV heads that the command covers (log
entry 187). -/
def Dev.capture (d : Dev) (k : RunCmd) (t : StepTab) (sh : Shape) (e l h : Nat) (qs : List (List Nat)) : Res Nat :=
  let top := (d.liveEntries t 0 t.nentries).all fun f => d.tagSeg t f != d.tagSeg t e || decide (d.tagPos t f ≤ d.tagPos t e)
  match (if bit (u8 k.entry 35) 0 ∧ top then d.rselVa t sh e l else none) with
  | none => .ok 0 d
  | some va =>
    let c := some (k.ring, k.index)
    (d.vaWrite c k.tenant va (toBytes 4 d.stroke32)).andThen fun _ d =>
      (d.vaWrite c k.tenant (va + 16 + 2 * dimOf sh.hdim * (h * sh.group)) (qs.flatMap bf16Bytes)).andThen fun _ d =>
        .ok ((qs.map badBf16).foldl (· + ·) 0) d

/-- One unit computed (R132 to R136, R139, R142). -/
def Dev.unit (d : Dev) (k : RunCmd) (t : StepTab) (sh : Shape) (head e l h : Nat) : Res UnitOut :=
  let i := d.entryRec t e
  let p := d.tagPos t e
  (d.ropeTab k t p).andThen fun tab d =>
    let (qs, qbad) := d.unitQueries t sh tab head e h
    (d.capture k t sh e l h qs).andThen fun cbad d =>
      (d.visible k t sh (bit (u8 k.entry 35) 1) e i l h).andThen fun vs d =>
        match d.unitKeys i l h p vs.1 with
        | .absent => .fault (.layer i l)
        | .stale q tag => .ok ⟨[], 0, 0, qbad + cbad, 0, some (q, tag)⟩ d
        | .rows rows pages =>
          let rs := qs.map fun q => attend (dimOf sh.hdim) t.scale (bf16Row q) rows
          let out := rs.flatMap (·.1)
          .ok ⟨out, rows.length, pages, qbad + cbad + (rs.map (·.2)).foldl (· + ·) 0, vs.2, none⟩ d

/-- The units of a command in order (R129). -/
def unitList (e : Entry) : List (Nat × Nat) :=
  (List.range (u16 e 30)).flatMap fun x => (List.range (u8 e 34)).map fun h => (u16 e 28 + x, u8 e 33 + h)

/-- Where a unit's output lies, and its elements (R127). -/
def unitOff (e : Entry) (t : StepTab) (sh : Shape) (x : Nat × Nat) : Nat :=
  u32 e 24 + x.1 * 2 * t.qheads * dimOf sh.hdim + x.2 * sh.group * 2 * dimOf sh.hdim
def unitElems (sh : Shape) : Nat := sh.group * dimOf sh.hdim

/-- A unit's output written to the hall (R109, R113, R117, R127): its status. -/
def Dev.putOut (d : Dev) (k : RunCmd) (a : Nat) (xs : List Nat) : Dev × Nat :=
  if d.hallOk (some k.tenant) a (2 * xs.length) then
    match d.hallStoreFor (.cmd k.id) k.master a (bf16Bytes xs) with
    | (d, bad) => (d, if bad then stCrcFault else stOK)
  else (d.deny, stTenantMismatch)

/-- A unit's output delivered, its non-finite elements counted once they are (R136, R428). -/
def Dev.deliver (d : Dev) (k : RunCmd) (a : Nat) (xs : List Nat) : Dev × Nat :=
  match d.putOut k a xs with
  | (d, st) => (if st = stOK then d.countBad k (badBf16 xs) else d, st)

/-- 0x7FC0 delivered to every output element of units (R133). -/
def Dev.nanUnits (d : Dev) (k : RunCmd) (us : List (Nat × Nat)) : Dev :=
  let t := d.layoutTab k.tenant (u32 k.entry 16)
  match d.layoutShape t with
  | none => d
  | some sh => us.foldl (fun d x => (d.deliver k (unitOff k.entry t sh x) (List.replicate (unitElems sh) nanBf16)).1) d

/-- An ATTN_STEP that ends early (R133): the units not finished deliver NaN. -/
def Dev.stepFail (d : Dev) (k : RunCmd) (n0 st : Nat) : Dev :=
  (d.nanUnits k ((unitList k.entry).drop k.pos)).attEnd k n0 st [k.res.getD 0 0, k.res.getD 1 0]

/-- How the selection of a unit is counted (R142, R143). -/
def Dev.countSel (d : Dev) (k : RunCmd) (sel : Nat) : Dev :=
  match k.core with
  | some c => if sel = 1 then d.bump Fld.ATT_CORE_RSEL_SELECTED 1 c else if sel = 2 then d.bump Fld.ATT_CORE_RSEL_FALLBACK 1 c else d
  | none => d

/-- Uncorrectable words of the hall among an entry's queries of one KV head (R117, R127). -/
def Dev.badQuery (d : Dev) (t : StepTab) (sh : Shape) (head e h : Nat) : List Nat :=
  let dim := dimOf sh.hdim
  d.badWords (head + e * (2 * t.qheads * dim + 4 * sh.heads * dim) + 2 * dim * (h * sh.group)) (2 * dim * sh.group)

/-- Units run from where the command stands; `k.pos` units are finished, `k.res` counts keys and pages (R128, R133). -/
def Dev.runUnits (t : StepTab) (sh : Shape) (n0 : Nat) : List (Nat × Nat) → RunCmd → Dev → Dev
  | [], k, d => d.attEnd k n0 stOK [k.res.getD 0 0, k.res.getD 1 0]
  | x :: xs, k, d =>
    let l := u8 k.entry 32
    let a := unitOff k.entry t sh x
    if d.tagSeg t x.1 = segPad then
      match d.deliver k a (List.replicate (unitElems sh) 0) with
      | (d, st) => if st ≠ stOK then d.stepFail k n0 st else Dev.runUnits t sh n0 xs { k with pos := k.pos + 1 } d
    else if !(d.badQuery t sh (u32 k.entry 20) x.1 x.2).isEmpty then
      (d.meetBad k.master (d.badQuery t sh (u32 k.entry 20) x.1 x.2)).stepFail k n0 stCrcFault
    else
      match d.unit k t sh (u32 k.entry 20) x.1 l x.2 with
      | .abort => d.stepFail k n0 stAborted
      | .status st => d.stepFail k n0 st
      | .wait d => (d.setAt k).markWait k
      | .fault kd => (d.setAt k).attFault k kd (fun d st => d.stepFail k n0 st)
      | .ok u d =>
        let d := d.countBad k u.bad
        match u.stale with
        | some (p, tag) => (if tag = 0 then d else d.tagMismatch k.master p tag).stepFail k n0 stAborted
        | none =>
          match (d.countSel k u.sel).deliver k a u.out with
          | (d, st) =>
            if st ≠ stOK then d.stepFail k n0 st
            else Dev.runUnits t sh n0 xs { k with pos := k.pos + 1, res := [k.res.getD 0 0 + u.keys, k.res.getD 1 0 + u.pages] } d

/-- The checks of an ATTN_STEP over its whole range (R126, R32, R128, R133). -/
def Dev.stepRange (d : Dev) (k : RunCmd) : Dev × Nat :=
  let e := k.entry
  let (d, st) := d.stepCheck k (u32 e 16) (u16 e 28) (u16 e 30)
  if st ≠ stOK then (d, st)
  else
    let t := d.stepTab (u32 e 16)
    match d.tableShape t with
    | none => (d, stAborted)
    | some sh =>
      let l := u8 e 32
      let dim := dimOf sh.hdim
      if sh.layers ≤ l ∨ sh.heads < u8 e 33 + u8 e 34 ∨ u32 e 20 % 8 ≠ 0 ∨ u32 e 24 % 8 ≠ 0
          ∨ (t.rope = true ∧ (t.ropeHalf = 0 ∨ dim < 2 * t.ropeHalf)) then (d, stAborted)
      else if (d.liveEntries t (u16 e 28) (u16 e 30)).any (fun f => decide (d.paged (d.entryRec t f) l + d.lrows (d.entryRec t f) l ≤ d.tagPos t f))
        then (d, stAborted)
      else if (d.liveEntries t (u16 e 28) (u16 e 30)).all (fun f =>
          d.hallOk (some k.tenant) (u32 e 20 + f * (2 * t.qheads * dim + 4 * sh.heads * dim)) (2 * t.qheads * dim)) then (d, stOK)
      else (d.deny, stTenantMismatch)

/-- An ATTN_STEP begun or taken up again (R133, R135). -/
def Dev.stepRun (d : Dev) (k : RunCmd) : Dev :=
  let n0 := d.pair.next
  let (d, st) := if k.begun then (d, stOK) else d.stepRange k
  if st ≠ stOK then d.stepFail k n0 st
  else
    let d := if k.begun then d else (d.named k.tenant k.entry).foldl Dev.touch d
    let k := { k with stage := 1 }
    let t := d.stepTab (u32 k.entry 16)
    match d.tableShape t with
    | none => d.stepFail k n0 stAborted
    | some sh => Dev.runUnits t sh n0 ((unitList k.entry).drop k.pos) k d

/-- ATTN_STEP (R107, R133, R135). `ev`: what befalls the core as it runs. -/
def execAttnStep (c : CmdId) (ev : CoreEvents) (s : State) : Host.Outcome State Fault Refusal :=
  onHall (fun d =>
    match d.act c opAttnStep with
    | none => d
    | some k =>
      if k.status ≠ stOK then d.stepFail k d.pair.next k.status
      else
        let d := d.coreEvents k ev
        if ev.uncorrectable then (d.coreFailed k).stepFail k d.pair.next stCrcFault else d.stepRun k) s

/-! ## RETR_SELECT -/

/-- Whether a RETR_SELECT stands at the head of its ring under the index a row names (R140). -/
def Dev.retrHead (d : Dev) (c : CmdId) : Bool :=
  let r := c.ring.toNat
  d.ready r && d.holdsRetr r && d.ringCI r == c.index.toNat

/-- RETR_SELECT reaches the head of its ring (R140, R143): it stays there until `ANGLE` in this stroke, or in the next when it has
passed. -/
def execRetrSelect (c : CmdId) (s : State) : Host.Outcome State Fault Refusal :=
  onHall (fun d =>
    let r := c.ring.toNat
    let e := d.head r
    if !(d.retrHead c) ∨ d.retr.any (fun w => w.ring == r && w.index == c.index.toNat) then d
    else if !(d.flag Fld.IDX_SUM_BASE_EN) ∨ (d.handing && (d.named (d.ringTenant r) e).any d.pair.returned.contains) then d.popEnd r stAborted []
    else
      let n := if u16 e 22 < d.angle then d.clk.number + 1 else d.clk.number
      { d with retr := d.retr ++ [(⟨r, c.index.toNat, n⟩ : RetrWait)] }) s

/-- bound_g of R141 for one query head; the summary's bytes. -/
def boundOf (dim : Nat) (q : List Nat) (sum : List Byte) : Nat :=
  let s : Int := ((sum.getD 512 0).toNat : Int) - 127
  (List.range dim).foldl (fun b i =>
    let x := decBf16 (q.getD i 0)
    let hi := (decElem fmtE4M3 (sum.getD i 0).toNat).scale s
    let lo := (decElem fmtE4M3 (sum.getD (256 + i) 0).toNat).scale s
    enc32 (fsum [dec32 b, fmax (fmul x hi) (fmul x lo)])) 0

/-- +infinity in FP32. -/
def posInf32 : Nat := 0x7F800000

/-- The score of candidate page `p` (R141); NaN counts as +infinity. -/
def Dev.scoreOf (d : Dev) (dim : Nat) (qs : List (List Nat)) (p : Nat) : Nat :=
  let sum := d.dram.readBytes (d.sumAddr p) 528
  if sum.getD 512 0 = 0xFF ∨ ofBytes (slice sum 516 3) ≠ (d.page p).vtag then posInf32
  else
    let bs := qs.map fun q => boundOf dim q sum
    let m := match bs with
      | [] => 0
      | b :: rest => rest.foldl max32 b
    if (dec32 m).isNan then posInf32 else m

/-- The slots kept (R141): highest scores first, the lower slot among equals, then in ascending order. -/
def keepBest (n : Nat) (l : List (Nat × Nat)) : List Nat :=
  distinct (((sortBy (fun (a b : Nat × Nat) => flt (dec32 b.2) (dec32 a.2)) l).take n).map (·.1))

/-- The list of one KV head: its slots, then 0xFFFF (R139, R141); or the first candidate slot that holds no page to score. -/
def Dev.selectHead (d : Dev) (t : StepTab) (sh : Shape) (q : List Byte) (i l h : Nat) : Except Slot (List Byte) :=
  let dim := dimOf sh.hdim
  let u := ceilDiv (d.paged i l) (d.rT i)
  let cand := (List.range (u - t.window - t.sink)).map (t.sink + ·)
  let qs := (List.range sh.group).map fun g => bf16Vals (slice q (2 * dim * (h * sh.group + g)) (2 * dim))
  match (cand.map fun j => d.slot i j l h).find? fun x => !x.present with
  | some x => .error x
  | none =>
    let scored := cand.map fun j => (j, match d.slot i j l h with
      | .page p => d.scoreOf dim qs p
      | _ => posInf32)
    let kept := keepBest t.p scored
    .ok ((kept ++ List.replicate (t.p - kept.length) 0xFFFF).flatMap (toBytes 2))

/-- How a selection over segments stands: lists written, segments skipped, and a stale reference that ends the command (R41). -/
structure SelAt where
  sets  : Nat
  skip  : Nat
  stale : Option (Nat × Nat)
deriving DecidableEq, Repr

/-- The lists of one layer's KV heads, or the first slot that cannot be scored. -/
def Dev.selectLists (d : Dev) (t : StepTab) (sh : Shape) (q : List Byte) (i l : Nat) : Except Slot (List Byte) :=
  (List.range sh.heads).foldl (fun r h => r.bind fun bs => (d.selectHead t sh q i l h).map fun more => bs ++ more) (.ok [])

/-- One layer of one segment selected (R141). -/
def Dev.selectLayer (d : Dev) (k : RunCmd) (t : StepTab) (sh : Shape) (va i l : Nat) (m : SelAt) : Res SelAt :=
  let c := some (k.ring, k.index)
  let rec' := va + l * rselBytes t sh
  (d.vaRead c k.tenant (rec' + 16) (2 * t.qheads * dimOf sh.hdim)).andThen fun q d =>
    match d.selectLists t sh q i l with
    | .error .absent => .fault (.layer i l)
    | .error (.stale p tag) => .ok { m with stale := some (p, tag) } d
    | .error _ => .ok { m with stale := some (0, 0) } d
    | .ok bs => (d.vaWrite c k.tenant (rec' + 16 + 2 * t.qheads * dimOf sh.hdim) bs).andThen fun _ d =>
      (d.vaWrite c k.tenant (rec' + 4) (toBytes 4 d.stroke32)).andThen fun _ d => .ok { m with sets := m.sets + sh.heads } d

/-- Layers of one segment one after another; one whose capture is too old is passed over (R140): each layer's own record decides,
and a segment counts as skipped when none of its layers was selected (log entry 188). -/
def Dev.selectLayers (k : RunCmd) (t : StepTab) (sh : Shape) (va i : Nat) : List Nat → SelAt → Dev → Res SelAt
  | [], m, d => .ok m d
  | l :: ls, m, d =>
    if m.stale.isSome then .ok m d
    else (d.vaRead (some (k.ring, k.index)) k.tenant (va + l * rselBytes t sh) 4).andThen fun w d =>
      if t.maxAge < strokesPast d.stroke32 (ofBytes w) then Dev.selectLayers k t sh va i ls m d
      else (d.selectLayer k t sh va i l m).andThen fun m d => Dev.selectLayers k t sh va i ls m d

/-- Segments with a retrieval record one after another. -/
def Dev.selectSegs (k : RunCmd) (t : StepTab) (sh : Shape) : List Nat → SelAt → Dev → Res SelAt
  | [], m, d => .ok m d
  | x :: xs, m, d =>
    let va := d.segRsel t x
    if m.stale.isSome then .ok m d
    else if va = 0 then Dev.selectSegs k t sh xs { m with skip := m.skip + 1 } d
    else
      let ls := (List.range (u8 k.entry 21)).map (u8 k.entry 20 + ·)
      (Dev.selectLayers k t sh va (hIndex (d.segHandle t x)) ls m d).andThen fun m' d =>
        Dev.selectSegs k t sh xs (if m'.sets = m.sets then { m' with skip := m'.skip + 1 } else m') d

/-- The first failed check of a RETR_SELECT: its table, its handles, its layers (R126, R32, R128). Its statuses do not include
CRC_FAULT: a table that cannot be read ends it ABORTED (log entry 174). -/
def Dev.retrCheck (d : Dev) (k : RunCmd) : Dev × Nat :=
  let e := k.entry
  let off := u32 e 16
  let (d, st) := d.stepCheck k off 0 0
  if st ≠ stOK then (d, if st = stCrcFault then stAborted else st)
  else
    let t := d.stepTab off
    let hs := ((List.range t.nsegs).filter fun x => d.segRsel t x != 0).map (d.segHandle t)
    let st := firstBad (hs.map (d.checkHandle · k.tenant k.order))
    if st ≠ stOK then (d, st)
    else match d.tableShape t with
      | none => (d, stAborted)
      | some sh => if sh.layers < u8 e 20 + u8 e 21 then (d, stAborted) else (d, stOK)

/-- A RETR_SELECT whose angle has come (R140, R141). -/
def Dev.retrRun (d : Dev) (k : RunCmd) : Dev :=
  let (d, st) := d.retrCheck k
  if st ≠ stOK then d.endCmd k d.pair.next st []
  else
    let t := d.stepTab (u32 k.entry 16)
    match d.tableShape t with
    | none => d.endCmd k d.pair.next stAborted []
    | some sh =>
      d.settleCmd k ((Dev.selectSegs k t sh (List.range t.nsegs) ⟨0, 0, none⟩ d).andThen fun m d =>
        match m.stale with
        | some (p, tag) => .ok (stAborted, []) (if tag = 0 then d else d.tagMismatch mIndex p tag)
        | none => .ok (stOK, [m.sets, m.skip]) ((d.bump Fld.IDX_RSEL_STAT_SETS m.sets).bump Fld.IDX_RSEL_STAT_SKIPPED m.skip))

/-- Whether a held RETR_SELECT is due (R140, R439). -/
def Dev.retrDue (d : Dev) (c : CmdId) : Bool :=
  d.retr.any fun w => w.ring == c.ring.toNat && w.index == c.index.toNat && d.reached w.stroke (u16 (d.head c.ring.toNat) 22)

/-- A running RETR_SELECT taken up again, or one whose demotion has ended (R194). -/
def Dev.retrGo (d : Dev) (k : RunCmd) : Dev :=
  if k.status ≠ stOK then d.endCmd k d.pair.next k.status [] else d.retrRun k

/-- RETR_SELECT_START (R140, R141): at `ANGLE` the command leaves the head of its ring and runs, when the index engine has room. -/
def execRetrSelectStart (c : CmdId) (s : State) : Host.Outcome State Fault Refusal :=
  onHall (fun d =>
    match d.act c opRetrSelect with
    | some k => d.retrGo k
    | none =>
      let r := c.ring.toNat
      if !(d.retrHead c && d.retrDue c) then d
      else if !(d.flag Fld.IDX_SUM_BASE_EN) ∨ (d.handing && (d.named (d.ringTenant r) (d.head r)).any d.pair.returned.contains) then
        d.popEnd r stAborted []
      else if room engIndex ≤ d.running engIndex then d
      else
        let d := { (d.take r engIndex (d.isLc r (d.head r)) none .run) with retr := d.retr.filter fun w => w.ring != r }
        match d.act c opRetrSelect with
        | some k => d.retrGo k
        | none => d) s

end Sys2Proof.Machine
end

