-- ==== Sys2Proof/Machine/Adapter.lean ====
section
/-! DEFINITION. Machine/Adapter.lean: the larder and its directory, adapter bodies, the low-rank side path, patches on a
stream, and the loading and binding of adapters (chapter 7); the end of output sends. -/

namespace Sys2Proof.Machine

/-! ## The directory -/

/-- A directory entry (R164). -/
structure AdpE where
  tenant : Nat
  state  : Nat
  cls    : Nat
  mode   : Nat
  rank   : Nat
  gran   : Nat
  alpha  : Nat
  grans  : Nat
  stamp  : Nat
  crc    : Nat
deriving DecidableEq, Repr

/-- Entry states (R164). -/
def adEmpty : Nat := 0
def adLoading : Nat := 1
def adValid : Nat := 2
def adDraining : Nat := 3

/-- No adapter (R163). -/
def adpNone : Nat := 0xFFFF

def Dev.adp (d : Dev) (id : Nat) : AdpE :=
  let a := d.adpAddr id
  let w0 := d.dramWord a
  let w1 := d.dramWord (a + 8)
  { tenant := bits w0 63 56, state := bits w0 55 54, cls := bits w0 53 52, mode := bits w0 51 50, rank := bits w0 47 40 + 1, gran := bits w0 26 0,
    alpha := bits w1 63 32, grans := bits w1 31 0, stamp := d.dramWord (a + 16), crc := bits (d.dramWord (a + 24)) 63 32 }

/-- An entry's words written, `USERS` left as it is. -/
def Dev.setAdp (d : Dev) (id : Nat) (e : AdpE) : Dev :=
  let a := d.adpAddr id
  let w0 := e.tenant % 256 * 2 ^ 56 + e.state % 4 * 2 ^ 54 + e.cls % 4 * 2 ^ 52 + e.mode % 4 * 2 ^ 50 + (e.rank - 1) % 256 * 2 ^ 40 + e.gran % 2 ^ 27
  let d := d.dramPutN 8 (a + 8) (e.alpha % 2 ^ 32 * 2 ^ 32 + e.grans % 2 ^ 32)
  let d := d.dramPutN 8 (a + 16) e.stamp
  let d := d.dramPutN 4 (a + 28) e.crc
  d.dramPutN 8 a w0

/-- First byte of an entry's body in DRAM (R163). -/
def Dev.bodyAt (d : Dev) (e : AdpE) : Nat := (d.get Fld.ADP_LARDER_BASE_GRAN + e.gran) * granBytes

/-- Adapters whose entry holds a nonzero byte. -/
def Dev.listedAdps (d : Dev) : List Nat := d.dram.blocksOf (d.get Fld.ADP_LARDER_BASE_GRAN * granBytes) 32 4096

/-! ## Bodies -/

/-- Bytes of the blocks and scale bytes of a section of `n` blocks (R166), and of the section with its padding. -/
def secUsed (mode n : Nat) : Nat := n * (if mode = 0 then 64 else blockSize mode) + if mode = 0 then 0 else n
def secBytes (mode n : Nat) : Nat := ceilDiv (secUsed mode n) 64 * 64

/-- `D_IN` and `D_OUT` of target `t` in a body's header (R166). -/
def dIn (body : List Byte) (t : Nat) : Nat := fld body (8 + 8 * t) 4
def dOut (body : List Byte) (t : Nat) : Nat := fld body (12 + 8 * t) 4

/-- Targets present in a body (R166). -/
def targetsOf (body : List Byte) : List Nat := (List.range 8).filter fun t => bit (u8 body 1) t

/-- Bytes of the two sections of a target. -/
def pairBytes (body : List Byte) (mode rank t : Nat) : Nat := secBytes mode (rank * (dIn body t / 32)) + secBytes mode (rank * (dOut body t / 32))

/-- Offset of the A section of a layer and target in a body (R166). -/
def secAt (body : List Byte) (mode rank layer t : Nat) : Nat :=
  let per := ((targetsOf body).map (pairBytes body mode rank)).foldl (· + ·) 0
  4096 + layer * per + (((targetsOf body).filter fun x => decide (x < t)).map (pairBytes body mode rank)).foldl (· + ·) 0

/-- Whether the padding of a section of `n` blocks at byte `a` is zeros (R166). -/
def padZero (body : List Byte) (mode a n : Nat) : Bool := (slice body (a + secUsed mode n) (secBytes mode n - secUsed mode n)).all (· == 0)

/-- Whether the padding of every section of a class L body is zeros. -/
def padsZero (body : List Byte) (mode rank : Nat) : Bool :=
  (List.range (u8 body 0)).all fun l => (targetsOf body).all fun t =>
    let a := secAt body mode rank l t
    let n := rank * (dIn body t / 32)
    padZero body mode a n && padZero body mode (a + secBytes mode n) (rank * (dOut body t / 32))

/-- Whether a class L body obeys R166 and ends within its granules (R168). -/
def bodyOkL (body : List Byte) (mode rank grans : Nat) : Bool :=
  let dimOk (x : Nat) : Bool := decide (x % 32 = 0) && decide (32 ≤ x) && decide (x ≤ 65536)
  decide (1 ≤ u8 body 0)
    && ((List.range 8).all fun t => if bit (u8 body 1) t then dimOk (dIn body t) && dimOk (dOut body t) else dIn body t == 0 && dOut body t == 0)
    && decide (secAt body mode rank (u8 body 0) 0 ≤ grans * granBytes) && padsZero body mode rank

/-- A tile of a class D body (R167): its ID, how many patches, and the first. -/
structure TileE where
  id    : Nat
  count : Nat
  first : Nat
deriving DecidableEq, Repr

/-- The tile table of a body (R167). -/
def tilesOf (body : List Byte) : List TileE :=
  (List.range (u32 body 0)).map fun i => ⟨fld body (64 + 16 * i) 4, fld body (68 + 16 * i) 4, fld body (72 + 16 * i) 8⟩

/-- Where the patches begin (R167). -/
def patchesAt (body : List Byte) : Nat := ceilDiv (64 + 16 * u32 body 0) 64 * 64

/-- Patch `p` of a body as its word (R167). -/
def patchOf (body : List Byte) (p : Nat) : Nat := fld body (patchesAt body + 8 * p) 8

/-- Strictly rising numbers. -/
def rising : List Nat → Bool
  | a :: b :: l => decide (a < b) && rising (b :: l)
  | _ => true

/-- Whether a class D body obeys R167 and R168. -/
def bodyOkD (body : List Byte) (grans : Nat) : Bool :=
  decide (64 + 16 * u32 body 0 ≤ grans * granBytes) &&
    let ts := tilesOf body
    rising (ts.map (·.id))
      && ts.all (fun t => decide (1 ≤ t.count) && decide (t.count ≤ 8192) && decide (patchesAt body + 8 * (t.first + t.count) ≤ grans * granBytes)
          && rising ((List.range t.count).map fun k => patchOf body (t.first + k) / 2 ^ 35))
      && (let r := sortBy (fun (a b : TileE) => decide (a.first < b.first)) ts
          (r.zip r.tail).all fun p => decide (p.1.first + p.1.count ≤ p.2.first))

/-! ## LORA_APPLY -/

/-- The `LORA` and `DIFF` of a record (R169). -/
def Dev.rLora (d : Dev) (i : Nat) : Nat := d.rget i 5 63 48
def Dev.rDiff (d : Dev) (i : Nat) : Nat := d.rget i 5 47 32

/-- The check of a named adapter against a tenant and class (R163, R169, R171, R177). -/
def Dev.adpCheck (d : Dev) (id cls tenant : Nat) : Nat :=
  if 4096 ≤ id then stAborted
  else
    let e := d.adp id
    if e.state ≠ adValid ∨ e.cls ≠ cls then stAborted else if e.tenant ≠ tenant then stTenantMismatch else stOK

/-- The entries of a LORA_APPLY that name an adapter, with it, in ascending order. -/
def Dev.loraEntries (d : Dev) (t : StepTab) (e : Entry) : List (Nat × Nat) :=
  ((d.liveEntries t (u16 e 28) (u16 e 30)).map fun x => (x, d.rLora (d.entryRec t x))).filter fun x => x.2 != adpNone

/-- The header granule of an adapter's body. -/
def Dev.adpHead (d : Dev) (id : Nat) : List Byte := d.dram.readBytes (d.bodyAt (d.adp id)) 128

/-- Bytes of an input or output row of `n` values (R172). -/
def rowLen (fmt n : Nat) : Nat := if fmt = 0 then 2 * n else 8 + n / 32 * (if fmt = 1 then 16 else 32)

/-- Present values of a sparse block (R81). -/
def keepOf (fmt : Nat) : Nat := if fmt = 1 then 12 else 28

/-- The checks of a LORA_APPLY (R171), with `D_IN` and `D_OUT` of its adapters: 0 when it names none. -/
def Dev.loraCheck (d : Dev) (k : RunCmd) : Dev × Nat × Nat × Nat :=
  let e := k.entry
  let (d, st) := d.stepCheck k (u32 e 16) (u16 e 28) (u16 e 30)
  if st ≠ stOK then (d, st, 0, 0)
  else
    let t := d.stepTab (u32 e 16)
    let xs := d.loraEntries t e
    let st := firstBad (xs.map fun x => d.adpCheck x.2 1 (d.rTenant (d.entryRec t x.1)))
    if st ≠ stOK then (d, st, 0, 0)
    else
      let hs := (distinct (xs.map (·.2))).map d.adpHead
      let tg := u8 e 33
      let di := dIn (hs.headD []) tg
      let do' := dOut (hs.headD []) tg
      if 2 < u8 e 34 ∨ 2 < u8 e 35 ∨ 8 ≤ tg ∨ hs.any (fun h => decide (u8 h 0 ≤ u8 e 32) || !(bit (u8 h 1) tg) || dIn h tg != di || dOut h tg != do')
      then (d, stAborted, 0, 0)
      else if hs.isEmpty then (d, stOK, 0, 0)
      else if xs.all (fun x => d.hallOk (some k.tenant) (u32 e 20 + x.1 * rowLen (u8 e 34) di) (rowLen (u8 e 34) di))
          && (u16 e 30 == 0 || d.hallOk (some k.tenant) (u32 e 24 + u16 e 28 * rowLen (u8 e 35) do') (u16 e 30 * rowLen (u8 e 35) do'))
      then
        let ws := xs.flatMap fun x => d.badWords (u32 e 20 + x.1 * rowLen (u8 e 34) di) (rowLen (u8 e 34) di)
        if ws.isEmpty then (d, stOK, di, do') else (d.meetBad k.master ws, stCrcFault, 0, 0)
      else (d.deny, stTenantMismatch, 0, 0)

/-- The `D_OUT` by which the output rows of a LORA_APPLY are laid out whether or not its checks pass: that of the first adapter it
names that has the target (log entry 184); 0 when there is none. -/
def Dev.loraOut (d : Dev) (k : RunCmd) : Nat :=
  let t := d.layoutTab k.tenant (u32 k.entry 16)
  let hs := ((d.loraEntries t k.entry).filter fun x => decide (x.2 < 4096) && (d.adp x.2).state == adValid && (d.adp x.2).cls == 1).map fun x => d.adpHead x.2
  if 2 < u8 k.entry 35 then 0
  else match hs.find? fun h => bit (u8 h 1) (u8 k.entry 33) with
    | some h => dOut h (u8 k.entry 33)
    | none => 0

/-- Block `n` of a section at byte `a` with `total` blocks: its values and scale byte (R166, R173). -/
def Dev.adpBlock (d : Dev) (mode a total n : Nat) : List FVal × Nat :=
  if mode = 0 then ((bf16Vals (d.dram.readBytes (a + 64 * n) 64)).map decBf16, 0x7F)
  else (splitBlock mode (d.dram.readBytes (a + blockSize mode * n) (blockSize mode)), (d.dram.read (a + blockSize mode * total + n)).toNat)

/-- The input row of an entry in split form with its scale (R172, R173); none: a malformed sparse block (R84). -/
def loraInput (fmt n : Nat) (row : List Byte) : Option (List (List FVal) × Nat) :=
  if fmt = 0 then some ((chunks 32 (n / 32) (bf16Vals row)).map (·.map decBf16), 0x7F)
  else
    let kb := if fmt = 1 then 16 else 32
    let bs := (chunks kb (n / 32) (row.drop 8)).map (decodeSparse (keepOf fmt))
    if bs.any Option.isNone then none else some (bs.map (·.getD []), u8 row 0)

/-- How many sparse blocks of an input row are malformed (R84). -/
def badBlocks (fmt n : Nat) (row : List Byte) : Nat :=
  if fmt = 0 then 0
  else ((chunks (if fmt = 1 then 16 else 32) (n / 32) (row.drop 8)).filter fun b => (decodeSparse (keepOf fmt) b).isNone).length

/-- lora of R173: the FP32 codes of one output row. -/
def Dev.loraRow (d : Dev) (id layer tg : Nat) (x : List (List FVal)) (sx : Nat) : List Nat :=
  let e := d.adp id
  let h := d.adpHead id
  let ni := dIn h tg / 32
  let no := dOut h tg / 32
  let a := d.bodyAt e + secAt h e.mode e.rank layer tg
  let b := a + secBytes e.mode (e.rank * ni)
  let hs := (List.range e.rank).map fun j =>
    encBf16 (dec32 ((List.range ni).foldl (fun acc c =>
      let (w, sw) := d.adpBlock e.mode a (e.rank * ni) (j * ni + c)
      dotBlock (x.getD c []) sx w sw acc) 0))
  let y := (List.range e.rank).foldl (fun (y : List Nat) j =>
    (List.range no).flatMap fun c =>
      let (w, sw) := d.adpBlock e.mode b (e.rank * no) (j * no + c)
      outerBlock w sw (decBf16 (hs.getD j 0)) 0x7F (slice y (32 * c) 32)) (List.replicate (32 * no) 0)
  y.map (mul32 · e.alpha)

/-- An output row as its bytes (R172, R173), its drops and whether it was not finite. -/
def loraBytes (fmt : Nat) (z : List Nat) : List Byte × Nat × Bool :=
  if fmt = 0 then (z.flatMap fun v => toBytes 2 (encBf16 (dec32 v)), 0, false) else sparseRow (keepOf fmt) (z.map dec32)

/-- An output row stored (R113, R117): whether a part of it could not be. -/
def Dev.loraPut (d : Dev) (k : RunCmd) (a : Nat) (bs : List Byte) : Dev × Bool := d.hallStoreFor (.cmd k.id) k.master a bs

/-- The output row of one entry written (R171, R173); whether its input was malformed or its row not stored whole. -/
def Dev.loraEntry (d : Dev) (k : RunCmd) (t : StepTab) (di do' x : Nat) : Dev × Bool :=
  let e := k.entry
  let out := u32 e 24 + x * rowLen (u8 e 35) do'
  let id := if d.tagSeg t x = segPad then adpNone else d.rLora (d.entryRec t x)
  if id = adpNone then d.loraPut k out (zeros (rowLen (u8 e 35) do'))
  else
    let row := d.hall.readBytes (u32 e 20 + x * rowLen (u8 e 34) di) (rowLen (u8 e 34) di)
    let d := d.rotated (u32 e 20 + x * rowLen (u8 e 34) di) (rowLen (u8 e 34) di)
    let inp := loraInput (u8 e 34) di row
    let z := match inp with
      | some (b, sx) => d.loraRow id (u8 e 32) (u8 e 33) b sx
      | none => List.replicate do' nan32
    let (bs, drops, bad) := loraBytes (u8 e 35) z
    let (d, short) := d.loraPut k out bs
    let d := (d.bump Fld.ADP_STAT_ROWS).bump Fld.MOV_CODEC_DROP_DROPPED drops
    let d := if bad then d.bump Fld.MOV_CODEC_STAT_NONFINITE else d
    (d.bump Fld.MOV_CODEC_STAT_MALFORMED (badBlocks (u8 e 34) di row), inp.isNone || short)

/-- Groups of at most 8 entries with one adapter (R174). -/
def groupCount (ids : List Nat) : Nat := ((distinct ids).map fun i => ceilDiv (ids.filter (· == i)).length 8).foldl (· + ·) 0

/-- The output send of a LORA_APPLY (R175); `do'` is `D_OUT`. -/
def Dev.loraSend (d : Dev) (k : RunCmd) (do' : Nat) : SendOf :=
  let e := k.entry
  let t := d.layoutTab k.tenant (u32 e 16)
  let n := if do' = 0 then 0 else rowLen (u8 e 35) do'
  ⟨t.outQp, u64 e 48, t.outRsync, u32 e 24 + u16 e 42 * n, u16 e 44 * n⟩

/-- The end of a LORA_APPLY: its addition, and the output send of the one that reaches the target (R175). One that lost a hall
write ends WRITE_LOST unless another status ends it (R113). -/
def Dev.loraEnd (d : Dev) (k : RunCmd) (st do' : Nat) (res : List Nat) : Dev :=
  let n0 := d.pair.next
  let (d, ds, hit) := d.doneAdd k.master k.tenant (u32 k.entry 36) (u16 k.entry 40)
  let st := if st ≠ stOK then st else if ds ≠ stOK then ds else if k.lost then stWriteLost else stOK
  if hit then d.postSend k (d.loraSend k do') st res [do'] else d.endCmd k n0 st res

/-- LORA_APPLY (R171 to R175). -/
def execLoraApply (c : CmdId) (s : State) : Host.Outcome State Fault Refusal :=
  onHall (fun d =>
    match d.act c opLoraApply with
    | none => d
    | some k =>
      let e := k.entry
      let (d, st, di, do') := if k.status ≠ stOK then (d, k.status, 0, 0) else d.loraCheck k
      if st ≠ stOK then d.loraEnd k st (d.loraOut k) [0, 0]
      else
        let t := d.stepTab (u32 e 16)
        let (d, bad) := if do' = 0 then (d, false) else
          ((List.range (u16 e 30)).map (u16 e 28 + ·)).foldl (fun (r : Dev × Bool) x =>
            let (d, b) := r.1.loraEntry k t di do' x
            (d, r.2 || b)) (d, false)
        let groups := groupCount ((d.loraEntries t e).map (·.2))
        d.loraEnd k (if bad then stCrcFault else stOK) do' [u16 e 30, groups]) s

/-- OUTPUT_SEND_ACK (R124, R175): the next stage of a posted output send once its operation has ended. -/
def execOutputSendAck (c : CmdId) (s : State) : Host.Outcome State Fault Refusal :=
  onHall (fun d =>
    match d.cmdOf c with
    | none => d
    | some k =>
      if k.phase ≠ .acks then d
      else if opOf k.entry = opAttnStep then d.sendStep k (d.stepSend k)
      else if opOf k.entry = opLoraApply then d.sendStep { k with res := k.res.take 2 } (d.loraSend k (k.res.getD 2 0))
      else d) s

/-! ## WSTREAM -/

/-- A tile descriptor (R176). -/
structure TileD where
  va     : Nat
  raddr  : Nat
  id     : Nat
  blocks : Nat
  mode   : Nat
deriving DecidableEq, Repr

def tileD (bs : List Byte) : TileD := ⟨fld bs 0 8, fld bs 8 8, fld bs 16 4, fld bs 20 4, fld bs 24 1⟩

/-- Bytes of a tile as stored (R176). -/
def TileD.bytes (t : TileD) : Nat := t.blocks * (if t.mode = 0 then 64 else blockSize t.mode + 1)

/-- Block `n` of a tile in the BF16 form (R77, R177). -/
def TileD.block (t : TileD) (bs : List Byte) (n : Nat) : List Nat :=
  if t.mode = 0 then bf16Vals (slice bs (64 * n) 64)
  else bf16Form t.mode (slice bs (blockSize t.mode * n) (blockSize t.mode)) (bs.getD (blockSize t.mode * t.blocks + n) 0).toNat

/-- One patch applied to a tile's values (R177), with the count of sums that are not finite. -/
def patchStep (r : List Nat × Nat) (p : Nat) : List Nat × Nat :=
  let i := 32 * bits p 63 40 + bits p 39 35
  let v := encBf16 (fsum [decBf16 (r.1.getD i 0), dec32 (bits p 31 0)])
  (r.1.set i v, r.2 + if (decBf16 v).nonfinite then 1 else 0)

/-- The patches of a tile in the `DIFF` body; none: the body has no entry for it. -/
def Dev.tilePatches (d : Dev) (diff id : Nat) : Option (List Nat) :=
  if diff = adpNone then none
  else
    let e := d.adp diff
    let body := d.dram.readBytes (d.bodyAt e) (e.grans * granBytes)
    ((tilesOf body).find? (·.id == id)).map fun t => (List.range t.count).map fun k => patchOf body (t.first + k)

/-- The checks of a WSTREAM before it sends anything (R177, R178, R181). -/
def Dev.wstreamCheck (d : Dev) (k : RunCmd) : Dev × Nat :=
  let e := k.entry
  let diff := u16 e 28
  if 1 < u8 e 30 ∨ (u8 e 30 = 0 ∧ diff ≠ adpNone) then (d, stAborted)
  else
    let st := if diff = adpNone then stOK else d.adpCheck diff 2 k.tenant
    if st ≠ stOK then (d, st)
    else
      let st := d.pairRefuses k.tenant (u16 e 36)
      if st ≠ stOK then (d, st)
      else if bit (u8 e 31) 0 then
        (if u32 e 32 % 8 ≠ 0 then (d, stAborted)
         else if !(d.stepOk k.tenant (u32 e 32)) then (d.deny, stTenantMismatch)
         else if !(d.badWords (u32 e 32) (d.stepTab (u32 e 32)).bytes).isEmpty then
           (d.meetBad k.master (d.badWords (u32 e 32) (d.stepTab (u32 e 32)).bytes), stAborted)
         else
           let t := d.stepTab (u32 e 32)
           if (List.range t.nsegs).all (fun x =>
               let h := d.segHandle t x
               d.checkHandle h k.tenant k.order == stOK && d.rDiff (hIndex h) == diff) then (d, stOK) else (d, stAborted))
      else (d, stOK)

/-- Stages of a WSTREAM in phase `acks`: its tiles outstanding, its atomic outstanding. -/
def wsTiles : Nat := 7
def wsSync : Nat := 8

/-- A WSTREAM that sends no more tiles: what is outstanding is waited for. -/
def Dev.wstreamStop (d : Dev) (k : RunCmd) (st : Nat) : Dev :=
  let k := { k with phase := .acks, note := wsTiles, status := st, pos := stOK, strokes := 0, lostT := 0 }
  if k.ops.isEmpty ∧ st ≠ stOK then d.endSend k else d.setAt k

/-- One tile sent (R176, R177), compressed as its pair's `PMODE` says: a tile that the compressor refuses ends the sending
(R259). None: the operation table is full. -/
def Dev.sendTile (d : Dev) (k : RunCmd) (t : TileD) (bs : List Byte) (patches : Option (List Nat)) : Option Dev :=
  let e := k.entry
  let q := u16 e 36
  let ps := patches.getD []
  let (body, bad) := if u8 e 30 = 0 then (bs, 0)
    else
      let (w, bad) := ps.foldl patchStep ((List.range t.blocks).flatMap (t.block bs), 0)
      (bf16Bytes w, bad)
  if d.qState q ≠ qsActive then some (d.wstreamStop k stAborted) else
  match d.egress q body with
  | none => some (d.wstreamStop k stAborted)
  | some (body, d) =>
    (d.issue q (d.qRnode q) .write (some (k.ring, k.index)) 0 spSend 0 t.raddr false (splitPayload pkWrite t.raddr 0 0 0 allBytes body)).map fun (id, d) =>
      let d := (d.bump Fld.ADP_STAT_PATCHES ps.length).bump Fld.ADP_LOADS_NONFINITE bad
      d.setAt { k with pos := k.pos + 1, ops := k.ops ++ [id], res := [k.res.getD 0 0 + 1, k.res.getD 1 0 + ps.length] }

/-- Tiles sent one after another from where the command stands; a page fault parks it, and it goes on from the tile it
stood at (R198). -/
def Dev.wstreamFrom : Nat → RunCmd → Dev → Dev
  | 0, k, d => d.wstreamStop k stOK
  | n + 1, k, d =>
    let e := k.entry
    let c := some (k.ring, k.index)
    let here : Res (TileD × List Byte) := (d.vaRead c k.tenant (u64 e 16 + 32 * k.pos) 32).andThen fun bs d =>
      let t := tileD bs
      if t.blocks = 0 ∨ 2 ^ 24 < t.blocks ∨ 3 < t.mode then .abort
      else match d.tilePatches (u16 e 28) t.id with
        | some ps =>
          if t.blocks ≤ bits (ps.getLastD 0) 63 40 then .abort else (d.vaRead c k.tenant t.va t.bytes).andThen fun bs d => .ok (t, bs) d
        | none => (d.vaRead c k.tenant t.va t.bytes).andThen fun bs d => .ok (t, bs) d
    match here with
    | .abort => d.wstreamStop k stAborted
    | .status st => d.wstreamStop k st
    | .wait d => d.markWait k
    | .fault kd =>
      (match d.raiseFault k kd with
       | (true, d) => d.wstreamStop k stPageFault
       | (false, d) => d)
    | .ok (t, bs) d =>
      match d.sendTile k t bs (d.tilePatches (u16 e 28) t.id) with
      | none => d.creditWait c
      | some d => match d.cmd k.ring k.index with
        | some k => if k.phase = .run then Dev.wstreamFrom n k d else d
        | none => d

/-- A WSTREAM whose tiles or atomic have ended (R176). -/
def Dev.wstreamAcks (d : Dev) (k : RunCmd) : Dev :=
  if !k.ops.isEmpty then d
  else if k.status ≠ stOK ∨ k.pos ≠ stOK ∨ k.note = wsSync then d.endSend k
  else if d.pairRefuses k.tenant (u16 k.entry 36) ≠ stOK then d.endSend { k with pos := d.pairRefuses k.tenant (u16 k.entry 36) }
  else (d.sendAtomic k (u16 k.entry 36) (u64 k.entry 40) wsSync).getD (d.creditWait (some (k.ring, k.index)))

/-- WSTREAM (R176 to R178). -/
def execWstream (c : CmdId) (s : State) : Host.Outcome State Fault Refusal :=
  onHall (fun d =>
    match d.cmdOf c with
    | none => d
    | some k =>
      if opOf k.entry ≠ opWstream then d
      else if k.phase = .acks then d.wstreamAcks k
      else if k.phase ≠ .run then d
      else if k.begun then
        (if k.status ≠ stOK then d.wstreamStop k k.status else Dev.wstreamFrom (u32 k.entry 24 - k.pos) k d)
      else
        let (d, st) := d.wstreamCheck k
        if st ≠ stOK then d.endCmd k d.pair.next st [0, 0]
        else
          let k := { k with stage := 1, res := [0, 0] }
          let diff := u16 k.entry 28
          let d := if diff = adpNone then d else d.dramPutN 4 (d.adpAddr diff + 24) (d.adpUsers diff + 1)
          Dev.wstreamFrom (u32 k.entry 24) k (d.setCmd k)) s

/-! ## Loading and unloading -/

/-- Whether an entry can take a body of `grans` granules at `off` (R179). -/
def Dev.larderFree (d : Dev) (id off grans : Nat) : Bool :=
  (d.adp id).state == adEmpty && decide (1 ≤ grans) && decide (32 ≤ off) && decide (off + grans ≤ d.get Fld.ADP_LARDER_SIZE_GRANS)
    && d.listedAdps.all fun j =>
      let e := d.adp j
      e.state == adEmpty || decide (off + grans ≤ e.gran) || decide (e.gran + e.grans ≤ off)

/-- The status of a body (R168): its format first, then its check sum. -/
def bodyStatus (cls mode rank grans crc : Nat) (body : List Byte) : Nat :=
  if !(if cls = 1 then bodyOkL body mode rank grans else bodyOkD body grans) then stAborted else if crc ≠ crc32c body then stCrcFault else stOK

/-- An entry made `VALID` with its body (R164, R179, R183). -/
def Dev.makeValid (d : Dev) (id : Nat) (e : AdpE) (body : List Byte) : Dev :=
  let d := d.dramPut (d.bodyAt e) body
  (d.setAdp id { e with state := adValid, stamp := d.clk.cnt }).bump Fld.ADP_LOADS_LOADED

/-- A load that fails gives its entry and use back (R168). -/
def Dev.unload (d : Dev) (id : Nat) : Dev :=
  let e := d.adp id
  (d.setAdp id { e with state := adEmpty }).unuse e.tenant t1 e.grans

/-- The entry that an ADP_LOAD describes. -/
def loadEntry (e : Entry) (tenant : Nat) : AdpE :=
  { tenant := tenant, state := adLoading, cls := u8 e 18, mode := if u8 e 18 = 2 then 0 else u8 e 19, rank := u8 e 20 + 1, gran := u32 e 36,
    alpha := u32 e 40, grans := u32 e 32, stamp := 0, crc := u32 e 44 }

/-- Directory words 0 to 3 of an entry as bytes. -/
def Dev.adpWords (d : Dev) (id : Nat) : List Byte := d.dram.readBytes (d.adpAddr id) 32

/-- The end of an ADP_LOAD's multicast (R180). -/
def Dev.adpMcastEnd (d : Dev) (k : RunCmd) : Dev :=
  let n := d.grpCount (u16 k.entry 48)
  let d := d.bump Fld.ADP_LOADS_MC_FAIL (n - popcount 64 (k.res.getD 0 0))
  d.mcastEnd k n (u64 k.entry 56)

/-- The body and directory words sent to a group (R180), the entry being `VALID` here. -/
def Dev.adpMcast (d : Dev) (k : RunCmd) : Dev :=
  let id := u16 k.entry 16
  let e := d.adp id
  match d.mcastSend k (u16 k.entry 48) 0 false (d.adpWords id ++ d.dram.readBytes (d.bodyAt e) (e.grans * granBytes)) with
  | none => d.creditWait (some (k.ring, k.index))
  | some d => match d.cmd k.ring k.index with
    | some k => if k.ops.isEmpty then d.adpMcastEnd k else d
    | none => d

/-- The body read, checked and made valid (R168, R179). -/
def Dev.adpBody (d : Dev) (k : RunCmd) : Dev :=
  let e := k.entry
  let id := u16 e 16
  match d.vaRead (some (k.ring, k.index)) k.tenant (u64 e 24) (u32 e 32 * granBytes) with
  | .abort => (d.unload id).endCmd k d.pair.next stAborted []
  | .status st => (d.unload id).endCmd k d.pair.next st []
  | .wait d => d.markWait k
  | .fault kd =>
    (match d.raiseFault k kd with
     | (true, d) => (d.unload id).endCmd k d.pair.next stPageFault []
     | (false, d) => d)
  | .ok body d =>
    let a := loadEntry e k.tenant
    let st := bodyStatus a.cls a.mode a.rank a.grans a.crc body
    if st ≠ stOK then (d.unload id).endCmd k d.pair.next st []
    else
      let d := d.makeValid id a body
      if u16 e 48 = 0xFFFF then d.endCmd k d.pair.next stOK []
      else
        let k := { k with stage := 2 }
        (d.setCmd k).adpMcast k

/-- The first checks of an ADP_LOAD (R163, R179, R180, R283). -/
def Dev.adpLoadCheck (d : Dev) (k : RunCmd) : Nat :=
  let e := k.entry
  let g := u16 e 48
  if 4096 ≤ u16 e 16 ∨ (u8 e 18 ≠ 1 ∧ u8 e 18 ≠ 2) ∨ 3 < u8 e 19 ∨ (g ≠ 0xFFFF ∧ 1024 ≤ g) then stAborted
  else if !(d.larderFree (u16 e 16) (u32 e 36) (u32 e 32)) then stAborted
  else if g ≠ 0xFFFF ∧ d.grpTenant g ≠ k.tenant then stTenantMismatch
  else if !(d.admits k.tenant t1 (u32 e 32)) then stQuotaBlocked
  else stOK

/-- ADP_LOAD (R168, R179, R180). `stage` 1: the entry is `LOADING`; 2: `VALID`, the multicast waits for operation entries. -/
def execAdpLoad (c : CmdId) (s : State) : Host.Outcome State Fault Refusal :=
  onHall (fun d =>
    match d.act c opAdpLoad with
    | none => d
    | some k =>
      if k.stage = stageBitmap then d.endRest k (u64 k.entry 56)
      else if k.stage = 2 then d.adpMcast k
      else if k.begun then
        (if k.status ≠ stOK then (d.unload (u16 k.entry 16)).endCmd k d.pair.next k.status [] else d.adpBody k)
      else
        let st := d.adpLoadCheck k
        if st ≠ stOK then (if st = stQuotaBlocked then d.refusedQuota else d).endCmd k d.pair.next st []
        else
          let k := { k with stage := 1 }
          let n := u32 k.entry 32
          let d := d.put Fld.MEM_QUOTA_USE (d.get Fld.MEM_QUOTA_USE k.tenant t1 + n) k.tenant t1
          let d := d.setAdp (u16 k.entry 16) (loadEntry k.entry k.tenant)
          (d.setCmd k).adpBody k) s

/-- ADP_LOAD_MEMBER (R179, R180): the load as it reaches a member, which acknowledges or refuses it; `words` are the directory
words of the sender. A part without the adapter engine refuses (R5), and a spare takes none but its loader's (R343). -/
def execAdpLoadMember (m : AdpLoadMsg) (s : State) : Host.Outcome State Fault Refusal :=
  onHall (fun d => if !(d.takesPart 12 m.src.toNat) then d else
    let id := m.id.toNat
    let w (k : Nat) : Nat := (m.words.getD k 0).toNat
    let e : AdpE := { tenant := bits (w 0) 63 56, state := adLoading, cls := bits (w 0) 53 52, mode := bits (w 0) 51 50, rank := bits (w 0) 47 40 + 1,
                      gran := bits (w 0) 26 0, alpha := bits (w 1) 63 32, grans := bits (w 1) 31 0, stamp := 0, crc := bits (w 3) 63 32 }
    let st := if !(d.flag Fld.GLB_UNIT_EN_ADP) ∨ 4096 ≤ id ∨ (e.cls ≠ 1 ∧ e.cls ≠ 2) ∨ m.body.length ≠ e.grans * granBytes
        ∨ !(d.larderFree id e.gran e.grans) then stAborted
      else if !(d.admits e.tenant t1 e.grans) then stQuotaBlocked
      else bodyStatus e.cls e.mode e.rank e.grans e.crc m.body
    let d := if st = stQuotaBlocked then d.refusedQuota
      else if st ≠ stOK then d
      else (d.put Fld.MEM_QUOTA_USE (d.get Fld.MEM_QUOTA_USE e.tenant t1 + e.grans) e.tenant t1).makeValid id e m.body
    d.ctrl m.src.toNat (.adpAck id st)) s

/-- ADP_UNLOAD (R181): the entry drains. -/
def execAdpUnload (c : CmdId) (s : State) : Host.Outcome State Fault Refusal :=
  onHall (fun d =>
    match d.act c opAdpUnload with
    | none => d
    | some k =>
      let id := u16 k.entry 16
      let e := d.adp id
      if k.begun then d
      else if 4096 ≤ id ∨ e.state ≠ adValid then d.endCmd k d.pair.next stAborted []
      else if e.tenant ≠ k.tenant then d.endCmd k d.pair.next stTenantMismatch []
      else (d.setAdp id { e with state := adDraining }).setCmd { k with stage := 1 }) s

/-- An entry that nothing reads given up (R181, R364): its body zero-filled, the quota released, the entry EMPTY. -/
def Dev.freeAdp (d : Dev) (id : Nat) : Dev :=
  let e := d.adp id
  let d := { d with dram := d.dram.zero (d.bodyAt e) (e.grans * granBytes) }
  let d := (d.unuse e.tenant t1 e.grans).bump Fld.SEC_SCRUB_GRANS e.grans
  { d with dram := d.dram.zero (d.adpAddr id) 32 }

/-- ADP_UNLOAD_DRAINED (R181): no command reads the entry any more: the body is zero-filled, the quota released, the entry
EMPTY, and the command complete. -/
def execAdpUnloadDrained (c : CmdId) (s : State) : Host.Outcome State Fault Refusal :=
  onHall (fun d =>
    match d.act c opAdpUnload with
    | none => d
    | some k =>
      let id := u16 k.entry 16
      if !k.begun ∨ d.adpUsers id ≠ 0 then d else (d.freeAdp id).endCmd k d.pair.next stOK []) s

/-- The check of one binding (R169): none is always allowed. -/
def Dev.bindCheck (d : Dev) (id cls tenant : Nat) : Nat := if id = adpNone then stOK else d.adpCheck id cls tenant

/-- ADP_BIND (R169): complete once the twin holds the record (R331). -/
def execAdpBind (c : CmdId) (s : State) : Host.Outcome State Fault Refusal :=
  onHall (fun d =>
    match d.act c opAdpBind with
    | none => d
    | some k =>
      let n0 := d.pair.next
      let e := k.entry
      let i := hIndex (u32 e 16)
      let st := d.checkHandle (u32 e 16) k.tenant k.order
      let st := if st ≠ stOK then st else d.bindCheck (u16 e 20) 1 (d.rTenant i)
      let st := if st ≠ stOK then st else d.bindCheck (u16 e 22) 2 (d.rTenant i)
      if st ≠ stOK then d.endCmd k n0 st []
      else
        let d := (d.rput i 5 63 48 (u16 e 20)).rput i 5 47 32 (u16 e 22)
        (d.mirrorRec i).endCmd k n0 stOK []) s

end Sys2Proof.Machine
end

