-- ==== Sys2Proof/Machine/Fec.lean ====
section
/-! DEFINITION. Machine/Fec.lean: the Reed-Solomon code of a port's codewords (R247, R248). -/

namespace Sys2Proof.Machine

/-- Symbols of a codeword and of its message, and the errors that are corrected (R247). -/
def rsN : Nat := 272
def rsK : Nat := 257
def rsT : Nat := 7

/-- Multiplication by α in GF(2^10), with x^10 + x^3 + 1 (R247). -/
def gfDouble (a : Nat) : Nat := if a < 512 then 2 * a else (2 * a) ^^^ 0x409

/-- The sum over the set bits of `b`, from bit 9 down, of multiples of `a`. -/
def gfMulFrom (a b : Nat) : Nat → Nat
  | 0 => 0
  | n + 1 => gfDouble (gfMulFrom a (b / 2) n) ^^^ (if b % 2 = 1 then a else 0)

/-- Multiplication in GF(2^10). -/
def gfMul (a b : Nat) : Nat := gfMulFrom a b 10

/-- `a` to the power `2 ^ n - 1` times `2`: with `n` = 9 the inverse of a nonzero `a`, its power 1,022. -/
def gfInvFrom (a : Nat) : Nat → Nat
  | 0 => 1
  | n + 1 => let r := gfMul (gfInvFrom a n) a; gfMul r r

/-- The inverse of a nonzero element. -/
def gfInv (a : Nat) : Nat := gfInvFrom a 9

/-- α to the power `n`. -/
def gfPow : Nat → Nat
  | 0 => 1
  | n + 1 => gfDouble (gfPow n)

/-- The value at `x` of a polynomial given by its coefficients, the constant first. -/
def gfEval (x : Nat) : List Nat → Nat
  | [] => 0
  | c :: cs => c ^^^ gfMul x (gfEval x cs)

/-- The sum of two polynomials. -/
def gfAdd : List Nat → List Nat → List Nat
  | [], q => q
  | p, [] => p
  | a :: p, b :: q => (a ^^^ b) :: gfAdd p q

/-- A polynomial times a constant. -/
def gfScale (c : Nat) (p : List Nat) : List Nat := p.map (gfMul c)

/-- The generator: the product of x - α^i for i = 0 to 14, the constant first (R247). -/
def rsGenerator : List Nat :=
  (List.range 15).foldl (fun g i => gfAdd (0 :: g) (gfScale (gfPow i) g)) [1]

/-- One message symbol of the division by the generator; the remainder stands highest power first. -/
def rsShift (rem : List Nat) (m : Nat) : List Nat :=
  let f := m ^^^ rem.headD 0
  gfAdd (rem.drop 1 ++ [0]) (gfScale f (rsGenerator.reverse.drop 1))

/-- The 272 symbols of a codeword: the message, then 15 check symbols (R247, R248; log entry 196). -/
def rsEncode (msg : List Nat) : List Nat := msg ++ msg.foldl rsShift (List.replicate 15 0)

/-- The syndromes of a received word: its values at α^0 to α^14, symbol 0 the coefficient of the highest power. -/
def rsSyndromes (word : List Nat) : List Nat := let c := word.reverse; (List.range 15).map fun i => gfEval (gfPow i) c

/-- The state of the search for the error locator: the locator so far, its degree, the last one that differed with its discrepancy, and
the steps since. -/
structure Locator where
  poly  : List Nat
  len   : Nat
  prev  : List Nat
  disc  : Nat
  since : Nat
deriving DecidableEq, Repr

/-- One syndrome taken into the locator (Berlekamp and Massey). -/
def Locator.step (syn : List Nat) (l : Locator) (n : Nat) : Locator :=
  let d := (List.range (l.len + 1)).foldl (fun x i => x ^^^ gfMul (l.poly.getD i 0) (syn.getD (n - i) 0)) 0
  if d = 0 then { l with since := l.since + 1 }
  else
    let next := gfAdd l.poly (gfScale (gfMul d (gfInv l.disc)) (List.replicate l.since 0 ++ l.prev))
    if 2 * l.len ≤ n then ⟨next, n + 1 - l.len, l.poly, d, 1⟩ else { l with poly := next, since := l.since + 1 }

/-- The error locator of a word's syndromes. -/
def rsLocator (syn : List Nat) : Locator := (List.range 15).foldl (Locator.step syn) ⟨[1], 0, [1], 1, 1⟩

/-- The formal derivative at `x` of a polynomial. -/
def gfDeriv (x : Nat) (p : List Nat) : Nat :=
  gfEval x ((List.range (p.length - 1)).map fun k => if k % 2 = 0 then p.getD (k + 1) 0 else 0)

/-- The error of a symbol: its position and what is to be added to it. -/
def rsError (syn : List Nat) (l : Locator) (power : Nat) : Nat × Nat :=
  let x := gfPow power
  let inv := gfInv x
  let omega := (List.range l.len).map fun k => (List.range (k + 1)).foldl (fun v i => v ^^^ gfMul (l.poly.getD i 0) (syn.getD (k - i) 0)) 0
  (rsN - 1 - power, gfMul x (gfMul (gfEval inv omega) (gfInv (gfDeriv inv l.poly))))

/-- The corrected symbols of a received word with the positions it corrects; none: the word is uncorrectable (R247). -/
def rsDecode (word : List Nat) : Option (List Nat × List Nat) :=
  let syn := rsSyndromes word
  if word.length ≠ rsN then none
  else if syn.all (· == 0) then some (word, [])
  else
    let l := rsLocator syn
    let roots := (List.range rsN).filter fun p => gfEval (gfInv (gfPow p)) l.poly == 0
    let errs := roots.map (rsError syn l)
    let fixed := errs.foldl (fun w e => w.set e.1 (w.getD e.1 0 ^^^ e.2)) word
    if rsT < l.len ∨ roots.length ≠ l.len ∨ !((rsSyndromes fixed).all (· == 0)) then none else some (fixed, errs.map (·.1))

/-- The lane of a symbol of a codeword (R247). -/
def rsLane (j : Nat) : Nat := j % 16

end Sys2Proof.Machine
end

