-- ==== Sys2Proof/Machine/Sequences.lean ====
section
/-! DEFINITION. Machine/Sequences.lean: the creation, release and transfer of sequences (R21, R23 to R25, R50, R62 to R69). -/

namespace Sys2Proof.Machine

/-- The fields of a SEQ_CREATE in range (R33, R69). -/
def seqFieldsOk (e : Entry) : Bool :=
  decide (1 ≤ u8 e 16) && decide (1 ≤ u8 e 17) && decide (u8 e 18 ≤ 2) && decide (1 ≤ u8 e 19) && decide (u8 e 19 ≤ 3) && decide (1 ≤ u16 e 20)

/-- Word 0 of a record (R33). -/
def word0 (gen state tenant layers heads hdim kvmode maxslots : Nat) : Nat :=
  gen % 2 ^ 17 * 2 ^ 47 + state % 8 * 2 ^ 44 + tenant % 256 * 2 ^ 36 + layers % 256 * 2 ^ 28 + heads % 256 * 2 ^ 20 + hdim % 4 * 2 ^ 18
    + kvmode % 4 * 2 ^ 16 + maxslots % 2 ^ 16

/-- Word `w` of a record written whole. -/
def Dev.rset (d : Dev) (i w v : Nat) : Dev := d.dramPutN 8 (d.recAddr i + 8 * w) v

/-- Page map and landing bodies of a new record, each one run, zero-filled (R69). -/
def Dev.allocBodies (d : Dev) (i t layers heads maxslots : Nat) : Option (Nat × Nat × Dev) :=
  (d.allocRun (some t) (pmapGrans maxslots layers heads) 1 (.pageMap i)).bind fun (pm, d) =>
    (d.allocRun (some t) (landGrans layers heads) 1 (.landing i)).map fun (la, d) =>
      (pm, la, { d with dram := (d.dram.zero (pm * granBytes) (pmapGrans maxslots layers heads * granBytes)).zero (la * granBytes)
                                  (landGrans layers heads * granBytes) })

/-- Granules of the page map and landing bodies. -/
def bodyGrans (layers heads maxslots : Nat) : Nat := pmapGrans maxslots layers heads + landGrans layers heads

/-- A mirror record asked of the twin for record `i`, whose word 0 will be `w0` (R330). -/
def Dev.askTwin (d : Dev) (i w0 : Nat) : Dev := if d.mirrors then d.mirrorMsg [.ask (BitVec.ofNat 15 i) [BitVec.ofNat 64 w0]] else d

/-- SEQ_CREATE's checks in order and its effect (R21, R69, R144, R169). The twin is asked for its record once everything else
admits the sequence (R330; log entry 201). -/
def Dev.seqCreate (d : Dev) (t : Nat) (e : Entry) (twinGrants : Bool) : Dev × Nat × List Nat :=
  let l := u8 e 16
  let h := u8 e 17
  let m := u16 e 20
  if !(seqFieldsOk e) then (d, stAborted, [])
  else match d.freeRec with
    | none => (d, stReserveDenied, [])
    | some i =>
      if !(d.admits t t1 (bodyGrans l h m)) then (d.refusedQuota, stQuotaBlocked, [])
      else match d.allocBodies i t l h m with
        | none => (d.refusedPool, stReserveDenied, [])
        | some (pm, la, d') =>
          let w0 := word0 (genIssued (d.rGen i)) recActive t l h (u8 e 18) (u8 e 19) m
          if d.mirrors && !twinGrants then (d.askTwin i w0, stReserveDenied, [])
          else
            let gen := genIssued (d.rGen i)
            let d := (List.range 16).foldl (fun d w => d.rset i w 0) (d'.askTwin i w0)
            let d := d.rset i 0 w0
            let d := d.rset i 1 d.clk.cnt
            let d := d.rset i 3 (la * 2 ^ 27 + pm)
            let d := d.rset i 4 (d.epoch * 2 ^ 32)
            let d := d.rset i 5 0xFFFFFFFF00000000
            ((d.touch i).mirrorRec i, stOK, [mkHandle i gen])

/-- SEQ_CREATE (R69). `twinGrants`: the twin's answer to the mirror record asked of it (R330). -/
def execSeqCreate (c : CmdId) (twinGrants : Bool) (s : State) : Host.Outcome State Fault Refusal :=
  onHall (fun d =>
    match d.act c opSeqCreate with
    | none => d
    | some k =>
      let n0 := d.pair.next
      let (d, st, res) := d.seqCreate k.tenant k.entry twinGrants
      d.endCmd k n0 st res) s

/-- A sequence released (R69): `PROMOTED` cleared (R157), every reference dropped, the page map and bodies freed, the record
FREE with `GEN` advanced. -/
def Dev.releaseSeq (d : Dev) (i : Nat) : Dev := ((d.touch i).rput i 7 45 45 0).retire i

/-- SEQ_RELEASE (R69). A stale reference in the page map ends it with nothing done (R41). -/
def execSeqRelease (c : CmdId) (s : State) : Host.Outcome State Fault Refusal :=
  onHall (fun d =>
    match d.act c opSeqRelease with
    | none => d
    | some k =>
      let n0 := d.pair.next
      let h := u32 k.entry 16
      let st := d.checkHandle h k.tenant k.order
      if st ≠ stOK then d.endCmd k n0 st []
      else match d.staleOf (hIndex h) with
        | some (p, tag) => (d.tagMismatch mMover p tag).endCmd k n0 stAborted []
        | none => (d.releaseSeq (hIndex h)).endCmd k n0 stOK []) s

/-- Whether a transfer is one of a converted record, which travels under the identity served (R336). -/
def Dev.underServed (d : Dev) (x : Xfer) : Bool := d.pairState == psServing && d.pair.returned.contains x.idx

/-- The header of a transfer's messages (02, R336). -/
def Dev.xhdr (d : Dev) (x : Xfer) : XferHdr :=
  if d.underServed x then
    ⟨BitVec.ofNat 32 x.xid, BitVec.ofNat 16 (d.get Fld.PAIR_STAT_SERVED), BitVec.ofNat 16 x.dest, BitVec.ofNat 32 (d.get Fld.PAIR_STAT_SERVED_EPOCH)⟩
  else ⟨BitVec.ofNat 32 x.xid, BitVec.ofNat 16 d.node, BitVec.ofNat 16 x.dest, BitVec.ofNat 32 d.epoch⟩

/-- A message of a transfer sent to its destination. -/
def Dev.xsend (d : Dev) (x : Xfer) (m : Ctrl) : Dev := d.ctrlAs x.dest (if d.underServed x then d.get Fld.PAIR_STAT_SERVED else d.node) m

/-- A transfer by its ID. -/
def Dev.xfer (d : Dev) (xid : Nat) : Option Xfer := d.xfers.find? (·.xid == xid)

/-- A transfer changed in place. -/
def Dev.setXfer (d : Dev) (x : Xfer) : Dev := { d with xfers := d.xfers.map fun y => if y.xid = x.xid then x else y }

/-- One bit per page of the sequence, in page-map order from bit 0 of byte 0 on (R69; log entry 180). -/
def ackBits (entries acked : List Nat) : List Byte :=
  (chunks 8 (ceilDiv entries.length 8) entries).map fun es =>
    BitVec.ofNat 8 (((List.range es.length).filter fun k => acked.contains (es.getD k 0)).foldl (fun m k => m + 2 ^ k) 0)

/-- The command of a transfer that does not complete `OK` ends (R69): its bitmap is written first. -/
def Dev.refuseXfer (d : Dev) (k : RunCmd) (n0 st : Nat) (res : List Nat) (bits : List Byte) : Dev :=
  if u64 k.entry 24 = 0 then d.endCmd k n0 st res else d.endBitmap k n0 (u64 k.entry 24) st res bits

/-- The end of a transfer at its source (R62, R65): the command's completion, when the command is this device's, with its
bitmap first unless it ends `OK` (R69); what the results of such an end are is log entry 181. -/
def Dev.endXfer (d : Dev) (x : Xfer) (n0 st handle : Nat) : Dev :=
  let entries := if x.entries.isEmpty then d.usedEntries x.idx else x.entries
  let d := { d with xfers := d.xfers.filter (fun y => y.xid != x.xid) }
  match d.cmd x.ring x.index with
  | none => d
  | some k =>
    let res := [handle, x.moved, x.copied, entries.length - x.acked.length]
    if st = stOK then d.endCmd k n0 st [handle, x.moved, x.copied, 0] else d.refuseXfer k n0 st res (ackBits entries x.acked)

/-- A transfer that ends without a commit (R65): ABORT sent, the record ACTIVE again under its old handle. -/
def Dev.failXfer (d : Dev) (x : Xfer) (n0 st : Nat) : Dev :=
  let d := d.xsend x (.abort (d.xhdr x))
  let d := ((d.rput x.idx 0 46 44 recActive).rput x.idx 4 31 0 0).mirrorRec x.idx
  d.endXfer x n0 st 0

/-- The modes of a sequence's pages at the destination (R62): as `RECOMP` says, else as each page or cellar entry is. -/
def Dev.entryMode (d : Dev) (x : Xfer) (n : Nat) : Nat :=
  let e := d.entry x.idx n
  if x.recomp ≠ 0 then x.recomp else if e.loc = 1 then (d.page e.page).mode else (d.cellar e.page).mode

/-- RSV_REQ of a transfer (R62). -/
def Dev.sendRsv (d : Dev) (x : Xfer) : Dev :=
  let i := x.idx
  let count (m : Nat) : BitVec 32 := BitVec.ofNat 32 (x.entries.filter fun n => d.entryMode x n == m).length
  d.xsend x (.rsvReq ⟨d.xhdr x, BitVec.ofNat 8 (d.rTenant i), BitVec.ofNat 8 (d.rLayers i), BitVec.ofNat 8 (d.rHeads i), BitVec.ofNat 2 (d.rHdim i),
    BitVec.ofNat 2 (d.rKvmode i), BitVec.ofNat 16 (d.rMaxslots i), count 1, count 2, count 3⟩)

/-- Every held row of a layer flushed, complete halves first (R50); whether nothing is left in the body. -/
def Dev.flushAll (d : Dev) (i l : Nat) : Bool × Dev :=
  let d := d.flushHalves i l
  if d.lrows i l = 0 then (true, d) else if d.halfReady i l then (false, d) else d.flush i l (d.lrows i l)

/-- Every layer of a leaving record flushed. -/
def Dev.flushSeq (d : Dev) (i : Nat) : Bool × Dev :=
  (List.range (d.rLayers i)).foldl (fun (r : Bool × Dev) l =>
    let (ok, d) := r.2.flushAll i l
    (r.1 && ok, d)) (true, d)

/-- A waiting transfer goes on once the earlier commands that name the sequence have ended (R25): the landing is flushed and the
reservation asked for. A refused flush leaves it waiting for the next landing flush point (R52; `waitFor` 1). A transfer whose
sequence an earlier command has released has nothing left to move. -/
def Dev.proceed (d : Dev) (x : Xfer) : Dev :=
  if x.phase ≠ .waiting ∨ x.waitFor ≠ 0 ∨ d.earlierNaming x.idx x.order then d
  else if d.rState x.idx ≠ recLeaving ∨ d.rXfer x.idx ≠ x.xid then d.endXfer x d.pair.next stAborted 0
  else
    match d.flushSeq x.idx with
    | (false, d) => d.setXfer { x with waitFor := 1 }
    | (true, d) =>
      let x := { x with entries := d.usedEntries x.idx, phase := .reserving, lastTry := d.ns }
      (d.setXfer x).sendRsv x

/-- KV_TRANSFER_PROCEED (R25). -/
def execKvTransferProceed (xid : BitVec 32) (s : State) : Host.Outcome State Fault Refusal :=
  onHall (fun d =>
    match d.xfer xid.toNat with
    | none => d
    | some x => d.proceed x) s

/-- Reservations of this device by source and transfer. -/
def Dev.rsv (d : Dev) (src xid : Nat) : Option Rsv := d.rsvs.find? fun r => r.src == src && r.xid == xid

/-- A reservation freed (R65): its pages, page map, landing bodies and record. -/
def Dev.freeRsv (d : Dev) (r : Rsv) : Dev :=
  let d := { d with rsvs := d.rsvs.filter fun q => !(q.src == r.src && q.xid == r.xid) }
  let d := (r.spare.map (·.2) ++ r.placed.map (·.2)).foldl Dev.zeroPage d
  let d := d.freeKind fun k => k == .pageMap r.idx || k == .landing r.idx
  (d.rput r.idx 0 46 44 recFree).mirror [.freed (BitVec.ofNat 15 r.idx)]

/-- A message of a transfer heard: the count of its silent strokes begins again (R65). -/
def Dev.heardXfer (d : Dev) (src xid : Nat) : Dev :=
  { d with rsvs := d.rsvs.map fun q => if q.src = src ∧ q.xid = xid then { q with silent := 0 } else q }

/-- Pages of one mode reserved, kept with their mode. -/
def Dev.reservePages (d : Dev) (t hdim mode n : Nat) : Except Dev (List (Nat × Nat) × Dev) :=
  (d.allocPages pgReserved t mode hdim n).map fun (ps, d) => (ps.map (fun p => (mode, p)), d)

/-- Everything a reservation takes, all or none (R62): the record ARRIVING, the page map, the landing bodies, the pages. An error
carries the device as the attempt leaves it (R40). -/
def Dev.reserve (d : Dev) (m : RsvReq) (i : Nat) : Except Dev Dev :=
  let t := m.tenant.toNat
  let l := m.layers.toNat
  let h := m.kvheads.toNat
  let hd := m.hdim.toNat
  match d.allocBodies i t l h m.maxslots.toNat with
  | none => .error d
  | some (pm, la, d) =>
    (d.reservePages t hd 1 m.pagesZ8.toNat).bind fun (a, d) => (d.reservePages t hd 2 m.pagesZ6.toNat).bind fun (b, d) =>
      (d.reservePages t hd 3 m.pagesZ4.toNat).map fun (c, d) =>
        let gen := genIssued (d.rGen i)
        let d := (List.range 16).foldl (fun d w => d.rset i w 0) d
        let d := d.rset i 0 (word0 gen recArriving t l h hd m.kvmode.toNat m.maxslots.toNat)
        let d := d.rset i 3 (la * 2 ^ 27 + pm)
        let d := (d.rset i 4 m.hdr.xid.toNat).mirrorRec i
        { d with rsvs := d.rsvs ++ [(⟨m.hdr.src.toNat, m.hdr.xid.toNat, m.hdr.dst.toNat, m.hdr.epoch.toNat, i, a ++ b ++ c, [], 0⟩ : Rsv)] }

/-- Granules a reservation asks of the tenant's quota. -/
def rsvGrans (m : RsvReq) : Nat :=
  bodyGrans m.layers.toNat m.kvheads.toNat m.maxslots.toNat + 4 * m.pagesZ8.toNat + 3 * m.pagesZ6.toNat + 2 * m.pagesZ4.toNat

/-- Whether a tenant has an active partition here (R63). -/
def Dev.hasPart (d : Dev) (t : Nat) : Bool :=
  match d.slotOfTenant t with
  | some k => d.get Fld.SEC_PART0_STATE k != ptReleasing
  | none => false

/-- RSV_REQ at the destination: the checks of R63 in order, then all or nothing. A repeat of a request whose reservation is held
is granted again before the checks of tenant and quota (log entry 179). -/
def execRsvReq (m : RsvReq) (twinGrants : Bool) (s : State) : Host.Outcome State Fault Refusal :=
  onHall (fun d =>
    let src := m.hdr.src.toNat
    let xid := m.hdr.xid.toNat
    let answer (d : Dev) (c : Ctrl) : Dev := d.answer src m.hdr.dst.toNat c
    d.hear (.rsvReq m) src fun d =>
    let cross := d.xfers.any fun x => x.dest == src && (decide (x.phase = .waiting) || decide (x.phase = .reserving) || decide (x.phase = .retry))
    if !(d.epochOk src m.hdr.epoch.toNat) then answer d (.rsvNak xid .epoch false)
    else if (d.rsv src xid).isSome then answer (d.heardXfer src xid) (.rsvGrant xid)
    else if !(d.hasPart m.tenant.toNat) then answer d (.rsvNak xid .tenant false)
    else if !(d.admits m.tenant.toNat t1 (rsvGrans m)) then answer d.refusedQuota (.rsvNak xid .quota false)
    else match d.freeRec with
      | none => answer d (.rsvNak xid .records cross)
      | some i =>
        let d := d.askTwin i (word0 (genIssued (d.rGen i)) recArriving m.tenant.toNat m.layers.toNat m.kvheads.toNat m.hdim.toNat m.kvmode.toNat
          m.maxslots.toNat)
        if d.mirrors && !twinGrants then answer d (.rsvNak xid .records cross)
        else match d.reserve m i with
          | .error d' => answer ((d.keepQuarantined d').refusedPool.mirror [.freed (BitVec.ofNat 15 i)]) (.rsvNak xid .space cross)
          | .ok d => answer d (.rsvGrant xid)) s

/-- A page recompressed on egress (R62, R86): its used rows decoded and encoded in another mode. -/
def Dev.recompress (d : Dev) (p mode : Nat) : List Byte × List Byte × Nat :=
  let e := d.page p
  let n := e.fill
  encodeRun mode (pageBlocks (dimOf e.hdim) (rowsOf e.mode e.hdim 0 n (d.payload p) (d.scales p)) (rowsOf e.mode e.hdim 1 n (d.payload p) (d.scales p)))

/-- COMMIT as the source sends it (R62). -/
def Dev.sendCommit (d : Dev) (x : Xfer) : Dev :=
  let i := x.idx
  let d := d.xsend x (.commit ⟨d.xhdr x, (List.range 16).map (fun w => BitVec.ofNat 64 (d.rword i w)),
    (List.range (d.rLayers i)).map (fun l => BitVec.ofNat 32 (d.paged i l))⟩)
  d.setXfer { x with phase := .committing, lastTry := d.ns }

/-- One page of a transfer sent (R62): kept in its mode with its summary (R138), or recompressed. -/
def Dev.sendXferPage (d : Dev) (x : Xfer) (n : Nat) : Dev :=
  let p := (d.entry x.idx n).page
  let e := d.page p
  let mode := d.entryMode x n
  let (payload, scale, bad) := if mode = e.mode then (d.payload p, d.scales p, 0) else d.recompress p mode
  let summary := if mode = e.mode then d.summary p else []
  (d.bump Fld.MOV_CODEC_STAT_NONFINITE bad).xsend x (.page ⟨d.xhdr x, BitVec.ofNat 32 n, BitVec.ofNat 2 mode, BitVec.ofNat 8 e.fill, e.hot, payload, scale,
    summary, BitVec.ofNat 32 (crc32c (payload ++ scale))⟩)

/-- The page that stops a transfer's move: absent (a fault of its layer, R195) or with a stale tag (R41). -/
inductive Stopped where
  | absent (layer : Nat)
  | stale (page tag : Nat)
deriving DecidableEq, Repr

/-- The pages of a transfer sent in page-map order from the recorded place on (R62, R198). -/
def Dev.sendPages (x : Xfer) : List Nat → Nat → Dev → Dev × Nat × Option Stopped
  | [], pos, d => (d, pos, none)
  | n :: ns, pos, d =>
    let e := d.entry x.idx n
    if e.loc = 2 then (d, pos, some (.absent (n / d.rHeads x.idx % d.rLayers x.idx)))
    else if (d.page e.page).vtag ≠ e.vtag then (d, pos, some (.stale e.page e.vtag))
    else Dev.sendPages x ns (pos + 1) (d.sendXferPage x n)

/-- The move phase begun or resumed (R62, R198, R200). -/
def Dev.move (d : Dev) (x : Xfer) : Dev :=
  let n0 := d.pair.next
  let pos := match d.cmd x.ring x.index with
    | some k => k.pos
    | none => 0
  let x := { x with phase := .moving, parked := false }
  let (d, pos, stop) := Dev.sendPages x (x.entries.drop pos) pos (d.setXfer x)
  let d := match d.cmd x.ring x.index with
    | some k => d.setCmd { k with pos := pos }
    | none => d
  match stop with
  | none => if x.entries.isEmpty then d.sendCommit x else d
  | some (.stale p tag) => (d.tagMismatch mMover p tag).failXfer x n0 stAborted
  | some (.absent l) =>
    match d.cmd x.ring x.index with
    | none => d.failXfer x n0 stPartialFail
    | some k =>
      match d.raiseFault k (.layer x.idx l) with
      | (true, d) => d.failXfer x n0 stPageFault
      | (false, d) => d.setXfer { x with parked := true }

/-- KV_TRANSFER accepted (R25, R62): the record LEAVING with the transfer's ID. Commands accepted before it go on and are
waited for. A command whose bitmap is still to be written is taken up there (R69). -/
def execKvTransfer (c : CmdId) (s : State) : Host.Outcome State Fault Refusal :=
  onHall (fun d =>
    match d.act c opKvTransfer with
    | none => d
    | some k =>
      if k.stage = stageBitmap then d.endRest k (u64 k.entry 24)
      else if d.xfers.any (fun x => x.ring == k.ring && x.index == k.index) then
        (match d.xfers.find? fun x => x.ring == k.ring && x.index == k.index && x.parked with
         | some x => d.move x
         | none => d)
      else
        let e := k.entry
        let h := u32 e 16
        let i := hIndex h
        let st := d.checkHandle h k.tenant d.orders
        let pages := if d.rState i ≠ recFree ∧ hGen h = d.rGen i ∧ d.rTenant i = k.tenant then d.usedEntries i else []
        if st ≠ stOK then d.refuseXfer k d.pair.next st [0, 0, 0, pages.length] (ackBits pages [])
        else if 3 < u8 e 22 then d.refuseXfer k d.pair.next stAborted [0, 0, 0, pages.length] (ackBits pages [])
        else
          let xid := d.nextXid
          let x : Xfer := { xid := xid, idx := i, ring := k.ring, index := k.index, dest := u16 e 20, recomp := u8 e 22, retryMax := u8 e 23,
                            bitmap := u64 e 24, phase := .waiting, order := d.orders, entries := [], acked := [], moved := 0, copied := 0, retries := 0,
                            waitFor := 0, lastTry := 0, parked := false, tried := false }
          let d := { (d.setCmd { k with order := d.orders }) with xfers := d.xfers ++ [x], nextXid := if xid = 2 ^ 32 - 1 then 1 else xid + 1
                                                                  orders := d.orders + 1 }
          let d := (d.touch i).rput i 0 46 44 recLeaving
          (d.rput i 4 31 0 xid).mirrorRec i) s

/-- RSV_GRANT (R62): the source moves the pages. -/
def execRsvGrant (xid : BitVec 32) (s : State) : Host.Outcome State Fault Refusal :=
  onHall (fun d =>
    match d.xfer xid.toNat with
    | none => d
    | some x => d.hear (.rsvGrant x.xid) x.dest fun d => if x.phase = .reserving then d.move x else d) s

/-- RSV_NAK (R63, R64): the matching status, or a retry at the next catch or after a drawn number of strokes. A page or
COMMIT refused for its epoch ends the transfer too (R67). -/
def execRsvNak (xid : BitVec 32) (why : NakReason) (cross : Bool) (s : State) : Host.Outcome State Fault Refusal :=
  onHall (fun d =>
    match d.xfer xid.toNat with
    | none => d
    | some x => d.hear (.rsvNak x.xid why cross) x.dest fun d =>
      let n0 := d.pair.next
      if x.phase = .moving ∨ x.phase = .committing then (if why = .epoch then d.failXfer x n0 stStaleEpoch else d)
      else if x.phase ≠ .reserving then d
      else match why with
        | .epoch => d.failXfer x n0 stStaleEpoch
        | .tenant => d.failXfer x n0 stTenantMismatch
        | .quota => d.failXfer x n0 stQuotaBlocked
        | _ =>
          if cross ∧ d.node < x.dest then
            let (n, d) := d.choose 8
            d.setXfer { x with phase := .retry, waitFor := n + 1 }
          else d.setXfer { x with phase := .retry, waitFor := 1 }) s

/-- RESERVATION_RETRY (R63, R64): at the catch that ends its wait, a refused reservation is asked for again, or the transfer
completes RESERVE_DENIED once `RETRY_MAX` retries are spent. -/
def execReservationRetry (xid : BitVec 32) (s : State) : Host.Outcome State Fault Refusal :=
  onHall (fun d =>
    match d.xfer xid.toNat with
    | none => d
    | some x =>
      if x.phase ≠ .retry ∨ x.waitFor ≠ 0 then d
      else if x.retryMax ≤ x.retries then d.failXfer x d.pair.next stReserveDenied
      else
        let x := { x with phase := .reserving, retries := x.retries + 1, lastTry := d.ns }
        (d.setXfer x).sendRsv x) s

/-- The first reserved page of a mode, and the others. -/
def takeSpare (mode : Nat) : List (Nat × Nat) → Option (Nat × List (Nat × Nat))
  | [] => none
  | (m, p) :: rest => if m = mode then some (p, rest) else (takeSpare mode rest).map fun (q, r) => (q, (m, p) :: r)

/-- A page placed under its reservation (R62); it is acknowledged once, and again when it comes again. -/
def Dev.placePage (d : Dev) (r : Rsv) (m : XferPage) : Dev × Nat :=
  let n := m.entry.toNat
  if (r.placed.map (·.1)).contains n then (d, stOK)
  else match takeSpare m.mode.toNat r.spare with
    | none => (d, stAborted)
    | some (p, rest) =>
      let d := d.setPage p { (d.page p) with fill := m.fill.toNat, hot := m.hot }
      let d := d.fillPage p m.payload m.scale (if m.summary.isEmpty then none else some m.summary)
      ({ d with rsvs := d.rsvs.map fun q => if q.src = r.src ∧ q.xid = r.xid then { r with spare := rest, placed := r.placed ++ [(n, p)] } else q },
        stOK)

/-- XFER_PAGE (R62, R65, R67). -/
def execXferPage (m : XferPage) (s : State) : Host.Outcome State Fault Refusal :=
  onHall (fun d =>
    let src := m.hdr.src.toNat
    let ack (d : Dev) (st : Nat) : Dev := d.answer src m.hdr.dst.toNat (.pageAck m.hdr.xid.toNat m.entry.toNat st)
    d.hear (.page m) src fun d =>
    if !(d.epochOk src m.hdr.epoch.toNat) then ack d stStaleEpoch
    else match d.rsv src m.hdr.xid.toNat with
      | none => ack d stAborted
      | some r =>
        let d := d.heardXfer src m.hdr.xid.toNat
        if m.crc.toNat ≠ crc32c (m.payload ++ m.scale) then ack d stCrcFault
        else
          let (d, st) := d.placePage { r with silent := 0 } m
          ack d st) s

/-- XFER_PAGE_ACK (R62, R24): the page counted as moved or copied; COMMIT after the last. A refusal ends the transfer. -/
def execXferPageAck (xid entry : BitVec 32) (status : BitVec 8) (s : State) : Host.Outcome State Fault Refusal :=
  onHall (fun d =>
    match d.xfer xid.toNat with
    | none => d
    | some x => d.hear (.pageAck x.xid entry.toNat status.toNat) x.dest fun d =>
      let n := entry.toNat
      if x.phase ≠ .moving then d
      else if status.toNat = stStaleEpoch then d.failXfer x d.pair.next stStaleEpoch
      else if status.toNat ≠ stOK then d.failXfer x d.pair.next stPartialFail
      else if x.acked.contains n ∨ !(x.entries.contains n) then d
      else
        let e := d.page (d.entry x.idx n).page
        let x := { x with acked := x.acked ++ [n], moved := if e.state = pgShared then x.moved else x.moved + 1,
                          copied := if e.state = pgShared then x.copied + 1 else x.copied }
        let d := d.setXfer x
        if x.acked.length = x.entries.length then d.sendCommit x else d) s

/-- A placed page committed (R62, R67): OWNED with the current epoch, its page-map entry written. -/
def Dev.commitPage (i : Nat) (d : Dev) (np : Nat × Nat) : Dev :=
  let (n, p) := np
  let e := d.page p
  let d := d.setPage p { e with state := pgOwned, refc := 1, epoch := d.epoch }
  (d.setEntry i n ⟨e.vtag, p, 1⟩).mirrorPage i n p

/-- The record of a committed transfer (R62): the words that travel, this device's places and epoch. -/
def Dev.commitRec (d : Dev) (i : Nat) (m : CommitMsg) : Dev :=
  let d := d.rput i 0 46 44 recActive
  let d := ([1, 2] ++ (List.range 11).map (· + 5)).foldl (fun (d : Dev) w => d.rset i w (m.words.getD w 0).toNat) d
  let d := (List.range (d.rLayers i)).foldl (fun d l => d.putHdr i l (m.paged.getD l 0).toNat 0) d
  (d.rset i 4 (d.epoch * 2 ^ 32)).mirrorRec i

/-- COMMIT_ACKs whose record the twin holds are sent (R62, R66, R331). -/
def Dev.tellCommits (d : Dev) : Dev :=
  let due := d.committed.filter fun c => !c.told && (!d.mirrors || decide (c.need ≤ d.pair.acked)) && !(d.pairState == psFenced)
  let d := { d with committed := d.committed.map fun c => if c ∈ due then { c with told := true } else c }
  due.foldl (fun d c => d.answer c.src c.dst (.commitAck c.xid c.handle)) d

/-- COMMIT (R62, R66, R67). -/
def execCommit (m : CommitMsg) (s : State) : Host.Outcome State Fault Refusal :=
  onHall (fun d =>
    let src := m.hdr.src.toNat
    let xid := m.hdr.xid.toNat
    let dst := m.hdr.dst.toNat
    d.hear (.commit m) src fun d =>
    if !(d.epochOk src m.hdr.epoch.toNat) then d.answer src dst (.rsvNak xid .epoch false)
    else match d.committed.find? (fun c => c.src == src && c.xid == xid && (c.dst == dst)) with
      | some c => if c.told then d.answer src dst (.commitAck xid c.handle) else d
      | none =>
        match d.rsv src xid with
        | none => d.answer src dst (.commitUnknown xid)
        | some r =>
          let n0 := d.pair.next
          let d := { d with rsvs := d.rsvs.filter fun q => !(q.src == src && q.xid == xid) }
          let d := (r.spare.map (·.2)).foldl Dev.zeroPage d
          let d := r.placed.foldl (Dev.commitPage r.idx) d
          let d := d.commitRec r.idx m
          let h := d.handleOf r.idx
          let d := d.mirror [.committed (BitVec.ofNat 16 src) (BitVec.ofNat 32 xid) (BitVec.ofNat 32 h)]
          ({ d with committed := d.committed ++ [(⟨src, xid, dst, h, d.needSince n0, false⟩ : Committed)] } : Dev).tellCommits) s

/-- COMMIT_RETRY (R66): repeated every `COMMIT_RETRY` microseconds until an answer arrives. -/
def execCommitRetry (xid : BitVec 32) (t : BitVec 64) (s : State) : Host.Outcome State Fault Refusal :=
  onHall (fun d =>
    let d := d.advanceTo t.toNat
    match d.xfer xid.toNat with
    | none => d
    | some x =>
      if x.phase = .committing ∧ x.lastTry + 1000 * atLeast1 (d.get Fld.MOV_XFER_CFG_COMMIT_RETRY) ≤ d.ns then d.sendCommit x else d) s

/-- COMMIT_ACK at a source (R19, R62): its record is retired and the transfer completes OK with the new handle. -/
def Dev.commitAck (d : Dev) (xid handle : Nat) : Dev :=
  match d.xfer xid with
  | none => d
  | some x =>
    let n0 := d.pair.next
    if x.phase = .committing then (d.retire x.idx).endXfer x n0 stOK handle else d

/-- COMMIT_UNKNOWN (R66). -/
def execCommitUnknown (xid : BitVec 32) (s : State) : Host.Outcome State Fault Refusal :=
  onHall (fun d =>
    match d.xfer xid.toNat with
    | none => d
    | some x => d.hear (.commitUnknown x.xid) x.dest fun d => if x.phase = .committing then d.failXfer x d.pair.next stPartialFail else d) s

/-- ABORT (R65, R337): a transfer that has committed is answered by its COMMIT_ACK; otherwise everything reserved for it is
freed, and the answer says so. -/
def execAbort (h : XferHdr) (s : State) : Host.Outcome State Fault Refusal :=
  onHall (fun d =>
    let src := h.src.toNat
    let xid := h.xid.toNat
    let dst := h.dst.toNat
    d.hear (.abort h) src fun d =>
    match d.committed.find? (fun c => c.src == src && c.xid == xid && (c.dst == dst)) with
    | some c => if c.told then d.answer src dst (.commitAck xid c.handle) else d
    | none =>
      let d := match d.rsv src xid with
        | some r => d.freeRsv r
        | none => d
      d.answer src dst (.abortAck xid)) s

/-- XFER_HOLD (R65, R198): the count of silent strokes begins again, or the message is refused with ABORTED. -/
def execXferHold (h : XferHdr) (s : State) : Host.Outcome State Fault Refusal :=
  onHall (fun d => d.hear (.xferHold h) h.src.toNat fun d =>
    match d.rsv h.src.toNat h.xid.toNat with
    | some _ => d.heardXfer h.src.toNat h.xid.toNat
    | none => d.answer h.src.toNat h.dst.toNat (.pageAck h.xid.toNat 0 stAborted)) s

/-- XFER_HOLD_SEND (R198): at every catch, one for each transfer parked on a fault. -/
def execXferHoldSend (s : State) : Host.Outcome State Fault Refusal :=
  onHall (fun d => (d.xfers.filter fun x => x.parked && !x.tried).foldl (fun d x =>
    (d.setXfer { x with tried := true }).xsend x (.xferHold (d.xhdr x))) d) s

/-- RSV_HOLD_TIMEOUT (R65): a reservation silent for `RSV_HOLD` strokes is freed as if aborted. -/
def execRsvHoldTimeout (src : BitVec 16) (xid : BitVec 32) (s : State) : Host.Outcome State Fault Refusal :=
  onHall (fun d =>
    match d.rsv src.toNat xid.toNat with
    | none => d
    | some r => if d.get Fld.MOV_XFER_CFG_RSV_HOLD ≤ r.silent then d.freeRsv r else d) s

/-- The landing flush point (R50, R318): every complete half of every ACTIVE record; transfers whose flush was refused try it
again (R52). -/
def Dev.landingFlush (d : Dev) : Dev :=
  let d := { d with clk := { d.clk with flushed := true } }
  let again := d.xfers.filter fun x => decide (x.phase = .waiting) && decide (x.waitFor ≠ 0)
  let d := again.foldl (fun d x => (d.setXfer { x with waitFor := 0 }).proceed { x with waitFor := 0 }) d
  (d.liveRecs.filter fun i => d.rState i == recActive).foldl (fun d i => (List.range (d.rLayers i)).foldl (Dev.flushHalves i) d) d

/-- LANDING_FLUSH_POINT (R50, R439): once a stroke, at `LFLUSH_ANGLE`. -/
def execLandingFlushPoint (s : State) : Host.Outcome State Fault Refusal :=
  onHall (fun d => if d.firing ∧ !d.clk.flushed ∧ d.get Fld.MOV_XFER_CFG_LFLUSH_ANGLE ≤ d.angle then d.landingFlush else d) s

end Sys2Proof.Machine
end

