-- ==== Sys2Proof/Machine/Traffic.lean ====
section
/-! DEFINITION. Machine/Traffic.lean: the traffic unit (chapter 12): the class of a queue pair, weighted fair queueing,
shapers, ingress meters, time gates and latency high-water marks. -/

namespace Sys2Proof.Machine

/-- A queue pair given a class (R300): the packets not yet handed over move to the flow of the new class. -/
def Dev.reclass (d : Dev) (q : Nat) (lc : Bool) : Dev :=
  let cls := if lc then 1 else 2
  if d.qClass q = cls then d
  else
    let d := d.qput q 0 60 59 cls
    if !(d.txq.any fun t => t.qp == q && t.lc != lc) then d
    else
      let d := { d with txq := d.txq.map fun (t : TxPkt) => if t.qp = q then { t with lc := lc } else t }
      let f := d.flowOf q
      let s := schedOf (!lc)
      let d := if (d.flowPkts s f).isEmpty then d.setFlow (flowKey s f) { (d.flow (flowKey s f)) with backlog := false } else d
      d.onBacklog (schedOf lc) f

/-- TRF_QP_CLASS (R300, R309). -/
def Dev.writeQpClass (d : Dev) (v : Nat) : Dev :=
  let q := bits v 15 0
  let c := bits v 49 48
  if qReserved q ∨ (c ≠ 1 ∧ c ≠ 2) then d else d.reclass q (c == 1)

/-- TRF_QP_CLASS (R300, R309): written through the PF. -/
def execTrfQpClass (v : Word) (s : State) : Host.Outcome State Fault Refusal := onDev (fun d => if d.open' then d.writeQpClass v.toNat else d) s

/-! ## Token buckets -/

/-- A bucket before anything was written to it. -/
def Bucket.empty : Bucket := ⟨0, 0, 0⟩

/-- A bucket's refills up to the local time `at10`, in tens of nanoseconds: `rate` / 100 bytes each, the remainder carried,
at most `cap` held (R301, R303). -/
def Bucket.refill (b : Bucket) (rate cap at10 : Nat) : Bucket :=
  let gain := (at10 - b.at') * rate + b.rem
  ⟨min cap (b.tokens + gain / 100), gain % 100, at10⟩

/-- A tenant's shaper after its refills (R301). -/
def Dev.shaper (d : Dev) (n : Nat) : Bucket :=
  (sget Bucket.empty n d.shapers).refill (d.get Fld.TRF_SHAPE_RATE n) (max (d.get Fld.TRF_SHAPE_BURST n * 1024) 4160) (d.ns / 10)

/-- A write of TRF_SHAPEn (R302). -/
def Dev.writeShape (d : Dev) (n v : Nat) : Dev :=
  let d := (d.put Fld.TRF_SHAPE_RATE (bits v 63 40) n).put Fld.TRF_SHAPE_BURST (bits v 39 24) n
  { d with shapers := sput Bucket.empty n ⟨0, 0, d.ns / 10⟩ d.shapers }

/-- TRF_SHAPE_WRITE (R302): tokens and carried remainder to zero, whether or not a value changes. -/
def execTrfShapeWrite (n : BitVec 8) (v : Word) (s : State) : Host.Outcome State Fault Refusal :=
  onDev (fun d => if d.open' then d.writeShape n.toNat v.toNat else d) s

/-- Both buckets of a meter filled to their caps (R304). -/
def Dev.fillMeter (d : Dev) (n : Nat) : Dev :=
  let full : Bucket × Bucket := (⟨d.get Fld.TRF_METER1_CBS n * 1024, 0, d.ns / 10⟩, ⟨d.get Fld.TRF_METER1_PBS n * 1024, 0, d.ns / 10⟩)
  { d with meters := sput (Bucket.empty, Bucket.empty) n full d.meters }

/-- A write of a word of TRF_METERn (R304). -/
def Dev.writeMeter (d : Dev) (n : Nat) (word1 : Bool) (v : Nat) : Dev :=
  let d := if word1 then (d.put Fld.TRF_METER1_CBS (bits v 63 48) n).put Fld.TRF_METER1_PBS (bits v 47 32) n
    else ((d.put Fld.TRF_METER0_CIR (bits v 63 40) n).put Fld.TRF_METER0_PIR (bits v 39 16) n).put Fld.TRF_METER0_RED_ACT (bits v 0 0) n
  d.fillMeter n

/-- TRF_METER_WRITE (R304). -/
def execTrfMeterWrite (n : BitVec 8) (word1 : Bool) (v : Word) (s : State) : Host.Outcome State Fault Refusal :=
  onDev (fun d => if d.open' then d.writeMeter n.toNat word1 v.toNat else d) s

/-- What the ingress meter makes of a packet of `b` bytes of tenant `n` (R303): whether it is placed, and whether marked. -/
def Dev.meter (d : Dev) (n b : Nat) : Dev × Bool × Bool :=
  if d.get Fld.TRF_METER0_CIR n = 0 then (d.bump Fld.TRF_MCNT0_GREEN 1 n, true, false)
  else
    let m := sget (Bucket.empty, Bucket.empty) n d.meters
    let c := m.1.refill (d.get Fld.TRF_METER0_CIR n) (d.get Fld.TRF_METER1_CBS n * 1024) (d.ns / 10)
    let p := m.2.refill (d.get Fld.TRF_METER0_PIR n) (d.get Fld.TRF_METER1_PBS n * 1024) (d.ns / 10)
    let keep (c p : Bucket) : Dev := { d with meters := sput (Bucket.empty, Bucket.empty) n (c, p) d.meters }
    if p.tokens < b then
      let act := d.flag Fld.TRF_METER0_RED_ACT n
      ((keep c p).bump Fld.TRF_MCNT1_RED 1 n, act, act)
    else
      let p := { p with tokens := p.tokens - b }
      if c.tokens < b then ((keep c p).bump Fld.TRF_MCNT0_YELLOW 1 n, true, true)
      else ((keep { c with tokens := c.tokens - b } p).bump Fld.TRF_MCNT0_GREEN 1 n, true, false)

/-! ## Gates -/

/-- Whether a gate entry admits an angle (R305). -/
def gateAdmits (w a : Nat) : Bool :=
  let o := bits w 47 32
  let c := bits w 31 16
  bit w 63 && (o == c || ((if o < c then decide (o ≤ a) && decide (a < c) else decide (o ≤ a) || decide (a < c)) && decide (bits w 15 0 < subMod 16 c a)))

/-- The effective words of a flow's binding and of a gate entry: what the registers held at the latest catch (R306). -/
def Dev.binding (d : Dev) (n : Nat) : Nat := (sget (BitVec.ofNat 64 Fld.TRF_FLOW_GLC.wreset) (Fld.TRF_FLOW_GLC.off n 0) d.binds).toNat
def Dev.gateWord (d : Dev) (k m : Nat) : Nat := (sget 0 (Fld.TRF_GATE_EN.off k m) d.gates).toNat

/-- Whether the gate of a flow admits the current angle (R305, R306); the system flow is not gated (R296). -/
def Dev.gateOpen (d : Dev) (s f : Nat) : Bool :=
  f == 256 ||
    let w := d.binding f
    let on := if s = 0 then bit w 31 else bit w 26
    let k := if s = 0 then bits w 30 27 else bits w 25 22
    !on || (List.range 8).any fun m => gateAdmits (d.gateWord k m) d.angle

/-- The registers' gate entries and bindings taken over at a catch (R306). -/
def Dev.takeGates (d : Dev) : Dev :=
  { d with gates := d.regs.filter (fun e => decide (0x01005000 ≤ e.1) && decide (e.1 < 0x01005400)),
           binds := d.regs.filter (fun e => decide (0x01001000 ≤ e.1) && decide (e.1 < 0x01001800)) }

/-- Flows that are not backlogged forget their finish tags at a catch (R299), and every flow may log its first late packet
of the stroke again (R308). -/
def Dev.catchFlows (d : Dev) : Dev :=
  let fs := d.flows.map fun e => (e.1, { e.2 with finish := if e.2.backlog then e.2.finish else none, exceeded := false })
  { d with flows := fs.filter fun e => !(decide (e.2 = Flow.fresh)) }

/-! ## The schedulers -/

/-- Whether an earlier operation of the same pair is still outstanding when this packet's is fenced (R263). -/
def Dev.fenced (d : Dev) (t : TxPkt) : Bool :=
  isReqPkt t.pkt && d.ops.any (fun o => o.id == t.pkt.opId.toNat && o.fence)
    && (d.ops.takeWhile (fun o => o.id != t.pkt.opId.toNat)).any (fun o => o.qp == t.qp && o.node == t.node)

/-- Whether a packet may leave its pair (R261, R263, R270, R296, R343). -/
def Dev.eligible (d : Dev) (t : TxPkt) : Bool :=
  let q := d.qpt t.qp t.node
  let s := schedOf t.lc
  decide (q.paceAt ≤ d.clk.now) && d.takesPart t.qp t.node
    && (t.flow == 256 || d.get Fld.TRF_SHAPE_RATE t.flow == 0 || decide (pktWire t.pkt ≤ (d.shaper t.flow).tokens))
    && (t.retx || (d.gateOpen s t.flow && decide (q.out.length < unackedMax) && !(d.fenced t)))

/-- The packet a flow would hand over (R297). -/
def Dev.flowPick (d : Dev) (s f : Nat) : Option TxPkt :=
  rrNext (d.flow (flowKey s f)).lastQp ((pairHeads (d.flowPkts s f) []).filter d.eligible)

/-- The packet that a scheduler hands over: of the eligible flow with the least finish tag (R298). -/
def Dev.pick (d : Dev) (s : Nat) : Option TxPkt :=
  let fs := distinct ((d.txq.filter fun t => schedOf t.lc == s).map (·.flow))
  let cand := fs.filterMap fun f => (d.flowPick s f).map fun t => ((d.flow (flowKey s f)).finish.getD 0, t)
  match cand with
  | [] => none
  | c :: cs => some (cs.foldl (fun (b : Nat × TxPkt) x => if modDiff 64 x.1 b.1 < 0 then x else b) c).2

/-- The sojourn of a packet measured at its handoff (R308). -/
def Dev.sojourn (d : Dev) (t : TxPkt) : Dev :=
  let s := schedOf t.lc
  let ns := subMod 64 d.clk.cnt t.formed
  let d := d.put Fld.TRF_HWM_MAX (max (d.get Fld.TRF_HWM_MAX t.flow s) (min ns Fld.TRF_HWM_MAX.max)) t.flow s
  let th := d.get Fld.TRF_HWM_THRESH t.flow s
  if th = 0 ∨ ns ≤ th * 100 then d
  else
    let d := d.bump Fld.TRF_HWM_EXCEED 1 t.flow s
    let fl := d.flow (flowKey s t.flow)
    if fl.exceeded then d else (d.setFlow (flowKey s t.flow) { fl with exceeded := true }).logEv evLatencyHwm mTraffic (s * 65536 + t.flow)

/-- The tags of a flow after one of its packets left (R298). -/
def Dev.retag (d : Dev) (s f q : Nat) : Dev :=
  let k := flowKey s f
  let fl := d.flow k
  let d := d.setVt s (later64 (d.vt s) fl.start)
  match d.flowHead s f with
  | none => d.setFlow k { fl with backlog := false, lastQp := q }
  | some _ =>
    let d := d.setFlow k { fl with lastQp := q }
    match d.flowHead s f with
    | none => d
    | some h =>
      let st := fl.finish.getD 0
      d.setFlow k { fl with lastQp := q, start := st, finish := some ((st + d.cost s f h.pkt) % 2 ^ 64) }

/-- A packet handed to spraying (R261, R270, R298, R301): paced, its tokens taken, and kept until it is acknowledged. -/
def Dev.handOff (d : Dev) (t : TxPkt) : Dev :=
  let d := ({ d with txq := d.txq.erase t } : Dev).useCtx t.qp
  let d := if t.flow = 256 ∨ d.get Fld.TRF_SHAPE_RATE t.flow = 0 then d
    else
      let b := d.shaper t.flow
      { d with shapers := sput Bucket.empty t.flow { b with tokens := b.tokens - pktWire t.pkt } d.shapers }
  let (q, t) := (d.qpt t.qp t.node).number t
  let q := { q with paceAt := max q.paceAt d.clk.now + pktWire t.pkt * 3000 / atLeast1 q.rate }
  let d := (d.setQpt q).retag (schedOf t.lc) t.flow t.qp
  { (d.sojourn t) with spray := d.spray ++ [t] }

/-- PACKET_HANDOFF (R298): one selection of a scheduler, VL1's for `lc`. -/
def execPacketHandoff (lc : Bool) (s : State) : Host.Outcome State Fault Refusal :=
  onDev (fun d => match d.pick (schedOf lc) with
    | some t => d.handOff t
    | none => d) s

end Sys2Proof.Machine
end

