-- ==== Sys2Proof/Machine/Sampler.lean ====
section
/-! DEFINITION. Machine/Sampler.lean: the choice of tokens, grammar tables and token lists, commits, releases, latency
tracking and promotion (chapter 6). -/

namespace Sys2Proof.Machine

/-! ## Choosing a token -/

/-- The draw of R148: a multiple of 2^-24, as its 24-bit numerator. -/
def drawBits (seed pos : Nat) : Nat :=
  let h := seed ^^^ (pos * 0x9E6C63D0676A9A99 % 2 ^ 64)
  let h := (h ^^^ (h >>> 32)) * 0xD6E8FEB86659FD93 % 2 ^ 64
  let h := (h ^^^ (h >>> 32)) * 0xD6E8FEB86659FD93 % 2 ^ 64
  let h := h ^^^ (h >>> 32)
  bits h 63 40

/-- The draw as FP32 (R148): exact. -/
def draw (seed pos : Nat) : Nat := enc32 (.fin false (drawBits seed pos) (-24))

/-- The largest candidate set (R147). -/
def kmax : Nat := 4096

/-- What a choice comes to (R147, R160): a token; an outcome code other than `TOKEN`; or a choice among candidates that the
manual's arithmetic does not settle (log entry 22). -/
inductive Chosen where
  | token (t : Nat)
  | outcome (code : Nat)
  | openAmong (c : List Nat)
deriving DecidableEq, Repr

/-- Outcome codes (R160). -/
def ocToken : Nat := 0
def ocEmptyMask : Nat := 1
def ocNonfinite : Nat := 2
def ocRejected : Nat := 3
def ocBadTable : Nat := 4
def ocNotRun : Nat := 5

/-- FP32 codes compared as values. -/
def lt32 (a b : Nat) : Bool := flt (dec32 a) (dec32 b)
def le32 (a b : Nat) : Bool := fle (dec32 a) (dec32 b)

/-- FP32 log2 e (R147). -/
def log2e32 : Nat := 0x3FB8AA3B

/-- Running sums with one rounding each (R147). -/
def cumSums : List Nat → List Nat
  | [] => []
  | w :: ws => ws.foldl (fun acc x => acc ++ [add32 (acc.getLastD w) x]) [w]

/-- The token drawn from ordered candidates with their scaled logits (R147, from `kk` on). -/
def drawFrom (c : List (Nat × Nat)) (topK topP seed pos : Nat) : Chosen :=
  let kk := min c.length (min kmax (if 0 < topK then topK else kmax))
  let c := c.take kk
  let m := (c.headD (0, 0)).2
  if m = posInf32 then .token (c.headD (0, 0)).1
  else
    let cum := cumSums (c.map fun x => exp2_32 (mul32 (sub32 x.2 m) log2e32))
    let n := if (dec32 topP).isZero ∨ topP = 0x3F800000 then some (kk - 1)
      else findFrom (fun i => le32 (mul32 topP (cum.getD (kk - 1) 0)) (cum.getD i 0)) 0 kk
    match n with
    | none => .openAmong (c.map (·.1))
    | some n =>
      let target := mul32 (draw seed pos) (cum.getD n 0)
      let i := (findFrom (fun i => lt32 target (cum.getD i 0)) 0 (n + 1)).getD n
      .token (c.getD i (0, 0)).1

/-- choose of R147 over the allowed tokens with their FP32 logits, in ascending order of token. -/
def chooseToken (lg : List (Nat × Nat)) (temp topK topP seed pos : Nat) : Chosen :=
  if lg.any (fun x => (dec32 x.2).isNan) then .outcome ocNonfinite
  else
    let a := lg.filter fun x => x.2 != negInf32
    match a with
    | [] => .outcome ocEmptyMask
    | x :: xs =>
      match a.find? (fun x => x.2 == posInf32) with
      | some x => .token x.1
      | none =>
        if (dec32 temp).isZero ∨ topK = 1 then .token (xs.foldl (fun (b : Nat × Nat) y => if lt32 b.2 y.2 then y else b) x).1
        else
          let y := a.map fun x => (x.1, mul32 x.2 (rcp32 temp))
          if y.any (fun x => (dec32 x.2).isNan) then .openAmong (y.map (·.1))
          else drawFrom (sortBy (fun (a b : Nat × Nat) => lt32 b.2 a.2) y) topK topP seed pos

/-! ## The record's sampler words (R144) -/

def Dev.sTemp (d : Dev) (i : Nat) : Nat := d.rget i 6 31 0
def Dev.sTopP (d : Dev) (i : Nat) : Nat := d.rget i 6 63 32
def Dev.sTopK (d : Dev) (i : Nat) : Nat := d.rget i 7 63 48
def Dev.sMask (d : Dev) (i : Nat) : Nat := d.rget i 7 47 46
def Dev.sGstate (d : Dev) (i : Nat) : Nat := d.rget i 9 63 32
def Dev.sTokens (d : Dev) (i : Nat) : Nat := d.rget i 9 31 0
def Dev.sMaskVa (d : Dev) (i : Nat) : Nat := d.rget i 10 51 0
def Dev.sTtft (d : Dev) (i : Nat) : Nat := d.rget i 11 63 32
def Dev.sTbt (d : Dev) (i : Nat) : Nat := d.rget i 11 31 0
def Dev.sSlack (d : Dev) (i : Nat) : Nat := d.rget i 14 63 32
def Dev.sMisses (d : Dev) (i : Nat) : Nat := d.rget i 15 63 48
def Dev.sLcQp (d : Dev) (i : Nat) : Nat := d.rget i 15 47 32

/-! ## Masks -/

/-- The allowed set of a sequence with the grammar state to go to after each token; none: BAD_TABLE (R146, R149 to R151). -/
structure Allowed where
  ids  : List Nat
  next : Option (Nat × Nat × Nat × Nat)
deriving DecidableEq, Repr

/-- The grammar's allowed set (R149, R150): `next` holds the transitions' address, their count, `DEFAULT` and `N_STATES`. -/
def Dev.grammar (d : Dev) (c : Option (Nat × Nat)) (t i vocab : Nat) : Res (Option Allowed) :=
  let va := d.sMaskVa i
  (d.vaRead c t va 64).andThen fun h d =>
    let nMasks := fld h 4 4
    let nStates := fld h 0 4
    let g := d.sGstate i
    if fld h 8 4 ≠ vocab ∨ nStates ≤ g then .ok none d
    else (d.vaRead c t (va + fld h 24 8 + 16 * g) 16).andThen fun s d =>
      if nMasks ≤ fld s 0 4 then .ok none d
      else
        let size := ceilDiv vocab 512 * 64
        (d.vaRead c t (va + fld h 16 8 + fld s 0 4 * size) size).andThen fun m d =>
          let ids := (List.range vocab).filter fun x => bit (m.getD (x / 8) 0).toNat (x % 8)
          .ok (some ⟨ids, some (va + fld h 32 8 + 8 * fld s 8 4, fld s 12 2, fld s 4 4, nStates)⟩) d

/-- The token list's allowed set (R151). -/
def Dev.tokenList (d : Dev) (c : Option (Nat × Nat)) (t i vocab : Nat) : Res (Option Allowed) :=
  let va := d.sMaskVa i
  (d.vaRead c t va 8).andThen fun h d =>
    let n := fld h 0 4
    if n = 0 ∨ ¬ n ≤ 65536 then .ok none d
    else (d.vaRead c t (va + 8) (4 * n)).andThen fun bs d =>
      .ok (some ⟨distinct (((chunks 4 n bs).map ofBytes).filter fun x => decide (x < vocab)), none⟩) d

/-- The allowed set (R146); the reserved `MASKSRC` 3 has no table (log entry 22). -/
def Dev.allowed (d : Dev) (c : Option (Nat × Nat)) (t i vocab : Nat) : Res (Option Allowed) :=
  if d.sMask i = 0 then .ok (some ⟨List.range vocab, none⟩) d
  else if d.sMask i = 1 then d.grammar c t i vocab
  else if d.sMask i = 2 then d.tokenList c t i vocab
  else .ok none d

/-- The grammar state after token `x` (R149); none: not below `N_STATES` (R150). -/
def Dev.nextState (d : Dev) (c : Option (Nat × Nat)) (t x : Nat) (g : Nat × Nat × Nat × Nat) : Res (Option Nat) :=
  let (at', n, dflt, nStates) := g
  (d.vaRead c t at' (8 * n)).andThen fun bs d =>
    let s := match (chunks 8 n bs).find? (fun e => fld e 0 4 == x) with
      | some e => fld e 4 4
      | none => dflt
    .ok (if s < nStates then some s else none) d

/-! ## Release -/

/-- A promotion (R156): nothing when the record is promoted already. -/
def Dev.promote (d : Dev) (i : Nat) (by' : Fld) : Dev :=
  if d.promoted i then d
  else
    let d := (d.rput i 7 45 45 1).bump by'
    if d.sLcQp i = 0xFFFF then d else d.reclass (d.sLcQp i) true

/-- A deadline miss counted in the record and in its register (R155). -/
def Dev.miss (d : Dev) (i : Nat) (f : Fld) : Dev := (d.rput i 15 63 48 (min 0xFFFF (d.sMisses i + 1))).bump f

/-- Microseconds from stamp `b` to stamp `a`. -/
def usBetween (a b : Nat) : Int := modDiff 64 a b / 1000

/-- The latency updates of a release and the flags of its token record (R155, R160). -/
def Dev.latency (d : Dev) (i stamp : Nat) : Dev × Nat :=
  let first := d.rword i 12
  let last := d.rword i 13
  let (d, fl) := if first = 0 then
      let d := d.rput i 12 63 0 stamp
      if d.sTtft i ≠ 0 ∧ (d.sTtft i : Int) < usBetween stamp (d.rword i 1) then (d.miss i Fld.SMP_LAT_TTFT_MISS, 5) else (d, 1)
    else if last ≠ 0 then
      let tbt := usBetween stamp last
      let d := d.rput i 14 31 0 (max (d.rget i 14 31 0) (min 0xFFFFFFFF tbt.toNat))
      if d.sTbt i = 0 then (d, 0)
      else
        let late := decide ((d.sTbt i : Int) < tbt)
        let d := if late then d.miss i Fld.SMP_LAT_TBT_MISS else d
        let d := if (d.sTbt i : Int) - tbt < d.sSlack i then d.promote i Fld.SMP_PROMO_BY_TBT else d
        (d, if late then 8 else 0)
    else (d, 0)
  let d := (d.rput i 13 63 0 stamp).mirrorRec i
  (d, fl + if d.promoted i then 2 else 0)

/-- The bytes of a token record (R160). -/
def tokenRecord (token outcome flags segment stamp : Nat) : List Byte :=
  toBytes 4 token ++ toBytes 1 outcome ++ toBytes 1 flags ++ toBytes 2 segment ++ toBytes 8 stamp

/-- The release stamp of a token read, once, with the latency updates it brings and the flags of its record (R153, R155); the
updates of a sequence that is gone are left out. A token stamped already keeps its stamp. -/
def Dev.stampToken (d : Dev) (t : TokRel) : TokRel × Dev :=
  if t.stamped.isSome then (t, d)
  else
    let stamp := d.clk.cnt
    let (d, fl) := if d.rState t.idx ≠ recFree ∧ d.rGen t.idx = t.gen then d.latency t.idx stamp else (d, 0)
    ({ t with stamped := some (stamp, fl) }, d)

/-- The record of a stamped token written (R160), which releases it. -/
def Dev.putToken (d : Dev) (k : RunCmd) (t : TokRel) : Res Unit :=
  let (stamp, fl) := t.stamped.getD (0, 0)
  (d.vaWrite (some (k.ring, k.index)) k.tenant t.addr (tokenRecord t.token ocToken fl t.segment stamp)).andThen fun _ d =>
    .ok () (d.bump Fld.SMP_TOKENS_RELEASED)

/-- A token released whose record cannot be written (log entry 23). -/
def Dev.releaseBare (d : Dev) (t : TokRel) : Dev := (d.stampToken t).2.bump Fld.SMP_TOKENS_RELEASED

/-- The results of a SAMPLE as it runs: committed, failed, the status of the lowest failing segment, then the handle
checks of its segments (R160). -/
def RunCmd.failWith (k : RunCmd) (st : Nat) : RunCmd := { k with res := k.res.set 2 (if k.res.getD 2 0 = 0 then st else k.res.getD 2 0) }

/-- A failing status noted for the command of a token. -/
def Dev.failCmd (d : Dev) (r i st : Nat) : Dev :=
  match d.cmd r i with
  | some k => d.setCmd (k.failWith st)
  | none => d

/-- Tokens of a group released in segment order, as far as the accesses go: those left, and the fault that stopped them. -/
def Dev.releaseFrom (k : RunCmd) : List TokRel → Dev → List TokRel × Dev × Option FaultKind
  | [], d => ([], d, none)
  | t :: ts, d =>
    let (t, d) := d.stampToken t
    match d.putToken k t with
    | .ok _ d => Dev.releaseFrom k ts d
    | .fault kd => (t :: ts, d, some kd)
    | .wait d => (t :: ts, d.markWait k, none)
    | .abort => Dev.releaseFrom k ts ((d.bump Fld.SMP_TOKENS_RELEASED).failCmd k.ring k.index stAborted)
    | .status st => Dev.releaseFrom k ts ((d.bump Fld.SMP_TOKENS_RELEASED).failCmd k.ring k.index st)

/-- The groups of a command. -/
def Dev.groupsOf (d : Dev) (k : RunCmd) : List TokGroup := d.groups.filter fun g => g.ring == k.ring && g.index == k.index

/-- Whether a group may be released (R153, R154): acknowledged, or the pair waits for nothing. -/
def Dev.groupReady (d : Dev) (g : TokGroup) : Bool :=
  if d.mirrors then g.number != 0 && decide (g.number ≤ d.pair.acked) else d.pairState != psFenced

/-- The end of a SAMPLE all of whose tokens are released or dropped (R152, R160). -/
def Dev.sampleEnd (d : Dev) (r i : Nat) : Dev :=
  match d.cmd r i with
  | none => d
  | some k => if k.phase = .held ∧ (d.groupsOf k).isEmpty then d.endCmd k d.pair.next (k.res.getD 2 0) (k.res.take 2) else d

/-- One group released as far as it goes (R153). A token record that faults raises its command's page fault; the fifth
leaves the records of the group unwritten (R200), and so does a watchdog that ran out while one waited for the fabric (R228). -/
def Dev.releaseGroup (d : Dev) (g : TokGroup) : Dev :=
  let others := d.groups.filter (fun h => !(decide (h = g)))
  match d.cmd g.ring g.index with
  | none => { d with groups := others }
  | some k =>
    let back (d : Dev) (rest : List TokRel) : Dev :=
      { d with groups := if rest.isEmpty then others else d.groups.map fun h => if h = g then { g with tokens := rest } else h }
    if k.phase = .held ∧ k.status ≠ stOK then
      (back (((g.tokens.foldl Dev.releaseBare d).setCmd { k with status := stOK }).failCmd k.ring k.index k.status) []).sampleEnd g.ring g.index
    else
    let (rest, d, f) := Dev.releaseFrom k g.tokens d
    match f, d.cmd g.ring g.index with
    | some kd, some k =>
      (match d.raiseFault k kd with
       | (true, d) => back ((rest.foldl Dev.releaseBare d).failCmd k.ring k.index stPageFault) []
       | (false, d) => back d rest)
    | _, _ => (back d rest).sampleEnd g.ring g.index

/-- Every group that may be released, in order (R153, R154). -/
def Dev.releaseGroups (d : Dev) : Dev := (d.groups.filter d.groupReady).foldl Dev.releaseGroup d

/-- TOKEN_RELEASE (R153): the group whose mirror message bears `number`. -/
def execTokenRelease (number : BitVec 64) (s : State) : Host.Outcome State Fault Refusal :=
  onHall (fun d => (d.groups.filter fun g => g.number == number.toNat && d.groupReady g).foldl Dev.releaseGroup d) s

/-! ## SAMPLE -/

/-- The checks of a SAMPLE as a whole (R109, R126, R158; R117 with log entry 174). -/
def Dev.sampleCheck (d : Dev) (k : RunCmd) : Dev × Nat :=
  let e := k.entry
  let off := u32 e 16
  if off % 8 ≠ 0 then (d, stAborted)
  else if !(d.stepOk k.tenant off) then (d.deny, stTenantMismatch)
  else
    let t := d.stepTab off
    if !(d.badWords off t.bytes).isEmpty then (d.meetBad mSampler (d.badWords off t.bytes), stAborted)
    else if !(d.tableSound t) ∨ (d.tableRecs t ≠ [] ∧ d.tableShape t = none) ∨ u16 e 22 = 0 ∨ t.nsegs < u16 e 20 + u16 e 22 ∨ u32 e 40 = 0
        ∨ ¬ u32 e 40 ≤ 1048576 ∨ 1 < u8 e 44 then (d, stAborted)
    else (d, stOK)

/-- The handle checks of the segments (R32, R160): a handle named again later in the command is refused there. -/
def Dev.sampleChecks (d : Dev) (t : StepTab) (k : RunCmd) : List Nat :=
  let hs := (List.range (u16 k.entry 22)).map fun j => d.segHandle t (u16 k.entry 20 + j)
  (List.range hs.length).map fun j =>
    let h := hs.getD j 0
    let st := d.checkHandle h k.tenant k.order
    if st ≠ stOK then st else if (hs.take j).contains h then stAborted else stOK

/-- The logits of a row as FP32 codes (R145, R147). -/
def logitsOf (lfmt vocab : Nat) (bs : List Byte) : List Nat :=
  if lfmt = 0 then (chunks 2 vocab bs).map fun b => ofBytes b * 65536 else (chunks 4 vocab bs).map ofBytes

/-- What one segment comes to: its outcome and, for a token, the next grammar state. -/
structure Decided where
  code  : Nat
  token : Nat
  next  : Option Nat
deriving DecidableEq, Repr

/-- One segment decided (R145 to R151). -/
def Dev.decide' (d : Dev) (k : RunCmd) (i j : Nat) : Res Decided :=
  let e := k.entry
  let c := some (k.ring, k.index)
  let vocab := u32 e 40
  let b := if u8 e 44 = 0 then 2 else 4
  let fail (code : Nat) (d : Dev) : Res Decided := .ok ⟨code, 0, none⟩ d
  (d.vaRead c k.tenant (u64 e 24 + j * (ceilDiv (b * vocab) 4096 * 4096)) (b * vocab)).andThen fun row d =>
    (d.allowed c k.tenant i vocab).andThen fun al d =>
      match al with
      | none => fail ocBadTable d
      | some al =>
        let lg := logitsOf (u8 e 44) vocab row
        let done (x : Nat) (d : Dev) : Res Decided :=
          match al.next with
          | none => .ok ⟨ocToken, x, none⟩ d
          | some g => (d.nextState c k.tenant x g).andThen fun s d =>
            match s with
            | none => fail ocBadTable d
            | some s => .ok ⟨ocToken, x, some s⟩ d
        match chooseToken (al.ids.map fun t => (t, lg.getD t 0)) (d.sTemp i) (d.sTopK i) (d.sTopP i) (d.rword i 8) (d.rPositions i) with
        | .token x => done x d
        | .outcome code => fail code d
        | .openAmong cs =>
          let (n, d) := d.choose cs.length
          done (cs.getD n 0) d

/-- The commit of a token: one write of the record (R152). -/
def Dev.commitToken (d : Dev) (i : Nat) (x : Decided) : Dev :=
  let d := (d.rput i 15 31 0 x.token).rput i 9 31 0 (d.sTokens i + 1)
  match x.next with
  | some s => d.rput i 9 63 32 s
  | none => d

/-- Counts of outcomes (R162). -/
def Dev.countOutcome (d : Dev) (code : Nat) : Dev :=
  if code = ocEmptyMask then d.bump Fld.SMP_OUTCOME_EMPTY_MASK else if code = ocNonfinite then d.bump Fld.SMP_OUTCOME_NONFINITE
  else if code = ocRejected then d.bump Fld.SMP_OUTCOME_REJECTED else if code = ocBadTable then d.bump Fld.SMP_OUTCOME_BAD_TABLE else d

/-- The open group of a command closed: one mirror message carries its commits (R153). -/
def Dev.closeGroup (d : Dev) (k : RunCmd) : Dev :=
  match (d.groupsOf k).find? (·.number == 0) with
  | none => d
  | some g =>
    let d := d.mirror (g.tokens.map fun t => .tokens (BitVec.ofNat 15 t.idx) ((List.range 16).map fun w => BitVec.ofNat 64 (d.rword t.idx w)))
    { d with groups := d.groups.map fun h => if h = g then { g with number := d.pair.next - 1 } else h }

/-- A committed token put into its command's open group, which closes when full (R153); without waits it is released at
once (R154). -/
def Dev.addToken (d : Dev) (k : RunCmd) (t : TokRel) : Dev :=
  let d := match (d.groupsOf k).find? (·.number == 0) with
    | some g => { d with groups := d.groups.map fun h => if h = g then { g with tokens := g.tokens ++ [t] } else h }
    | none => { d with groups := d.groups ++ [(⟨0, k.ring, k.index, [t]⟩ : TokGroup)] }
  let size := match (d.groupsOf k).find? (·.number == 0) with
    | some g => g.tokens.length
    | none => 0
  if d.mirrors then (if atLeast1 (d.get Fld.SMP_CFG_MIRROR_GROUP) ≤ size then d.closeGroup k else d)
  else ((d.mirror [.tokens (BitVec.ofNat 15 t.idx) ((List.range 16).map fun w => BitVec.ofNat 64 (d.rword t.idx w))])).releaseGroups

/-- All segments decided (R152, R153): the last group closed; the command ends once its tokens are released. -/
def Dev.sampleFinish (d : Dev) (k : RunCmd) : Dev :=
  let d := if d.mirrors then d.closeGroup k else d
  (d.setCmd { k with phase := .held }).sampleEnd k.ring k.index

/-- Segments that an ended SAMPLE did not reach get `NOT_RUN` one after another (R160): a record that must wait is written when it
can be, one whose page faults once the fault is resolved, within the command's budget; a place that cannot be written is left out
(log entry 23). -/
def Dev.notRunFrom : List Nat → RunCmd → Dev → Dev
  | [], k, d => d.sampleFinish k
  | j :: js, k, d =>
    let e := k.entry
    let t := d.stepTab (u32 e 16)
    let next := { k with pos := j + 1 }
    match d.vaWrite (some (k.ring, k.index)) k.tenant (u64 e 32 + 16 * j) (tokenRecord 0xFFFFFFFF ocNotRun 0 (d.segNumber t (u16 e 20 + j)) 0) with
    | .ok _ d => Dev.notRunFrom js next d
    | .wait d => (d.setAt k).markWait k
    | .fault kd =>
      if faultBudget < k.faults then Dev.notRunFrom js next d
      else
        (match (d.setAt k).raiseFault k kd with
         | (true, d) => Dev.notRunFrom js { next with faults := k.faults + 1 } d
         | (false, d) => d)
    | _ => Dev.notRunFrom js next d

/-- The stage of a SAMPLE that has ended early and still writes its `NOT_RUN` records. -/
def stageNotRun : Nat := 2

/-- Such a SAMPLE taken up. -/
def Dev.sampleRest (d : Dev) (k : RunCmd) : Dev := Dev.notRunFrom ((List.range (u16 k.entry 22)).drop k.pos) k d

/-- A SAMPLE that ends early (R160): the segments not reached get `NOT_RUN`. -/
def Dev.sampleEarly (d : Dev) (k : RunCmd) (st : Nat) : Dev :=
  let k := k.failWith st
  let left := u16 k.entry 22 - k.pos
  let faults := match d.cmd k.ring k.index with
    | some c => c.faults
    | none => k.faults
  d.sampleRest { k with stage := stageNotRun, status := stOK, faults := faults, res := k.res.set 1 (k.res.getD 1 0 + left) }

/-- One segment decided and recorded: its outcome and status (R160). -/
def Dev.segment (d : Dev) (k : RunCmd) (t : StepTab) (j : Nat) : Res (Decided × Nat) :=
  let x := u16 k.entry 20 + j
  let h := d.segHandle t x
  let i := hIndex h
  let check := k.res.getD (3 + j) stOK
  let check := if check = stOK ∧ (d.rState i = recFree ∨ d.rGen i ≠ hGen h) then stAborted else check
  let dec : Res Decided := if check ≠ stOK then .ok ⟨ocRejected, 0, none⟩ d else d.decide' k i j
  dec.andThen fun r d =>
    if r.code = ocToken then .ok (r, stOK) d
    else (d.vaWrite (some (k.ring, k.index)) k.tenant (u64 k.entry 32 + 16 * j) (tokenRecord 0xFFFFFFFF r.code 0 (d.segNumber t x) 0)).andThen fun _ d =>
      .ok (r, if r.code = ocRejected then check else stAborted) d

/-- Whether a SAMPLE may go on with its next segment: no fault stands and no token waits to be written. -/
def Dev.sampleGoes (d : Dev) (r i : Nat) : Option RunCmd :=
  match d.cmd r i with
  | none => none
  | some k => if k.phase = .run ∧ !((d.groupsOf k).any d.groupReady) then some k else none

/-- Segments one after another in ascending order (R152). -/
def Dev.sampleFrom (t : StepTab) : List Nat → RunCmd → Dev → Dev
  | [], k, d => d.sampleFinish k
  | j :: js, k, d =>
    match d.segment k t j with
    | .abort => d.sampleEarly k stAborted
    | .status st => d.sampleEarly k st
    | .wait d => d.markWait k
    | .fault kd =>
      (match d.raiseFault k kd with
       | (true, d) => d.sampleEarly k stPageFault
       | (false, d) => d)
    | .ok (r, st) d =>
      let x := u16 k.entry 20 + j
      let i := hIndex (d.segHandle t x)
      if r.code = ocToken then
        let d := d.commitToken i r
        let k := { k with pos := j + 1, res := k.res.set 0 (k.res.getD 0 0 + 1) }
        let d := (d.setAt k).addToken k ⟨i, d.rGen i, u64 k.entry 32 + 16 * j, r.token, d.segNumber t x, none⟩
        match d.sampleGoes k.ring k.index with
        | some k => Dev.sampleFrom t js k d
        | none => d
      else
        let k := (k.failWith st)
        let k := { k with pos := j + 1, res := k.res.set 1 (k.res.getD 1 0 + 1) }
        Dev.sampleFrom t js k ((d.countOutcome r.code).setAt k)

/-- SAMPLE run from where it stands: tokens that wait to be written first. -/
def Dev.sampleRun (d : Dev) (k : RunCmd) : Dev :=
  let d := ((d.groupsOf k).filter d.groupReady).foldl Dev.releaseGroup d
  match d.sampleGoes k.ring k.index with
  | none => d
  | some k => Dev.sampleFrom (d.stepTab (u32 k.entry 16)) ((List.range (u16 k.entry 22)).drop k.pos) k d

/-- SAMPLE (R145 to R161). -/
def execSample (c : CmdId) (s : State) : Host.Outcome State Fault Refusal :=
  onHall (fun d =>
    match d.act c opSample with
    | none => d
    | some k =>
      if k.stage = stageNotRun then (if k.status ≠ stOK then d.sampleFinish k else d.sampleRest k)
      else if k.begun then (if k.status ≠ stOK then d.sampleEarly k k.status else d.sampleRun k)
      else
        let (d, st) := d.sampleCheck k
        if st ≠ stOK then d.endCmd k d.pair.next st [0, 0]
        else
          let checks := d.sampleChecks (d.stepTab (u32 k.entry 16)) k
          let k := { k with stage := 1, res := [0, 0, 0] ++ checks }
          (d.setCmd k).sampleRun k) s

/-! ## SAMP_SET -/

/-- Whether SAMP_SET's parameters are in range (R144, R159). -/
def sampSetOk (e : Entry) : Bool :=
  let t := dec32 (u32 e 20)
  let p := dec32 (u32 e 24)
  t.finite && (t.isZero || !t.neg?) && p.finite && (p.isZero || !p.neg?) && fle p (.fin false 1 0) && decide (u8 e 30 < 3)

/-- The one write of SAMP_SET (R159). -/
def Dev.sampSet (d : Dev) (i : Nat) (e : Entry) : Dev :=
  let fl := u8 e 31
  let d := d.rset i 6 (u32 e 24 * 2 ^ 32 + u32 e 20)
  let d := (d.rput i 7 63 48 (u16 e 28)).rput i 7 47 46 (u8 e 30)
  let d := if bit fl 0 then d.rput i 7 45 45 0 else d
  let d := d.rset i 8 (u64 e 32)
  let d := if bit fl 2 then d else d.rput i 9 63 32 0
  let d := d.rset i 10 (u64 e 40 % 2 ^ 52)
  let d := d.rset i 11 (u32 e 48 * 2 ^ 32 + u32 e 52)
  let d := if bit fl 1 then d.rput i 13 63 0 0 else d
  let d := (d.rput i 14 63 32 (u32 e 56)).rput i 15 47 32 (u16 e 60)
  d.mirrorRec i

/-- SAMP_SET (R159): complete once the twin holds the record (R331). -/
def execSampSet (c : CmdId) (s : State) : Host.Outcome State Fault Refusal :=
  onHall (fun d =>
    match d.act c opSampSet with
    | none => d
    | some k =>
      let n0 := d.pair.next
      let h := u32 k.entry 16
      let st := d.checkHandle h k.tenant k.order
      if st ≠ stOK then d.endCmd k n0 st []
      else if !(sampSetOk k.entry) then d.endCmd k n0 stAborted []
      else (d.sampSet (hIndex h) k.entry).endCmd k n0 stOK []) s

/-! ## The scan -/

/-- The TTFT scan of a stroke (R156); a part without the sampler scans nothing (R5). -/
def Dev.ttftScan (d : Dev) : Dev :=
  let d := { d with clk := { d.clk with scanned := true } }
  if !(d.flag Fld.GLB_UNIT_EN_SMP) then d
  else (d.liveRecs.filter fun i => d.rState i == recActive && d.rword i 12 == 0 && d.sTtft i != 0).foldl (fun d i =>
    if (d.sTtft i : Int) - usBetween d.clk.cnt (d.rword i 1) < d.sSlack i ∧ !(d.promoted i) then (d.promote i Fld.SMP_PROMO_BY_TTFT).mirrorRec i else d) d

/-- TTFT_SCAN (R156, R439): once a stroke, at `SCAN_ANGLE`. -/
def execTtftScan (s : State) : Host.Outcome State Fault Refusal :=
  onHall (fun d => if d.firing ∧ !d.clk.scanned ∧ d.get Fld.SMP_CFG_SCAN_ANGLE ≤ d.angle then d.ttftScan else d) s

end Sys2Proof.Machine
end

