-- ==== Sys2Proof/Machine/Tiers.lean ====
section
/-! DEFINITION. Machine/Tiers.lean: mappings, demotion and reclaim, page faults and their resolution, prefetch, and the
mover's zero-filling (chapter 8). -/

namespace Sys2Proof.Machine

/-! ## Translation tables (R185, R186) -/

/-- A table of `n` zero-filled system granules (R186). -/
def Dev.newTable (d : Dev) (n : Nat) : Option (Nat × Dev) :=
  (d.allocRun none n 1 .table).map fun (g, d) => (g, { d with dram := d.dram.zero (g * granBytes) (n * granBytes) })

/-- A table entry's word that points to a table. -/
def tableWord (g : Nat) : Nat := lfTable * 2 ^ 61 + g * 4096

/-- The table below the entry at `a`, made when the entry is empty. -/
def Dev.tableAt (d : Dev) (a : Nat) : Option (Nat × Dev) :=
  let w := d.dramWord a
  if lfType w = lfTable then some (lfFrame w, d)
  else (d.newTable 1).map fun (g, d) => (g, d.dramPutN 8 a (tableWord g))

/-- A tenant's root table, made when it has none. -/
def Dev.rootOf (d : Dev) (t : Nat) : Option (Nat × Dev) :=
  let r := d.get Fld.MEM_TT_ROOT_GRAN t
  if r ≠ 0 then some (r, d) else (d.newTable 16).map fun (g, d) => (g, d.put Fld.MEM_TT_ROOT_GRAN g t)

/-- A leaf written, its tables made on the way (R185, R186); a 2 MiB leaf takes the place of an empty table. -/
def Dev.setLeaf (d : Dev) (t va : Nat) (big : Bool) (w : Nat) : Option Dev :=
  (d.rootOf t).bind fun (r, d) => (d.tableAt (r * granBytes + 8 * bits va 51 39)).bind fun (a, d) =>
    (d.tableAt (a * granBytes + 8 * bits va 38 30)).bind fun (b, d) =>
      let at' := b * granBytes + 8 * bits va 29 21
      if big then
        let old := d.dramWord at'
        let d := if lfType old = lfTable then d.freeRun (lfFrame old) none else d
        some (d.dramPutN 8 at' w)
      else (d.tableAt at').map fun (c, d) => d.dramPutN 8 (c * granBytes + 8 * bits va 20 12) w

/-- The 4 KiB pages of a range. -/
def pagesOfRange (va grans : Nat) : List Nat := (List.range grans).map fun k => va + 4096 * k

/-- The distinct leaves of a range with the address each maps from, in ascending order. -/
def Dev.leavesOf (d : Dev) (t va grans : Nat) : List (Nat × Leaf) :=
  (pagesOfRange va grans).foldl (fun acc a =>
    match d.leafOf t a with
    | none => acc
    | some l => if acc.any (fun x => x.2.addr == l.addr) then acc else acc ++ [(leafBase l.big a, l)]) []

/-- Whether some part of a range is mapped, or lies outside the space (R430). -/
def Dev.mapped (d : Dev) (t va grans : Nat) : Bool :=
  (pagesOfRange va grans).any fun a =>
    match d.walk t a with
    | .bad => true
    | .absent => false
    | .leaf l => lfType l.word != lfNone || lfAlloc l.word

/-- Whether a range covers a pinned mapping (R189). -/
def Dev.pinnedIn (d : Dev) (t va grans : Nat) : Bool := (d.leavesOf t va grans).any fun x => lfPin x.2.word

/-- The flag bits of a leaf: `PIN`, `ALLOC`, `W`, `R` (R185, R211). -/
def leafFlags (pin alloc w r : Bool) : Nat :=
  (if pin then 2 ^ 60 else 0) + (if alloc then 2 ^ 59 else 0) + (if w then 2 ^ 58 else 0) + (if r then 2 ^ 57 else 0)

/-- A leaf's word of a type and frame (in bytes) with the flags of another. -/
def leafWord (ty frame : Nat) (pin w r : Bool) : Nat := ty * 2 ^ 61 + leafFlags pin false w r + frame % 2 ^ 52

/-- One leaf of a VM_MAP: for `LOCAL` its zero-filled granules first (R186). None: no granules can be had. -/
def Dev.mapLeaf (d : Dev) (t va : Nat) (big : Bool) (type flags frame : Nat) : Option Dev :=
  let f := leafFlags (bit flags 0) (type == lfNone && bit flags 1) (bit flags 2) (bit flags 3)
  if type = lfLocal then
    (d.allocRun (some t) (leafGrans big) (leafGrans big) (.localLeaf va)).bind fun (g, d) =>
      ({ d with dram := d.dram.zero (g * granBytes) (leafGrans big * granBytes) } : Dev).setLeaf t va big (lfLocal * 2 ^ 61 + f + g * 4096)
  else d.setLeaf t va big (type * 2 ^ 61 + f + (if type = lfNone then 0 else frame))

/-- Leaves one after another, all or none. -/
def Dev.mapLeaves (t : Nat) (big : Bool) (type flags va frame : Nat) : Nat → Nat → Dev → Option Dev
  | 0, _, d => some d
  | n + 1, k, d =>
    (d.mapLeaf t (va + k * leafGrans big * 4096) big type flags (frame + k * leafGrans big * 4096)).bind
      (Dev.mapLeaves t big type flags va frame n (k + 1))

/-- VM_MAP's checks and effect (R186, R211, R429, R430). -/
def Dev.vmMap (d : Dev) (t va grans type flags frame : Nat) : Dev × Nat :=
  let big := bit flags 4
  let size := leafGrans big * 4096
  if grans = 0 ∨ va % size ≠ 0 ∨ grans % leafGrans big ≠ 0 ∨ ¬ va + grans * 4096 ≤ 2 ^ 52
      ∨ ((type = lfHost ∨ type = lfRack) ∧ (frame % size ≠ 0 ∨ ¬ frame + grans * 4096 ≤ 2 ^ 52))
      ∨ !(type == lfNone || type == lfLocal || type == lfHost || type == lfRack) ∨ d.mapped t va grans then (d, stAborted)
  else if type = lfLocal ∧ !(d.admits t t1 grans) then (d.refusedQuota, stQuotaBlocked)
  else match Dev.mapLeaves t big type flags va frame (grans / leafGrans big) 0 d with
    | some d => (d, stOK)
    | none => (d.refusedPool, stQuotaBlocked)

/-- VM_MAP (R186, R430). -/
def execVmMap (c : CmdId) (s : State) : Host.Outcome State Fault Refusal :=
  onHall (fun d =>
    match d.act c opVmMap with
    | none => d
    | some k =>
      let e := k.entry
      let (d, st) := d.vmMap k.tenant (u64 e 16) (u32 e 24) (u8 e 28) (u8 e 29) (u64 e 32)
      d.endCmd k d.pair.next st []) s

/-- An allocated run cut into runs of one granule. -/
def Dev.cutRun (d : Dev) (start va : Nat) : Dev :=
  match d.runs.find? (fun r => r.start == start) with
  | none => d
  | some r =>
    let parts : List Run := (List.range r.len).map fun k => ⟨r.start + k, 1, r.tenant, .localLeaf (va + 4096 * k)⟩
    { d with runs := d.runs.filter (fun x => x.start != start) ++ parts }

/-- A 2 MiB leaf split into 512 leaves of the same type, rights and frames (R430); none: no granule for the table. -/
def Dev.splitLeaf (d : Dev) (va : Nat) (l : Leaf) : Option Dev :=
  (d.newTable 1).map fun (g, d) =>
    let framed := lfType l.word = lfLocal ∨ lfType l.word = lfHost ∨ lfType l.word = lfRack
    let d := (List.range 512).foldl (fun (d : Dev) k => d.dramPutN 8 (g * granBytes + 8 * k) (if framed then l.word + 4096 * k else l.word)) d
    let d := d.dramPutN 8 l.addr (tableWord g)
    if lfType l.word = lfLocal then d.cutRun (lfFrame l.word) va else d

/-- Whether another leaf beside the one at `a` in its table names the same cellar entry: after a split (R430). -/
def Dev.sharesCellar (d : Dev) (a w : Nat) : Bool :=
  let base := a / granBytes * granBytes
  (List.range 512).any fun k =>
    let b := base + 8 * k
    b != a && lfType (d.dramWord b) == lfLower && lowerCellar (d.dramWord b) == lowerCellar w && lowerTag (d.dramWord b) == lowerTag w

/-- The end of a DEMOTE whose last page is held. -/
def Dev.demoteEnd (d : Dev) (r i : Nat) : Dev :=
  match d.cmd r i with
  | none => d
  | some k => if k.pos ≠ 1 ∨ d.dems.any (fun m => m.cmd == some (r, i)) then d else d.endCmd k d.pair.next k.status k.res

/-- A demotion under way given up because its leaf is unmapped: what it holds in T1 is zero-filled and freed (R188, R193), and a DEMOTE
that waited for it alone ends; how many granules. -/
def Dev.dropDem (d : Dev) (c : Nat) : Dev × Nat :=
  match d.dems.find? (·.cellar == c) with
  | none => (d, 0)
  | some m =>
    let d := { d with dems := d.dems.filter fun x => x.cellar != c }
    let (d, n) := match m.ref with
      | .leaf _ _ g n => (d.freeRun g none, n)
      | .entry _ _ _ => (d, 0)
    (match m.cmd with
      | some (r, i) => d.demoteEnd r i
      | none => d, n)

/-- One leaf unmapped (R188): its granules go to the mover's zero-filling, its cellar entry is freed; how many granules. -/
def Dev.unmapLeaf (r : Dev × Nat) (x : Nat × Leaf) : Dev × Nat :=
  let (d, n) := r
  let l := x.2
  let d' := d.dramPutN 8 l.addr 0
  if lfType l.word = lfLocal then (d'.freeRun (lfFrame l.word) none, n + leafGrans l.big)
  else if lfType l.word = lfLower ∧ (d.cellar (lowerCellar l.word)).vtag = lowerTag l.word ∧ (l.big ∨ !(d.sharesCellar l.addr l.word)) then
    let (d', m) := (d'.freeCellar (lowerCellar l.word)).dropDem (lowerCellar l.word)
    (d', n + m)
  else (d', n)

/-- The 2 MiB leaves of which a range covers only a part, split; none: a table cannot be had (R430). -/
def Dev.splitParts (d : Dev) (t va grans : Nat) : Option Dev :=
  let part := (d.leavesOf t va grans).filter fun x => x.2.big && (decide (x.1 < va) || decide (va + grans * 4096 < x.1 + 2097152))
  part.foldl (fun (r : Option Dev) x => r.bind fun d => if lfType x.2.word = lfNone ∧ !(lfAlloc x.2.word) then some d else d.splitLeaf x.1 x.2) (some d)

/-- VM_UNMAP's checks and effect (R188, R430); a split for which no table can be had fails it with no effect (log entry 177). -/
def Dev.vmUnmap (d : Dev) (t va grans : Nat) : Dev × Nat × Nat :=
  if grans = 0 ∨ va % 4096 ≠ 0 ∨ ¬ va + grans * 4096 ≤ 2 ^ 52 ∨ d.pinnedIn t va grans then (d, stAborted, 0)
  else match d.splitParts t va grans with
    | none => (d, stAborted, 0)
    | some d =>
      let (d, n) := (d.leavesOf t va grans).foldl Dev.unmapLeaf (d, 0)
      (d, stOK, n)

/-- Whether a rack offset lies behind a range of tenant addresses. -/
def Dev.behind (d : Dev) (t va grans x : Nat) : Bool :=
  (pagesOfRange va grans).any fun a => match d.leafOf t a with
    | some l => lfType l.word == lfRack && decide (x / 4096 = lfFrame l.word + (a - leafBase l.big a) / 4096)
    | none => false

/-- The rack offset behind byte `off` of an import entry's window (R284). -/
def ImpE.offsetOf (i : ImpE) (off : Nat) : Nat := i.base + off - i.woff * 4096

/-- Whether an access that obtained a translation in a range is still on its way (R188): a fill, a near store, or a command whose load
waits for a line. -/
def Dev.draining (d : Dev) (t va grans : Nat) : Bool :=
  (d.ops.any fun o => (o.space == spFill || o.space == spStore) && (d.imp o.raddr).tenant == t
      && d.behind t va grans ((d.imp o.raddr).offsetOf (if o.space = spStore then 64 * o.laddr else o.laddr)))
    || (d.cmds.any fun k => k.tenant == t && k.missed != 0 && d.behind t va grans (256 * (k.missed - 1)))

/-- VM_UNMAP (R188, R430): once the accesses on their way in its range have drained. -/
def execVmUnmap (c : CmdId) (s : State) : Host.Outcome State Fault Refusal :=
  onHall (fun d =>
    match d.act c opVmUnmap with
    | none => d
    | some k =>
      if d.draining k.tenant (u64 k.entry 16) (u32 k.entry 24) then d
      else
        let (d, st, n) := d.vmUnmap k.tenant (u64 k.entry 16) (u32 k.entry 24)
        d.endCmd k d.pair.next st [n]) s

/-! ## Lower tiers (R190, R191) -/

/-- The host bus address behind an address of a T3 cellar, whose leaves are all `HOST` and grant the access (R187, R190). -/
def Dev.t3Host (d : Dev) (t va : Nat) (write : Bool) : Option Nat :=
  match d.leafOf t va with
  | some l =>
    if lfType l.word = lfHost ∧ (if write then lfW l.word else lfR l.word) = true then some (lfFrame l.word * 4096 + (va - leafBase l.big va)) else none
  | none => none

/-- Bytes of a T3 cellar; none when some leaf is not a readable `HOST` leaf. -/
def Dev.t3Read (d : Dev) (t va n : Nat) : Option (List Byte) :=
  (List.range (ceilDiv n 4096)).foldl (fun r k => r.bind fun bs =>
    (d.t3Host t (va + 4096 * k) false).map fun a => bs ++ d.host.readBytes a (min 4096 (n - 4096 * k))) (some [])

/-- Bytes written to a T3 cellar through the tenant's function. -/
def Dev.t3Write (d : Dev) (t va : Nat) (bs : List Byte) : Option Dev :=
  (List.range (ceilDiv bs.length 4096)).foldl (fun (r : Option Dev) k => r.bind fun d =>
    (d.t3Host t (va + 4096 * k) true).map fun a => d.hostPut (d.tenantFn t) a (slice bs (4096 * k) 4096)) (some d)

/-- What a lower tier gives back for an entry, checked against its CRC (R197): T3 from host memory, T2 from the answers of
its holder, taken in order. -/
def Dev.fetchCellar (d : Dev) (e : CellarE) (got : List FetchResult) : Option (List Byte) × List FetchResult :=
  let n := d.storedLen e
  let ok (bs : List Byte) : Option (List Byte) := if bs.length = n ∧ crc32c bs = e.crc then some bs else none
  if e.tier = 3 then ((d.t3Read e.tenant (d.get Fld.MEM_CELLAR2_T3_VA e.tenant + e.off * granBytes) n).bind ok, got)
  else match got with
    | .data bs :: r => (ok bs, r)
    | .failed :: r => (none, r)
    | [] => (none, [])

/-- What sending an entry's bytes to its lower tier comes to: sent; refused; no operation entry is free. -/
inductive Stored where
  | ok (d : Dev)
  | failed
  | full

/-- Stored bytes sent to the lower tier (R193): written through the window of the T2 cellar on Cox's pair (R190, R258), or to host
memory for T3. -/
def Dev.sendCellar (d : Dev) (c : Nat) (bs : List Byte) : Stored :=
  let e := d.cellar c
  if e.tier = 2 then
    if d.qState qpCellar ≠ qsActive then .failed
    else match d.issue qpCellar (d.get Fld.MEM_CELLAR0_NODE e.tenant) .write none 0 spCellar c 0 false
        (splitPayload pkWrite (e.off * granBytes) pfWin (d.get Fld.MEM_CELLAR0_KEY e.tenant) (d.get Fld.MEM_CELLAR0_WINDOW e.tenant) allBytes bs) with
      | some (_, d) => .ok d
      | none => .full
  else match d.t3Write e.tenant (d.get Fld.MEM_CELLAR2_T3_VA e.tenant + e.off * granBytes) bs with
    | some d => .ok d
    | none => .failed

/-! ## Demotion (R193, R194) -/

/-- Entries of the named layers that hold `OWNED` pages, in page-map order. -/
def Dev.demotable (d : Dev) (i first count : Nat) : List Nat :=
  (d.usedEntries i).filter fun x =>
    let e := d.entry i x
    let l := x / d.rHeads i % d.rLayers i
    decide (first ≤ l) && decide (l < first + count) && e.loc == 1 && (d.page e.page).vtag == e.vtag && (d.page e.page).state == pgOwned
      && !(d.dems.any fun m => match m.ref with
          | .entry r y _ => r == i && y == x
          | _ => false)

/-- A cellar entry taken for `n` granules under the tier's quota (R190, R209); the refusal is counted (R429). -/
def Dev.takeCellar (d : Dev) (t tier n : Nat) (e : CellarE) : Dev × Option Nat :=
  if !(d.admits t (tier - 1) n) then (d.refusedQuota, none)
  else match Dev.allocCellar t tier n e (d.listedCellars.length + 1) d with
    | none => (d.refusedPool, none)
    | some (c, d) => (d, some c)

/-- What one page or leaf of a demotion comes to; `full`: it is begun again when the operation table has room (R261). -/
inductive Sent where
  | sent | blocked | failed | full
deriving DecidableEq, Repr

/-- A KV page on its way to a cellar (R191, R193). -/
def Dev.demotePage (d : Dev) (i x tier : Nat) (cmd : Option (Nat × Nat)) : Dev × Sent :=
  let p := (d.entry i x).page
  let e := d.page p
  let bs := d.payload p ++ d.scales p ++ d.summary p
  let ce : CellarE := { vtag := 0, state := clWriting, tier := tier, mode := e.mode, tenant := e.tenant, fill := e.fill, hdim := e.hdim, crc := crc32c bs,
                        grans := 0, off := 0 }
  match d.takeCellar e.tenant tier (pageGrans e.mode + 1) ce with
  | (d, none) => (d, .blocked)
  | (d, some c) =>
    match d.sendCellar c bs with
    | .failed => (d.freeCellar c, .failed)
    | .full => ((d.freeCellar c).creditWait cmd, .full)
    | .ok d => ({ d with dems := d.dems ++ [(⟨c, .entry i x p, cmd⟩ : Dem)] }, .sent)

/-- A `LOCAL` leaf on its way to a cellar: the leaf is rewritten first (R194). -/
def Dev.demoteLeaf (d : Dev) (t tier : Nat) (x : Nat × Leaf) (cmd : Option (Nat × Nat)) : Dev × Sent :=
  let l := x.2
  let g := lfFrame l.word
  let n := leafGrans l.big
  let bs := d.dram.readBytes (g * granBytes) (n * granBytes)
  let ce : CellarE := { vtag := 0, state := clWriting, tier := tier, mode := 0, tenant := t, fill := 0, hdim := 0, crc := crc32c bs, grans := 0, off := 0 }
  match d.takeCellar t tier n ce with
  | (d, none) => (d, .blocked)
  | (d, some c) =>
    match d.sendCellar c bs with
    | .failed => (d.freeCellar c, .failed)
    | .full => ((d.freeCellar c).creditWait cmd, .full)
    | .ok d =>
      let w := lfLower * 2 ^ 61 + leafFlags false false (lfW l.word) (lfR l.word) + (d.cellar c).vtag * 2 ^ 28 + c
      ({ (d.dramPutN 8 l.addr w) with dems := d.dems ++ [(⟨c, .leaf t x.1 g n, cmd⟩ : Dem)] }, .sent)

/-- A list of demotions begun one after another; the first that cannot be begun ends it with its status; `none`: what remains waits
for room in the operation table. -/
def Dev.demoteAll {α : Type} (f : Dev → α → Dev × Sent) : List α → Dev → Dev × Option Nat
  | [], d => (d, some stOK)
  | a :: as, d =>
    match f d a with
    | (d, .sent) => Dev.demoteAll f as d
    | (d, .blocked) => (d, some stQuotaBlocked)
    | (d, .failed) => (d, some stAborted)
    | (d, .full) => (d, none)

/-- The checks of a DEMOTE (R32, R189, R211). -/
def Dev.demoteCheck (d : Dev) (k : RunCmd) : Nat :=
  let e := k.entry
  if bit (u8 e 26) 0 then
    (if u32 e 40 = 0 ∨ u64 e 32 % 4096 ≠ 0 ∨ ¬ u64 e 32 + u32 e 40 * 4096 ≤ 2 ^ 52 ∨ (u8 e 22 ≠ 2 ∧ u8 e 22 ≠ 3) then stAborted
     else if d.pinnedIn k.tenant (u64 e 32) (u32 e 40) then stAborted else stOK)
  else
    let st := d.checkHandle (u32 e 16) k.tenant k.order
    if st ≠ stOK then st
    else if (u8 e 22 ≠ 2 ∧ u8 e 22 ≠ 3) ∨ d.rLayers (hIndex (u32 e 16)) < u8 e 20 + u8 e 21 then stAborted else stOK

/-- DEMOTE accepted (R193, R194, R206). -/
def execDemote (c : CmdId) (s : State) : Host.Outcome State Fault Refusal :=
  onHall (fun d =>
    match d.act c opDemote with
    | none => d
    | some k =>
      if k.begun then d
      else
        let st := d.demoteCheck k
        if st ≠ stOK then d.endCmd k d.pair.next st [0]
        else (if bit (u8 k.entry 26) 0 then d else d.touch (hIndex (u32 k.entry 16))).setCmd { k with stage := 1, res := [0] }) s

/-- DEMOTE_PROCEED (R194): no earlier command names the sequence any more: every page or leaf is on its way. -/
def execDemoteProceed (c : CmdId) (s : State) : Host.Outcome State Fault Refusal :=
  onHall (fun d =>
    match d.act c opDemote with
    | none => d
    | some k =>
      let e := k.entry
      let i := hIndex (u32 e 16)
      let virt := bit (u8 e 26) 0
      let cmd := some (k.ring, k.index)
      if k.stage ≠ 1 ∨ k.pos = 1 ∨ (!virt ∧ d.earlierNaming i k.order) then d
      else
        let (d, st) := if virt then
            Dev.demoteAll (fun d x => d.demoteLeaf k.tenant (u8 e 22) x cmd)
              ((d.leavesOf k.tenant (u64 e 32) (u32 e 40)).filter fun x => lfType x.2.word == lfLocal && !(lfPin x.2.word)) d
          else Dev.demoteAll (fun d x => d.demotePage i x (u8 e 22) cmd) (d.demotable i (u8 e 20) (u8 e 21)) d
        match st with
        | none => d
        | some st => (d.setAt { k with pos := 1, status := st }).demoteEnd k.ring k.index) s

/-! ## Reclaim (R210) -/

/-- The touch stamp of a record (R210). -/
def Dev.touchOf (d : Dev) (i : Nat) : Nat := d.dram.readN 4 (d.get Fld.MEM_TOUCH_BASE_GRAN * granBytes + 4 * i)

/-- The sequences that reclaim may take from, oldest touch first. -/
def Dev.reclaimable (d : Dev) (t : Nat) : List Nat :=
  let is := d.liveRecs.filter fun i =>
    d.rState i == recActive && d.rTenant i == t && !(d.cmds.any fun k => (d.named k.tenant k.entry).contains i)
  sortBy (fun a b => decide (modDiff 32 (d.touchOf a) (d.touchOf b) < 0)) is

/-- The page that reclaim takes next from a sequence: ascending layer, then slot. -/
def Dev.reclaimEntry (d : Dev) (i : Nat) : Option Nat :=
  (List.range (d.rLayers i)).findSome? fun l => (d.demotable i l 1).head?

/-- RECLAIM (R210): one page of the tenant demoted, to T2 when its quota and space admit, otherwise to T3. -/
def execReclaim (tenant : BitVec 8) (s : State) : Host.Outcome State Fault Refusal :=
  onHall (fun d =>
    let t := tenant.toNat
    if !(d.flag Fld.MEM_QFLAG_RECLAIM t) ∨ !(d.overQuota t t1) then d
    else
      match (d.reclaimable t).findSome? (fun i => (d.reclaimEntry i).map fun x => (i, x)) with
      | none => d
      | some (i, x) =>
        let n := pageGrans (d.page (d.entry i x).page).mode
        let used := sget 0 t d.reclaimed
        if d.get Fld.MEM_RECLAIM_CFG_RATE < used + n then d
        else
          let fits := d.admits t t2 (n + 1) && (d.cellarFit t 2 (n + 1)).isSome
          match d.demotePage i x (if fits then 2 else 3) none with
          | (d, .sent) => { d with reclaimed := sput 0 t (used + n) d.reclaimed }
          | (d, _) => d) s

/-! ## Faults (R195 to R200) -/

/-- Whether two faults are on the same cellar entry or leaf, or layer (R196). -/
def sameFault (a b : FaultKind) : Bool :=
  match a, b with
  | .lower t v c g, .lower u w e h => (t == u && v == w) || (c == e && g == h)
  | .zero t v, .zero u w => t == u && v == w
  | .layer i l, .layer j m => i == j && l == m
  | _, _ => false

/-- What bringing data in comes to (R41, R197): in, with its granules; refused, with what the attempt made of the device; a fetch failed,
with the granules that are in all the same; a stale reference met. -/
inductive Brought where
  | done (d : Dev) (grans : Nat) (rest : List FetchResult)
  | refused (d : Dev) (quota : Bool)
  | failed (d : Dev) (grans : Nat) (rest : List FetchResult)
  | stale (ref tag : Nat)

/-- Stall causes of resolved faults (R207). -/
def csZero : Nat := 2
def csTier (tier : Nat) : Nat := if tier = 2 then 3 else 4

/-- The cause under which a fault is counted: that of the tier its data lies in (R207). -/
def Dev.faultCause (d : Dev) (k : FaultKind) : Nat :=
  match k with
  | .zero _ _ => csZero
  | .lower _ _ c _ => csTier (d.cellar c).tier
  | .layer i l => csTier ((d.absentIn i l).head?.elim 2 fun x => (d.cellar (d.entry i x).page).tier)

/-- A demand-zero leaf filled (R197). -/
def Dev.bringZero (d : Dev) (t va : Nat) (got : List FetchResult) : Brought :=
  match d.leafOf t va with
  | none => .done d 0 got
  | some l =>
    if lfType l.word ≠ lfNone ∨ !(lfAlloc l.word) then .done d 0 got
    else
      let n := leafGrans l.big
      if !(d.admits t t1 n) then .refused d true
      else match d.allocRun (some t) n n (.localLeaf va) with
        | none => .refused d false
        | some (g, d) =>
          let d := { d with dram := d.dram.zero (g * granBytes) (n * granBytes) }
          .done (d.dramPutN 8 l.addr (leafWord lfLocal (g * 4096) (lfPin l.word) (lfW l.word) (lfR l.word))) n got

/-- A `LOWER` leaf fetched (R197). A leaf split out of a larger one takes its own granule, and the entry is freed with the
last of them. -/
def Dev.bringLeaf (d : Dev) (t va c tag : Nat) (got : List FetchResult) : Brought :=
  let e := d.cellar c
  match d.leafOf t va with
  | none => .done d 0 got
  | some l =>
    if lfType l.word ≠ lfLower ∨ lowerCellar l.word ≠ c then .done d 0 got
    else if e.vtag ≠ tag ∨ e.state = clFree then .stale c tag
    else
      let n := leafGrans l.big
      if !(d.admits t t1 n) then .refused d true
      else match d.allocRun (some t) n n (.localLeaf va) with
        | none => .refused d false
        | some (g, d') =>
          match d.fetchCellar e got with
          | (none, rest) => .failed d 0 rest
          | (some bs, rest) =>
            let skip := if e.grans = n then 0 else va / 4096 % 512
            let d := d'.dramPut (g * granBytes) (slice bs (skip * 4096) (n * granBytes))
            let d := if !l.big ∧ d.sharesCellar l.addr l.word then d else d.freeCellar c
            .done (d.dramPutN 8 l.addr (leafWord lfLocal (g * 4096) false (lfW l.word) (lfR l.word))) n rest

/-- One absent page of a sequence fetched (R197). -/
def Dev.bringPage (d : Dev) (i x : Nat) (got : List FetchResult) : Brought :=
  let r := d.entry i x
  let e := d.cellar r.page
  if e.vtag ≠ r.vtag ∨ e.state = clFree then .stale r.page r.vtag
  else if !(d.admits e.tenant t1 (pageGrans e.mode)) then .refused d true
  else match d.takePage pgReserved e.tenant e.mode e.hdim with
    | .error d' => .refused d' false
    | .ok (p, d') =>
      match d.fetchCellar e got with
      | (none, rest) => .failed d 0 rest
      | (some bs, rest) =>
        let n := 512 * blockSize e.mode
        let d := d'.setPage p { (d'.page p) with state := pgOwned, refc := 1, epoch := d.epoch, fill := e.fill }
        let d := d.fillPage p (bs.take n) (slice bs n 512) (some (bs.drop (n + 512)))
        let d := d.setEntry i x ⟨(d.page p).vtag, p, 1⟩
        .done ((d.freeCellar r.page).mirrorPage i x p) (pageGrans e.mode) rest

/-- What is to be brought in: the absent entry of a sequence, or a `LOWER` leaf. -/
inductive PfTarget where
  | entry (i x : Nat)
  | leaf (t va c tag : Nat)
deriving DecidableEq, Repr

/-- One target brought in. -/
def Dev.bringOne (d : Dev) (p : PfTarget) (got : List FetchResult) : Brought :=
  match p with
  | .entry i x => d.bringPage i x got
  | .leaf t va c tag => d.bringLeaf t va c tag got

/-- Targets brought in one after another; a failed fetch leaves its target where it is, any other obstacle ends the work. -/
def Dev.bringEach : List PfTarget → Bool → Nat → List FetchResult → Dev → Brought
  | [], bad, n, got, d => if bad then .failed d n got else .done d n got
  | p :: ps, bad, n, got, d =>
    match d.bringOne p got with
    | .done d m rest => Dev.bringEach ps bad (n + m) rest d
    | .failed d m rest => Dev.bringEach ps true (n + m) rest d
    | r => r

/-- The data of a fault brought in (R195, R197). -/
def Dev.bring (d : Dev) (k : FaultKind) (got : List FetchResult) : Brought :=
  match k with
  | .zero t va => d.bringZero t va got
  | .lower t va c tag => d.bringLeaf t va c tag got
  | .layer i l => if d.rState i = recFree then .done d 0 got else Dev.bringEach ((d.absentIn i l).map (.entry i ·)) false 0 got d

/-- The end of a command by its fault (R197, R41): what its own chapter says of an end. -/
def Dev.endFaulted (d : Dev) (k : RunCmd) (st : Nat) : Dev :=
  let n0 := d.pair.next
  let op := opOf k.entry
  if k.stage = stageBitmap then d.endCmd k n0 st (k.res.take k.pos)
  else if op = opAttnMerge then d.attEnd k n0 st [k.merged]
  else if op = opAttnStep then d.stepFail k n0 st
  else if op = opKvTransfer then
    match d.xfers.find? (fun x => x.ring == k.ring && x.index == k.index) with
    | some x => d.failXfer x n0 st
    | none => d.endCmd k n0 st []
  else if op = opSample then d.sampleEarly k st
  else if op = opWstream then d.wstreamStop k st
  else if op = opAdpLoad then (d.unload (u16 k.entry 16)).endCmd k n0 st []
  else d.endCmd k n0 st []

/-- The mark of a core that was already counted as wanting a spare slot. -/
def noteSlotEmpty : Nat := 9

/-- A command whose last fault is resolved goes on (R197 to R199): on its core, as a resumable command when it was parked,
at the place it stands at in any other engine. -/
def Dev.resumeFaulted (d : Dev) (r i : Nat) : Dev :=
  if d.faults.any (fun f => f.ring == r && f.index == i) then d
  else match d.cmd r i with
    | none => d
    | some k =>
      if k.phase = .parked then d.makeResumable k
      else if k.phase ≠ .faulted then d
      else
        let wait := (d.ns - k.since) / 1000 - atLeast1 (d.get Fld.MEM_FAULT_CFG_TIMEOUT)
        let d := if k.note = noteSlotEmpty ∧ k.engine = engAttn then d.bump Fld.MEM_STALL_TIME wait 10 else d
        let d := d.setCmd { k with phase := .run, note := if k.engine = engAttn then 0 else k.note }
        match k.core with
        | some n => d.put Fld.ATT_CORE_STAT_STATE csRun n
        | none =>
          if opOf k.entry = opKvTransfer then
            match d.xfers.find? (fun x => x.ring == r && x.index == i && x.parked) with
            | some x => d.move x
            | none => d
          else d

/-- Fault records taken off the queue, each counted under a cause from its raising on (R207). -/
def Dev.takeFaults (d : Dev) (fs : List FaultRec) (cause : Nat) : Dev :=
  fs.foldl (fun (d : Dev) f => d.stall cause ((d.ns - f.raised) / 1000)) { d with faults := d.faults.filter fun g => !(fs.contains g) }

/-- The commands of faults whose data is in go on. -/
def Dev.resumeAll (d : Dev) (fs : List FaultRec) : Dev := fs.foldl (fun (d : Dev) f => d.resumeFaulted f.ring f.index) d

/-- The commands of faults end (R197). -/
def Dev.endAll (d : Dev) (fs : List FaultRec) (st : Nat) : Dev :=
  fs.foldl (fun (d : Dev) f => match d.cmd f.ring f.index with
    | some k => d.endFaulted k st
    | none => d) { d with faults := d.faults.filter fun g => !(fs.contains g) }

/-- The fetches of a fault given up (R197). -/
def Dev.giveUpFault (d : Dev) (k : FaultKind) : Dev := (d.faultCells k).foldl Dev.giveUp d

/-- One fault resolved, with every fault that coalesced into it (R196, R197); the next is begun. -/
def Dev.resolveFault (d : Dev) (f : FaultRec) (got : List FetchResult) : Dev :=
  let fs := d.faults.filter fun g => sameFault f.kind g.kind
  (match d.bring f.kind got with
    | .done d' _ _ => (d'.takeFaults fs (d.faultCause f.kind)).resumeAll fs
    | .failed d' _ _ => (((d'.giveUpFault f.kind).takeFaults fs 9)).resumeAll fs
    | .refused d' q =>
      let d := (d.keepQuarantined d').giveUpFault f.kind
      (if q then d.refusedQuota else d.refusedPool).endAll fs stQuotaBlocked
    | .stale p tag => ((d.giveUpFault f.kind).tagMismatch mCox p tag).endAll fs stAborted).serveFault

/-- FAULT_RESOLVED (R196, R197): the resolution of the fault that Cox serves next ends; `got` is what T2 holders gave. -/
def execFaultResolved (id : BitVec 32) (t : BitVec 64) (got : List FetchResult) (s : State) : Host.Outcome State Fault Refusal :=
  onHall (fun d =>
    let d := d.advanceTo t.toNat
    match d.nextFault with
    | none => d
    | some f => if f.id % 2 ^ 32 = id.toNat then d.resolveFault f got else d) s

/-- FAULT_TIMEOUT (R199): a core that stood in FAULT_STALL for the timeout parks its command, or counts the want of a slot. -/
def execFaultTimeout (core : BitVec 9) (t : BitVec 64) (s : State) : Host.Outcome State Fault Refusal :=
  onHall (fun d =>
    let d := d.advanceTo t.toNat
    match d.cmds.find? (fun k => k.core == some core.toNat && decide (k.phase = .faulted)) with
    | none => d
    | some k =>
      if d.ns < k.since + 1000 * atLeast1 (d.get Fld.MEM_FAULT_CFG_TIMEOUT) then d
      else match d.beginSave k afterPark with
        | some d => d
        | none => if k.note = noteSlotEmpty then d else (d.stall 10 0).setCmd { k with note := noteSlotEmpty }) s

/-! ## Prefetch (R202 to R206) -/

/-- Leaves of a range that are `LOWER`. -/
def Dev.lowerLeaves (d : Dev) (t va grans : Nat) : List PfTarget :=
  ((d.leavesOf t va grans).filter fun x => lfType x.2.word == lfLower).map fun x => .leaf t x.1 (lowerCellar x.2.word) (lowerTag x.2.word)

/-- Address of table entry `i` (R202), and its fields. -/
def Dev.pfAddr (d : Dev) (i : Nat) : Nat := d.get Fld.MEM_PF_CFG_GRAN * granBytes + 32 * i
def Dev.pfEntry (d : Dev) (i : Nat) : List Byte := d.dram.readBytes (d.pfAddr i) 32

/-- What remains to be brought for a prefetch. -/
def Dev.pfTargets (d : Dev) (p : Pf) : List PfTarget :=
  match p.table, p.cmd.bind (fun c => d.cmd c.1 c.2) with
  | some i, _ => let b := d.pfEntry i; d.lowerLeaves p.tenant (u64 b 0) (u32 b 8)
  | none, some k =>
    let e := k.entry
    if bit (u8 e 26) 0 then d.lowerLeaves k.tenant (u64 e 32) (u32 e 40)
    else
      let i := hIndex (u32 e 16)
      if d.rState i = recFree ∨ d.rGen i ≠ hGen (u32 e 16) then []
      else ((List.range (u8 e 21)).flatMap fun l => d.absentIn i (u8 e 20 + l)).map (.entry i ·)
  | _, _ => []

/-- The cellar entry of a target, unless its reference is stale. -/
def Dev.pfCell (d : Dev) (p : PfTarget) : Option Nat :=
  match p with
  | .entry i x => if (d.cellar (d.entry i x).page).vtag = (d.entry i x).vtag then some (d.entry i x).page else none
  | .leaf _ _ c tag => if (d.cellar c).vtag = tag then some c else none

/-- The cellar entries of a prefetch's targets. -/
def Dev.pfCells (d : Dev) (p : Pf) : List Nat := (d.pfTargets p).filterMap d.pfCell

/-- The stroke and angle at which a prefetch due at `due` of stroke `s` with lead `lead` issues (R203, R205). -/
def pfPoint (s due lead : Nat) : Nat × Nat :=
  let lead := min lead 65535
  if lead ≤ due then (s, due - lead) else (subMod 64 s 1, due + 65536 - lead)

/-- The checks of a PREFETCH (R32, R206, R211). -/
def Dev.prefetchCheck (d : Dev) (k : RunCmd) : Nat :=
  let e := k.entry
  if bit (u8 e 26) 0 then
    (if u32 e 40 = 0 ∨ u64 e 32 % 4096 ≠ 0 ∨ ¬ u64 e 32 + u32 e 40 * 4096 ≤ 2 ^ 52 then stAborted else stOK)
  else
    let st := d.checkHandle (u32 e 16) k.tenant k.order
    if st ≠ stOK then st else if d.rLayers (hIndex (u32 e 16)) < u8 e 20 + u8 e 21 then stAborted else stOK

/-- PREFETCH reaches the head (R205): its due point and issue point are fixed. -/
def execPrefetch (c : CmdId) (s : State) : Host.Outcome State Fault Refusal :=
  onHall (fun d =>
    match d.act c opPrefetch with
    | none => d
    | some k =>
      let e := k.entry
      if k.begun then d
      else
        let st := d.prefetchCheck k
        if st ≠ stOK then d.endCmd k d.pair.next st [0, 0]
        else
          let due := u16 e 22
          let n := if d.angle < due then d.clk.number else d.clk.number + 1
          let (is, ia) := pfPoint n due (u16 e 24 + d.get Fld.MEM_QFLAG_PF_EXT k.tenant)
          let d := if bit (u8 e 26) 0 then d else d.touch (hIndex (u32 e 16))
          let p : Pf := ⟨d.nextId, some (k.ring, k.index), none, k.tenant, n, due, ia, is, false, 0, none⟩
          ({ d with pfs := d.pfs ++ [p], nextId := d.nextId + 1 } : Dev).setCmd { k with stage := 1, res := [0, 0] }) s

/-- A prefetch issued: its fetches begin; that of an entry still being written begins when it is held (R194). -/
def Dev.pfIssue (d : Dev) (p : Pf) : Dev :=
  (d.pfCells p).foldl Dev.beginFetch { d with pfs := d.pfs.map fun q => if q.id = p.id then { p with issued := true } else q }

/-- PREFETCH_ISSUE (R205): at its issue point, or at once when that has passed. -/
def execPrefetchIssue (c : CmdId) (s : State) : Host.Outcome State Fault Refusal :=
  onHall (fun d =>
    match d.pfs.find? (fun p => p.cmd == some (c.ring.toNat, c.index.toNat) && !p.issued) with
    | none => d
    | some p => if d.reached p.issueStroke p.issue then d.pfIssue p else d) s

/-- A table entry issued in this stroke (R203). -/
def Dev.pfTable (d : Dev) (i : Nat) : Dev :=
  let b := d.pfEntry i
  let due := u16 b 14
  let lead := min (u16 b 16 + u16 b 18) 65535
  let d := { d with clk := { d.clk with pfIssued := insertNat i d.clk.pfIssued } }
  let n := if lead ≤ due then d.clk.number else d.clk.number + 1
  let p : Pf := ⟨d.nextId, none, some i, u8 b 12, n, due, d.angle, d.clk.number, false, 0, none⟩
  ({ d with pfs := d.pfs ++ [p], nextId := d.nextId + 1 } : Dev).pfIssue p

/-- Whether a table entry is enabled and not yet issued in this stroke, and the angle at which it issues (R203). -/
def Dev.pfPending (d : Dev) (i : Nat) : Option Nat :=
  let b := d.pfEntry i
  if i < d.get Fld.MEM_PF_ENTRIES_ENTRIES ∧ bit (u8 b 13) 0 ∧ i ∉ d.clk.pfIssued then
    some (pfPoint 1 (u16 b 14) (u16 b 16 + u16 b 18)).2
  else none

/-- PREFETCH_TABLE_ISSUE (R203, R439). -/
def execPrefetchTableIssue (i : BitVec 16) (s : State) : Host.Outcome State Fault Refusal :=
  onHall (fun d =>
    match d.pfPending i.toNat with
    | none => d
    | some a => if d.firing ∧ a ≤ d.angle then d.pfTable i.toNat else d) s

/-- Nanoseconds by which a prefetch is late, signed: the counter's reading now less its reading at the due point (R204); a due point that
has not come makes it on time (log entry 26). -/
def Dev.pfLate (d : Dev) (p : Pf) : Int :=
  match p.dueCnt with
  | some c => modDiff 64 d.clk.cnt c
  | none => 0

/-- on_complete of R204 over a lead extension and its run of on-time completions. -/
def Dev.leadAfter (d : Dev) (late : Int) (lead ext ontime : Nat) : Nat × Nat :=
  let step := 4 * d.get Fld.MEM_PF_CFG_EXT_STEP
  let decay := d.get Fld.MEM_PF_CFG_DECAY
  if 0 < late then (min (d.get Fld.MEM_PF_CFG_EXT_MAX - lead) (ext + ceilDiv (late.toNat * 65536) (atLeast1 d.clk.period) + step), 0)
  else
    let n := min 255 (ontime + 1)
    if 0 < decay ∧ decay ≤ n then (ext - step, 0) else (ext, n)

/-- A late prefetch charged to its cause (R204, R207); the reserved causes read zero. -/
def Dev.chargeLate (d : Dev) (late : Int) (cause : Nat) : Dev := if 0 < late ∧ cause < 12 then d.stall cause (late.toNat / 1000) else d

/-- The addition at `DONE_OFF` (R203). -/
def Dev.pfDone (d : Dev) (t off : Nat) : Dev := if off = 0 then d else (d.doneAdd mMover t off 0).1

/-- Faults whose data is in without a resolution of their own, by a prefetch, go on (R206); `was` is the device before. -/
def Dev.settleFaults (d was : Dev) : Dev :=
  let fs := d.faults.filter fun f =>
    match f.kind with
    | .lower t va _ _ => (match d.leafOf t va with
      | some l => lfType l.word == lfLocal
      | none => false)
    | .layer i l => (d.absentIn i l).isEmpty
    | .zero _ _ => false
  (fs.foldl (fun (d : Dev) f => (d.takeFaults [f] (was.faultCause f.kind)).resumeFaulted f.ring f.index) d).serveFault

/-- The lead of a table entry written by the device (R204): an entry not issued in this stroke whose new angle is reached already issues
first in the next (R439). -/
def Dev.putExt (d : Dev) (i ext ontime : Nat) : Dev :=
  let was := d.pfPending i
  let d := (d.dramPutN 2 (d.pfAddr i + 18) ext).dramPutN 1 (d.pfAddr i + 20) ontime
  match was, d.pfPending i with
  | some a, some b => if d.firing ∧ d.angle < a ∧ b ≤ d.angle then { d with clk := { d.clk with pfIssued := insertNat i d.clk.pfIssued } } else d
  | _, _ => d

/-- A prefetch whose data is present (R204, R205). -/
def Dev.pfFinish (d : Dev) (p : Pf) (grans : Nat) : Dev :=
  let late := d.pfLate p
  let d := { d with pfs := d.pfs.filter fun q => q.id != p.id }
  match p.table, p.cmd.bind (fun c => d.cmd c.1 c.2) with
  | some i, _ =>
    let b := d.pfEntry i
    let (ext, on) := d.leadAfter late (u16 b 16) (u16 b 18) (u8 b 20)
    ((d.putExt i ext on).chargeLate late (u8 b 21)).pfDone p.tenant (u32 b 24)
  | none, some k =>
    let e := k.entry
    let (ext, on) := d.leadAfter late (u16 e 24) (d.get Fld.MEM_QFLAG_PF_EXT k.tenant) (sget 0 k.tenant d.pfOnTime)
    let d := { (d.put Fld.MEM_QFLAG_PF_EXT ext k.tenant) with pfOnTime := sput 0 k.tenant on d.pfOnTime }
    let d := (d.chargeLate late (u8 e 27)).pfDone k.tenant (u32 e 28)
    d.endCmd k d.pair.next stOK [grans, late.toNat]
  | none, none => d

/-- A prefetch that ends without its data (R205). -/
def Dev.pfFail (d : Dev) (p : Pf) (st : Nat) : Dev :=
  let d := (d.pfCells p).foldl Dev.giveUp d
  let d := { d with pfs := d.pfs.filter fun q => q.id != p.id }
  match p.cmd.bind (fun c => d.cmd c.1 c.2) with
  | some k => d.endCmd k d.pair.next st [k.res.getD 0 0, 0]
  | none => d

/-- Granules already brought by a prefetch's earlier attempts. -/
def Dev.pfSoFar (d : Dev) (p : Pf) : Nat :=
  match p.cmd.bind (fun c => d.cmd c.1 c.2) with
  | some k => k.res.getD 0 0
  | none => 0

/-- PREFETCH_COMPLETE (R197, R203 to R206, R211): the fetches end; the failed part is tried again until the fourth attempt. A target that
is still being written is waited for (R194). -/
def execPrefetchComplete (id : BitVec 32) (t : BitVec 64) (got : List FetchResult) (s : State) : Host.Outcome State Fault Refusal :=
  onHall (fun d =>
    let d := d.advanceTo t.toNat
    match d.pfs.find? (fun p => p.id % 2 ^ 32 == id.toNat && p.issued) with
    | none => d
    | some p =>
      if (d.pfCells p).any (fun c => (d.cellar c).state == clWriting) then d
      else (match Dev.bringEach (d.pfTargets p) false 0 got d with
        | .done d n _ => d.pfFinish p (d.pfSoFar p + n)
        | .refused d' q =>
          let d := d.keepQuarantined d'
          (if q then d.refusedQuota else d.refusedPool).pfFail p stQuotaBlocked
        | .stale a tag => (d.tagMismatch mMover a tag).pfFail p stAborted
        | .failed d n _ =>
          let d := d.stall 9 0
          let d := match p.cmd.bind (fun c => d.cmd c.1 c.2) with
            | some k => d.setAt { k with res := [k.res.getD 0 0 + n, 0] }
            | none => d
          if 4 ≤ p.tries + 1 then d.pfFail p stPageFault
          else (d.pfCells p).foldl Dev.askCellar { d with pfs := d.pfs.map fun (q : Pf) => if q.id = p.id then { p with tries := p.tries + 1 } else q }).settleFaults d) s

/-! ## The lower tier answers a demotion (R193, R194) -/

/-- What waited for a demotion goes on: the fault that is served next, and the fetches of prefetches issued already (R194). -/
def Dev.afterHeld (d : Dev) : Dev := ((d.pfs.filter (·.issued)).foldl (fun (d : Dev) p => (d.pfCells p).foldl Dev.beginFetch d) d).serveFault

/-- The lower tier acknowledged an entry: it is `HELD`, the reference replaced, the T1 copy released (R193). -/
def Dev.pageHeld (d : Dev) (m : Dem) : Dev :=
  let c := m.cellar
  let ce := d.cellar c
  let d := d.setCellar c { ce with state := clHeld }
  let d := { d with dems := d.dems.filter fun x => x.cellar != c }
  let (d, n) := match m.ref with
    | .entry i x p =>
      let d := d.dramPutN 8 (d.entAddr i x) (packEntry ⟨ce.vtag, c, 2⟩)
      (d.dropRef p, pageGrans ce.mode)
    | .leaf _ _ g n => (d.freeRun g none, n)
  (match m.cmd with
    | none => d
    | some (r, i) =>
      let d := match d.cmd r i with
        | some k => d.setAt { k with res := [k.res.getD 0 0 + n] }
        | none => d
      d.demoteEnd r i).afterHeld

/-- Whether writes of an entry to its cellar are outstanding. -/
def Dev.writing (d : Dev) (c : Nat) : Bool := d.ops.any fun o => o.space == spCellar && decide (o.kind = .write) && o.laddr == c

/-- The lower tier refused an entry (R211): the entry is freed, the data stays in T1, and the DEMOTE ends with that status. -/
def Dev.demoteFailed (d : Dev) (c st : Nat) : Dev :=
  match d.dems.find? (·.cellar == c) with
  | none => d
  | some m =>
    let d := ({ d with dems := d.dems.filter fun x => x.cellar != c } : Dev).freeCellar c
    let d := match m.ref with
      | .entry _ _ _ => d
      | .leaf t va g _ => (match d.leafOf t va with
        | some l => d.dramPutN 8 l.addr (leafWord lfLocal (g * 4096) false (lfW l.word) (lfR l.word))
        | none => d)
    (match m.cmd with
      | none => d
      | some (r, i) =>
        let st := if st = stStaleEpoch then st else stAborted
        (match d.cmd r i with
          | some k => d.setAt { k with pos := 1, status := if k.pos = 1 ∧ k.status ≠ stOK then k.status else st }
          | none => d).demoteEnd r i).afterHeld

/-- DEMOTE_PAGE_HELD (R193): the lower tier has acknowledged all of an entry. -/
def execDemotePageHeld (cellar : BitVec 26) (s : State) : Host.Outcome State Fault Refusal :=
  onHall (fun d =>
    match d.dems.find? (·.cellar == cellar.toNat) with
    | none => d
    | some m => if d.writing m.cellar then d else d.pageHeld m) s

end Sys2Proof.Machine
end

