-- ==== Sys2Proof/Machine/Remote.lean ====
section
/-! DEFINITION. Machine/Remote.lean: memory windows, the commands of the remote memory unit, the import table and read cache,
the gateway, composition maps, and the ends of fabric operations and queue pairs (chapter 11; R260, R269, R434). -/

namespace Sys2Proof.Machine

/-! ## Windows (R272 to R276) -/

/-- Window states (R272). -/
def wsFree : Nat := 0
def wsOpen : Nat := 1
def wsRevoking : Nat := 2

/-- An entry of the window table (R272). -/
structure WinE where
  state  : Nat
  space  : Nat
  r      : Bool
  w      : Bool
  a      : Bool
  tenant : Nat
  peer   : Nat
  key    : Nat
  base   : Nat
  len    : Nat
deriving DecidableEq, Repr

def Dev.winCount (d : Dev) : Nat := d.get Fld.RMA_WIN_CFG_COUNT
def Dev.winAddr (d : Dev) (w : Nat) : Nat := d.get Fld.RMA_WIN_CFG_GRAN * granBytes + 32 * w

/-- Window `w`. -/
def Dev.win (d : Dev) (w : Nat) : WinE :=
  let a := d.winAddr w
  let x := d.dramWord a
  { state := bits x 63 61, space := bits x 60 59, r := bit x 58, w := bit x 57, a := bit x 56, tenant := bits x 55 48, peer := bits x 47 32,
    key := bits x 31 0, base := bits (d.dramWord (a + 8)) 51 0, len := bits (d.dramWord (a + 16)) 39 0 }

/-- A window entry written whole. -/
def Dev.setWin (d : Dev) (w : Nat) (e : WinE) : Dev :=
  let x := e.state * 2 ^ 61 + e.space * 2 ^ 59 + (if e.r then 2 ^ 58 else 0) + (if e.w then 2 ^ 57 else 0) + (if e.a then 2 ^ 56 else 0)
    + e.tenant * 2 ^ 48 + e.peer * 2 ^ 32 + e.key
  d.dramPut (d.winAddr w) (toBytes 8 x ++ toBytes 8 e.base ++ toBytes 8 e.len ++ zeros 8)

/-- A key of the device's random source: a free value, never 0 and never the window's previous key (R273). -/
def Dev.drawKey (d : Dev) (prev : Nat) : Nat × Dev :=
  if prev = 0 then
    let (k, d) := d.choose (2 ^ 32 - 1)
    (k + 1, d)
  else
    let (k, d) := d.choose (2 ^ 32 - 2)
    (if k + 1 < prev then k + 1 else k + 2, d)

/-- What resolving a leaf comes to. -/
inductive Resolved where
  | ok (d : Dev) (rest : List FetchResult)
  | wait
  | quota (d : Dev)
  | abort (d : Dev)

/-- One leaf brought to `LOCAL` or `HOST` (R273); `got` is what the holders of T2 data give. -/
def Dev.resolveLeaf (d : Dev) (t : Nat) (x : Nat × Leaf) (got : List FetchResult) : Resolved :=
  let w := x.2.word
  let ty := lfType w
  let came (b : Brought) : Resolved := match b with
    | .done d _ rest => .ok d rest
    | .refused d' q => let d := d.keepQuarantined d'; .quota (if q then d.refusedQuota else d.refusedPool)
    | .failed d _ _ => .abort d
    | .stale p tag => .abort (d.tagMismatch mCox p tag)
  if ty = lfLocal ∨ ty = lfHost then .ok d got
  else if ty = lfNone ∧ lfAlloc w then came (d.bringZero t x.1 got)
  else if ty = lfLower then
    (if (d.cellar (lowerCellar w)).vtag = lowerTag w ∧ (d.cellar (lowerCellar w)).state = clWriting then .wait
     else came (d.bringLeaf t x.1 (lowerCellar w) (lowerTag w) got))
  else .abort d

/-- Leaves resolved one after another. -/
def Dev.resolveLeaves (t : Nat) : List (Nat × Leaf) → List FetchResult → Dev → Resolved
  | [], got, d => .ok d got
  | x :: xs, got, d =>
    match d.resolveLeaf t x got with
    | .ok d rest => Dev.resolveLeaves t xs rest d
    | r => r

/-- The granules that a byte range touches: its first address and their number. -/
def granSpan (base len : Nat) : Nat × Nat := (base / 4096 * 4096, (base + len - 1) / 4096 + 1 - base / 4096)

/-- Whether every part of a tenant range has a leaf. -/
def Dev.allLeaves (d : Dev) (t va grans : Nat) : Bool := (pagesOfRange va grans).all fun a => (d.leafOf t a).isSome

/-- `PIN` set on a leaf for window `w` (R273). The third part of a pin remembers a leaf that its VM_MAP had pinned. -/
def Dev.pinLeaf (w : Nat) (d : Dev) (a : Nat) : Dev :=
  let x := d.dramWord a
  let own := match d.pins.find? (fun p => p.2.1 == a) with
    | some p => p.2.2
    | none => if lfPin x then 1 else 0
  { (d.dramPutN 8 a (setBits x 60 60 1)) with pins := d.pins ++ [(w, a, own)] }

/-- The pins of a window cleared (R276), but for leaves that another window or their VM_MAP still pins. -/
def Dev.unpin (d : Dev) (w : Nat) : Dev :=
  let mine := d.pins.filter (·.1 == w)
  let d := { d with pins := d.pins.filter (·.1 != w) }
  mine.foldl (fun (d : Dev) (p : Nat × Nat × Nat) =>
    if p.2.2 = 1 ∨ d.pins.any (fun q => q.2.1 == p.2.1) then d else d.dramPutN 8 p.2.1 (setBits (d.dramWord p.2.1) 60 60 0)) d

/-- The window that a WIN_OPEN takes: its own number, or the lowest FREE one. -/
def Dev.winFor (d : Dev) (n : Nat) : Option Nat :=
  if n = 0xFFFF then findFrom (fun w => (d.win w).state == wsFree) 0 d.winCount
  else if n < d.winCount ∧ (d.win n).state = wsFree then some n else none

/-- Whether the fields of a WIN_OPEN are well formed (R272, R280). -/
def winOk (space rights base len : Nat) : Bool :=
  decide (space ≤ 1) && !(bit rights 2 && decide (space ≠ 0)) && decide (base % 8 = 0) && decide (len % 8 = 0) && decide (8 ≤ len)
    && decide (len < 2 ^ 40) && decide (base + len ≤ 2 ^ 52)

/-- The window opened under a new key (R273). -/
def Dev.openWin (d : Dev) (k : RunCmd) (w : Nat) : Dev :=
  let e := k.entry
  let (key, d) := d.drawKey (d.win w).key
  let rights := u8 e 19
  let d := d.setWin w ⟨wsOpen, u8 e 18, bit rights 0, bit rights 1, bit rights 2, k.tenant, u16 e 20, key, u64 e 24, u64 e 32⟩
  d.endCmd k d.pair.next stOK [w, key]

/-- The cellar entries behind the `LOWER` leaves of a list. -/
def Dev.leafCells (d : Dev) (ls : List (Nat × Leaf)) : List Nat :=
  ls.filterMap fun x => let w := x.2.word
    if lfType w = lfLower ∧ (d.cellar (lowerCellar w)).vtag = lowerTag w then some (lowerCellar w) else none

/-- WIN_OPEN (R272, R273, R276, R280, R429). A range with data in lower tiers has its fetches begun first (R197), and the row acts
again when they end. -/
def execWinOpen (c : CmdId) (got : List FetchResult) (s : State) : Host.Outcome State Fault Refusal :=
  onHall (fun d =>
    match d.act c opWinOpen with
    | none => d
    | some k =>
      let e := k.entry
      let n0 := d.pair.next
      match d.winFor (u16 e 16) with
      | none => d.endCmd k n0 stAborted []
      | some w =>
        if !(winOk (u8 e 18) (u8 e 19) (u64 e 24) (u64 e 32)) then d.endCmd k n0 stAborted []
        else if u8 e 18 = 0 then d.openWin k w
        else
          let (va, n) := granSpan (u64 e 24) (u64 e 32)
          if !(d.allLeaves k.tenant va n) then d.endCmd k n0 stAborted []
          else
            let cells := d.leafCells (d.leavesOf k.tenant va n)
            if k.stage = 0 ∧ cells.any (fun c => (d.cellar c).state == clHeld) then (cells.foldl Dev.beginFetch d).setCmd { k with stage := 1 }
            else match Dev.resolveLeaves k.tenant (d.leavesOf k.tenant va n) got d with
              | .wait => d
              | .quota d => (cells.foldl Dev.giveUp d).endCmd k n0 stQuotaBlocked []
              | .abort d => (cells.foldl Dev.giveUp d).endCmd k n0 stAborted []
              | .ok d _ => (((d.leavesOf k.tenant va n).map (·.2.addr)).foldl (Dev.pinLeaf w) d).openWin k w) s

/-- WIN_REVOKE (R276): REVOKING; a second revocation of the window waits with the first. -/
def execWinRevoke (c : CmdId) (s : State) : Host.Outcome State Fault Refusal :=
  onHall (fun d =>
    match d.act c opWinRevoke with
    | none => d
    | some k =>
      let w := u16 k.entry 16
      let e := d.win w
      if k.begun then d
      else if d.winCount ≤ w ∨ e.state = wsFree ∨ e.tenant ≠ k.tenant then d.endCmd k d.pair.next stAborted []
      else
        let d := { (d.setWin w { e with state := wsRevoking }) with revokes := d.revokes ++ [(k.ring, k.index, w)] }
        d.setCmd { k with stage := 1 }) s

/-- A revoked window with nothing in flight is FREE: its pins are gone and the revocations that waited complete (R276). -/
def Dev.endRevoke (d : Dev) (w : Nat) : Dev :=
  let e := d.win w
  if d.winCount ≤ w ∨ e.state ≠ wsRevoking ∨ sget 0 w d.flights ≠ 0 then d
  else
    let d := (d.setWin w { e with state := wsFree }).unpin w
    let mine := d.revokes.filter (·.2.2 == w)
    let d := { d with revokes := d.revokes.filter (·.2.2 != w) }
    mine.foldl (fun (d : Dev) (x : Nat × Nat × Nat) => match d.cmd x.1 x.2.1 with
      | some k => d.endCmd k d.pair.next stOK []
      | none => d) d

/-- WIN_REVOKE_COMPLETE (R276): nothing is in flight on the window any more. -/
def execWinRevokeComplete (w : BitVec 16) (s : State) : Host.Outcome State Fault Refusal := onHall (fun d => d.endRevoke w.toNat) s

/-! ## Ends of operations (R268, R269, R283, R288) -/

/-- The mark of a remote-memory command whose operations have been issued. -/
def rmSent : Nat := 10

/-- The kind of an RM_OP and the subcommand of an RM_CTL (R292). -/
def rmKind (e : Entry) : Nat := u8 e 18
def ctlSub (e : Entry) : Nat := u8 e 16

/-- The end of an RM_OP whose operations have all ended. -/
def Dev.rmEnd (d : Dev) (k : RunCmd) : Dev :=
  if rmKind k.entry = 5 then d.mcastEnd k (d.grpCount (u16 k.entry 48)) (u64 k.entry 56)
  else
    let st := if k.status ≠ stOK then k.status else k.pos
    d.endCmd k d.pair.next st (if st = stOK ∧ rmKind k.entry = 3 then k.res else [])

/-- What follows the last operation of a command; one that waited for its near stores alone ends, with the status of a refusal (R284).
The output sends of chapters 5 and 7 have rows of their own. -/
def Dev.afterOps (d : Dev) (r i : Nat) : Dev :=
  match d.cmd r i with
  | none => d
  | some k =>
    if k.phase ≠ .acks ∨ !k.ops.isEmpty then d
    else if k.note = noteStores then d.endCmd k d.pair.next k.pos k.res
    else if opOf k.entry = opRmOp then d.rmEnd k
    else if opOf k.entry = opAdpLoad then d.adpMcastEnd k
    else d

/-- A flush ends when none of its tenant's stores is on its way any more: ABORTED when some were lost (R285, R288). -/
def Dev.settleFlushes (d : Dev) : Dev :=
  (d.cmds.filter fun k => opOf k.entry == opRmCtl && ctlSub k.entry == 4 && decide (k.phase = .acks)).foldl (fun (d : Dev) k =>
    if d.gw.any (fun g => g.tenant == k.tenant)
      ∨ d.ops.any (fun o => (o.space == spGw || o.space == spStore) && !(qReserved o.qp) && d.qTenant o.qp == k.tenant) then d
    else
      let lost := d.gwLost.contains k.tenant
      ({ d with gwLost := d.gwLost.filter (· != k.tenant) } : Dev).endCmd k d.pair.next (if lost then stAborted else stOK) []) d

/-- A gateway write ended (R288): the buffer goes with its last, and a full one behind it is sent. -/
def Dev.gwDone (d : Dev) (o : Op) (st : Nat) : Dev :=
  let mine := d.gw.filter fun g => g.flight.contains o.id
  let d := if st = stOK ∨ qReserved o.qp then d else { d with gwLost := insertNat (d.qTenant o.qp) d.gwLost }
  let left := d.gw.map fun (g : GwBuf) =>
    let f := g.flight.filter (· != o.id)
    { g with flight := f, sending := if f.isEmpty then [] else g.sending }
  let d := { d with gw := left.filter fun g => !(g.flight.isEmpty && g.bytes.isEmpty) }
  let behind := d.gw.filter fun g => decide (4096 ≤ g.bytes.length) && mine.any (fun m => m.tenant == g.tenant && m.entry == g.entry && m.block == g.block)
  behind.foldl Dev.flushGw d

/-- An operation ended with a status, and everything that waits for it or for its entry goes on (R261, R332). -/
def Dev.opEnd (d : Dev) (o : Op) (st : Nat) : Dev :=
  let d := d.opDone o st
  let d := if o.space = spGw then d.gwDone o st else d
  let d := if o.space = spCellar ∧ o.kind = .write ∧ st ≠ stOK then d.demoteFailed o.laddr st else d
  let d := match o.cmd with
    | some (r, i) => d.afterOps r i
    | none => d
  let d := (d.settleFlushes).drainCheck o.qp
  d.sendWaiting d.pair.unsent

/-- Every operation of a kind ended with one status. -/
def Dev.failOps (d : Dev) (p : Op → Bool) (st : Nat) : Dev :=
  (d.ops.filter p).foldl (fun (d : Dev) o => if d.ops.any (·.id == o.id) then d.opEnd o st else d) d

/-! ## Queue pair states (R260, R434) -/

/-- Gateway buffers of a pair discarded (R288). -/
def Dev.discardGw (d : Dev) (q : Nat) : Dev :=
  let mine := d.gw.filter (·.qp == q)
  let d := mine.foldl (fun (d : Dev) (g : GwBuf) => ({ d with gwLost := insertNat g.tenant d.gwLost } : Dev).bump Fld.RMA_STAT1_GW_LOST) d
  { d with gw := d.gw.filter (·.qp != q) }

/-- What a pair holds toward a node forgotten: its packets, and its transport state (R260, R434). -/
def Dev.forget (d : Dev) (q node : Nat) : Dev :=
  let d := { d with txq := d.txq.filter (fun t => !(t.qp == q && t.node == node)), spray := d.spray.filter (fun t => !(t.qp == q && t.node == node)) }
  d.fixFlows.clearQpt q node

/-- A pair goes to ERROR: its gateway buffers are discarded, those of a flush in progress among them (R288), and every outstanding
operation completes ABORTED (R260). -/
def Dev.errorPair (d : Dev) (q : Nat) : Dev :=
  let d := ((d.qput q 0 63 61 qsError).discardGw q).failOps (·.qp == q) stAborted
  let d := (d.qpts.filter (·.qp == q)).foldl (fun (d : Dev) (t : QpT) => d.forget q t.node) d
  d.forget q (d.qRnode q)

/-- A reserved pair's state toward one node reset (R434). -/
def Dev.resetToward (d : Dev) (q node : Nat) : Dev := (d.failOps (fun o => o.qp == q && o.node == node) stAborted).forget q node

/-- Queue pairs with a context of any kind. -/
def Dev.listedQps (d : Dev) : List Nat := d.dram.blocksOf (d.get Fld.FAB_QP_BASE_GRAN * granBytes) 128 65536

/-- A pair enabled: PSNs from 0 at both ends, and the rate state of R270 (R260, R270); a pair that serves many nodes takes up its state
toward each when it first exchanges with it (R434). -/
def Dev.enableQp (d : Dev) (q : Nat) : Dev :=
  let d := (d.qpts.filter (·.qp == q)).foldl (fun (d : Dev) (t : QpT) => d.clearQpt q t.node) d
  let d := (d.qput q 1 63 0 0).qput q 0 63 61 qsActive
  if q < 16 then d else d.setQpt (d.freshQpT q (d.qRnode q))

/-- A pair taken back to RESET. -/
def Dev.resetQp (d : Dev) (q : Nat) : Dev := (d.errorPair q).qpCleared q

/-- Cox writes a node's peer-table entry; a new epoch fails the pairs bound to the node, resets the reserved pairs toward it
and drops its cached lines (R260, R286, R434). -/
def Dev.peerPut (d : Dev) (node epoch : Nat) (valid : Bool) : Dev :=
  let news := decide (d.peerEpoch node ≠ epoch) || (valid && !(d.peerValid node))
  let d := d.dramPutN 8 (d.peerAddr node) ((if valid then 2 ^ 63 else 0) + epoch)
  if !news then d
  else
    let d := { d with lines := d.lines.filter (·.node != node) }
    let d := (d.listedQps.filter fun q => decide (16 ≤ q) && d.qRnode q == node && (d.qState q == qsActive || d.qState q == qsDraining)).foldl
      Dev.errorPair d
    (distinct (((d.qpts.filter (·.node == node)).map (·.qp) ++ (d.ops.filter (·.node == node)).map (·.qp)).filter fun q => decide (q < 16))).foldl
      (fun (d : Dev) q => d.resetToward q node) d

/-! ## RM_OP (R277, R283, R292, R293) -/

/-- The RM_OP that a row acts on: of one kind; a reserved kind belongs to the row of WRITE. -/
def Dev.rmAct (d : Dev) (c : CmdId) (kind : Nat) : Option RunCmd :=
  (d.act c opRmOp).filter fun k =>
    let x := rmKind k.entry
    x == kind || (kind == 1 && (x == 0 || decide (6 < x)))

/-- The fields of an RM_OP. -/
def rmQp (e : Entry) : Nat := u16 e 16
def rmFence (e : Entry) : Bool := bit (u8 e 20) 0
def rmVirt (e : Entry) : Bool := bit (u8 e 20) 1
def rmFlags (e : Entry) : Nat := if bit (u8 e 20) 2 then pfWin else 0
def rmLen (e : Entry) : Nat := u32 e 28

/-- The first checks of an RM_OP: its status when one fails (R254, R260, R292). -/
def Dev.rmCheck (d : Dev) (k : RunCmd) (wellFormed : Bool) : Nat :=
  if !wellFormed then stAborted else d.pairRefuses k.tenant (rmQp k.entry)

/-- Whether a LEN is one that R292 allows. -/
def rmLenOk (n : Nat) : Bool := decide (n % 8 = 0) && decide (n ≤ 2 ^ 30)

/-- An RM_OP of which the row goes on: one that has sent its operations waits for them again (after a page fault of a
placement), one whose local access was refused ends. -/
def Dev.rmRow (d : Dev) (c : CmdId) (kind : Nat) (wellFormed : Entry → Bool) (go : RunCmd → Dev → Dev) : Dev :=
  match d.rmAct c kind with
  | none => d
  | some k =>
    if k.stage = stageBitmap then d.endRest k (u64 k.entry 56)
    else if k.note = rmSent then (d.setCmd { k with phase := .acks, strokes := 0, lostT := 0 }).afterOps k.ring k.index
    else if k.status ≠ stOK then d.endCmd k d.pair.next k.status []
    else
      let st := if kind = 5 then (if wellFormed k.entry then stOK else stAborted) else d.rmCheck k (wellFormed k.entry)
      if st ≠ stOK then d.endCmd k d.pair.next st [] else go k d

/-- A command's access to its local memory taken on. -/
def Dev.rmGo (d : Dev) (k : RunCmd) (r : Res (List Byte)) (go : List Byte → Dev → Dev) : Dev :=
  match r with
  | .ok bs d => go bs d
  | .abort => d.endCmd k d.pair.next stAborted []
  | .fault kd => (match d.raiseFault k kd with
    | (true, d) => d.endCmd k d.pair.next stPageFault []
    | (false, d) => d)
  | .wait d => d
  | .status st => d.endCmd k d.pair.next st []

/-- The local bytes of an RM_OP (R109, R292). -/
def Dev.rmBytes (d : Dev) (k : RunCmd) (n : Nat) (go : List Byte → Dev → Dev) : Dev :=
  let a := u64 k.entry 40
  if rmVirt k.entry then d.rmGo k (d.vaRead (some (k.ring, k.index)) k.tenant a n) go
  else if n = 0 then go [] d
  else if !(d.hallOk (some k.tenant) a n) then d.deny.endCmd k d.pair.next stTenantMismatch []
  else
    let (d, bad) := d.hallSees k.master a n
    if bad then d.endCmd k d.pair.next stCrcFault [] else go (d.hall.readBytes a n) d

/-- Operations issued one after another, all or none. -/
def Dev.issueAll (k : RunCmd) (kind : OpKind) (respOf : Packet → Nat) (space : Nat) (laddrOf : Packet → Nat) :
    List (List Packet) → Dev → Option (List Nat × Dev)
  | [], d => some ([], d)
  | ps :: rest, d =>
    let q := rmQp k.entry
    let p := ps.headD pktBlank
    (d.issue q (d.qRnode q) kind (some (k.ring, k.index)) (respOf p) space (laddrOf p) (u64 k.entry 32) (rmFence k.entry) ps).bind fun (id, d) =>
      (Dev.issueAll k kind respOf space laddrOf rest d).map fun (ids, d) => (id :: ids, d)

/-- The operations of an RM_OP issued, for which it waits; none: no room in the operation table (R261). -/
def Dev.rmSend (d : Dev) (k : RunCmd) (kind : OpKind) (respOf : Packet → Nat) (laddrOf : Packet → Nat) (ops : List (List Packet)) : Option Dev :=
  (Dev.issueAll k kind respOf (if rmVirt k.entry then spVa else spHall) laddrOf ops d).map fun (ids, d) =>
    (d.setAt { k with phase := .acks, note := rmSent, ops := ids, pos := stOK, strokes := 0, lostT := 0 }).afterOps k.ring k.index

/-- A command that finds no room in the operation table waits for credits, counted under FAB_CREDIT (R207, R261). -/
def Dev.orWait (d : Dev) (k : RunCmd) (r : Option Dev) : Dev := r.getD (d.creditWait (some (k.ring, k.index)))

/-- The operations of an RM_OP issued, or waited for. -/
def Dev.rmIssue (d : Dev) (k : RunCmd) (kind : OpKind) (respOf : Packet → Nat) (laddrOf : Packet → Nat) (ops : List (List Packet)) : Dev :=
  d.orWait k (d.rmSend k kind respOf laddrOf ops)

/-- RM_OP_WRITE (R259, R261, R277): the payload as the pair's `PMODE` carries it. -/
def execRmOpWrite (c : CmdId) (s : State) : Host.Outcome State Fault Refusal :=
  onHall (fun d => d.rmRow c 1 (fun e => rmKind e == 1 && rmLenOk (rmLen e)) fun k d =>
    let e := k.entry
    d.rmBytes k (rmLen e) fun bs d =>
      match d.egress (rmQp e) bs with
      | none => d.endCmd k d.pair.next stAborted []
      | some (body, d') =>
        let ps := splitPayload pkWrite (u64 e 32) (rmFlags e) (u32 e 24) (u16 e 22) allBytes body
        d.orWait k (d'.rmSend k .write (fun _ => 0) (fun _ => 0) (if body.isEmpty then [] else [ps]))) s

/-- The requests of a READ: 1,048,576 bytes each and a remainder (R277, R292). -/
def readReqs (e : Entry) : List (List Packet) :=
  (List.range (ceilDiv (rmLen e) 1048576)).map fun j =>
    [{ pktBlank with
       opc := BitVec.ofNat 6 pkReadReq, flags := BitVec.ofNat 6 (rmFlags e + pfLast), raddr := BitVec.ofNat 64 (u64 e 32 + 1048576 * j),
       key := BitVec.ofNat 32 (u32 e 24), window := BitVec.ofNat 16 (u16 e 22), aux := BitVec.ofNat 32 (min 1048576 (rmLen e - 1048576 * j)) }]

/-- Whether every granule of a tenant range can be written now (R187). -/
def Dev.canWrite (d : Dev) (t va n : Nat) : Res (List Byte) :=
  (List.range (granSpan va n).2).foldl (fun (r : Res (List Byte)) k => r.andThen fun _ d =>
    match d.locate t (max va (va / 4096 * 4096 + 4096 * k)) true with
    | .abort => .abort
    | .fault kd => .fault kd
    | _ => .ok [] d) (.ok [] d)

/-- RM_OP_READ (R261, R277, R292): the destination is checked before anything is sent. -/
def execRmOpRead (c : CmdId) (s : State) : Host.Outcome State Fault Refusal :=
  onHall (fun d => d.rmRow c 2 (fun e => rmLenOk (rmLen e) && decide (8 ≤ rmLen e)) fun k d =>
    let e := k.entry
    let a := u64 e 40
    let send (d : Dev) : Dev := d.rmIssue k .read (fun p => ceilDiv p.aux.toNat 4096) (fun p => a + (p.raddr.toNat - u64 e 32)) (readReqs e)
    if rmVirt e then d.rmGo k (d.canWrite k.tenant a (rmLen e)) fun _ d => send d
    else if d.hallOk (some k.tenant) a (rmLen e) then send d
    else d.deny.endCmd k d.pair.next stTenantMismatch []) s

/-- RM_OP_ATOMIC (R277, R280). -/
def execRmOpAtomic (c : CmdId) (s : State) : Host.Outcome State Fault Refusal :=
  onHall (fun d => d.rmRow c 3 (fun e => decide (u8 e 19 < 3)) fun k d =>
    let e := k.entry
    let p := { pktBlank with
      opc := BitVec.ofNat 6 pkAtomic, flags := BitVec.ofNat 6 (rmFlags e + pfLast), raddr := BitVec.ofNat 64 (u64 e 32),
      key := BitVec.ofNat 32 (u32 e 24), window := BitVec.ofNat 16 (u16 e 22), aux := BitVec.ofNat 32 (u8 e 19), len := 16,
      payload := toBytes 8 (u64 e 48) ++ toBytes 8 (u64 e 56) }
    d.rmIssue k .atomic (fun _ => 1) (fun _ => 0) [[p]]) s

/-- RM_OP_REDUCE (R277, R281): every packet has a response of its own. -/
def execRmOpReduce (c : CmdId) (s : State) : Host.Outcome State Fault Refusal :=
  onHall (fun d => d.rmRow c 4 (fun e => decide (u8 e 19 < 4) && rmLenOk (rmLen e)) fun k d =>
    let e := k.entry
    d.rmBytes k (rmLen e) fun bs d =>
      let ps := splitPayload pkReduce (u64 e 32) (rmFlags e) (u32 e 24) (u16 e 22) (u8 e 19) bs
      d.rmIssue k .reduce (fun _ => ps.length) (fun _ => 0) (if bs.isEmpty then [] else [ps])) s

/-- RM_OP_MCAST (R283). -/
def execRmOpMcast (c : CmdId) (s : State) : Host.Outcome State Fault Refusal :=
  onHall (fun d => d.rmRow c 5 (fun e => rmLenOk (rmLen e) && decide (u16 e 48 < 1024)) fun k d =>
    let e := k.entry
    let g := u16 e 48
    if d.grpTenant g ≠ k.tenant then d.endCmd k d.pair.next stTenantMismatch []
    else if d.grpCount g = 0 then d.endCmd k d.pair.next stAborted []
    else d.rmBytes k (rmLen e) fun bs d =>
      match d.mcastSend k g (u64 e 32) (rmFence e) bs with
      | none => d.creditWait (some (k.ring, k.index))
      | some d => d.afterOps k.ring k.index) s

/-- The whole window in the AUX of an INVAL (R277). -/
def wholeWindow : Nat := 0xFFFFFFFF

/-- RM_OP_INVAL (R277, R287). -/
def execRmOpInval (c : CmdId) (s : State) : Host.Outcome State Fault Refusal :=
  onHall (fun d => d.rmRow c 6 (fun e => rmLen e == wholeWindow || rmLenOk (rmLen e)) fun k d =>
    let e := k.entry
    let p := { pktBlank with
      opc := BitVec.ofNat 6 pkInval, flags := BitVec.ofNat 6 pfLast, raddr := BitVec.ofNat 64 (u64 e 32), window := BitVec.ofNat 16 (u16 e 22),
      aux := BitVec.ofNat 32 (rmLen e) }
    d.rmIssue k .inval (fun _ => 0) (fun _ => 0) [[p]]) s

/-! ## RM_CTL (R282, R284, R286, R288, R292) -/

/-- The RM_CTL that a row acts on; a reserved SUB belongs to the row of IMPORT_SET. -/
def Dev.ctlAct (d : Dev) (c : CmdId) (sub : Nat) : Option RunCmd :=
  (d.act c opRmCtl).filter fun k =>
    let x := ctlSub k.entry
    x == sub || (sub == 1 && (x == 0 || decide (5 < x)))

/-- The image that an RM_CTL copies, read from tenant memory. -/
def Dev.ctlImage (d : Dev) (k : RunCmd) (n : Nat) (go : List Byte → Dev → Dev) : Dev :=
  if k.status ≠ stOK then d.endCmd k d.pair.next k.status []
  else d.rmGo k (d.vaRead (some (k.ring, k.index)) k.tenant (u64 k.entry 24) n) go

/-- The lines that an import entry filled dropped, and fills in flight not kept (R286). -/
def Dev.dropEntryLines (d : Dev) (e : Nat) : Dev :=
  { d with lines := d.lines.filter (·.entry != e),
           ops := d.ops.map fun (o : Op) => if o.space = spFill ∧ o.raddr = e then { o with stale := true } else o }

/-- Gateway buffers of an import entry sent before the entry goes; none: no operation entry is free. -/
def Dev.flushEntry (d : Dev) (e : Nat) : Option Dev :=
  (d.gw.filter fun g => g.entry == e && !g.bytes.isEmpty).foldl (fun (r : Option Dev) g => r.bind fun d => d.startGwFlush g) (some d)

/-- The 8-byte word `w` of an image. -/
def imgWord (bs : List Byte) (w : Nat) : Nat := ofBytes (slice bs (8 * w) 8)

/-- The rules that an import entry must keep (R284). -/
def Dev.importOk (d : Dev) (t e : Nat) (i : ImpE) : Bool :=
  (i.far == !(decide (i.base < 2 ^ 45))) && decide (i.base % 4096 = 0) && decide (i.len % 4096 = 0) && !(qReserved i.qp) && (d.qTenant i.qp == t)
    && !(i.valid && d.imports.any fun j => let o := d.imp j; j != e && o.valid && o.tenant == t && decide (i.base < o.base + o.len) && decide (o.base < i.base + i.len))

/-- An import entry replaced by 32 bytes, its cached lines and buffers gone; none: an operation entry must be waited for. -/
def Dev.setImport (d : Dev) (e : Nat) (bs : List Byte) : Option Dev :=
  (d.flushEntry e).bind fun d =>
    if d.gw.any (fun g => g.entry == e && !g.bytes.isEmpty) then none else some ((d.dropEntryLines e).dramPut (d.impAddr e) bs)

/-- IMPORT_SET (R284). The entry's TENANT is that of the ring. -/
def execImportSet (c : CmdId) (s : State) : Host.Outcome State Fault Refusal :=
  onHall (fun d =>
    match d.ctlAct c 1 with
    | none => d
    | some k =>
      let x := u16 k.entry 18
      if ctlSub k.entry ≠ 1 ∨ 4096 ≤ x then d.endCmd k d.pair.next stAborted []
      else if (d.imp x).valid ∧ (d.imp x).tenant ≠ k.tenant then d.endCmd k d.pair.next stTenantMismatch []
      else d.ctlImage k 32 fun bs d =>
        let w0 := setBits (imgWord bs 0) 55 48 k.tenant
        if !(d.importOk k.tenant x (impOf w0 (imgWord bs 1) (imgWord bs 2) (imgWord bs 3))) then d.endCmd k d.pair.next stAborted []
        else match d.setImport x (toBytes 8 w0 ++ bs.drop 8) with
          | none => d.creditWait (some (k.ring, k.index))
          | some d => d.endCmd k d.pair.next stOK []) s

/-- IMPORT_CLEAR (R284, R286). -/
def execImportClear (c : CmdId) (s : State) : Host.Outcome State Fault Refusal :=
  onHall (fun d =>
    match d.ctlAct c 2 with
    | none => d
    | some k =>
      let x := u16 k.entry 18
      if 4096 ≤ x then d.endCmd k d.pair.next stAborted []
      else if (d.imp x).valid ∧ (d.imp x).tenant ≠ k.tenant then d.endCmd k d.pair.next stTenantMismatch []
      else match d.setImport x (zeros 32) with
        | none => d.creditWait (some (k.ring, k.index))
        | some d => d.endCmd k d.pair.next stOK []) s

/-- GROUP_SET (R282). -/
def execGroupSet (c : CmdId) (s : State) : Host.Outcome State Fault Refusal :=
  onHall (fun d =>
    match d.ctlAct c 3 with
    | none => d
    | some k =>
      let g := u16 k.entry 18
      if 1024 ≤ g then d.endCmd k d.pair.next stAborted []
      else d.ctlImage k 512 fun bs d =>
        let n := bits (imgWord bs 0) 5 0
        let other (i : Nat) : Bool := let q := bits (imgWord bs (i + 1)) 63 48; qReserved q || d.qTenant q != k.tenant
        if n = 0 then d.endCmd k d.pair.next stAborted []
        else if (d.grpCount g ≠ 0 ∧ d.grpTenant g ≠ k.tenant) ∨ (List.range n).any other then d.endCmd k d.pair.next stTenantMismatch []
        else
          let w0 := setBits (imgWord bs 0) 15 8 k.tenant
          (d.dramPut (d.get Fld.RMA_MC_CFG_GRAN * granBytes + 512 * g) (toBytes 8 w0 ++ bs.drop 8)).endCmd k d.pair.next stOK []) s

/-- RM_CTL_FLUSH (R285, R288): the tenant's buffers are sent, and the command waits for every store. -/
def execRmCtlFlush (c : CmdId) (s : State) : Host.Outcome State Fault Refusal :=
  onHall (fun d =>
    match d.ctlAct c 4 with
    | none => d
    | some k =>
      let mine := d.gw.filter fun g => g.tenant == k.tenant && !g.bytes.isEmpty
      match mine.foldl (fun (r : Option Dev) g => r.bind fun d => d.startGwFlush g) (some d) with
      | none => d.creditWait (some (k.ring, k.index))
      | some d =>
        if d.gw.any (fun g => g.tenant == k.tenant && !g.bytes.isEmpty) then d
        else ((d.creditGot (some (k.ring, k.index))).setAt { k with phase := .acks, note := rmSent, pos := stOK, strokes := 0, lostT := 0 }).settleFlushes) s

/-- Cached lines of a window's bytes dropped and fills of them in flight marked stale (R286, R287). -/
def Dev.dropRange (d : Dev) (node window lo len : Nat) (mine : Nat → Bool) : Dev :=
  let hit (o n : Nat) : Bool := decide (o < lo + len) && decide (lo < o + n)
  { d with lines := d.lines.filter fun l => !(mine l.tenant && l.node == node && l.window == window && hit l.offset 256),
           ops := d.ops.map fun (o : Op) =>
             if o.space = spFill ∧ (d.imp o.raddr).window = window ∧ o.node = node ∧ mine (d.imp o.raddr).tenant ∧ hit o.laddr (if (d.imp o.raddr).far then 4096 else 256)
             then { o with stale := true } else o }

/-- DROP (R286): the tenant's cached lines of a range of a window. -/
def execDrop (c : CmdId) (s : State) : Host.Outcome State Fault Refusal :=
  onHall (fun d =>
    match d.ctlAct c 5 with
    | none => d
    | some k =>
      let e := k.entry
      let q := u16 e 20
      if qReserved q ∨ d.qTenant q ≠ k.tenant then d.endCmd k d.pair.next stTenantMismatch []
      else (d.dropRange (d.qRnode q) (u16 e 22) (u64 e 32) (u64 e 40) (· == k.tenant)).endCmd k d.pair.next stOK []) s

/-- GATEWAY_IDLE_FLUSH (R288): a block's buffer whose last store is `IDLE` µs old. -/
def execGatewayIdleFlush (tenant : BitVec 8) (block : BitVec 40) (t : BitVec 64) (s : State) : Host.Outcome State Fault Refusal :=
  onHall (fun d =>
    let d := d.advanceTo t.toNat
    let idle := 3000 * atLeast1 (d.get Fld.RMA_GW_CFG_IDLE)
    (d.gw.filter fun g => g.tenant == tenant.toNat && g.block == block.toNat && decide (g.stored + idle ≤ d.clk.now)).foldl
      Dev.flushGw d) s

/-! ## Composition maps (R289 to R291) -/

/-- Entry `q` of a map bank (R289). -/
def Dev.mapAddr (d : Dev) (bank q : Nat) : Nat := d.get Fld.RMA_MAP_BASE_GRAN * granBytes + bank * 524288 + 8 * q
def Dev.mapWord (d : Dev) (bank q : Nat) : Nat := d.dramWord (d.mapAddr bank q)

/-- The bank of the next map. -/
def Dev.nextBank (d : Dev) : Nat := 1 - d.mapBank

/-- Pairs that either bank names, and pairs with a context. -/
def Dev.mapPairs (d : Dev) : List Nat :=
  let of (b : Nat) : List Nat := d.dram.blocksOf (d.mapAddr b 0) 8 65536
  (distinct (of 0 ++ of 1 ++ d.listedQps)).filter fun q => !(qReserved q)

/-- Whether a pending switch acts now: a scheduled event, which no stroke in ACQUIRE or with EN 0 fires (R290, R318, R438). -/
def Dev.switchDue (d : Dev) : Bool :=
  d.firing && d.flag Fld.RMA_MAP_NEXT_PEND && decide (0 ≤ modDiff 32 d.stroke32 (d.get Fld.RMA_MAP_NEXT_STROKE))

/-- Whether the drain window ends now (R290, R318). -/
def Dev.drainDue (d : Dev) : Bool := d.firing && d.drainTo.any fun e => decide (0 ≤ modDiff 32 d.stroke32 e)

/-- Whether the handover of an admission can take place now: due, and on the loader no command runs on a returned sequence any more
(R345). -/
def Dev.handoverDue (d : Dev) : Bool :=
  d.handing && (!(d.flag Fld.PAIR_ADMIT_LOADER) || !(d.cmds.any fun k => (d.named k.tenant k.entry).any d.pair.returned.contains))

/-- The traffic unit's work at a catch (R299, R306), behind a map switch, the end of a drain window and a handover of the same catch
(R440). -/
def Dev.trafficCatch (d : Dev) : Dev :=
  if !d.clk.owed ∨ d.switchDue ∨ d.drainDue ∨ d.handoverDue then d
  else (({ d with clk := { d.clk with owed := false } } : Dev).catchFlows).takeGates

/-- MAP_SWITCH (R290, R291): the catch of the switch stroke. -/
def Dev.mapSwitch (d : Dev) : Dev :=
  if !d.switchDue then d
  else
    let ver := d.get Fld.RMA_MAP_NEXT_VER
    let stop := (d.get Fld.RMA_MAP_NEXT_STROKE + d.get Fld.RMA_MAP_NEXT_DRAIN) % 2 ^ 32
    let old := d.mapBank
    let pairs := d.mapPairs
    let d := ((d.put Fld.RMA_MAP_CUR_PREV (d.get Fld.RMA_MAP_CUR_VER)).put Fld.RMA_MAP_CUR_VER ver).put Fld.RMA_MAP_CUR_DRAIN_END stop
    let d := d.put Fld.RMA_MAP_NEXT_PEND 0
    let d := { d with mapBank := 1 - old, drainTo := some stop }
    pairs.foldl (fun (d : Dev) q =>
      if d.mapWord old q = d.mapWord (1 - old) q then (if d.qState q = qsReset then d else d.qput q 3 31 16 ver)
      else
        let d := { d with changed := insertNat q d.changed }
        if d.qState q = qsActive then (d.qput q 0 63 61 qsDraining).drainCheck q else d) d

/-- MAP_SWITCH (R290, R291, R440). -/
def execMapSwitch (s : State) : Host.Outcome State Fault Refusal := onHall (fun d => d.mapSwitch.trafficCatch) s

/-- A changed pair after the drain window: reset, and when its new entry is valid loaded from it and enabled (R291). -/
def Dev.rebind (d : Dev) (q : Nat) : Dev :=
  let w := d.mapWord d.mapBank q
  let d := d.resetQp q
  if !(bit w 63) then d
  else
    let w0 := bits w 62 61 * 2 ^ 59 + bits w 55 48 * 2 ^ 48 + bits w 47 32 * 2 ^ 32 + bits w 31 16 * 2 ^ 16
    let d := { d with dram := d.dram.zero (d.qpAddr q) 128 }
    ((d.dramPutN 8 (d.qpAddr q) w0).qput q 3 31 16 (d.get Fld.RMA_MAP_CUR_VER)).enableQp q

/-- DRAIN_WINDOW_END (R290, R291). -/
def Dev.drainWindowEnd (d : Dev) : Dev :=
  if !d.drainDue then d else d.changed.foldl Dev.rebind { d with drainTo := none, changed := [] }

/-- DRAIN_WINDOW_END (R291, R440). -/
def execDrainWindowEnd (s : State) : Host.Outcome State Fault Refusal := onHall (fun d => d.drainWindowEnd.trafficCatch) s

/-- Whether a sender's map version is accepted (R290). -/
def Dev.mapOk (d : Dev) (v : Nat) : Bool :=
  v == d.get Fld.RMA_MAP_CUR_VER || (d.drainTo.isSome && v == d.get Fld.RMA_MAP_CUR_PREV)
    || (d.flag Fld.RMA_MAP_NEXT_PEND && v == d.get Fld.RMA_MAP_NEXT_VER && subMod 32 (d.get Fld.RMA_MAP_NEXT_STROKE) d.stroke32 == 1)

end Sys2Proof.Machine
end

