-- ==== Sys2Proof/Machine/Transport.lean ====
section
/-! DEFINITION. Machine/Transport.lean: spraying, the checks of received packets, placement, windows and remote atomics at the
target, acknowledgement, retransmission, rate control and queue pair operations (R252, R254 to R271, R274 to R281, R434, R435). -/

namespace Sys2Proof.Machine

/-! ## Spraying (R252, R254, R262) -/

/-- Port states (R250). -/
def poDown : Nat := 0
def poTuning : Nat := 1
def poTraining : Nat := 2
def poUp : Nat := 3
def poRelearn : Nat := 4
def poFailed : Nat := 5

def Dev.portState (d : Dev) (p : Nat) : Nat := d.get Fld.FAB_PORT_CTL_STATE p
def Dev.port (d : Dev) (p : Nat) : Port := d.ports.getD p Port.reset
def Dev.setPort (d : Dev) (p : Nat) (x : Port) : Dev := { d with ports := d.ports.set p x }

/-- The virtual lane of a packet of a queue pair of class `lc` (R252, R256, R325): what the pairing pairs carry is on VL3 (log entry
197). -/
def laneIn (p : Packet) (qp : Nat) (lc : Bool) : Nat :=
  if !(kept p) then 0 else if 8 ≤ qp ∧ qp ≤ 11 then 3 else if p.opc.toNat = pkCtrl then 0 else if lc then 1 else 2

/-- The virtual lane of a packet to be sent. -/
def laneOf (t : TxPkt) : Nat := laneIn t.pkt t.qp t.lc

/-- Bytes waiting at a port for a lane. -/
def Port.depth (x : Port) (lane : Nat) : Nat := ((x.egress.filter (·.1 == lane)).map fun e => pktWire e.2).foldl (· + ·) 0

/-- Whether a port takes packets of a lane (R262). -/
def Dev.portTakes (d : Dev) (lane p : Nat) : Bool :=
  d.portState p == poUp && decide ((d.port p).depth lane < d.get Fld.FAB_XPORT_CFG_SKIP * 1024)

/-- The next port in round-robin order (R262). -/
def Dev.nextPort (d : Dev) (lane : Nat) : Option Nat :=
  ((List.range 24).map fun k => (d.lastPort + 1 + k) % 24).find? (d.portTakes lane)

/-- Credits of a packet, in 64-byte units (R251). -/
def creditsOf (p : Packet) : Nat := ceilDiv (pktWire p) 64

/-- The packet that a port sends next: strictly VL0, VL3, VL1, VL2, each with credit for its whole length (R252). -/
def Port.next (x : Port) : Option (Nat × Packet) :=
  [0, 3, 1, 2].findSome? fun l =>
    match x.egress.find? (·.1 == l) with
    | some e => if creditsOf e.2 ≤ x.credits.getD l 0 then some e else none
    | none => none

/-- Everything that a port's credits admit sent. -/
def Dev.drainPort (p : Nat) : Nat → Dev → Dev
  | 0, d => d
  | n + 1, d =>
    let x := d.port p
    match x.next with
    | none => d
    | some e =>
      let x := { x with egress := x.egress.erase e, credits := x.credits.set e.1 (x.credits.getD e.1 0 - creditsOf e.2) }
      Dev.drainPort p n ((d.setPort p x).emit (.packet p e.2))

/-- A packet as it is sent (R254, R262, R290, R336): path spreading value, epoch, map version, time stamp and both CRCs. -/
def Dev.stamp (d : Dev) (t : TxPkt) (entropy : Nat) : Packet :=
  let p := t.pkt
  let ep := if d.serves p.srcNode.toNat then d.get Fld.PAIR_STAT_SERVED_EPOCH else d.epoch
  let p := { p with
    flags := if t.retx then p.flags ||| BitVec.ofNat 6 pfRetx else p.flags, entropy := BitVec.ofNat 16 entropy, epoch := BitVec.ofNat 32 ep,
    mapVer := BitVec.ofNat 16 (d.get Fld.RMA_MAP_CUR_VER), tstamp := BitVec.ofNat 32 d.clk.cnt }
  let p := { p with hcrc := BitVec.ofNat 32 (pktHeadCrc p) }
  { p with icrc := BitVec.ofNat 32 (pktBodyCrc p) }

/-- A packet sent on port `p`; one that comes straight to spraying takes its number here (R252, R261). -/
def Dev.sprayTo (d : Dev) (t : TxPkt) (p : Nat) : Dev :=
  let x := d.port p
  let d := { d with spray := d.spray.erase t, lastPort := p }
  let d := if t.direct then d.useCtx t.qp else d
  let (q, t) := if t.direct && kept t.pkt then (d.qpt t.qp t.node).number t else (d.qpt t.qp t.node, t)
  let k := d.stamp t x.entropy
  let d := d.setPort p { x with entropy := (x.entropy + 1) % 65536, egress := x.egress ++ [(laneOf t, k)] }
  let d := if t.retx then d.bump Fld.FAB_STAT1_RETX else d
  let d := if kept k then
      d.setQpt { q with out := q.out.map fun (o : OutPkt) => if o.pkt.psn = k.psn then { o with pkt := k, sent := true, sentAt := d.ns } else o }
    else d
  d.drainPort p (x.egress.length + 1)

/-- Whether a packet may be sprayed (R261, R343): a spare's only to its loader, and one that comes straight to spraying only while its
pair may have a further packet unacknowledged. -/
def Dev.sprayable (d : Dev) (t : TxPkt) : Bool :=
  d.takesPart t.qp t.node && (!(t.direct && kept t.pkt && !t.retx) || decide ((d.qpt t.qp t.node).out.length < unackedMax))

/-- PACKET_SPRAY (R252, R262, R340): the first waiting packet for which some port has room. -/
def Dev.sprayOne (d : Dev) : Dev :=
  if d.epoch = 0 then d
  else match (d.spray.filter d.sprayable).findSome? (fun t => (d.nextPort (laneOf t)).map fun p => (t, p)) with
    | some (t, p) => d.sprayTo t p
    | none => d

/-- PACKET_SPRAY (R262). -/
def execPacketSpray (s : State) : Host.Outcome State Fault Refusal := onDev Dev.sprayOne s

/-! ## Answers (R265, R268, R336) -/

/-- A refused packet answered (R265); an ACK or NAK is dropped instead (R435). -/
def Dev.nak (d : Dev) (p : Packet) (st : Nat) : Dev :=
  if !(kept p) then d
  else d.answerPkt p.dstQp.toNat p.srcNode.toNat p.srcQp.toNat p.dstNode.toNat pkNak p.psn.toNat st 0

/-- PSNs of a receive window (R265). -/
def rxWindow : Nat := 1024

/-- `RPSN` moved past every PSN received. -/
def slideGot : Nat → Nat → List Nat → Nat × List Nat
  | 0, r, got => (r, got)
  | n + 1, r, got => if got.contains r then slideGot n ((r + 1) % 2 ^ 32) (got.filter (· != r)) else (r, got)

/-- A PSN counted as received; what is kept of older PSNs covers a window before `RPSN`. -/
def QpT.receive (t : QpT) (psn : Nat) : QpT :=
  let (r, got) := slideGot (t.got.length + 1) t.rpsn (psn :: t.got)
  let near (x : Nat) : Bool := decide (modDiff 32 r x ≤ rxWindow)
  { t with rpsn := r, got := got, refused := t.refused.filter (fun x => near x.1), answers := t.answers.filter (fun x => near x.1) }

/-- A packet placed (R265): acknowledged after `ACK_COAL` packets, at once for `ACKNOW`, otherwise by ACK_TIMER. -/
def Dev.placed (d : Dev) (p : Packet) (mark : Bool) : Dev :=
  let t := d.qpt p.dstQp.toNat p.srcNode.toNat
  let t := { (t.receive p.psn.toNat) with fresh := t.fresh + 1, ce := t.ce + (if mark || pktHas p pfCE then 1 else 0),
                                          firstAt := if t.fresh = 0 then d.ns else t.firstAt }
  let d := d.setQpt t
  if pktHas p pfAckNow ∨ atLeast1 (d.get Fld.FAB_XPORT_CFG_ACK_COAL) ≤ t.fresh then d.sendAck t.qp t.node else d

/-- A packet refused after the pair was found (R265): unless it is refused for CRC_FAULT, it counts as received, with its status, if it
is no duplicate and lies in the window. -/
def Dev.refuse (d : Dev) (p : Packet) (st : Nat) : Dev :=
  let d := d.nak p st
  if !(kept p) ∨ st = stCrcFault then d
  else
    let t := d.qpt p.dstQp.toNat p.srcNode.toNat
    let psn := p.psn.toNat
    if t.got.contains psn ∨ ¬ subMod 32 psn t.rpsn < rxWindow then d
    else d.setQpt { (t.receive psn) with refused := (t.refused ++ [(psn, st)]) }

/-! ## The checks of R264 -/

/-- Whether an opcode is one of R256. -/
def knownOpc (o : Nat) : Bool := (decide (1 ≤ o) && decide (o ≤ 8)) || o == pkCtrl || o == pkAck || o == pkNak

/-- What the checks of R264 before the PSN come to: a packet to be looked at, or the end of it. -/
inductive Checked where
  | done (d : Dev)
  | pass (d : Dev)

/-- What follows on a packet to be looked at. -/
def Checked.then' : Checked → (Dev → Dev) → Dev
  | .done d, _ => d
  | .pass d, go => go d

/-- The checks of R264 up to `TENANT`. -/
def Dev.checkPkt (d : Dev) (p : Packet) : Checked :=
  let q := p.dstQp.toNat
  let n := p.srcNode.toNat
  let ep := p.epoch.toNat
  if p.hcrc.toNat ≠ pktHeadCrc p then .done (d.bump Fld.FAB_STAT0_HCRC)
  else if !(knownOpc p.opc.toNat) then .done (d.bump Fld.FAB_STAT0_BADOPC)
  else if p.dstNode.toNat ≠ d.node ∧ !(d.serves p.dstNode.toNat) then .done (d.bump Fld.FAB_STAT0_MISROUTE)
  else if p.icrc.toNat ≠ pktBodyCrc p ∨ p.payload.length ≠ p.len.toNat then .done (d.nak p stCrcFault)
  else if !(d.peerValid n) ∨ d.peerEpoch n < ep then .done (d.bump Fld.FAB_STAT0_EPOCH_AHEAD)
  else
    let d := d.useCtx q
    let mine := (d.qState q == qsActive || d.qState q == qsDraining) && (decide (q < 16) || (d.qRnode q == n && d.qRqp q == p.srcQp.toNat))
      && d.takesPart q n
    if ep < d.peerEpoch n then .done (if mine then d.refuse p stStaleEpoch else d.nak p stStaleEpoch)
    else if !mine then .done (d.bump Fld.FAB_STAT0_NOQP)
    else if !(qReserved q) ∧ p.tenant.toNat ≠ d.qTenant q then .done (d.refuse p stTenantMismatch)
    else .pass d

/-- A duplicate answered again (R265). -/
def Dev.duplicate (d : Dev) (p : Packet) : Dev :=
  let q := p.dstQp.toNat
  let n := p.srcNode.toNat
  let psn := p.psn.toNat
  let t := { (d.qpt q n) with ident := p.dstNode.toNat }
  let d := d.setQpt t
  match t.refused.find? (·.1 == psn) with
  | some r => d.nak p r.2
  | none =>
    let d := d.sendAck q n
    match t.answers.find? (·.1 == psn) with
    | none => d
    | some a =>
      if d.txq.any (fun x => decide (x.pkt = a.2)) || d.spray.any (fun x => decide (x.pkt = a.2)) then d
      else d.enqueue ⟨a.2, q, n, d.qClass q == 1, d.flowOf q, d.clk.cnt, true⟩

/-- Whether the placement queue marks a packet that arrives: it holds more than `FAB_RX_MARK.KIB` KiB (R270). -/
def Dev.rxMark (d : Dev) (a : Arrival) : Bool := decide (d.get Fld.FAB_RX_MARK_KIB * 1024 < a.depth.toNat)

/-- The ingress meter and the placement of a packet (R270, R303): a red packet may be dropped without answer. Which packets
this is asked of is log entry 202. -/
def Dev.metered (d : Dev) (a : Arrival) (p : Packet) (go : Dev → Bool → Dev) : Dev :=
  let ce := d.rxMark a
  if qReserved p.dstQp.toNat then go d ce
  else
    let (d, place, mark) := d.meter (d.qTenant p.dstQp.toNat) (pktWire p)
    if place then go d (mark || ce) else d

/-- The common path of a received packet other than ACK and NAK: R264's checks, the PSN, the map version, then `go`. -/
def Dev.receivePkt (d : Dev) (p : Packet) (go : Dev → Dev) : Dev :=
  (d.checkPkt p).then' fun d =>
    let t := d.qpt p.dstQp.toNat p.srcNode.toNat
    let x := subMod 32 p.psn.toNat t.rpsn
    if t.got.contains p.psn.toNat ∨ bit x 31 then d.duplicate p
    else if ¬ x < rxWindow then d
    else
      let d := d.setQpt { t with ident := p.dstNode.toNat }
      if !(d.mapOk p.mapVer.toNat) then (d.bump Fld.RMA_STAT1_MAP_STALE).refuse p stMapStale else go d

/-! ## Placement (R264, R277 to R279) -/

/-- The enabled bytes of a written payload with their offsets (R277). -/
def enabledBytes (p : Packet) : List (Nat × Byte) :=
  let aux := p.aux.toNat
  let last := (p.payload.length - 1) / 8
  ((List.range p.payload.length).filter fun k =>
    (decide (8 ≤ k) || bit aux (k % 8)) && (decide (k / 8 ≠ last) || bit aux (8 + k % 8))).map fun k => (k, p.payload.getD k 0)

/-- What a placement comes to: done, refused with a status, or not possible now (the packet is dropped without answer). -/
inductive Placed where
  | ok (d : Dev)
  | bad (d : Dev) (st : Nat)
  | later

/-- On whose behalf a packet's bytes reach the hall (R113). -/
def ownerOf (p : Packet) : HallOwner := .packet p.srcNode p.dstQp p.psn

/-- Runs of bytes written at `base` in a space, attributed to a tenant or to the system, in the hall by master `m` for `o` (R109, R113,
R117, R264, R272). -/
def Dev.placeRuns (m : Nat) (o : HallOwner) (att : Option Nat) (space base : Nat) : List (Nat × List Byte) → Dev → Placed
  | [], d => .ok d
  | (off, bs) :: rest, d =>
    if space = 0 then
      (if !(d.hallOk att (base + off) bs.length) then .bad d.deny stTenantMismatch
       else match d.hallStoreFor o m (base + off) bs with
         | (d, true) => .bad d stCrcFault
         | (d, false) => Dev.placeRuns m o att space base rest d)
    else if space = 2 then Dev.placeRuns m o att space base rest (d.dramPut (base + off) bs)
    else match att with
      | none => .bad d stAborted
      | some t => match d.vaWrite none t (base + off) bs with
        | .ok _ d => Dev.placeRuns m o att space base rest d
        | .abort => .bad d stAborted
        | .fault _ => .bad d stPageFault
        | .wait _ => .later
        | .status st => .bad d st

/-- What follows a placement: a packet that lost a hall write is refused with WRITE_LOST, its other bytes placed (R113, R279); any other
refused placement leaves nothing placed but counts and records what it counted. -/
def Dev.settlePlaced (d : Dev) (p : Packet) (mark : Bool) (r : Placed) : Dev :=
  match r with
  | .ok d => if d.hallLost.any (fun x => decide (x.1 = ownerOf p)) then (d.forgetLost (ownerOf p)).refuse p stWriteLost else d.placed p mark
  | .bad e st => ({ d with regs := e.regs, log := e.log } : Dev).refuse p st
  | .later => d

/-- A WRITE into a pair's receive region (R264), by master 2 (R279). -/
def Dev.placeQp (d : Dev) (a : Arrival) (p : Packet) : Dev :=
  let q := p.dstQp.toNat
  let space := d.qget q 2 63 62
  if d.qget q 3 63 32 < p.raddr.toNat + p.len.toNat then d.refuse p stBoundsFault
  else if space = 3 ∨ (space = 2 ∧ !(qReserved q)) then d.refuse p stAborted
  else
    let att := if qReserved q then none else some (d.qTenant q)
    d.metered a p fun d mark =>
      d.settlePlaced p mark (Dev.placeRuns mRx (ownerOf p) att space (d.qget q 2 51 0 + p.raddr.toNat) (byteRuns (enabledBytes p)) d)

/-! ## Windows at the target (R274, R275) -/

/-- Which right an opcode needs (R274). -/
def WinE.grants (e : WinE) (opc : Nat) : Bool :=
  if opc = pkReadReq then e.r else if opc = pkWrite ∨ opc = pkMcast then e.w else e.a

/-- The extent of an access (R277). -/
def extentOf (p : Packet) : Nat :=
  let o := p.opc.toNat
  if o = pkReadReq then p.aux.toNat else if o = pkAtomic then 8 else p.len.toNat

/-- Whether the AUX of a READ_REQ or an ATOMIC is one that R277 lists. -/
def auxOk (p : Packet) : Bool :=
  let n := p.aux.toNat
  if p.opc.toNat = pkReadReq then decide (8 ≤ n) && decide (n ≤ 1048576) && n % 8 == 0
  else if p.opc.toNat = pkAtomic then n % 4 != 3 else true

/-- Steps 2 to 8 of R274: the status of the first that fails, with its counter; a form that R277 does not list is refused after them. -/
def Dev.winCheck (d : Dev) (p : Packet) : Dev × Nat :=
  let w := p.window.toNat
  let e := d.win w
  let o := p.opc.toNat
  if d.winCount ≤ w ∨ e.key ≠ p.key.toNat ∨ (e.peer ≠ 0xFFFF ∧ e.peer ≠ p.srcNode.toNat) then (d.bump Fld.RMA_STAT0_KEY, stKeyFault)
  else if e.state ≠ wsOpen then (d.bump Fld.RMA_STAT0_REVOKED, stRevoked)
  else if e.tenant ≠ p.tenant.toNat then (d, stTenantMismatch)
  else if e.len < p.raddr.toNat + extentOf p then (d.bump Fld.RMA_STAT0_BOUNDS, stBoundsFault)
  else if !(e.grants o) then (d.bump Fld.RMA_STAT0_RIGHTS, stRightsFault)
  else if (o = pkAtomic ∨ o = pkReduce) ∧ (e.base + p.raddr.toNat) % 8 ≠ 0 then (d, stAborted)
  else if !(auxOk p) then (d, stAborted)
  else (d, stOK)

/-- The in-flight count of a window moved (R275). -/
def Dev.fly (d : Dev) (w : Nat) : Dev := { d with flights := sput 0 w (sget 0 w d.flights + 1) d.flights }
def Dev.land (d : Dev) (w : Nat) : Dev := { d with flights := sput 0 w (sget 0 w d.flights - 1) d.flights }

/-- A window access: checked, metered, and in flight on its window until `go` has done it (R274, R275, R303). -/
def Dev.winAccess (d : Dev) (a : Arrival) (p : Packet) (go : WinE → Dev → Bool → Dev) : Dev :=
  let w := p.window.toNat
  match d.winCheck p with
  | (d, st) =>
    if st ≠ stOK then d.refuse p st else d.metered a p fun d mark => (go (d.win w) (d.fly w) mark).land w

/-- A WRITE or MCAST_WRITE through a window (R277), by master 1 (R279). -/
def Dev.winWrite (d : Dev) (a : Arrival) (p : Packet) : Dev :=
  d.winAccess a p fun e d mark =>
    d.settlePlaced p mark (Dev.placeRuns mRma (ownerOf p) (some e.tenant) e.space (e.base + p.raddr.toNat) (byteRuns (enabledBytes p)) d)

/-- A response packet of the pair that a request came in on (R269, R277), under the identity that was addressed (R336). -/
def Dev.respPkt (d : Dev) (p : Packet) (opc raddr k n : Nat) (body : List Byte) : Packet :=
  { (d.form p.dstQp.toNat p.srcNode.toNat pktBlank) with
    opc := BitVec.ofNat 6 opc, flags := BitVec.ofNat 6 (if k + 1 = n then pfLast else 0), srcNode := p.dstNode, raddr := BitVec.ofNat 64 raddr,
    opId := p.opId, pkt := BitVec.ofNat 18 k, pktsM1 := BitVec.ofNat 18 (n - 1), len := BitVec.ofNat 13 body.length, payload := body }

/-- A response sent; an atomic's or reduction's is kept for duplicates of its request (R265). -/
def Dev.respond (d : Dev) (p r : Packet) (keep : Bool) : Dev :=
  let q := p.dstQp.toNat
  let n := p.srcNode.toNat
  let t := d.qpt q n
  let d := if keep then d.setQpt { t with answers := t.answers ++ [(p.psn.toNat, r)] } else d
  d.enqueue ⟨r, q, n, d.qClass q == 1, d.flowOf q, d.clk.cnt, false⟩

/-- The bytes that a window read finds (R117, R272, R277). -/
def Dev.winRead (d : Dev) (e : WinE) (off n : Nat) : Dev × Res (List Byte) :=
  let a := e.base + off
  if e.space = 0 then
    (if !(d.hallOk (some e.tenant) a n) then (d.deny, .status stTenantMismatch)
     else match d.hallSees mRma a n with
       | (d, true) => (d, .status stCrcFault)
       | (d, false) => (d, .ok (d.hall.readBytes a n) d))
  else if e.space = 2 then (d, .ok (d.dram.readBytes a n) d)
  else (d, d.vaRead none e.tenant a n)

/-- A READ_REQ executed (R277): its data go back in packets of 4,096 bytes. -/
def Dev.winReadReq (d : Dev) (a : Arrival) (p : Packet) : Dev :=
  let n := p.aux.toNat
  d.winAccess a p fun e d mark =>
    match d.winRead e p.raddr.toNat n with
    | (_, .ok bs d) =>
      let k := ceilDiv n 4096
      let d := (List.range k).foldl (fun (d : Dev) j => d.respond p (d.respPkt p pkReadResp (4096 * j) j k (slice bs (4096 * j) 4096)) false) d
      d.placed p mark
    | (d, .abort) => d.refuse p stAborted
    | (d, .fault _) => d.refuse p stPageFault
    | (d, .wait _) => d
    | (d, .status st) => d.refuse p st

/-- The word that a fabric atomic leaves (R115, R280). -/
def fabricWord (sub old operand compare : Nat) : Nat :=
  if sub = 0 then (old + operand) % 2 ^ 64 else if sub = 1 then operand else if old = compare then operand else old

/-- An ATOMIC executed in one grant of master 1 (R117, R280). -/
def Dev.winAtomic (d : Dev) (w : Arrival) (p : Packet) : Dev :=
  d.winAccess w p fun e d mark =>
    let a := e.base + p.raddr.toNat
    if !(d.hallOk (some e.tenant) a 8) then d.deny.refuse p stTenantMismatch
    else if !(d.badWords a 8).isEmpty then (d.meetBad mRma (d.badWords a 8)).refuse p stCrcFault
    else
      let old := d.hallWord a
      let d := d.hallPut a (toBytes 8 (fabricWord (p.aux.toNat % 4) old (ofBytes (p.payload.take 8)) (ofBytes (slice p.payload 8 8))))
      (d.respond p (d.respPkt p pkAtomicResp 0 0 1 (toBytes 8 old)) true).placed p mark

/-- One word of a reduction (R281). -/
def reduceWord (sub old v : Nat) : Nat :=
  let f32 (op : Nat → Nat → Nat) : Nat := op (old % 2 ^ 32) (v % 2 ^ 32) + op (old / 2 ^ 32) (v / 2 ^ 32) * 2 ^ 32
  if sub = 0 then f32 add32
  else if sub = 1 then
    ((List.range 4).map fun k => encBf16 (fsum [decBf16 (old >>> (16 * k)), decBf16 (v >>> (16 * k))]) * 2 ^ (16 * k)).foldl (· + ·) 0
  else if sub = 2 then (old + v) % 2 ^ 64
  else f32 max32

/-- A REDUCE executed word by word (R117, R281); its response carries no payload. -/
def Dev.winReduce (d : Dev) (w : Arrival) (p : Packet) : Dev :=
  d.winAccess w p fun e d mark =>
    let a := e.base + p.raddr.toNat
    if !(d.hallOk (some e.tenant) a p.len.toNat) then d.deny.refuse p stTenantMismatch
    else if !(d.badWords a p.len.toNat).isEmpty then (d.meetBad mRma (d.badWords a p.len.toNat)).refuse p stCrcFault
    else
      let d := (List.range (p.len.toNat / 8)).foldl (fun (d : Dev) k =>
        d.hallPut (a + 8 * k) (toBytes 8 (reduceWord (p.aux.toNat % 4) (d.hallWord (a + 8 * k)) (ofBytes (slice p.payload (8 * k) 8))))) d
      (d.respond p (d.respPkt p pkAtomicResp 0 p.pkt.toNat (p.pktsM1.toNat + 1) []) true).placed p mark

/-! ## Rows of received requests -/

/-- A packet comes in on a port: its buffer's credits are to be returned, and the receiver is aligned again (R249, R251; log entry 200). -/
def Dev.arrive (d : Dev) (a : Arrival) (p : Packet) : Dev :=
  let n := a.port.toNat
  let x := d.port n
  let lane := laneIn p p.dstQp.toNat (d.qClass p.dstQp.toNat == 1)
  if n < 24 then d.setPort n { x with freed := x.freed.set lane (x.freed.getD lane 0 + creditsOf p), resync := false } else d

/-- A received packet of the row's opcode; one of a reserved opcode belongs to the row of WRITE (R256). -/
def packetRow (opc : Nat) (a : Arrival) (p : Packet) (f : Dev → Dev) (s : State) : Host.Outcome State Fault Refusal :=
  onHall (fun d => if p.opc.toNat = opc ∨ (opc = pkWrite ∧ !(knownOpc p.opc.toNat)) then f (d.arrive a p) else d) s

/-- WRITE (R264, R274, R277). -/
def execWrite (a : Arrival) (p : Packet) (s : State) : Host.Outcome State Fault Refusal :=
  packetRow pkWrite a p (fun d => d.receivePkt p fun d => if pktHas p pfWin then d.winWrite a p else d.placeQp a p) s

/-- MCAST_WRITE (R277, R283, R435). -/
def execMcastWrite (a : Arrival) (p : Packet) (s : State) : Host.Outcome State Fault Refusal :=
  packetRow pkMcast a p (fun d => d.receivePkt p fun d => if pktHas p pfWin then d.winWrite a p else d.refuse p stAborted) s

/-- READ_REQ (R277, R435). -/
def execReadReq (a : Arrival) (p : Packet) (s : State) : Host.Outcome State Fault Refusal :=
  packetRow pkReadReq a p (fun d => d.receivePkt p fun d => if pktHas p pfWin then d.winReadReq a p else d.refuse p stAborted) s

/-- ATOMIC (R280, R435). -/
def execAtomic (a : Arrival) (p : Packet) (s : State) : Host.Outcome State Fault Refusal :=
  packetRow pkAtomic a p (fun d => d.receivePkt p fun d => if pktHas p pfWin then d.winAtomic a p else d.refuse p stAborted) s

/-- REDUCE (R281, R435). -/
def execReduce (a : Arrival) (p : Packet) (s : State) : Host.Outcome State Fault Refusal :=
  packetRow pkReduce a p (fun d => d.receivePkt p fun d => if pktHas p pfWin then d.winReduce a p else d.refuse p stAborted) s

/-- INVAL (R286, R287, R303, R435): never placed and so not metered; the lines are dropped and fills in flight marked stale before the
packet is acknowledged. -/
def execInval (a : Arrival) (p : Packet) (s : State) : Host.Outcome State Fault Refusal :=
  packetRow pkInval a p (fun d => d.receivePkt p fun d =>
    let t := p.tenant.toNat
    let mine (x : Nat) : Bool := qReserved p.dstQp.toNat || x == t
    let (lo, n) := if p.aux.toNat = wholeWindow then (0, 2 ^ 64) else (p.raddr.toNat, p.aux.toNat)
    ((d.bump Fld.RMA_STAT1_INVAL).dropRange p.srcNode.toNat p.window.toNat lo n mine).placed p false) s

/-! ## Responses (R269, R435) -/

/-- The outstanding operation that a response names (R435). -/
def Dev.opOfResp (d : Dev) (p : Packet) : Option Op :=
  d.ops.find? fun o => o.id == p.opId.toNat && o.qp == p.dstQp.toNat && o.node == p.srcNode.toNat
    && (if p.opc.toNat = pkReadResp then decide (o.kind = .read) else decide (o.kind = .atomic) || decide (o.kind = .reduce))

/-- An operation with its packets acknowledged and its responses received is complete (R269). -/
def Dev.checkOp (d : Dev) (id : Nat) : Dev :=
  match d.ops.find? (·.id == id) with
  | none => d
  | some o => if o.total ≤ o.acked ∧ o.respAll ≤ o.resp then d.opEnd o stOK else d

def Dev.setOp (d : Dev) (o : Op) : Dev := { d with ops := d.ops.map fun p => if p.id = o.id then o else p }

/-- Lines that a read cache keeps for a tenant: 4-way sets by an index that is left open (log entry 25), the least recently used going first (R286). -/
def Dev.keepLine (d : Dev) (l : Line) : Dev :=
  let sets := d.get Fld.RMA_RC_LINES l.tenant / 4
  if sets = 0 then { d with lines := d.lines ++ [{ l with once := true }] }
  else
    let index (m : Line) : Nat := Config.cacheSet m.node m.window (m.offset / 256) % sets
    let same (m : Line) : Bool := m.tenant == l.tenant && m.node == l.node && m.window == l.window && m.offset == l.offset && !m.once
    let lines := d.lines.filter fun m => !(same m)
    let peers := lines.filter fun m => m.tenant == l.tenant && !m.once && index m == index l
    let lines := if peers.length < 4 then lines
      else match (sortBy (fun (a b : Line) => decide (a.used < b.used)) peers).head? with
        | some v => lines.filter fun m => !(decide (m = v))
        | none => lines
    { d with lines := lines ++ [l] }

/-- The stores made while a fill was in flight laid over its bytes (R287). -/
def Dev.patched (d : Dev) (o : Op) (off : Nat) (bs : List Byte) : List Byte :=
  (d.patches.filter (·.1 == o.id)).foldl (fun bs x => overlay off ((List.range x.2.2.length).map fun k => (x.2.1 + k, x.2.2.getD k 0)) bs) bs

/-- A fill's data (R286 to R288): kept by cacheable entries unless stale, delivered once otherwise. -/
def Dev.fillLines (d : Dev) (o : Op) (p : Packet) : Dev :=
  let i := d.imp o.raddr
  (List.range (p.payload.length / 256)).foldl (fun (d : Dev) k =>
    let once := i.nc || o.stale || !i.valid
    let off := o.laddr + p.raddr.toNat + 256 * k
    let l : Line := ⟨i.tenant, o.node, i.window, off, o.raddr, d.clk.now, o.cmd, once, d.patched o off (slice p.payload (256 * k) 256)⟩
    if once then { d with lines := d.lines ++ [l] } else d.keepLine l) d

/-- A READ_RESP that passed the checks: delivered to its operation's destination (R277, R435). -/
def Dev.deliverResp (d : Dev) (o : Op) (p : Packet) (mark : Bool) : Dev :=
  let took (d : Dev) : Dev := ((d.setOp { o with resp := o.resp + 1 }).placed p mark).checkOp o.id
  let lost (d : Dev) (st : Nat) : Dev := (d.placed p mark).opEnd o st
  let a := o.laddr + p.raddr.toNat
  let tenant := d.qTenant o.qp
  if o.space = spFill then took (d.fillLines o p)
  else if o.space = spCellar then took d
  else if o.space = spVa then
    (match d.vaWrite none tenant a p.payload with
     | .ok _ d => took d
     | .wait _ => d
     | .abort => lost d stAborted
     | .status st => lost d st
     | .fault kd =>
       match o.cmd.bind fun c => d.cmd c.1 c.2 with
       | none => lost d stPageFault
       | some k => match d.raiseFault k kd with
         | (true, d) => (d.placed p mark).opEnd o stPageFault
         | (false, d) => d)
  else if !(d.hallOk (some tenant) a p.payload.length) then lost d.deny stTenantMismatch
  else
    let hit := d.hallLost.any fun x => decide (x.1 = ownerOf p)
    match d.hallStoreFor (ownerOf p) mRx a p.payload with
    | (d, true) => lost d stCrcFault
    | (d, false) => if hit then lost (d.forgetLost (ownerOf p)) stWriteLost else took d

/-- READ_RESP (R269, R277, R435). -/
def execReadResp (a : Arrival) (p : Packet) (s : State) : Host.Outcome State Fault Refusal :=
  packetRow pkReadResp a p (fun d => d.receivePkt p fun d =>
    match d.opOfResp p with
    | none => d.bump Fld.FAB_STAT0_NOQP
    | some o => d.metered a p fun d mark => d.deliverResp o p mark) s

/-- ATOMIC_RESP (R269, R280, R281, R435). -/
def execAtomicResp (a : Arrival) (p : Packet) (s : State) : Host.Outcome State Fault Refusal :=
  packetRow pkAtomicResp a p (fun d => d.receivePkt p fun d =>
    match d.opOfResp p with
    | none => d.bump Fld.FAB_STAT0_NOQP
    | some o => d.metered a p fun d mark =>
      let old := ofBytes (p.payload.take 8)
      let d := d.setOp { o with resp := o.resp + 1 }
      let d := match o.cmd.bind fun c => d.cmd c.1 c.2 with
        | some k => if opOf k.entry = opRmOp ∧ decide (o.kind = OpKind.atomic) then d.setCmd { k with res := halves old } else d
        | none => d
      (d.placed p mark).checkOp o.id) s

/-! ## ACK and NAK (R265, R268) -/

/-- Packets of a pair taken off the outstanding ones, and their copies that wait to be sent again. -/
def Dev.unqueue (d : Dev) (q node : Nat) (gone : Nat → Bool) : Dev :=
  let mine (t : TxPkt) : Bool := t.qp == q && t.node == node && t.retx && kept t.pkt && gone t.pkt.psn.toNat
  Dev.fixFlows { d with txq := d.txq.filter (fun t => !(mine t)), spray := d.spray.filter (fun t => !(mine t)) }

/-- What an ACK acknowledges: PSNs below its own, and those of its bitmap (R265). -/
def ackCovers (p : Packet) (psn : Nat) : Bool :=
  let x := subMod 32 psn p.psn.toNat
  bit x 31 || (decide (1 ≤ x) && decide (x ≤ 32) && bit p.aux.toNat (x - 1))

/-- An ACK acted on (R265, R266, R269, R270). -/
def Dev.onAck (d : Dev) (p : Packet) : Dev :=
  let q := p.dstQp.toNat
  let n := p.srcNode.toNat
  let t := d.qpt q n
  let hit := t.out.filter fun o => o.sent && ackCovers p o.pkt.psn.toNat
  if hit.isEmpty then d
  else
    let t := { t with out := t.out.filter (fun o => !(o.sent && ackCovers p o.pkt.psn.toNat)), tmo := 0, acked := t.acked + hit.length,
                      marked := t.marked + p.stat.toNat }
    let d := (d.setQpt t).unqueue q n fun x => hit.any fun o => o.pkt.psn.toNat == x
    (hit.filter fun o => o.live && isReqPkt o.pkt).foldl (fun (d : Dev) (o : OutPkt) =>
      match d.ops.find? (·.id == o.pkt.opId.toNat) with
      | some x => (d.setOp { x with acked := x.acked + 1 }).checkOp x.id
      | none => d) d

/-- ACK (R264, R265, R269, R435). -/
def execAck (a : Arrival) (p : Packet) (s : State) : Host.Outcome State Fault Refusal :=
  packetRow pkAck a p (fun d => (d.checkPkt p).then' fun d =>
    if d.mapOk p.mapVer.toNat then d.onAck p else d.bump Fld.RMA_STAT1_MAP_STALE) s

/-- The device fenced (R341): every ring stops, held token groups are dropped, mirroring ends. -/
def Dev.fence (d : Dev) : Dev :=
  if d.pairState = psFenced then d
  else
    let d := (d.liveRings.filter fun r => d.ringState r == rsRun || d.ringState r == rsWait).foldl Dev.ringStop d
    let d := { d with groups := [], pair := { d.pair with unacked := [], unsent := 0, waitAt := [], ahead := [], taking := false } }
    (d.logEv evFenced mPair d.epoch).setPairState psFenced

/-- A packet sent again (R266, R268). -/
def Dev.resend (d : Dev) (q node : Nat) (o : OutPkt) : Dev :=
  let t := d.qpt q node
  let d := d.setQpt { t with out := t.out.map fun (x : OutPkt) => if x.pkt.psn = o.pkt.psn then { x with sent := false } else x }
  d.enqueue ⟨o.pkt, q, node, d.qClass q == 1, d.flowOf q, d.clk.cnt, true⟩

/-- `CRC_FAULT` answers that end an operation (R268). -/
def crcLimit : Nat := 4

/-- The status that a NAK carries; a code that is none of R14's failures is taken as ABORTED (R15; log entry 198). -/
def nakStatus (p : Packet) : Nat := if p.stat.toNat = stOK ∨ 0x10 < p.stat.toNat then stAborted else p.stat.toNat

/-- A NAK acted on (R268, R341). -/
def Dev.onNak (d : Dev) (p : Packet) : Dev :=
  let q := p.dstQp.toNat
  let n := p.srcNode.toNat
  let t := d.qpt q n
  let st := nakStatus p
  match t.out.find? (fun o => o.sent && o.pkt.psn == p.psn) with
  | none => if q < 16 ∧ st = stStaleEpoch ∧ p.dstNode.toNat = d.node then d.fence else d
  | some o =>
    let op := if o.live && isReqPkt o.pkt then d.ops.find? (·.id == o.pkt.opId.toNat) else none
    if st = stCrcFault then
      let o := { o with crc := o.crc + 1 }
      let d := d.setQpt { t with out := t.out.map fun (x : OutPkt) => if x.pkt.psn = o.pkt.psn then o else x }
      match op with
      | some x => if crcLimit ≤ o.crc then d.opEnd x stCrcFault else d.resend q n o
      | none => d.resend q n o
    else
      let d := (d.setQpt { t with out := t.out.filter fun (x : OutPkt) => x.pkt.psn != o.pkt.psn }).unqueue q n (· == o.pkt.psn.toNat)
      let d := match op with
        | some x => d.opEnd x st
        | none => d
      if st = stStaleEpoch ∧ o.pkt.epoch.toNat = d.epoch ∧ o.pkt.srcNode.toNat = d.node then d.fence else d

/-- NAK (R264, R268, R341, R435). -/
def execNak (a : Arrival) (p : Packet) (s : State) : Host.Outcome State Fault Refusal :=
  packetRow pkNak a p (fun d => (d.checkPkt p).then' fun d =>
    if d.mapOk p.mapVer.toNat then d.onNak p else d.bump Fld.RMA_STAT1_MAP_STALE) s

/-- ACK_TIMER (R265): 1 µs after the first unacknowledged packet. -/
def execAckTimer (qp node : BitVec 16) (t : BitVec 64) (s : State) : Host.Outcome State Fault Refusal :=
  onDev (fun d =>
    let d := d.advanceTo t.toNat
    let x := d.qpt qp.toNat node.toNat
    if x.fresh = 0 ∨ d.ns < x.firstAt + 1000 then d else d.sendAck qp.toNat node.toNat) s

/-- RETRANSMIT_TIMEOUT (R260, R266, R267, R434). -/
def execRetransmitTimeout (qp node : BitVec 16) (psn : BitVec 32) (t : BitVec 64) (s : State) : Host.Outcome State Fault Refusal :=
  onHall (fun d =>
    let d := d.advanceTo t.toNat
    let q := qp.toNat
    let n := node.toNat
    let x := d.qpt q n
    match x.out.find? (fun o => o.sent && o.pkt.psn == psn) with
    | none => d
    | some o =>
      if d.ns < o.sentAt + 1000 * atLeast1 (d.get Fld.FAB_XPORT_CFG_RTO) then d
      else
        let x := { x with tmo := x.tmo + 1, rate := max (d.get Fld.FAB_RC_CFG_RMIN) (x.rate / 2) }
        let d := d.setQpt x
        if x.tmo < atLeast1 (d.get Fld.FAB_XPORT_CFG_RETRY_MAX) then d.resend q n o
        else if q < 16 then d.resetToward q n else d.errorPair q) s

/-- rc_update of R270. -/
def QpT.rcUpdate (t : QpT) (rmin rmax rai fast : Nat) : QpT :=
  let f : Int := if t.acked > 0 then ((t.marked * 1024 / t.acked : Nat) : Int) else 0
  let alpha := ((t.alpha : Int) + (f - (t.alpha : Int)) / 16).toNat
  if t.marked > 0 then
    { t with alpha := alpha, target := t.rate, rate := max rmin (t.rate - t.rate * alpha / 2048), quiet := 0, acked := 0, marked := 0 }
  else
    let quiet := min 31 (t.quiet + 1)
    let target := if fast < quiet then min rmax (t.target + rai) else t.target
    { t with alpha := alpha, target := target, rate := min rmax ((t.rate + target + 1) / 2), quiet := quiet, acked := 0, marked := 0 }

/-- RC_UPDATE (R270): every `PERIOD` while the pair has packets queued or outstanding. -/
def execRcUpdate (qp node : BitVec 16) (t : BitVec 64) (s : State) : Host.Outcome State Fault Refusal :=
  onDev (fun d =>
    let d := d.advanceTo t.toNat
    let t := d.qpt qp.toNat node.toNat
    if t.out.isEmpty ∧ !(d.txq.any fun x => x.qp == t.qp && x.node == t.node) ∨ d.ns < t.rcAt + 100 * atLeast1 (d.get Fld.FAB_RC_CFG_PERIOD) then d
    else d.setQpt ({ t with rcAt := d.ns }.rcUpdate (d.get Fld.FAB_RC_CFG_RMIN) (d.get Fld.FAB_RC_RATE_RMAX) (d.get Fld.FAB_RC_CFG_RAI) (d.get Fld.FAB_RC_CFG_FAST))) s

/-! ## Queue pair operations (R257 to R260) -/

/-- Context words as the pipelines hold them (R259, R260). -/
def Dev.contextWord (d : Dev) (q w : Nat) : Nat :=
  let x := d.qw q w
  match d.qpts.find? (fun t => t.qp == q) with
  | none => x
  | some t =>
    if w = 1 then t.spsn * 2 ^ 32 + t.rpsn
    else if w = 4 then t.rate * 2 ^ 40 + t.target * 2 ^ 16 + t.alpha * 2 ^ 5 + t.quiet
    else if w = 5 then t.acked * 2 ^ 32 + t.marked
    else if w = 6 then setBits (setBits x 63 48 (d.ops.filter (·.qp == q)).length) 47 40 t.tmo
    else x

/-- One FAB_QP_OP (R260): `RESULT` 1 for a refused one. -/
def Dev.qpOp (d : Dev) (op q : Nat) : Dev :=
  let st := d.qState q
  let done (d : Dev) (ok : Bool) : Dev := d.put Fld.FAB_QP_OP_RESULT (if ok then 0 else 1)
  if op = 2 then done ((List.range 16).foldl (fun (d : Dev) k => d.put Fld.FAB_QP_STAGE_WORD (d.contextWord q k) k) d) true
  else if qReserved q then done d false
  else if op = 1 ∧ st = qsReset then
    done (((List.range 16).foldl (fun (d : Dev) k => d.dramPutN 8 (d.qpAddr q + 8 * k) (d.get Fld.FAB_QP_STAGE_WORD k)) d).qput q 0 63 61 qsInit) true
  else if op = 3 ∧ st = qsInit then done (d.enableQp q) true
  else if op = 4 ∧ st = qsActive then done ((d.qput q 0 63 61 qsDraining).drainCheck q) true
  else if op = 5 ∧ (st = qsError ∨ st = qsInit) then done (d.qput q 0 63 61 qsReset) true
  else done d false

/-- A FAB_QP_OP written through the PF. -/
def qpRow (op : Nat) (qp : BitVec 16) (s : State) : Host.Outcome State Fault Refusal := onDev (fun d => if d.open' then d.qpOp op qp.toNat else d) s

/-- FAB_QP_WRITE (R259, R260). -/
def execFabQpWrite (qp : BitVec 16) (s : State) : Host.Outcome State Fault Refusal := qpRow 1 qp s

/-- FAB_QP_READ (R260). -/
def execFabQpRead (qp : BitVec 16) (s : State) : Host.Outcome State Fault Refusal := qpRow 2 qp s

/-- FAB_QP_ENABLE (R260). -/
def execFabQpEnable (qp : BitVec 16) (s : State) : Host.Outcome State Fault Refusal := qpRow 3 qp s

/-- FAB_QP_DRAIN (R260). -/
def execFabQpDrain (qp : BitVec 16) (s : State) : Host.Outcome State Fault Refusal := qpRow 4 qp s

/-- FAB_QP_RESET (R260). -/
def execFabQpReset (qp : BitVec 16) (s : State) : Host.Outcome State Fault Refusal := qpRow 5 qp s

end Sys2Proof.Machine
end

