-- ==== Sys2Proof/Machine/Link.lean ====
section
/-! DEFINITION. Machine/Link.lean: the optical ports: laser feeds, tuning, training, link control and the state machine of a
port (R241 to R253, R380). -/

namespace Sys2Proof.Machine

/-- The laser feed of a port (R243). -/
def feedOf (p : Nat) : Nat := p / 3

/-- A feed's power in hundredths of a dBm. -/
def Dev.feedPower (d : Dev) (k : Nat) : Int := ofField 16 (d.get Fld.FAB_LASER_POWER k)

/-- A port that leaves UP keeps no packets, and one that enters it counts its errors afresh (R250). -/
def Dev.portTo (d : Dev) (p state : Nat) : Dev :=
  let x := d.port p
  let x := { x with since := d.ns, egress := if state = poUp then x.egress else [] }
  let x := if state = poUp then { x with uncorrMs := 0, corr := List.replicate 16 0, lastBer := d.ns } else x
  ((d.setPort p x).put Fld.FAB_PORT_CTL_MISCABLE 0 p).put Fld.FAB_PORT_CTL_STATE state p

/-- A port enters TUNING (R250), its rings at the codes they have (R246). -/
def Dev.toTuning (d : Dev) (p : Nat) : Dev := (d.portTo p poTuning).bump Fld.FAB_PORT_BER_TUNES 1 p

/-- The temperature bin of a heater code (R380). -/
def tempBin (t : Int) : Nat := min 15 ((t - 25) / 5).toNat

/-- The key of a heater code in the calibration journal (R384). -/
def heaterKey (p lane bin : Nat) : Nat := p + 256 * lane + 65536 * bin

/-- The heater code that a ring of a lane starts from: the learned one, or the role image's, for the local temperature (R245, R380,
R384; the table's layout: log entry 195). -/
def Dev.startCode (d : Dev) (p lane : Nat) : Nat :=
  let bin := tempBin (d.elec.temps.getD (p / 3) 0)
  match d.cox.journal.find? fun r => r.kind == 1 && r.key == heaterKey p lane bin with
  | some r => r.value
  | none => ofBytes (slice d.cox.tune (2 * ((p * 16 + lane) * 16 + bin)) 2)

/-- A DOWN port that is enabled and has light starts to tune, its rings set from the table (R245, R250). -/
def Dev.tryTune (d : Dev) (p : Nat) : Dev :=
  if d.portState p = poDown ∧ d.flag Fld.FAB_PORT_CTL_EN p ∧ 300 < d.feedPower (feedOf p) then
    (d.setPort p { (d.port p) with fails := 0, codes := (List.range 16).map (d.startCode p) }).toTuning p
  else d

/-- `EN` written (R250): 0 takes a port DOWN from any state. -/
def Dev.writePortEn (d : Dev) (p : Nat) (en : Bool) : Dev :=
  let d := d.put Fld.FAB_PORT_CTL_EN (if en then 1 else 0) p
  if en then d.tryTune p
  else if d.portState p = poDown then d else d.portTo p poDown

/-- PORT_EN_WRITE (R250, R271). -/
def execPortEnWrite (port : BitVec 5) (en : Bool) (s : State) : Host.Outcome State Fault Refusal :=
  onDev (fun d => if d.open' ∧ port.toNat < 24 then d.writePortEn port.toNat en else d) s

/-- Ports that may tune now: the first eight by the time they entered TUNING (R245). -/
def Dev.tunable (d : Dev) : List Nat :=
  (sortBy (fun a b => decide ((d.port a).since < (d.port b).since)) ((List.range 24).filter fun p => d.portState p == poTuning)).take 8

/-- A learned setting collected for the calibration journal (R384, R385): it replaces the one of its kind and key. -/
def Dev.learn (d : Dev) (kind key value : Nat) : Dev :=
  let put (l : List JRec) : List JRec := l.filter (fun r => !(r.kind == kind && r.key == key)) ++ [⟨kind, key, value⟩]
  { d with cox := { d.cox with journal := put d.cox.journal, dirty := put d.cox.dirty } }

/-- Failed tunings in a row that fail a port (R250). -/
def tuneLimit : Nat := 3

/-- PORT_TUNE_DONE (R245, R250): locked rings keep their codes, which are learned, and the port trains; the third failure in a row fails the port. -/
def execPortTuneDone (port : BitVec 5) (locked : Bool) (codes : List (BitVec 16)) (s : State) : Host.Outcome State Fault Refusal :=
  onDev (fun d =>
    let p := port.toNat
    if !(d.tunable.contains p) then d
    else if locked then
      let bin := tempBin (d.elec.temps.getD (p / 3) 0)
      let d := (List.range codes.length).foldl (fun (d : Dev) k => d.learn 1 (heaterKey p k bin) (codes.getD k 0).toNat) d
      (d.setPort p { (d.port p) with fails := 0, codes := (List.range 16).map fun k => (codes.getD k 0).toNat }).portTo p poTraining
    else
      let x := d.port p
      let d := d.setPort p { x with fails := x.fails + 1, since := d.ns }
      if x.fails + 1 < tuneLimit then d else (d.portTo p poFailed).logEv evUnitFailed mCox (3 * 256 + p)) s

/-- RING_LOCK_LOST (R246). -/
def execRingLockLost (port : BitVec 5) (s : State) : Host.Outcome State Fault Refusal :=
  onDev (fun d =>
    let st := d.portState port.toNat
    if port.toNat < 24 ∧ (st = poUp ∨ st = poRelearn) then d.toTuning port.toNat else d) s

/-- LASER_FEED_LEVEL (R243): the weakest wavelength of a feed measured. -/
def execLaserFeedLevel (feed : BitVec 3) (power : BitVec 16) (s : State) : Host.Outcome State Fault Refusal :=
  onDev (fun d =>
    let k := feed.toNat
    let v := ofField 16 power.toNat
    let was := d.flag Fld.FAB_LASER_LOW k
    let low := decide (v < 600)
    let d := (d.put Fld.FAB_LASER_POWER power.toNat k).put Fld.FAB_LASER_LOW (if low then 1 else 0) k
    let d := if low ∧ !was then d.logEv evLaserLow mCox (k * 65536 + power.toNat) else d
    [3 * k, 3 * k + 1, 3 * k + 2].foldl (fun (d : Dev) p =>
      if v < 300 then (if d.portState p = poDown ∨ d.portState p = poFailed then d else d.portTo p poDown) else d.tryTune p) d) s

/-- Packets that waited because every port was over its limit go to the port that fell below it (R262). -/
def Dev.sprayWaiting (p : Nat) (lanes : List Nat) : Nat → Dev → Dev
  | 0, d => d
  | n + 1, d =>
    if d.epoch = 0 then d
    else match d.spray.find? (fun t => d.sprayable t && lanes.contains (laneOf t) && d.portTakes (laneOf t) p) with
      | none => d
      | some t => Dev.sprayWaiting p lanes n (d.sprayTo t p)

/-- Credits returned to a port, 64 bytes each (R251). -/
def Port.credit (x : Port) (c : List (BitVec 16)) : Port :=
  { x with credits := (List.range 4).map fun l => x.credits.getD l 0 + (c.getD l 0).toNat }

/-- LINKCTL (R251, R253): training completes when the far end is a switch that reports this port's plane. -/
def execLinkctl (port : BitVec 5) (credits : List (BitVec 16)) (_node : BitVec 16) (farPort : BitVec 8) (isSwitch : Bool) (_beat : BitVec 32)
    (t : BitVec 64) (s : State) : Host.Outcome State Fault Refusal :=
  onDev (fun d =>
    let d := d.advanceTo t.toNat
    let p := port.toNat
    let st := d.portState p
    if 24 ≤ p ∨ !(st = poTraining ∨ st = poUp ∨ st = poRelearn) then d
    else
      let stuck := [0, 1, 2, 3].filter fun l => (d.nextPort l).isNone
      let d := d.setPort p { ((d.port p).credit credits) with lastCtl := d.ns }
      if st = poTraining then
        (if isSwitch ∧ farPort.toNat = p then d.portTo p poUp
         else d.put Fld.FAB_PORT_CTL_MISCABLE 1 p)
      else
        let d := d.drainPort p (d.port p).egress.length
        d.sprayWaiting p stuck d.spray.length) s

/-- LINKCTL_SEND (R251): after every 32 codewords. The credits a port returns are those of the packets it has taken since; the far end
learns that this device is no switch. -/
def execLinkctlSend (port : BitVec 5) (s : State) : Host.Outcome State Fault Refusal :=
  onDev (fun d =>
    let p := port.toNat
    let st := d.portState p
    if 24 ≤ p ∨ !(st = poTraining ∨ st = poUp ∨ st = poRelearn) then d
    else
      let x := d.port p
      (d.setPort p { x with beat := (x.beat + 1) % 2 ^ 32, freed := [0, 0, 0, 0] }).emit (.linkctl p d.node false x.beat x.freed)) s

/-- LINKCTL_TIMEOUT (R251): 10 µs without a valid LINKCTL. -/
def execLinkctlTimeout (port : BitVec 5) (t : BitVec 64) (s : State) : Host.Outcome State Fault Refusal :=
  onDev (fun d =>
    let d := d.advanceTo t.toNat
    let p := port.toNat
    if 24 ≤ p ∨ !(d.portState p = poUp ∨ d.portState p = poRelearn) ∨ d.ns < (d.port p).lastCtl + 10000 then d else d.portTo p poTraining) s

/-- TRAINING_TIMEOUT (R250, R253): 1 ms without success; a miscabled port stays in TRAINING. -/
def execTrainingTimeout (port : BitVec 5) (t : BitVec 64) (s : State) : Host.Outcome State Fault Refusal :=
  onDev (fun d =>
    let d := d.advanceTo t.toNat
    let p := port.toNat
    if 24 ≤ p ∨ d.portState p ≠ poTraining ∨ d.flag Fld.FAB_PORT_CTL_MISCABLE p ∨ d.ns < (d.port p).since + 1000000 then d else d.toTuning p) s

/-- Corrected symbols charged to their lanes and counted (R250). -/
def Dev.chargeLanes (d : Dev) (p : Nat) (ls : List Nat) : Dev :=
  let x := d.port p
  (d.bump Fld.FAB_PORT_FEC_CORR (ls.foldl (· + ·) 0) p).setPort p { x with corr := (List.range 16).map fun k => x.corr.getD k 0 + ls.getD k 0 }

/-- What a millisecond's counts do to a port that is UP (R250): too many uncorrectable codewords tune it, too many corrected symbols of
a lane have it learn again, and the third time within 100 ms tunes it. -/
def Dev.judgePort (d : Dev) (p : Nat) (x : Port) : Dev :=
  if d.get Fld.FAB_PORT_BER_UNCORR_MAX p < x.uncorrMs then d.toTuning p
  else if x.corr.any (fun c => decide (d.get Fld.FAB_PORT_BER_TH p < c)) then
    let d := d.bump Fld.FAB_PORT_BER_RELEARNS 1 p
    let recent := x.relearns.filter fun r => decide (d.ns < r + 100000000)
    let d := d.setPort p { (d.port p) with relearns := recent ++ [d.ns] }
    if 2 ≤ recent.length then d.toTuning p else d.portTo p poRelearn
  else d

/-- BER_CHECK (R250): every millisecond, with the symbols that the port's other codewords had corrected, by lane. -/
def execBerCheck (port : BitVec 5) (lanes : List (BitVec 16)) (t : BitVec 64) (s : State) : Host.Outcome State Fault Refusal :=
  onDev (fun d =>
    let d := d.advanceTo t.toNat
    let p := port.toNat
    let st := d.portState p
    if 24 ≤ p ∨ !(st = poTraining ∨ st = poUp ∨ st = poRelearn) ∨ d.ns < (d.port p).lastBer + 1000000 then d
    else
      let d := d.chargeLanes p (lanes.map BitVec.toNat)
      let x := d.port p
      let d := d.setPort p { x with lastBer := d.ns, uncorrMs := 0, corr := List.replicate 16 0 }
      if st = poUp then d.judgePort p x else d) s

/-- RELEARN_DONE (R250). -/
def execRelearnDone (port : BitVec 5) (s : State) : Host.Outcome State Fault Refusal :=
  onDev (fun d => if port.toNat < 24 ∧ d.portState port.toNat = poRelearn then d.portTo port.toNat poUp else d) s

/-- UNCORRECTABLE_CODEWORD (R247, R249, R250): a received codeword that is not free of errors is decoded. One that cannot be corrected is
counted and its packets are lost until the next packet starts; the symbols corrected in any other are charged to their lanes. -/
def execUncorrectableCodeword (port : BitVec 5) (symbols : List (BitVec 10)) (s : State) : Host.Outcome State Fault Refusal :=
  onDev (fun d =>
    let p := port.toNat
    let st := d.portState p
    if 24 ≤ p ∨ !(st = poTraining ∨ st = poUp ∨ st = poRelearn) then d
    else match rsDecode (symbols.map BitVec.toNat) with
      | some (_, errs) => d.chargeLanes p ((List.range 16).map fun k => (errs.filter fun j => rsLane j == k).length)
      | none =>
        let x := d.port p
        (d.bump Fld.FAB_PORT_FEC_UNCORR 1 p).setPort p { x with uncorrMs := if st = poUp then x.uncorrMs + 1 else x.uncorrMs, resync := true }) s

end Sys2Proof.Machine
end

