-- ==== Sys2Proof/Machine/Access.lean ====
section
/-! DEFINITION. Machine/Access.lean: register writes and reads as the access types rule them (R10 to R13, R383, R424, R425), and
the full reset (R375). -/

namespace Sys2Proof.Machine

/-- Whether an offset names one of a register's instances (R404). -/
def RegSpec.has (s : RegSpec) (off : Nat) : Bool :=
  (List.range s.n2).any fun j =>
    let at' := s.base + s.s2 * j
    decide (at' ≤ off) &&
      (let x := off - at'
       if s.s1 = 0 then x == 0 else decide (x % s.s1 = 0) && decide (s.first ≤ x / s.s1) && decide (x / s.s1 < s.first + s.n1))

/-- The register at an offset, if any (R402). -/
def regAt (off : Nat) : Option RegSpec := regTable.find? (·.has off)

/-- Whether a write may give a field a value (R425). -/
def FieldSpec.admits (f : FieldSpec) (v : Nat) : Bool :=
  (f.ok.isEmpty || f.ok.any fun r => decide (r.1 ≤ v) && decide (v ≤ r.2)) && decide (v % atLeast1 f.align = 0)

/-- One field of a write (R11, R13, R425): the word so far, and whether the lock refused a change. -/
def writeField (locked : Bool) (mask v : Nat) (r : Nat × Bool) (f : FieldSpec) : Nat × Bool :=
  let cur := bits r.1 f.hi f.lo
  let m := bits mask f.hi f.lo
  let x := bits v f.hi f.lo &&& m
  let new := ((cur ||| m) ^^^ m) ||| x
  if m = 0 then r
  else match f.acc with
    | .rw => if f.admits new then (setBits r.1 f.hi f.lo new, r.2) else r
    | .rwl =>
      if new = cur ∨ !(f.admits new) then r else if locked then (r.1, true) else (setBits r.1 f.hi f.lo new, r.2)
    | .w1c => (setBits r.1 f.hi f.lo ((cur ||| x) ^^^ x), r.2)
    | .ro => r
    | .rc => r
    | .wo => r

/-- A refused write: `VIOL`, the offset of the first, and a record (R383). -/
def Dev.lockViolation (d : Dev) (off : Nat) : Dev :=
  let d := if d.flag Fld.GLB_CFG_LOCK_VIOL then d else d.put Fld.GLB_CFG_LOCK_VIOL_OFF off
  (d.put Fld.GLB_CFG_LOCK_VIOL 1).logEv evLockViolation mHost off

/-- The stored fields of a register written: by Cox (`cox`), whom no lock binds, or by the host. -/
def Dev.writeReg (d : Dev) (cox : Bool) (s : RegSpec) (off mask v : Nat) : Dev :=
  let (w, viol) := s.fields.foldl (writeField (!cox && d.flag Fld.GLB_CFG_LOCK_LOCK) mask v) (d.word off s.wreset, false)
  let d := d.setWord off s.wreset w
  if viol then d.lockViolation off else d

/-- Masks of a whole access and of its halves. -/
def maskAll : Nat := 2 ^ 64 - 1
def maskLow : Nat := 2 ^ 32 - 1
def maskHigh : Nat := maskAll - maskLow

/-- A read's word with the write-only fields zero (R11). -/
def RegSpec.shown (s : RegSpec) (w : Nat) : Nat := s.fields.foldl (fun w f => if f.acc = .wo then setBits w f.hi f.lo 0 else w) w

/-- A word with the `RC` fields that lie in a mask cleared (R11). -/
def RegSpec.cleared (s : RegSpec) (mask w : Nat) : Nat :=
  s.fields.foldl (fun w f => if f.acc = .rc ∧ bits mask f.hi f.lo = 2 ^ (f.hi + 1 - f.lo) - 1 then setBits w f.hi f.lo 0 else w) w

/-- Whether 32-bit reads of a register latch (R424). -/
def RegSpec.latches (s : RegSpec) : Bool := s.fields.all fun f => f.acc == .ro || f.acc == .rc

/-- A full reset (R375): everything returns to its reset state but the boot memory and the fuses. What the board drives, the
host's memory and the record of outputs are no state of the device; the I3C target's address hangs on `VDD_STBY` (R413, R418). -/
def State.fullReset (s : State) : State :=
  let d := s.dev
  let e := { Elec.reset with pwrgd := d.elec.pwrgd, perstN := d.elec.perstN, sysref := d.elec.sysref, temps := d.elec.temps, tj := d.elec.tj,
                             straps := d.elec.straps, dynAddr := d.elec.dynAddr, trip := d.elec.trip, stopped := d.elec.stopped }
  { s with dev := { Dev.reset s.fuse with host := d.host, out := d.out, freeCtr := d.freeCtr, elec := e } }

end Sys2Proof.Machine
end

