-- ==== Sys2Proof/Machine/Timing.lean ====
section
/-! DEFINITION. Machine/Timing.lean: the stroke tracker, catches and what they set going, and the time counter (chapter 13). -/

namespace Sys2Proof.Machine

/-! ## The ending stroke and the new one (R317, R318, R440) -/

/-- A per-stroke or scheduled event that has not fired. -/
inductive StrokeEv where
  | landing | scan | table (i : Nat) | command (id : Nat) | retr (ring index : Nat)
deriving DecidableEq, Repr

/-- Events of the ending stroke that have not yet fired, with their angles, in the order of R440 at one angle. -/
def Dev.unfired (d : Dev) : List (Nat × StrokeEv) :=
  (if d.clk.flushed then [] else [(d.get Fld.MOV_XFER_CFG_LFLUSH_ANGLE, StrokeEv.landing)])
    ++ (if d.clk.scanned then [] else [(d.get Fld.SMP_CFG_SCAN_ANGLE, StrokeEv.scan)])
    ++ ((d.dram.blocksOf (d.pfAddr 0) 32 (d.get Fld.MEM_PF_ENTRIES_ENTRIES)).filterMap fun i => (d.pfPending i).map fun a => (a, StrokeEv.table i))
    ++ ((d.pfs.filter fun p => p.table.isNone && !p.issued && p.issueStroke == d.clk.number).map fun p => (p.issue, StrokeEv.command p.id))
    ++ (d.retr.filterMap fun r => (d.cmd r.ring r.index).bind fun k =>
          if r.stroke = d.clk.number ∧ k.phase = .run then some (u16 k.entry 22, StrokeEv.retr r.ring r.index) else none)

/-- One event fired. -/
def Dev.fire (d : Dev) (e : StrokeEv) : Dev :=
  match e with
  | .landing => d.landingFlush
  | .scan => d.ttftScan
  | .table i => d.pfTable i
  | .command id => match d.pfs.find? (·.id == id) with
    | some p => d.pfIssue p
    | none => d
  | .retr r i => match d.cmd r i with
    | some k => d.retrRun k
    | none => d

/-- Every event of the ending stroke that has not fired, in ascending angle order (R318). -/
def Dev.endStroke (d : Dev) : Dev :=
  if !d.firing then d else (sortBy (fun a b => decide (a.1 < b.1)) d.unfired).foldl (fun (d : Dev) e => d.fire e.2) d

/-- A stroke begun at `at3` thirds of a nanosecond with the held period (R317). -/
def Dev.beginStroke (d : Dev) (number at3 : Nat) : Dev :=
  { d with clk := { d.clk with number := number % 2 ^ 64, catchAt := at3, latched := d.clk.period, flushed := false, scanned := false, pfIssued := [] },
           reclaimed := [] }

/-! ## The admission stroke (R342, R345) -/

/-- States of `ADM` (R353). -/
def admTesting : Nat := 1
def admLoading : Nat := 2
def admReady : Nat := 3
def admAdmitted : Nat := 4
def admFailed : Nat := 5

def Dev.adm (d : Dev) : Nat := d.get Fld.PAIR_ADMIT_ADM
def Dev.setAdm (d : Dev) (n : Nat) : Dev := d.put Fld.PAIR_ADMIT_ADM n
def Dev.logAdm (d : Dev) : Dev := d.logEv evAdmission mPair (d.adm * 2 ^ 32 + d.get Fld.PAIR_ADMIT_STROKE)

/-- A loader that is not READY at the catch of its stroke (R345). -/
def Dev.missAdmission (d : Dev) : Dev :=
  if d.adm = admLoading ∧ d.flag Fld.PAIR_ADMIT_LOADER ∧ !d.pair.missed ∧ d.firing ∧ 0 ≤ modDiff 32 d.stroke32 (d.get Fld.PAIR_ADMIT_STROKE) then
    ({ d with pair := { d.pair with missed := true } } : Dev).logAdm
  else d

/-- What units do at a catch (R440): watchdogs and silent reservations counted and the transfers' waits, then the traffic unit's work.
The map switch, the end of a drain window, the handover of an admission, the retries and the holds have rows of their own; an admission
missed shows at once (R345). -/
def Dev.catchActs (d : Dev) : Dev :=
  let n := if d.clk.lost then 0 else 1
  let ws := d.watches.map fun (w : Watch) => { w with strokes := w.strokes + n }
  let cs := d.cmds.map fun (k : RunCmd) => if k.watched then { k with strokes := k.strokes + n } else k
  let rs := d.rsvs.map fun (r : Rsv) => { r with silent := r.silent + 1 }
  let xs := d.xfers.map fun (x : Xfer) => { x with tried := false, waitFor := if x.phase = .retry then x.waitFor - 1 else x.waitFor }
  (({ d with watches := ws, cmds := cs, rsvs := rs, xfers := xs, clk := { d.clk with owed := true } } : Dev).missAdmission).trafficCatch

/-- Due points of prefetches that the catch passes by keep the time counter's reading of the catch (R204, R318). -/
def Dev.duePassed (d : Dev) : Dev :=
  { d with pfs := d.pfs.map fun (p : Pf) => if p.dueCnt = none ∧ 0 < modDiff 64 d.clk.number p.stroke then { p with dueCnt := some d.clk.cnt } else p }

/-- A catch taken or inserted: the old stroke's events, the new stroke, and what the catch sets going (R318, R440). -/
def Dev.catch' (d : Dev) (number at3 : Nat) (k : Clock → Clock) : Dev :=
  let d := d.endStroke
  ((({ d with clk := k d.clk } : Dev).beginStroke number at3).duePassed).catchActs

/-! ## Catches (R310 to R316, R436, R437) -/

/-- `WIN` in ns (R323). -/
def Dev.winNs (d : Dev) : Nat := atLeast1 (d.get Fld.TIM_CFG_WIN)

/-- The shortest and longest interval of a catch that is taken (R312). -/
def minInterval : Nat := 1000000
def maxInterval : Nat := 1000000000

/-- A good catch in the tracking states taken (R314, R316). -/
def Dev.takeGood (d : Dev) (number at3 : Nat) (k : Clock → Clock) : Dev :=
  let want := (d.clk.number + 1) % 2 ^ 64
  let d := d.catch' number at3 k
  if number = want then d else d.logEv evStrokeRenumber mTiming (want % 2 ^ 32 * 2 ^ 32 + number % 2 ^ 32)

/-- A catch in ACQUIRE (R437): it is the reference of the next, and locks when both are good and the interval is valid. -/
def Dev.acquireCatch (d : Dev) (at3 number interval : Nat) (good : Bool) : Dev :=
  let ref (d : Dev) : Dev := { d with clk := { d.clk with catchAt := at3, refGood := some good } }
  match d.clk.refGood with
  | none => ref d
  | some g =>
    let valid := decide (minInterval ≤ interval) && decide (interval ≤ maxInterval)
    let d := if valid then d else d.bump Fld.TIM_ERR_JUMP
    if good && g && valid then
      let c := { d.clk with state := .locked, period := interval, inserted := 0, lastOut := none, refGood := none }
      ((({ d with clk := c } : Dev).beginStroke number at3).duePassed).catchActs
    else ref d

/-- A catch in LOCKED (R314). -/
def Dev.lockedCatch (d : Dev) (at3 number interval : Nat) (good : Bool) : Dev :=
  let p := d.clk.period
  let win := d.winNs
  let inside := decide (p ≤ interval + win) && decide (interval ≤ p + win)
  if !good then (if inside then d.catch' (d.clk.number + 1) at3 id else d)
  else if inside then
    d.takeGood number at3 fun c => { c with period := ((p : Int) + ((interval : Int) - (p : Int)) / 8).toNat, lastOut := none }
  else
    let agree := match d.clk.lastOut with
      | some j => decide (j ≤ interval + win) && decide (interval ≤ j + win)
      | none => false
    let d := (d.bump Fld.TIM_ERR_JUMP).logEv evStrokeJump mTiming interval
    d.takeGood number at3 fun c => { c with period := if agree then interval else p, lastOut := some interval }

/-- Whether stroke acquisition has started: in phase 3 (R376). -/
def Dev.tracking (d : Dev) : Bool := decide (3 ≤ d.get Fld.GLB_BOOT_PHASE) && d.get Fld.GLB_BOOT_PHASE != 7

/-- What `STRK` carries for 800 ns from an edge, in half cells of 4 ns in their order (R310): the mark, 24 ns high and 8 ns low. -/
def markOk (line : Nat) : Bool := bits line 7 0 == 0x3F

/-- Whether each of the 96 cells has its transition in the middle. -/
def cellsOk (line : Nat) : Bool := (List.range 96).all fun k => bit line (8 + 2 * k) != bit line (9 + 2 * k)

/-- The frame that the cells carry, bit 0 first: a 1 rises in the middle of its cell. -/
def frameOf (line : Nat) : Nat := (List.range 96).foldl (fun f k => f + if bit line (9 + 2 * k) then 2 ^ k else 0) 0

/-- The idle low, in ns, that must come before an edge that is a catch (R310). -/
def idleNs : Nat := 1000

/-- An edge at `edge` ns dated to the 1.5 GHz cycle it falls in, in thirds of a nanosecond (R310; log entry 194). -/
def edgeAt (edge : Nat) : Nat := 3 * edge / 2 * 2

/-- A catch decided (R310 to R316, R436, R437): `line` is what followed the edge, `idle` for how many ns it had been low. -/
def Dev.strokeCatch (d : Dev) (edge idle line : Nat) : Dev :=
  let frame := frameOf line
  let at3 := edgeAt edge
  let d := d.advanceTo (edge + 800)
  if idle < idleNs ∨ !d.tracking ∨ d.clk.halted.isSome ∨ at3 < d.clk.catchAt then d
  else
    let good := markOk line && cellsOk line && decide (bits frame 95 80 = frameCrc frame)
    let number := bits frame 63 0
    let d := if good then { d with clk := { d.clk with srcHold := bit frame 64 } } else d.bump Fld.TIM_ERR_CRC
    let interval := (at3 - d.clk.catchAt) / 3
    if d.clk.state = .acquire then d.acquireCatch at3 number interval good
    else if interval < minInterval ∨ maxInterval < interval then d.bump Fld.TIM_ERR_JUMP
    else if d.clk.state = .locked then d.lockedCatch at3 number interval good
    else if good then d.takeGood number at3 fun c => { c with state := .locked, lost := false, inserted := 0, lastOut := none }
    else d

/-- STROKE_CATCH (R314, R316, R436, R437, R440). -/
def execStrokeCatch (edge idle : BitVec 64) (line : BitVec 200) (s : State) : Host.Outcome State Fault Refusal :=
  onHall (fun d => d.strokeCatch edge.toNat idle.toNat line.toNat) s

/-- A catch inserted P after the previous one (R315); the (`FREE_MAX` + 1)th in a row loses the stroke. -/
def Dev.insertCatch (d : Dev) : Dev :=
  let c := d.clk
  let n := c.inserted + 1
  let loses := decide (c.state ≠ .lost) && decide (d.get Fld.TIM_CFG_FREE_MAX + 1 ≤ n)
  let st := if c.state = .lost ∨ loses then Track.lost else Track.freerun
  let d := (d.bump Fld.TIM_ERR_MISSED).catch' (c.number + 1) (c.catchAt + 3 * c.period) fun c =>
    { c with state := st, lost := c.lost || loses, inserted := n, lastOut := none }
  if loses then d.logEv evStrokeLost mTiming c.period else d

/-- CATCH_INSERT (R315): in LOCKED at P + `WIN`, later every P. -/
def execCatchInsert (t : BitVec 64) (s : State) : Host.Outcome State Fault Refusal :=
  onHall (fun d =>
    let d := d.advanceTo t.toNat
    let wait := d.clk.period + if d.clk.state = .locked then d.winNs else 0
    if !d.firing ∨ d.clk.now < d.clk.catchAt + 3 * wait then d else d.insertCatch) s

/-- ACQUIRE_TIMEOUT (R313): no lock within (`FREE_MAX` + 1) × `SELF_PERIOD`; stroke 0 begins at that moment. -/
def execAcquireTimeout (t : BitVec 64) (s : State) : Host.Outcome State Fault Refusal :=
  onHall (fun d =>
    let d := d.advanceTo t.toNat
    let p := d.get Fld.TIM_CFG_SELF_PERIOD
    let due := d.clk.entered + (d.get Fld.TIM_CFG_FREE_MAX + 1) * p
    if !d.tracking ∨ d.clk.halted.isSome ∨ d.clk.state ≠ .acquire ∨ d.ns < due then d
    else
      let d := { d with clk := { d.clk with state := .lost, lost := true, period := p, inserted := 0, refGood := none } }
      ((d.beginStroke 0 (3 * due)).duePassed).logEv evStrokeLost mTiming p) s

/-- ACQUIRE entered (R313, R438). -/
def Dev.acquire (d : Dev) : Dev :=
  { d with clk := { d.clk with state := .acquire, lost := false, number := 0, period := 0, latched := 0, refGood := none, inserted := 0,
                               lastOut := none, entered := d.ns, halted := none } }

/-- What a write of TIM_CFG does beside setting its fields (R438): `was` is EN before it. -/
def Dev.timEn (d : Dev) (was : Bool) : Dev :=
  let on := d.flag Fld.TIM_CFG_EN
  if was && !on then { d with clk := { d.clk with halted := some d.angle, lost := true } }
  else if !was && on then d.acquire
  else d

/-- TIM_CFG_WRITE (R323, R425, R438): a 64-bit host write. -/
def execTimCfgWrite (v : Word) (s : State) : Host.Outcome State Fault Refusal :=
  onDev (fun d =>
    let was := d.flag Fld.TIM_CFG_EN
    if d.get Fld.GLB_BOOT_PHASE = 5 then (d.writeReg false Reg.TIM_CFG Reg.TIM_CFG.base maskAll v.toNat).timEn was else d) s

/-! ## The time counter (R319 to R322) -/

/-- The signed offset of a counter value from a whole second, ties rounding down (R321). -/
def ppsOffset (c : Nat) : Int :=
  let r := c % 1000000000
  if r ≤ 500000000 then (r : Int) else (r : Int) - 1000000000

/-- The counter loaded with TAI seconds (R320). -/
def Dev.taiTake (d : Dev) : Dev :=
  let d := d.put Fld.TIM_TAI_PEND 0
  { d with clk := { d.clk with cnt := d.get Fld.TIM_TAI_SEC * 1000000000 % 2 ^ 64, frac := 0, taiValid := true } }

/-- on_pps of R321. -/
def Dev.ppsEdge (d : Dev) : Dev :=
  if (match d.clk.lastPps with
      | some t => decide (d.ns < t + 500000000)
      | none => false) then d.bump Fld.TIM_ERR_PPS_GLITCH
  else
    let d := { d with clk := { d.clk with lastPps := some d.ns } }
    if d.flag Fld.TIM_TAI_PEND then
      let d := (d.taiTake).put Fld.TIM_PPS_STAT_OFFSET 0
      { d with clk := { d.clk with ppsHold := false } }
    else
      let e := ppsOffset d.clk.cnt
      let d := d.put Fld.TIM_PPS_STAT_OFFSET (toField 32 e)
      if d.clk.ppsHold ∨ d.get Fld.TIM_PPS_CFG_STEP_TH < e.natAbs then
        let d := { d with clk := { d.clk with cnt := toField 64 ((d.clk.cnt : Int) - e), slew := 0 } }
        let d := (d.put Fld.TIM_STAT_STEPPED 1).logEv evTimeStep mTiming (toField 64 e)
        { d with clk := { d.clk with ppsHold := false } }
      else
        let f := max (-100000) (min 100000 (ofField 32 (d.get Fld.TIM_PPS_STAT_FREQ) + (-e) / 16))
        let m : Int := d.get Fld.TIM_PPS_CFG_SLEW_MAX
        let d := d.put Fld.TIM_PPS_STAT_FREQ (toField 32 f)
        { d with clk := { d.clk with slew := max (-m) (min m (-e)), ppsHold := false } }

/-- PPS_EDGE (R320, R321). -/
def execPpsEdge (t : BitVec 64) (s : State) : Host.Outcome State Fault Refusal := onDev (fun d => (d.advanceTo t.toNat).ppsEdge) s

/-- PPS_HOLDOVER (R322): 1.1 s without an accepted edge. -/
def execPpsHoldover (t : BitVec 64) (s : State) : Host.Outcome State Fault Refusal :=
  onDev (fun d =>
    let d := d.advanceTo t.toNat
    if d.ns < (d.clk.lastPps.getD 0) + 1100000000 then d else { d with clk := { d.clk with ppsHold := true, slew := 0 } }) s

end Sys2Proof.Machine
end

