-- ==== Sys2Proof/Machine/Pairing.lean ====
section
/-! DEFINITION. Machine/Pairing.lean: the pair of twins: mirroring, liveness, takeover, epochs, admission of a spare, the loss of a
DRAM stack, and the logbook writer (chapter 14). -/

namespace Sys2Proof.Machine

/-! ## What the twin holds (R328, R329) -/

/-- The side table's entry of a record (R329). -/
def Dev.sideAddr (d : Dev) (i : Nat) : Nat := d.get Fld.PAIR_MIR_BASE_GRAN * granBytes + 16 * i
def Dev.sideHandle (d : Dev) (i : Nat) : Nat := bits (d.dramWord (d.sideAddr i)) 31 0
def Dev.sideState (d : Dev) (i : Nat) : Nat := bits (d.dramWord (d.sideAddr i)) 34 32
def Dev.sideXfer (d : Dev) (i : Nat) : Nat := bits (d.dramWord (d.sideAddr i + 8)) 31 0
def Dev.sideDest (d : Dev) (i : Nat) : Nat := bits (d.dramWord (d.sideAddr i + 8)) 47 32

def Dev.setSide (d : Dev) (i handle state xfer dest : Nat) : Dev :=
  (d.dramPutN 8 (d.sideAddr i) (handle % 2 ^ 32 + state % 8 * 2 ^ 32)).dramPutN 8 (d.sideAddr i + 8) (xfer % 2 ^ 32 + dest % 2 ^ 16 * 2 ^ 32)

/-- The records held for the partner. -/
def Dev.mirrorRecs (d : Dev) : List Nat := d.liveRecs.filter fun i => d.rState i == recMirror

/-- The mirror of the partner's record of an index. -/
def Dev.mirrorOf (d : Dev) (p : Nat) : Option Nat := d.mirrorRecs.find? fun i => hIndex (d.sideHandle i) == p

/-- Which landing rows of (record, layer) are mirrored: positions from the first number up to the second. -/
def Dev.landed (d : Dev) (i l : Nat) : Nat × Nat := sget (0, 0) (256 * i + l) d.mirLand
def Dev.setLanded (d : Dev) (i l a b : Nat) : Dev := { d with mirLand := sput (0, 0) (256 * i + l) (a, b) d.mirLand }

/-- A record of the partner given up: its references, page map and bodies (R330). -/
def Dev.freeMirror (d : Dev) (i : Nat) : Dev :=
  let d := (d.retireBare i).setSide i 0 0 0 0
  { d with mirLand := d.mirLand.filter (fun e => e.1 / 256 != i) }

/-- The words of a mirror that come from its partner (R328). -/
def Dev.copyWords (d : Dev) (i : Nat) (ws : List Word) : Dev :=
  ([1, 2] ++ (List.range 11).map (· + 5)).foldl (fun (d : Dev) w => d.rset i w (ws.getD w 0).toNat) d

/-- A record in state MIRROR made at a given index, with its page map: the shape is that of the partner's words. -/
def Dev.makeMirror (d : Dev) (i gen : Nat) (ws : List Word) : Option Dev :=
  let w0 := (ws.getD 0 0).toNat
  let t := bits w0 43 36
  (d.takeZeroed t (pmapGrans (bits w0 15 0) (bits w0 35 28) (bits w0 27 20)) (.pageMap i)).map fun (pm, d) =>
    let d := (List.range 16).foldl (fun d w => d.rset i w 0) d
    let d := d.rset i 0 (word0 gen recMirror t (bits w0 35 28) (bits w0 27 20) (bits w0 19 18) (bits w0 17 16) (bits w0 15 0))
    (d.rset i 3 pm).rset i 4 (d.epoch * 2 ^ 32)

/-- The mirror of the partner's record `p`, taken when the record is new here; none when there is no room for it. -/
def Dev.mirrorFor (d : Dev) (p : Nat) (ws : List Word) : Option (Nat × Dev) :=
  match d.mirrorOf p with
  | some i => some (i, d)
  | none => d.freeRec.bind fun i => (d.makeMirror i (genIssued (d.rGen i)) ws).map fun d => (i, d)

/-- The partner's request for a mirror record answered (R330): what is granted stands for a record that is still FREE there. -/
def Dev.answerAsk (d : Dev) (p : Nat) (ws : List Word) : Dev :=
  match d.mirrorFor p ws with
  | none => (if d.freeRec.isSome then d.refusedPool else d).ctrl d.mirrorNode (.mirrorNak p)
  | some (i, d) => (d.setSide i (mkHandle p (bits (ws.getD 0 0).toNat 63 47)) recFree 0 0).ctrl d.mirrorNode (.mirrorGrant p)

/-- A mirrored record applied: taken when the partner's record is new here, then its words and its side-table entry. -/
def Dev.applyRecord (d : Dev) (p : Nat) (ws : List Word) (dest : Nat) : Dev :=
  let w0 := (ws.getD 0 0).toNat
  match d.mirrorFor p ws with
  | none => ({ (if d.freeRec.isSome then d.refusedPool else d) with pair := { d.pair with refused := true } } : Dev).emit (.mgmtReport 1)
  | some (i, d) => (d.copyWords i ws).setSide i (mkHandle p (bits w0 63 47)) (bits w0 46 44) ((ws.getD 4 0).toNat % 2 ^ 32) dest

/-- An entry of a mirror's page map made empty. -/
def Dev.clearEntry (d : Dev) (i x : Nat) : Dev :=
  let e := d.entry i x
  let d := d.dramPutN 8 (d.entAddr i x) 0
  if e.loc = 1 ∧ (d.page e.page).vtag = e.vtag then d.dropRef e.page else d

/-- A page kept for the partner in entry `x` of a mirror (R329); when quota or space refuse it the entry is empty, and the refusal
is counted (R429). -/
def Dev.keepPage (d : Dev) (i x mode hdim fill : Nat) (hot : Bool) (payload scale summary : List Byte) (whole : Bool) : Except Dev Dev :=
  let t := d.rTenant i
  let d := d.clearEntry i x
  if !whole && !(d.admits t t1 (pageGrans mode)) then .error d.refusedQuota
  else match d.takePage pgMirror t mode hdim with
    | .error d' => .error (d.keepQuarantined d').refusedPool
    | .ok (p, d) =>
      let d := d.setPage p { (d.page p) with refc := 1, fill := fill, hot := hot }
      let d := d.fillPage p payload scale (if summary.isEmpty then none else some summary)
      .ok (d.dramPutN 8 (d.entAddr i x) (packEntry ⟨(d.page p).vtag, p, 1⟩))

/-- Landing rows of one head applied (R328); the last head's rows complete the layer's. -/
def Dev.applyRows (d : Dev) (i l h first : Nat) (bs : List Byte) : Dev :=
  match d.takeLanding i with
  | none => d.refusedPool
  | some d =>
    let n := bs.length / atLeast1 (d.rowBytes i)
    let d := (List.range n).foldl (fun d k => d.dramPut (d.rowAddr i l h (first + k)) (slice bs (k * d.rowBytes i) (d.rowBytes i))) d
    if h + 1 < d.rHeads i then d
    else
      let (a, b) := d.landed i l
      d.setLanded i l (if first = b then a else first) (first + n)

/-- One mirrored object applied, with the number of pages refused so far (R328, R329, R330). An object of a record that found
no place here is passed over. -/
def Dev.applyObj (r : Dev × Nat) (o : MirrorObj) : Dev × Nat :=
  let (d, n) := r
  let on (p : BitVec 15) (f : Nat → Dev) : Dev × Nat := match d.mirrorOf p.toNat with
    | some i => (f i, n)
    | none => (d, n)
  match o with
  | .record p ws dest => (d.applyRecord p.toNat ws dest.toNat, n)
  | .tokens p ws => on p fun i => d.copyWords i ws
  | .header p l w => on p fun i => d.dramPutN 8 (d.hdrAddr i l.toNat) w.toNat
  | .ring q pi ci cqpi => ({ d with mirRings := sins q.toNat (pi.toNat, ci.toNat, cqpi.toNat) d.mirRings }, n)
  | .page p x mode hdim fill hot payload scale summary =>
    match d.mirrorOf p.toNat with
    | none => (d, n)
    | some i =>
      match d.keepPage i x.toNat mode.toNat hdim.toNat fill.toNat hot payload scale summary (d.pair.returned.contains i) with
      | .ok d => (d, n)
      | .error d => (d, n + 1)
  | .rows p l h first bs => on p fun i => d.applyRows i l.toNat h.toNat first.toNat bs
  | .emptyEntry p x => on p fun i => d.clearEntry i x.toNat
  | .freed p => on p fun i => d.freeMirror i
  | .committed src xid h =>
    ({ d with committed := d.committed ++ [(⟨src.toNat, xid.toNat, d.get Fld.PAIR_CFG_TWIN, h.toNat, 0, true⟩ : Committed)] }, n)
  | .ask p ws => (d.answerAsk p.toNat ws, n)
  | .ringOff q => ({ d with mirRings := d.mirRings.filter (·.1 ≠ q.toNat) }, n)

/-! ## Liveness (R326) -/

/-- The silence that R335 measures: begun or ended as the three indications stand. -/
def Dev.judge (d : Dev) : Dev :=
  let quiet := !(d.flag Fld.PAIR_STAT_LINK_UP) && !(d.flag Fld.PAIR_STAT_PEER_MGMT) && d.flag Fld.PAIR_STAT_MGMT_UP
  { d with pair := { d.pair with silentAt := if quiet then some (d.pair.silentAt.getD d.ns) else none } }

/-- Messages that the twin has not acknowledged sent again, as the pair link returns (R332). -/
def Dev.resume (d : Dev) : Dev :=
  (d.pair.unacked.take (d.pair.unacked.length - d.pair.unsent)).foldl (fun (d : Dev) m => d.ctrl d.mirrorNode (.mirror m)) d

/-- A pairing packet of node `src`: from the twin it shows the link up (R326). -/
def Dev.heardTwin (d : Dev) (src : Nat) : Dev :=
  if d.pairState = psSolo ∨ src ≠ d.get Fld.PAIR_CFG_TWIN then d
  else
    let was := d.flag Fld.PAIR_STAT_LINK_UP
    let d := (({ d with pair := { d.pair with twinAt := d.ns } } : Dev).put Fld.PAIR_STAT_LINK_UP 1).judge
    if !was && d.mirrors then d.resume else d

/-- HEARTBEAT_CTRL_PACKET (R326). -/
def execHeartbeatCtrlPacket (src : BitVec 16) (t : BitVec 64) (s : State) : Host.Outcome State Fault Refusal :=
  onHall (fun d => (d.advanceTo t.toNat).hear .heartbeat src.toNat fun d => d.heardTwin src.toNat) s

/-- A heartbeat interval in ns. -/
def Dev.hbNs (d : Dev) : Nat := 1000 * atLeast1 (d.get Fld.PAIR_CFG_HB_US)

/-- PAIR_HEARTBEAT_SEND (R326): the end of an interval; a heartbeat goes out when nothing else did. -/
def execPairHeartbeatSend (t : BitVec 64) (s : State) : Host.Outcome State Fault Refusal :=
  onHall (fun d =>
    let d := d.advanceTo t.toNat
    if d.ns < d.pair.hbAt + d.hbNs then d
    else
      let d := if d.pairState = psSolo ∨ d.pair.sentSince then d else d.ctrl (d.get Fld.PAIR_CFG_TWIN) .heartbeat
      { d with pair := { d.pair with hbAt := d.ns, sentSince := false } }) s

/-- LINK_UP_TIMEOUT (R326). -/
def execLinkUpTimeout (t : BitVec 64) (s : State) : Host.Outcome State Fault Refusal :=
  onHall (fun d =>
    let d := d.advanceTo t.toNat
    if !(d.flag Fld.PAIR_STAT_LINK_UP) ∨ d.ns < d.pair.twinAt + atLeast1 (d.get Fld.PAIR_CFG_HB_MISS) * d.hbNs then d
    else ((d.put Fld.PAIR_STAT_LINK_UP 0).bump Fld.PAIR_CNT_LINK_LOSS).judge) s

/-- Cox's own heartbeat period and the silence that ends an indication (R326), in ns. -/
def mgmtPeriod : Nat := 10000000
def mgmtSilence : Nat := 30000000

/-- MGMT_HEARTBEAT_SEND (R326). -/
def execMgmtHeartbeatSend (t : BitVec 64) (s : State) : Host.Outcome State Fault Refusal :=
  onHall (fun d =>
    let d := d.advanceTo t.toNat
    if d.ns < d.pair.mgmtHbAt + mgmtPeriod then d
    else ({ d with pair := { d.pair with mgmtHbAt := d.ns } } : Dev).emit .mgmtHeartbeat) s

/-- Cox receives a node's management heartbeat (R326). -/
def Dev.mgmtHeard (d : Dev) (node : Nat) : Dev :=
  let d := if node = d.node then d else
    ({ d with pair := { d.pair with otherAt := some d.ns } } : Dev).put Fld.PAIR_STAT_MGMT_UP (if d.pair.linkUp then 1 else 0)
  let d := if d.pairState = psSolo ∨ node ≠ d.get Fld.PAIR_CFG_TWIN then d
    else ({ d with pair := { d.pair with peerAt := d.ns } } : Dev).put Fld.PAIR_STAT_PEER_MGMT 1
  d.judge

/-- PEER_MGMT_TIMEOUT (R326). -/
def execPeerMgmtTimeout (t : BitVec 64) (s : State) : Host.Outcome State Fault Refusal :=
  onHall (fun d =>
    let d := d.advanceTo t.toNat
    if !(d.flag Fld.PAIR_STAT_PEER_MGMT) ∨ d.ns < d.pair.peerAt + mgmtSilence then d else (d.put Fld.PAIR_STAT_PEER_MGMT 0).judge) s

/-- Whether a heartbeat of another node is recent. -/
def Dev.othersHeard (d : Dev) : Bool :=
  match d.pair.otherAt with
  | some a => decide (d.ns < a + mgmtSilence)
  | none => false

/-- MGMT_UP as its two conditions stand. -/
def Dev.mgmtJudge (d : Dev) : Dev := (d.put Fld.PAIR_STAT_MGMT_UP (if d.pair.linkUp && d.othersHeard then 1 else 0)).judge

/-- MGMT_LINK_STATE (R326). -/
def execMgmtLinkState (up : Bool) (t : BitVec 64) (s : State) : Host.Outcome State Fault Refusal :=
  onHall (fun d =>
    let d := d.advanceTo t.toNat
    ({ d with pair := { d.pair with linkUp := up } } : Dev).mgmtJudge) s

/-- MGMT_UP_TIMEOUT (R326). -/
def execMgmtUpTimeout (t : BitVec 64) (s : State) : Host.Outcome State Fault Refusal :=
  onHall (fun d => (d.advanceTo t.toNat).mgmtJudge) s

/-! ## Mirror messages (R327, R330 to R333) -/

/-- Whether mirror messages are applied here: as a twin until a takeover begins (R336), or as a spare that is loaded. -/
def Dev.takesMirror (d : Dev) : Bool :=
  (d.mirrors && !d.pair.taking) || (d.spare && (d.get Fld.PAIR_ADMIT_ADM == 2 || d.get Fld.PAIR_ADMIT_ADM == 3))

/-- Messages applied in number order, as far as they have come (R331). -/
def Dev.applyAhead : Nat → Dev × Nat → Dev × Nat
  | 0, r => r
  | fuel + 1, (d, n) =>
    match d.pair.ahead.find? fun m => m.number.toNat == d.pair.applied + 1 with
    | none => (d, n)
    | some m =>
      let p := { d.pair with applied := d.pair.applied + 1, ahead := d.pair.ahead.filter fun x => x.number != m.number }
      Dev.applyAhead fuel (m.objs.foldl Dev.applyObj ({ d with pair := p }, n))

/-- What has come in its turn applied, then acknowledged cumulatively (R331). -/
def Dev.takeAhead (d : Dev) : Dev :=
  let (d, skips) := Dev.applyAhead d.pair.ahead.length (d, 0)
  let d := { d with pair := { d.pair with sentSince := d.pair.sentSince || d.epoch != 0 } }
  d.ctrl d.mirrorNode (.mirrorAck d.pair.applied skips d.pair.refused)

/-- A message kept until its turn; one that came before and was not applied gives way to it. -/
def Dev.keepAhead (d : Dev) (m : MirrorMsg) : Dev :=
  { d with pair := { d.pair with ahead := (d.pair.ahead.filter fun x => x.number != m.number) ++ [m] } }

/-- Whether this device may yet become the twin of `src`, `TWIN` or `REPAIR` having reached the partner first (R325, R327;
log entry 35): messages are kept, the first of a numbering displacing those of an earlier one. -/
def Dev.keepsMirror (d : Dev) (src : Nat) : Bool :=
  !d.spare && (d.pairState == psSolo || (d.pairState == psDetached && src == d.get Fld.PAIR_CFG_TWIN))

/-- MIRROR_MESSAGE (R331): applied in its turn, then acknowledged cumulatively. -/
def execMirrorMessage (src : BitVec 16) (m : MirrorMsg) (s : State) : Host.Outcome State Fault Refusal :=
  onHall (fun d => d.hear (.mirror m) src.toNat fun d =>
    let d := d.heardTwin src.toNat
    if d.takesMirror ∧ src.toNat = d.mirrorNode then (if m.number.toNat ≤ d.pair.applied then d else d.keepAhead m).takeAhead
    else if d.keepsMirror src.toNat then
      if m.number = 1 then ({ d with pair := { d.pair with ahead := [], aheadFrom := src.toNat } } : Dev).keepAhead m
      else if src.toNat = d.pair.aheadFrom then d.keepAhead m
      else d
    else d) s

/-- Every effect that may become visible does (R331). -/
def Dev.unhold (d : Dev) : Dev := (d.release.tellCommits).releaseGroups

/-- MIRROR_ACK (R331, R332): what it covers becomes visible; the initial copy acknowledged whole ends SYNCING (R327). -/
def execMirrorAck (src : BitVec 16) (number : BitVec 64) (skips : BitVec 16) (short : Bool) (s : State) : Host.Outcome State Fault Refusal :=
  onHall (fun d => d.hear (.mirrorAck number.toNat skips.toNat short) src.toNat fun d =>
    let d := d.heardTwin src.toNat
    if !d.sendsMirror ∨ src.toNat ≠ d.mirrorNode then d
    else
      let n := min number.toNat (d.pair.next - 1)
      let p := { d.pair with acked := max d.pair.acked n, unacked := d.pair.unacked.filter fun m => decide (n < m.number.toNat), short := short }
      let d := if short && !d.pair.short then d.emit (.mgmtReport 1) else d
      let d := ({ d with pair := p } : Dev).bump Fld.PAIR_CNT_PAGE_SKIP skips.toNat
      let d := d.sendWaiting d.pair.unsent
      let d := if d.pairState = psSyncing ∧ d.pair.syncTo ≤ d.pair.acked ∧ !d.pair.short then d.setPairState psPaired else d
      d.unhold) s

/-- The records this device owns. -/
def Dev.ownRecs (d : Dev) : List Nat := d.liveRecs.filter fun i => d.rState i != recMirror

/-- The pages of a record that are in class mirrored (R328). -/
def Dev.copyPages (d : Dev) (i : Nat) : Dev :=
  (d.usedEntries i).foldl (fun d x =>
    let e := d.entry i x
    let g := d.page e.page
    if e.loc = 1 ∧ g.vtag = e.vtag ∧ (g.state = pgOwned ∨ g.state = pgShared) ∧ d.pageInClass g then d.sendPage i x e.page else d) d

/-- A first copy of some records (R327): every record and header word, then the rings that are not `OFF` (R338; log entry 199) and
the pages of their class, and a last message whose acknowledgement ends it. -/
def Dev.initialCopy (d : Dev) (is : List Nat) : Dev :=
  let d := is.foldl (fun (d : Dev) i =>
    (List.range (d.rLayers i)).foldl (fun (d : Dev) l =>
      d.mirror [.header (BitVec.ofNat 15 i) (BitVec.ofNat 8 l) (BitVec.ofNat 64 (d.dramWord (d.hdrAddr i l)))]) (d.mirrorRec i)) d
  let d := d.liveRings.foldl Dev.mirrorRing d
  let d := (is.foldl Dev.copyPages d).mirrorMsg []
  { d with pair := { d.pair with syncTo := d.pair.next - 1 } }

/-- Message numbers begun anew. -/
def Pair.renumber (p : Pair) : Pair :=
  { p with next := 1, acked := 0, applied := 0, unacked := [], unsent := 0, waitAt := [], ahead := [], refused := false, short := false, syncTo := 0 }

/-- SYNCING entered (R327); what the partner sent before is taken now (log entry 35). -/
def Dev.startSync (d : Dev) : Dev :=
  let kept := if d.pair.aheadFrom = d.get Fld.PAIR_CFG_TWIN then d.pair.ahead else []
  let d := ({ d with pair := { d.pair.renumber with ahead := kept } } : Dev).setPairState psSyncing
  let d := d.initialCopy d.ownRecs
  if kept.isEmpty then d else d.takeAhead

/-- Every copy held for the twin given up (R34). -/
def Dev.dropMirrors (d : Dev) : Dev :=
  let d := d.mirrorRecs.foldl Dev.freeMirror d
  { ((d.pagesIn pgMirror).foldl Dev.zeroPage d) with mirRings := [], mirLand := [] }

/-- DETACHED entered (R327, R331): mirroring ends and whatever waits becomes visible. -/
def Dev.detach (d : Dev) : Dev :=
  let d := { d with pair := { d.pair with unacked := [], unsent := 0, waitAt := [], ahead := [] } }
  ((d.setPairState psDetached).dropMirrors).unhold

/-- A tenant's class written (R333): pages newly in class are copied; copies no longer in class are released. -/
def Dev.setClass (d : Dev) (t cls : Nat) : Dev :=
  let was := d.get Fld.PAIR_MCLASS_CLASS t
  let d := d.put Fld.PAIR_MCLASS_CLASS cls t
  if was < cls then (d.ownRecs.filter fun i => d.rTenant i == t).foldl Dev.copyPages d
  else if cls < was then
    let is := d.mirrorRecs.filter fun i => d.rTenant i == t && !(d.pair.returned.contains i)
    let d := is.foldl (fun d i => (d.usedEntries i).foldl (fun d x => if d.pageInClass (d.page (d.entry i x).page) then d else d.clearEntry i x) d) d
    if cls = 2 then d
    else
      let d := d.freeKind fun k => is.any fun i => k == .landing i
      { d with mirLand := d.mirLand.filter fun e => !(is.contains (e.1 / 256)) }
  else d

/-! ## Takeover (R335 to R339) -/

/-- Whether every head of slot `j` of a layer has its page. -/
def Dev.slotHeld (d : Dev) (i j l : Nat) : Bool :=
  (List.range (d.rHeads i)).all fun h =>
    let e := d.entry i (d.entIndex i j l h)
    e.loc == 1 && (d.page e.page).vtag == e.vtag

/-- Positions of a layer held in full; `land`: its landing rows are at hand (R337). -/
def Dev.heldOf (d : Dev) (i l : Nat) (land : Bool) : Nat :=
  let paged := d.paged i l
  let u := ceilDiv paged (d.rT i)
  let k := (findFrom (fun j => !(d.slotHeld i j l)) 0 u).getD u
  let held := min paged (k * d.rT i)
  if held = paged ∧ land then paged + d.lrows i l else held

/-- convert of R337: a record cut back to the positions it holds in full across its layers, and that number. -/
def Dev.convert (d : Dev) (i : Nat) (land : Nat → Bool) : Nat × Dev :=
  let ls := List.range (d.rLayers i)
  let helds := ls.map fun l => d.heldOf i l (land l)
  let r := helds.foldl min (helds.headD 0)
  let d := ls.foldl (fun d l =>
    if r ≤ d.paged i l then
      let gone := (d.usedEntries i).filter fun x =>
        x / d.rHeads i % d.rLayers i == l && decide (ceilDiv r (d.rT i) ≤ x / d.rHeads i / d.rLayers i)
      (gone.foldl (fun d x =>
        let e := d.entry i x
        let d := d.setEntry i x PEntry.empty
        if e.loc = 1 ∧ (d.page e.page).vtag = e.vtag then d.dropRef e.page
        else if e.loc = 2 ∧ (d.cellar e.page).vtag = e.vtag then d.freeCellar e.page
        else d) d).putHdr i l r 0
    else d.putHdr i l (d.paged i l) (r - d.paged i l)) d
  (r, d.rput i 2 31 0 r)

/-- A record's pages made this device's own, with its current epoch (R337, R345). -/
def Dev.ownPages (d : Dev) (i : Nat) : Dev :=
  (d.recPages i).foldl (fun d p =>
    let e := d.page p
    if e.state = pgMirror then d.setPage p { e with state := sharedState e.refc e.tree, epoch := d.epoch } else d) d

/-- A mirror made ACTIVE here; it is given landing bodies when it has none (a mirror outside class `FULL` holds none, R329). -/
def Dev.ownRec (d : Dev) (i : Nat) : Dev :=
  let d := ((d.ownPages i).rput i 0 46 44 recActive).rset i 4 (d.epoch * 2 ^ 32)
  match d.takeLanding i with
  | some d => d
  | none => d.refusedPool

/-- Outcomes of the takeover list (R338). -/
def tkKept : Nat := 0
def tkRegen : Nat := 1
def tkMoved : Nat := 2
def tkRing : Nat := 3

/-- The six fields of an entry of the list as its 32 bytes (R338). -/
def tkoBytes (e : List Nat) : List Byte := ((List.range 5).flatMap fun k => toBytes 4 (e.getD k 0)) ++ toBytes 1 (e.getD 5 0) ++ zeros 11

/-- `TOKENS` and `LAST_TOKEN` of a record (R144). -/
def Dev.tokenWords (d : Dev) (i : Nat) : List Nat := [d.rget i 9 31 0, d.rget i 15 31 0]

/-- A mirror record of the twin converted (R337), with its entry of the list; commits answered for the twin now name it. -/
def Dev.convertMirror (d : Dev) (i : Nat) : Dev :=
  let ph := d.sideHandle i
  let before := d.leastHeld i
  let (r, d) := d.convert i fun l =>
    let (a, b) := d.landed i l
    d.lrows i l == 0 || (decide (a ≤ d.paged i l) && decide (d.paged i l + d.lrows i l ≤ b))
  let d := d.ownRec i
  let e := [ph, d.handleOf i, r] ++ d.tokenWords i ++ [if r < before then tkRegen else tkKept]
  let n := d.get Fld.PAIR_STAT_SERVED
  let cs := d.committed.map fun (c : Committed) => if c.dst = n ∧ c.handle = ph then { c with handle := d.handleOf i } else c
  { d with committed := cs, pair := { d.pair with tko := d.pair.tko ++ [e], returned := insertNat i d.pair.returned } }

/-- A mirror record whose transfer had committed freed (R337). -/
def Dev.movedMirror (d : Dev) (i : Nat) : Dev :=
  let e := [d.sideHandle i, 0, 0] ++ d.tokenWords i ++ [tkMoved]
  ({ d with pair := { d.pair with tko := d.pair.tko ++ [e] } } : Dev).freeMirror i

/-- A list of R338 written through the PF, `DONE` and its vector. -/
def Dev.writeTko (d : Dev) (es : List (List Nat)) : Dev :=
  let a := d.get Fld.PAIR_TKO_ADDR_ADDR
  let d := if a = 0 then d else d.hostPut 0 a (es.flatMap tkoBytes)
  ((d.put Fld.PAIR_TKO_CNT_ENTRIES es.length).put Fld.PAIR_TKO_CNT_DONE 1).raise 0 (d.get Fld.PAIR_TKO_CNT_MSIX)

/-- Entries in ascending index of their old handle. -/
def tkoSort (es : List (List Nat)) : List (List Nat) := sortBy (fun a b => decide (hIndex (a.getD 0 0) < hIndex (b.getD 0 0))) es

/-- Steps 5 and 6 of R336, once no transfer is left in doubt; with SERVING every effect that waited becomes visible (R331). -/
def Dev.endTakeover (d : Dev) : Dev :=
  if !d.pair.taking || !d.pair.waitAbort.isEmpty then d
  else
    let d := (d.pagesIn pgMirror).foldl Dev.zeroPage d
    let d := d.writeTko (tkoSort d.pair.tko ++ d.mirRings.map fun r => [r.1, 0, r.2.2.2, 0, 0, tkRing])
    let d := d.logEv evTakeover mPair (d.get Fld.PAIR_STAT_SERVED * 2 ^ 32 + d.get Fld.PAIR_STAT_SERVED_EPOCH)
    let d := { (d.setPairState psServing) with pair := { d.pair with taking := false, tko := [], unacked := [], unsent := 0, waitAt := [] }, mirRings := [], mirLand := [] }
    d.unhold

/-- The valid nodes of the peer table. -/
def Dev.peers (d : Dev) : List Nat :=
  (d.dram.blocksOf (d.get Fld.FAB_PEER_BASE_GRAN * granBytes) 8 65536).filter d.peerValid

/-- Whether a takeover may begin (R335). -/
def Dev.mayTake (d : Dev) : Bool :=
  !d.pair.taking && (d.pairState == psSyncing || d.pairState == psPaired || d.pairState == psDetached)

/-- A takeover of the twin (R336, R337): a record in a transfer waits for the answer to its ABORT. -/
def Dev.takeover (d : Dev) (epoch : Nat) : Dev :=
  let n := d.get Fld.PAIR_CFG_TWIN
  let d := { d with pair := { d.pair with taking := true, ahead := [], tko := [], returned := [], waitAbort := [] } }
  let d := (d.put Fld.PAIR_STAT_SERVED n).put Fld.PAIR_STAT_SERVED_EPOCH epoch
  let d := d.peers.foldl (fun (d : Dev) m => d.ctrl m (.notice n epoch)) d
  let is := sortBy (fun a b => decide (hIndex (d.sideHandle a) < hIndex (d.sideHandle b))) d.mirrorRecs
  let d := is.foldl (fun (d : Dev) i =>
    if d.sideState i = recActive then d.convertMirror i
    else if d.sideState i = recLeaving then
      let h : XferHdr := ⟨BitVec.ofNat 32 (d.sideXfer i), BitVec.ofNat 16 n, BitVec.ofNat 16 (d.sideDest i), BitVec.ofNat 32 epoch⟩
      ({ d with pair := { d.pair with waitAbort := d.pair.waitAbort ++ [i] } } : Dev).ctrlAs (d.sideDest i) n (.abort h)
    else d.freeMirror i) d
  d.endTakeover

/-- AUTO_TAKEOVER (R335): both paths silent, and no instruction of the fault manager, for `AUTO_MS`. -/
def execAutoTakeover (t : BitVec 64) (s : State) : Host.Outcome State Fault Refusal :=
  onHall (fun d =>
    let d := d.advanceTo t.toNat
    let ms := d.get Fld.PAIR_CFG_AUTO_MS * 1000000
    match d.pair.silentAt with
    | none => d
    | some a =>
      if !d.mayTake ∨ !(d.flag Fld.PAIR_CFG_AUTO) ∨ d.ns < a + ms ∨ d.ns < d.pair.fmAt + ms then d
      else d.takeover ((d.peerEpoch (d.get Fld.PAIR_CFG_TWIN) + 1) % 2 ^ 32)) s

/-- The record whose transfer an answer decides. -/
def Dev.inDoubt (d : Dev) (xid dst : Nat) : Option Nat :=
  if d.pair.taking ∧ dst = d.get Fld.PAIR_STAT_SERVED then d.pair.waitAbort.find? fun i => d.sideXfer i == xid else none

/-- The doubt about a record ended. -/
def Dev.decided (d : Dev) (i : Nat) : Dev := { d with pair := { d.pair with waitAbort := d.pair.waitAbort.filter (· ≠ i) } }

/-- ABORT_ACK (R337): the survivor converts the record; the answer to a source's own ABORT asks for nothing. -/
def execAbortAck (xid : BitVec 32) (dst : BitVec 16) (s : State) : Host.Outcome State Fault Refusal :=
  onHall (fun d =>
    match d.inDoubt xid.toNat dst.toNat with
    | none => d
    | some i => d.hear (.abortAck xid.toNat) (d.sideDest i) fun d => ((d.decided i).convertMirror i).endTakeover) s

/-- Whether an answer addressed to `dst` is meant for a transfer (R336). -/
def Dev.answersTo (d : Dev) (x : Xfer) (dst : Nat) : Bool := if d.underServed x then dst == d.get Fld.PAIR_STAT_SERVED else dst == d.node

/-- COMMIT_ACK (R19, R62): the source's record is retired; for a survivor, the record of the twin is freed (R337). -/
def execCommitAck (xid handle : BitVec 32) (dst : BitVec 16) (s : State) : Host.Outcome State Fault Refusal :=
  onHall (fun d =>
    let m := Ctrl.commitAck xid.toNat handle.toNat
    match d.inDoubt xid.toNat dst.toNat with
    | some i => d.hear m (d.sideDest i) fun d => ((d.decided i).movedMirror i).endTakeover
    | none =>
      match d.xfer xid.toNat with
      | none => d
      | some x => if d.answersTo x dst.toNat then d.hear m x.dest fun d => d.commitAck xid.toNat handle.toNat else d) s

/-- TAKEOVER_NOTICE (R339); `listed`: the fault manager's pair list names the sender as the node's twin. -/
def execTakeoverNotice (sender node : BitVec 16) (epoch senderEpoch : BitVec 32) (listed : Bool) (s : State) : Host.Outcome State Fault Refusal :=
  onHall (fun d => d.hear (.notice node.toNat epoch.toNat) sender.toNat fun d =>
    if listed ∧ d.epochOk sender.toNat senderEpoch.toNat ∧ d.peerEpoch node.toNat < epoch.toNat then d.peerPut node.toNat epoch.toNat true
    else d) s

/-- Every entry that names a page mirrored as it now stands (R328). -/
def Dev.mirrorRefs (d : Dev) (p : Nat) : Dev :=
  d.ownRecs.foldl (fun (d : Dev) i =>
    ((d.usedEntries i).filter fun x => decide (d.entry i x = ⟨(d.page p).vtag, p, 1⟩)).foldl (fun (d : Dev) x => d.mirrorPage i x p) d) d

/-- `HOT` of a page written: one marked hot is mirrored through every entry that names it (R328, R334). -/
def Dev.markHot (d : Dev) (p : Nat) (hot : Bool) : Dev :=
  let d := d.setPage p { (d.page p) with hot := hot }
  if hot then d.mirrorRefs p else d

/-- Whether entry `x` of a record lies in layers `l0` to `l0 + n - 1`. -/
def Dev.inLayers (d : Dev) (i l0 n x : Nat) : Bool :=
  let l := x / d.rHeads i % d.rLayers i
  decide (l0 ≤ l) && decide (l < l0 + n)

/-- SEQ_HOT (R334). A stale reference in the named layers ends it with nothing done (R41). -/
def execSeqHot (c : CmdId) (s : State) : Host.Outcome State Fault Refusal :=
  onHall (fun d =>
    match d.act c opSeqHot with
    | none => d
    | some k =>
      let n0 := d.pair.next
      let e := k.entry
      let h := u32 e 16
      let i := hIndex h
      let st := d.checkHandle h k.tenant k.order
      let l0 := u8 e 20
      let n := u8 e 21
      if st ≠ stOK then d.endCmd k n0 st []
      else if d.rLayers i < l0 + n ∨ 1 < u8 e 22 then d.endCmd k n0 stAborted []
      else
        let set := u8 e 22 == 1
        let xs := (d.usedEntries i).filter (d.inLayers i l0 n)
        match (xs.map (d.entry i)).find? d.staleRef with
        | some r => (d.tagMismatch mMover r.page r.vtag).endCmd k n0 stAborted []
        | none =>
          let ps := ((xs.map (d.entry i)).filter fun r => r.loc == 1).map (·.page)
          let (d, m) := ps.foldl (fun (r : Dev × Nat) p => if (r.1.page p).hot = set then r else (r.1.markHot p set, r.2 + 1)) (d.touch i, 0)
          d.endCmd k n0 stOK [m]) s

/-! ## Epochs (R340) -/

/-- A new epoch of this device (R340, R42). -/
def Dev.takeEpoch (d : Dev) (epoch : Nat) : Dev := if d.epoch = epoch then d else (d.put Fld.FAB_EPOCH_EPOCH epoch).startSweep

/-! ## Admission (R342 to R345) -/

/-- A record of the served node as the loader sends it: the words of the failed device's record, header words, pages and landing
rows (R342, R344). -/
def Dev.sendLoad (d : Dev) (i : Nat) : Dev :=
  let ph := d.sideHandle i
  let ws := (List.range 16).map fun w => BitVec.ofNat 64 (if w = 0 then setBits (d.rword i 0) 63 47 (hGen ph) else d.rword i w)
  let hs := (List.range (d.rLayers i)).map fun l => BitVec.ofNat 64 (d.dramWord (d.hdrAddr i l))
  let page (x : Nat) : Option XferPage :=
    let e := d.entry i x
    let g := d.page e.page
    if e.loc = 1 ∧ g.vtag = e.vtag then
      some ⟨⟨0, BitVec.ofNat 16 d.node, BitVec.ofNat 16 d.pair.loadNode, BitVec.ofNat 32 d.epoch⟩, BitVec.ofNat 32 x, BitVec.ofNat 2 g.mode, BitVec.ofNat 8 g.fill, g.hot,
        d.payload e.page, d.scales e.page, d.summary e.page, BitVec.ofNat 32 (crc32c (d.payload e.page ++ d.scales e.page))⟩
    else none
  let rows := (List.range (d.rLayers i)).flatMap fun l => (List.range (d.rHeads i)).flatMap fun h =>
    (List.range (d.lrows i l)).flatMap fun k => d.row i l h (d.paged i l + k)
  d.ctrl d.pair.loadNode (.load (d.handleOf i) (hIndex ph) ws hs ((d.usedEntries i).filterMap page) rows)

/-- LOADING entered on the loader (R342): what it holds for the served node, then its own records under their classes. -/
def Dev.startLoad (d : Dev) : Dev :=
  let d := ({ d with pair := { d.pair.renumber with returned := d.pair.returned.filter fun i => d.rState i == recActive } } : Dev).setAdm admLoading
  let d := d.pair.returned.foldl Dev.sendLoad d
  d.initialCopy (d.ownRecs.filter fun i => !(d.pair.returned.contains i))

/-- SPARE_TEST_DONE (R342): on the loader, the word that the spare has passed. -/
def execSpareTestDone (pass : Bool) (s : State) : Host.Outcome State Fault Refusal :=
  onHall (fun d =>
    if d.adm ≠ admTesting then d
    else if !pass then (d.setAdm admFailed).logAdm
    else if d.flag Fld.PAIR_ADMIT_LOADER then d.startLoad
    else ({ d with pair := { d.pair.renumber with returned := [] } } : Dev).setAdm admLoading) s

/-- A mirror that stands at an index a returned record needs moved to another (R344). -/
def Dev.moveMirror (d : Dev) (i : Nat) : Option Dev :=
  d.freeRec.map fun j =>
    let g := genIssued (d.rGen j)
    let gi := d.rGen i
    let d := (List.range 16).foldl (fun (d : Dev) w => d.rset j w (d.rword i w)) d
    let d := (d.rput j 0 63 47 g).setSide j (d.sideHandle i) (d.sideState i) (d.sideXfer i) (d.sideDest i)
    let d := ((List.range 16).foldl (fun (d : Dev) w => d.rset i w 0) d).rput i 0 63 47 (genAfter gi)
    let moved (k : RunKind) : RunKind := if k = .pageMap i then .pageMap j else if k = .landing i then .landing j else k
    { (d.setSide i 0 0 0 0) with
        runs := d.runs.map (fun r => { r with kind := moved r.kind })
        mirLand := d.mirLand.foldl (fun m e => sput (0, 0) (if e.1 / 256 = i then 256 * j + e.1 % 256 else e.1) e.2 m) [] }

/-- Landing rows of a loaded record put in their places. -/
def Dev.placeRows (d : Dev) (i : Nat) (rows : List Byte) : Dev :=
  let at' (l h k : Nat) : Nat :=
    ((List.range l).map fun m => d.lrows i m * d.rHeads i).foldl (· + ·) 0 + h * d.lrows i l + k
  (List.range (d.rLayers i)).foldl (fun (d : Dev) l =>
    let d := (List.range (d.rHeads i)).foldl (fun (d : Dev) h => (List.range (d.lrows i l)).foldl (fun (d : Dev) k =>
      d.dramPut (d.rowAddr i l h (d.paged i l + k)) (slice rows (at' l h k * d.rowBytes i) (d.rowBytes i))) d) d
    d.setLanded i l (d.paged i l) (d.paged i l + d.lrows i l)) d

/-- A returned record placed at its own index and generation (R344): its copy replaces one that stands there. The spare may have no
room for all of it: it then takes nothing, but what the attempt quarantined (R40), and the refusal is counted (R429). -/
def Dev.placeReturned (d0 : Dev) (ph i : Nat) (ws hs : List Word) (pages : List XferPage) (rows : List Byte) : Dev :=
  let d := match d0.mirrorOf (hIndex ph) with
    | some j => d0.freeMirror j
    | none => d0
  let room := if d.rState i = recFree then some d else if d.rState i = recMirror ∧ !(d.pair.returned.contains i) then d.moveMirror i else none
  let w0 := (ws.getD 0 0).toNat
  match room with
  | none => d0
  | some d =>
    match (d.makeMirror i (bits w0 63 47) ws).bind (Dev.takeLanding · i) with
    | none => d0.refusedPool
    | some d =>
      let d := (d.copyWords i ws).setSide i ph recActive 0 0
      let d := (List.range (d.rLayers i)).foldl (fun (d : Dev) l => d.dramPutN 8 (d.hdrAddr i l) (hs.getD l 0).toNat) d
      let d := (d.placeRows i rows)
      let kept := pages.foldl (fun (r : Except Dev Dev) m => r.bind fun d =>
        d.keepPage i m.entry.toNat m.mode.toNat (d.rHdim i) m.fill.toNat m.hot m.payload m.scale m.summary true) (.ok d)
      match kept with
      | .error d' => (d0.keepQuarantined d').refusedPool
      | .ok d => { d with pair := { d.pair with returned := insertNat i d.pair.returned } }

/-- ADMISSION_RECORD_LOAD (R342, R344). -/
def execAdmissionRecordLoad (src : BitVec 16) (phandle : BitVec 32) (index : BitVec 15) (words headers : List Word) (pages : List XferPage)
    (rows : List Byte) (s : State) : Host.Outcome State Fault Refusal :=
  onHall (fun d => d.hear (.load phandle.toNat index.toNat words headers pages rows) src.toNat fun d =>
    if !d.spare ∨ d.adm ≠ admLoading then d
    else d.placeReturned phandle.toNat index.toNat words headers pages rows) s

/-- ADMISSION_LOAD_DONE (R342): everything sent and acknowledged; the spare learns it too. -/
def execAdmissionLoadDone (s : State) : Host.Outcome State Fault Refusal :=
  onHall (fun d =>
    if d.adm ≠ admLoading then d
    else if d.flag Fld.PAIR_ADMIT_LOADER ∧ (d.pair.acked < d.pair.syncTo ∨ d.pair.short) then d
    else d.setAdm admReady) s

/-- The loader's side of the handover (R345): its copies become MIRROR, under the spare's handles. -/
def Dev.handOver (d : Dev) : Dev :=
  let is := d.pair.returned
  let d := is.foldl (fun (d : Dev) i => (d.rput i 0 46 44 recMirror).setSide i (d.sideHandle i) recActive 0 0) d
  let own := (d.ownRecs.flatMap d.recPages)
  let d := is.foldl (fun (d : Dev) i => (d.recPages i).foldl (fun (d : Dev) p =>
    let e := d.page p
    if e.tree ∨ own.contains p then d else d.setPage p { e with state := pgMirror }) d) d
  let n := d.get Fld.PAIR_STAT_SERVED
  let d := ((d.peerPut n d.pair.newEpoch true).peerPut d.pair.loadNode (d.peerEpoch d.pair.loadNode) false).put Fld.PAIR_STAT_SERVED 0
  let d := { (d.put Fld.PAIR_STAT_SERVED_EPOCH 0) with pair := { d.pair with returned := [] } }
  (d.setAdm admAdmitted).setPairState psPaired

/-- The spare's side (R345): the failed device's node ID, its new epoch, its records. -/
def Dev.takeOver (d : Dev) : Dev :=
  let d := (d.put Fld.FAB_CFG_NODE_ID d.pair.newNode).takeEpoch d.pair.newEpoch
  let d := d.pair.returned.foldl Dev.ownRec d
  let d := { (d.put Fld.PAIR_CFG_TWIN d.pair.loadNode) with pair := { d.pair with returned := [] } }
  (d.setAdm admAdmitted).setPairState psPaired

/-- ADMISSION_HANDOVER (R345): at the catch of `STROKE`, once the commands that already run on the returned sequences have
ended; the traffic unit's work of the catch follows it (R440). -/
def execAdmissionHandover (s : State) : Host.Outcome State Fault Refusal :=
  onHall (fun d =>
    let d := d.missAdmission
    if !d.handoverDue then d
    else (if d.flag Fld.PAIR_ADMIT_LOADER then d.handOver else d.takeOver).trafficCatch) s

/-! ## A failed DRAM stack (R347) -/

/-- Granules of a stack (R356). -/
def stackGrans : Nat := 32 * pcGrans

/-- Whether a run of granules touches a stack. -/
def inStack (st : Nat) (r : Nat × Nat) : Bool := decide (0 < r.2) && decide (r.1 < (st + 1) * stackGrans) && decide (st * stackGrans < r.1 + r.2)

/-- A page of a failed stack given up: its granules are gone with the stack. -/
def Dev.losePage (d : Dev) (p : Nat) : Dev :=
  let e := d.page p
  let d := d.setPage p { e with state := pgFree, refc := 0, tree := false, tree2 := false, hot := false }
  let d := { d with runs := d.runs.filter fun (r : Run) => r.kind != RunKind.page p }
  d.unuse e.tenant t1 (pageGrans e.mode)

/-- The lost pages of a record replaced by the twin's copies, as far as there are any and they find room (R347). -/
def Dev.restore (d : Dev) (i : Nat) (lost : List (Nat × Nat)) (copies : List (BitVec 15 × XferPage)) : Dev :=
  lost.foldl (fun (d : Dev) xp =>
    let x := xp.1
    let d := d.setEntry i x PEntry.empty
    match copies.find? fun c => c.1.toNat == i && c.2.entry.toNat == x with
    | none => d
    | some (_, m) =>
      let t := d.rTenant i
      if !(d.admits t t1 (pageGrans m.mode.toNat)) then d.refusedQuota
      else match d.takePage pgReserved t m.mode.toNat (d.rHdim i) with
        | .error d' => (d.keepQuarantined d').refusedPool
        | .ok (p, d) =>
          let d := d.setPage p { (d.page p) with refc := 1, fill := m.fill.toNat, hot := m.hot }
          let d := d.fillPage p m.payload m.scale (if m.summary.isEmpty then none else some m.summary)
          let d := d.setPage p { (d.page p) with state := pgOwned }
          (d.setEntry i x ⟨(d.page p).vtag, p, 1⟩).mirrorPage i x p) d

/-- DRAM_STACK_FAILURE (R346, R347): `copies` are the twin's copies of lost pages, by record and entry. -/
def execDramStackFailure (stack : BitVec 3) (copies : List (BitVec 15 × XferPage)) (s : State) : Host.Outcome State Fault Refusal :=
  onHall (fun d =>
    let st := stack.toNat
    let d := d.logEv evUnitFailed mCox (2 * 256 + st)
    if (d.pinnedRegions ++ d.ringRegions).any (inStack st) then
      ((d.liveRings.filter fun r => d.ringState r == rsRun || d.ringState r == rsWait).foldl Dev.ringStop d).emit (.mgmtReport 2)
    else
      let gone := d.listedPages.filter fun p =>
        let e := d.page p
        e.state != pgFree && e.state != pgQuarantined && inStack st (e.gran, pageGrans e.mode)
      let hit := (d.ownRecs.map fun i => (i, ((d.usedEntries i).filter fun x => (d.entry i x).loc == 1 && gone.contains (d.entry i x).page).map
        fun x => (x, (d.entry i x).page))).filter fun ix => !ix.2.isEmpty
      let d := gone.foldl Dev.losePage d
      let d := { d with runs := d.runs ++ [(⟨st * stackGrans, stackGrans, none, .table⟩ : Run)] }
      let (d, es) := hit.foldl (fun (r : Dev × List (List Nat)) ix =>
        let (d, es) := r
        let i := ix.1
        let before := d.leastHeld i
        let d := d.restore i ix.2 copies
        let (n, d) := d.convert i fun _ => true
        let d := d.mirrorRec i
        (d, es ++ [[d.handleOf i, d.handleOf i, n] ++ d.tokenWords i ++ [if n < before then tkRegen else tkKept]])) (d, [])
      d.writeTko (tkoSort es)) s

/-! ## The logbook (R348 to R351) -/

/-- The 32 bytes of a record (R348). -/
def logBytes (seq : Nat) (e : LogEv) : List Byte :=
  toBytes 8 e.stamp ++ toBytes 4 seq ++ toBytes 2 e.code ++ toBytes 1 e.src
    ++ toBytes 1 (0x80 + (if e.hold then 0x40 else 0) + (if e.lost then 0x20 else 0)) ++ toBytes 4 e.stroke ++ toBytes 2 e.angle ++ zeros 2
    ++ toBytes 8 e.data

/-- The `OVERFLOW` event of dropped events: their count, and the stamps of the first (R350). -/
def overflowEv (n : Nat) (e : LogEv) : LogEv := { e with code := evOverflow, src := mTiming, data := n }

/-- LOG_RECORD_WRITE (R349 to R351): the oldest event written; the entry it frees takes a pending `OVERFLOW`. -/
def execLogRecordWrite (s : State) : Host.Outcome State Fault Refusal :=
  onHall (fun d =>
    match d.log.fifo with
    | [] => d
    | e :: rest =>
      let a := d.log.base + 32 * (d.log.next % 8192)
      let d := if d.hallOk none a 32 then (d.hallStore mTiming a (logBytes d.log.next e)).1 else d.deny
      let log := match d.log.first with
        | some f => { d.log with fifo := rest ++ [overflowEv d.log.pending f], pending := 0, first := none }
        | none => { d.log with fifo := rest }
      let d := { d with log := { log with next := (log.next + 1) % 2 ^ 32 } }
      if d.flag Fld.LOG_CFG_IRQ then d.raise 0 (d.get Fld.LOG_CFG_MSIX) else d) s

end Sys2Proof.Machine
end

