-- ==== Sys2Proof/Machine/Partition.lean ====
section
/-! DEFINITION. Machine/Partition.lean: tenant partitions: their forming, change and release, and the scrubbing of boats, ways and
granules (chapter 15, R355 to R365). -/

namespace Sys2Proof.Machine

/-! ## Slots -/

def Dev.partState (d : Dev) (k : Nat) : Nat := d.get Fld.SEC_PART0_STATE k
def Dev.partTenant (d : Dev) (k : Nat) : Nat := d.get Fld.SEC_PART0_TENANT k

/-- A slot's state changed, with its record (R359, R374). -/
def Dev.setPart (d : Dev) (k n : Nat) : Dev :=
  if d.partState k = n then d
  else (d.logEv evPartState mCox (k * 2 ^ 40 + d.partTenant k * 2 ^ 32 + d.partState k * 256 + n)).put Fld.SEC_PART0_STATE n k

/-- An instruction refused for what is in use (R359, R360, R374). -/
def Dev.partRefused (d : Dev) (k why : Nat) : Dev := d.logEv evPartRefused mCox (k * 2 ^ 40 + why)

/-- Why (R374). -/
def prBusy : Nat := 1
def prWay : Nat := 2
def prPc : Nat := 3

/-- The pseudo-channels of a slot written. -/
def Dev.setPcs (d : Dev) (k m : Nat) : Dev :=
  (((d.put Fld.SEC_PART2_PCS (m % 2 ^ 64) k).put Fld.SEC_PART3_PCS (m / 2 ^ 64 % 2 ^ 64) k).put Fld.SEC_PART4_PCS (m / 2 ^ 128 % 2 ^ 64) k).put
    Fld.SEC_PART5_PCS (m / 2 ^ 192 % 2 ^ 64) k

/-- The numbers of the bits set in a mask of `n` bits. -/
def bitsOf (n m : Nat) : List Nat := (List.range n).filter (bit m)

/-- The boats of all partitions, and of those still scrubbed. -/
def Dev.takenBoats (d : Dev) : Nat :=
  (List.range 64).foldl (fun m k => if d.partState k = ptFree then m else m ||| d.get Fld.SEC_PART1_BOATS k)
    (d.scrubs.foldl (fun m s => m ||| 2 ^ s.boat) 0)

/-- Whether a way may be given to a partition (R357, R360): the system's and clean. -/
def Dev.freeWay (d : Dev) (w : Nat) : Bool := !(d.flag Fld.HAL_WAY_TEN w) && !(d.wayScrubs.any (·.1 == w))

/-- Bits of `m` that `n` has too. -/
def meets (m n : Nat) : Bool := (m &&& n) != 0

/-- The pseudo-channels that hold a pinned region: the system keeps them (R358). -/
def Dev.pinnedPcs (d : Dev) : Nat :=
  ((distinct ((d.pinnedRegions.filter fun r => decide (0 < r.2)).flatMap fun r =>
    (List.range ((r.1 + r.2 - 1) / pcGrans + 1 - r.1 / pcGrans)).map (r.1 / pcGrans + ·))).map (2 ^ ·)).foldl (· + ·) 0

/-- Why resources cannot join a partition: 0 when they can; a boat in use or not fitted has no code of its own. -/
def Dev.joinCheck (d : Dev) (p : PartInstr) : Nat :=
  let owned := 2 ^ 256 - 1 - d.systemPcs
  if meets p.pcs.toNat owned ∨ meets p.pcs.toNat d.pinnedPcs then prPc
  else if (bitsOf 128 p.ways.toNat).any fun w => !(d.freeWay w) then prWay
  else if meets p.boats.toNat d.takenBoats ∨ meets p.boats.toNat (2 ^ 64 - 1 - d.get Fld.GLB_BOAT_EN_BOAT) then 4 else 0

/-- Resources added: pseudo-channels, then ways, then boats (R360). -/
def Dev.join (d : Dev) (k : Nat) (p : PartInstr) : Dev :=
  let t := d.partTenant k
  let d := d.setPcs k (d.slotPcs k ||| p.pcs.toNat)
  let d := (bitsOf 128 p.ways.toNat).foldl (fun (d : Dev) w => (d.put Fld.HAL_WAY_TENANT t w).put Fld.HAL_WAY_TEN 1 w) d
  d.put Fld.SEC_PART1_BOATS (d.get Fld.SEC_PART1_BOATS k ||| p.boats.toNat) k

/-- `RMA_RCn` written when a partition is formed (11, "RMA_RCn"): the region that Cox names, when it lies in the tenant's ways and
its lines are a multiple of 4; else no region. -/
def Dev.setCache (d : Dev) (t : Nat) (v : Nat) : Dev :=
  let size := 4096 * bits v 63 56 + 256 * bits v 55 26
  let ok := decide (0 < size) && decide (bits v 55 26 % 4 = 0) && d.hallOk (some t) (bits v 25 0) size
  d.setWord (Fld.RMA_RC_OFF.off t 0) 0 (if ok then v else 0)

/-! ## Scrubs (R362, R363) -/

/-- The cores of a boat. -/
def coresOf (b : Nat) : List Nat := (List.range 8).map (8 * b + ·)

/-- Whether every core of a boat is idle; a failed one counts as such. -/
def Dev.boatIdle (d : Dev) (b : Nat) : Bool :=
  (coresOf b).all fun n => d.get Fld.ATT_CORE_STAT_STATE n == csIdle || d.get Fld.ATT_CORE_STAT_STATE n == csFailed

/-- A boat scrub begun (R362): the boat's cores show SCRUB. -/
def Dev.beginScrub (d : Dev) (b : Nat) : Dev :=
  let d := { d with scrubs := d.scrubs.map fun s => if s.boat = b then { s with drain := false } else s }
  (coresOf b).foldl (fun (d : Dev) n => if d.get Fld.ATT_CORE_STAT_STATE n = csFailed then d else d.coreShow n csScrub 0 0 0 0) d

/-- A boat that leaves a slot: drained when it is busy, scrubbed at once when it is idle (R360). -/
def Dev.leaveBoat (k : Nat) (d : Dev) (b : Nat) : Dev :=
  let d := (coresOf b).foldl (fun (d : Dev) n => d.put Fld.ATT_CORE_CTL_DRAIN 1 n) d
  let d := { d with scrubs := d.scrubs ++ [(⟨b, false, true, k⟩ : BoatScrub)] }
  if d.boatIdle b then d.beginScrub b else d

/-- A way that leaves a slot: the system's at once, then scrubbed in its turn (R360, R363). -/
def Dev.leaveWay (k : Nat) (d : Dev) (w : Nat) : Dev :=
  let d := (d.put Fld.HAL_WAY_TEN 0 w).put Fld.HAL_WAY_TENANT 0 w
  { d with wayScrubs := d.wayScrubs ++ [(w, k)] }

/-- Whether the scrubs of a slot have ended. -/
def Dev.scrubbed (d : Dev) (k : Nat) : Bool := !(d.scrubs.any (·.slot == k)) && !(d.wayScrubs.any (·.2 == k))

/-- Whether a granule run of a tenant lies in a pseudo-channel, allocated or still to be zero-filled. -/
def Dev.inPc (d : Dev) (t p : Nat) : Bool :=
  (d.runs.any fun r => r.tenant == some t && r.start / pcGrans == p) || (d.zeroing.any fun z => z.tenant == some t && z.start / pcGrans == p)

/-- A releasing slot as far as it has come (R361): each pseudo-channel without a granule of the tenant is free; the slot is, once
nothing of the tenant is left (log entry 203). -/
def Dev.releaseCheck (d : Dev) (k : Nat) : Dev :=
  let t := d.partTenant k
  if d.partState k ≠ ptReleasing then d
  else
    let d := (d.listedAdps.filter fun a => (d.adp a).tenant == t && (d.adp a).state == adDraining && d.adpUsers a == 0).foldl Dev.freeAdp d
    let d := d.setPcs k (((bitsOf 256 (d.slotPcs k)).filter (d.inPc t)).foldl (fun m p => m + 2 ^ p) 0)
    let wins := (List.range d.winCount).any fun w => (d.win w).state != wsFree && (d.win w).tenant == t
    let done := d.scrubbed k && !wins && d.slotPcs k == 0 && !(d.listedQps.any fun q => d.qTenant q == t && d.qState q != qsReset && !(qReserved q))
      && !(d.listedAdps.any fun a => (d.adp a).tenant == t && (d.adp a).state != adEmpty)
    if done then (d.setPart k ptFree).put Fld.SEC_PART0_TENANT 0 k else d

/-- What the end of a scrub or of a zero-fill may complete: a change, or a release. -/
def Dev.partCheck (d : Dev) : Dev :=
  (List.range 64).foldl (fun (d : Dev) k =>
    if d.partState k = ptChanging ∧ d.scrubbed k then d.setPart k ptActive else d.releaseCheck k) d

/-- BOAT_DRAINED (R360): every core of the boat is idle; its scrub begins. -/
def execBoatDrained (boat : BitVec 6) (s : State) : Host.Outcome State Fault Refusal :=
  onHall (fun d =>
    let b := boat.toNat
    if (d.scrubs.any fun x => x.boat == b && x.drain) ∧ d.boatIdle b then d.beginScrub b else d) s

/-- The storage of a boat zeroed (R362). -/
def Dev.clearBoat (d : Dev) (b : Nat) : Dev :=
  { d with coreMem := d.coreMem.zero (8 * b * slotBytes) (8 * slotBytes), boatBuf := d.boatBuf.zero (4194304 * b) 4194304 }

/-- The end of a boat scrub (R362): once more after an uncorrectable error, FAILED after the second. -/
def Dev.scrubDone (d : Dev) (x : BoatScrub) (bad : Bool) : Dev :=
  let b := x.boat
  let d := (d.clearBoat b).bump Fld.SEC_SCRUB_BOATS
  if bad && !x.again then { d with scrubs := d.scrubs.map fun y => if y.boat = b then { y with again := true } else y }
  else
    let d := { d with scrubs := d.scrubs.filter (·.boat != b) }
    let st := if bad then csFailed else csIdle
    let d := (coresOf b).foldl (fun (d : Dev) n =>
      (if d.get Fld.ATT_CORE_STAT_STATE n = csFailed then d else d.coreShow n st 0 0 0 0).put Fld.ATT_CORE_CTL_DRAIN 0 n) d
    let d := if bad then (d.logEv evUnitFailed mCox (256 + b)).logEv evScrubFault mCox b else d
    (d.put Fld.SEC_PART1_BOATS (setBits (d.get Fld.SEC_PART1_BOATS x.slot) b b 0) x.slot).partCheck

/-- BOAT_SCRUB_DONE (R362). -/
def execBoatScrubDone (boat : BitVec 6) (uncorrectable : Bool) (s : State) : Host.Outcome State Fault Refusal :=
  onHall (fun d =>
    match d.scrubs.find? fun x => x.boat == boat.toNat && !x.drain with
    | none => d
    | some x => d.scrubDone x uncorrectable) s

/-- Bytes of a way. -/
def wayBytes : Nat := 524288

/-- WAY_SCRUB_DONE (R363): the oldest way scrub ends; ways are scrubbed one at a time. -/
def execWayScrubDone (s : State) : Host.Outcome State Fault Refusal :=
  onHall (fun d =>
    match d.wayScrubs with
    | [] => d
    | (w, _) :: rest =>
      let inWay (a : Nat) : Bool := decide (w * wayBytes ≤ a) && decide (a < (w + 1) * wayBytes)
      let d := { d with hall := d.hall.zero (w * wayBytes) wayBytes, hallBad := d.hallBad.filter (fun a => !(inWay a)), wayScrubs := rest }
      (d.bump Fld.SEC_SCRUB_WAYS).partCheck) s

/-- A save slot whose granules are zero-filled is a spare one again (R234, R364). -/
def Dev.slotZeroed (d : Dev) (z : Zeroing) : Dev :=
  let g := d.get Fld.HAL_QSLOT_GRAN
  let s := (z.start - g) / slotGrans
  if z.len = slotGrans ∧ g ≤ z.start ∧ s < 512 + d.get Fld.MEM_FAULT_CFG_SPARE_SLOTS then { d with pool := insertNat s d.pool } else d

/-- ZEROING_DONE (R39, R188, R208, R364): the mover has zero-filled a released run: it is free, its use given back, and its
page FREE with its tag. -/
def execZeroingDone (gran : BitVec 27) (s : State) : Host.Outcome State Fault Refusal :=
  onDev (fun d =>
    match d.zeroing.find? (fun z => z.start == gran.toNat) with
    | none => d
    | some z =>
      let d := { d with dram := d.dram.zero (z.start * granBytes) (z.len * granBytes), zeroing := d.zeroing.filter fun y => !(decide (y = z)) }
      let d := d.bump Fld.SEC_SCRUB_GRANS z.len
      let d := match z.tenant with
        | some t => if z.counts then d.unuse t t1 z.len else d
        | none => d
      let d := match z.page with
        | some p =>
          let d := { d with dram := d.dram.zero (d.scaleAddr p) 512 }
          d.setPage p ⟨0, 0, 0, 0, (d.page p).vtag, 0, 0, pgFree, 0, false, false, false⟩
        | none => d
      (d.slotZeroed z).partCheck) s

/-! ## Removal (R360) -/

/-- Whether a range of hall bytes touches a way. -/
def touchesWay (w a n : Nat) : Bool := decide (0 < n) && decide (a < (w + 1) * wayBytes) && decide (w * wayBytes < a + n)

/-- Whether a way holds a sync block, a completion queue, a read-cache region or a landing area of a tenant (R360). -/
def Dev.wayUsed (d : Dev) (t w : Nat) : Bool :=
  ((d.liveRings.filter fun r => d.ringTenant r == t).any fun r =>
    touchesWay w (d.get Fld.QUE_SYNC_OFF r) 2048
      || (d.flag Fld.QUE_SETUP_CQ_HALL r && touchesWay w (d.get Fld.QUE_CQ_ADDR r) (32 * 2 ^ d.get Fld.QUE_SETUP_CQ_LOG2 r)))
    || touchesWay w (d.get Fld.RMA_RC_OFF t) (4096 * d.get Fld.RMA_RC_GWBUF t + 256 * d.get Fld.RMA_RC_LINES t)
    || (d.listedQps.any fun q => !(qReserved q) && d.qTenant q == t && d.qState q != qsReset && d.qget q 2 63 62 == 0
          && touchesWay w (d.qget q 2 51 0) (d.qget q 3 63 32))

/-- Resources taken away from a slot (R360): all of them, or none when a condition fails. -/
def Dev.removeFrom (d : Dev) (k : Nat) (p : PartInstr) : Option Dev × Nat :=
  let t := d.partTenant k
  let ways := bitsOf 128 p.ways.toNat
  let mine := (List.range 128).filter fun w => d.flag Fld.HAL_WAY_TEN w && d.get Fld.HAL_WAY_TENANT w == t
  let boats := d.get Fld.SEC_PART1_BOATS k
  if (bitsOf 256 p.pcs.toNat).any (d.inPc t) then (none, prPc)
  else if ways.any (d.wayUsed t) then (none, prWay)
  else if !(ways.all mine.contains) ∨ p.pcs.toNat &&& d.slotPcs k ≠ p.pcs.toNat ∨ p.boats.toNat &&& boats ≠ p.boats.toNat
      ∨ mine.length ≤ ways.length ∨ p.pcs.toNat = d.slotPcs k ∨ p.boats.toNat = boats then (none, 0)
  else
    let d := d.setPcs k (d.slotPcs k ^^^ p.pcs.toNat)
    let d := if p.boats = 0 ∧ p.ways = 0 then d else d.setPart k ptChanging
    let d := ways.foldl (Dev.leaveWay k) d
    (some ((bitsOf 64 p.boats.toNat).foldl (Dev.leaveBoat k) d), 0)

/-! ## Release (R361) -/

/-- Every record of a tenant released, with its transfers and reservations. -/
def Dev.releaseRecs (d : Dev) (t : Nat) : Dev :=
  let d := (d.rsvs.filter fun r => d.rTenant r.idx == t).foldl Dev.freeRsv d
  let d := (d.xfers.filter fun x => d.rTenant x.idx == t).foldl (fun (d : Dev) x =>
    if x.phase = .committing then d.endXfer x d.pair.next stAborted 0 else d.failXfer x d.pair.next stAborted) d
  (d.liveRecs.filter fun i => d.rTenant i == t).foldl (fun (d : Dev) i => if d.rState i = recMirror then d.freeMirror i else d.retire i) d

/-- The tables below a table of `n` entries, level by level. -/
def Dev.tablesBelow (d : Dev) : Nat → Nat → Nat → List Nat
  | 0, _, _ => []
  | depth + 1, n, g =>
    let down := ((d.dram.blocksOf (g * granBytes) 8 n).filter fun k => lfType (d.dramWord (g * granBytes + 8 * k)) == lfTable).map fun k =>
      lfFrame (d.dramWord (g * granBytes + 8 * k))
    down ++ down.flatMap (Dev.tablesBelow d depth 512)

/-- A tenant's translations unmapped (R188, R361): granules and cellar entries released, the tables with them. -/
def Dev.unmapAll (d : Dev) (t : Nat) : Dev :=
  let root := d.get Fld.MEM_TT_ROOT_GRAN t
  let mine := (d.runs.filter fun r => r.tenant == some t && (match r.kind with
    | .localLeaf _ => true
    | _ => false)).map (·.start)
  let d := mine.foldl (fun d g => d.freeRun g none) d
  let d := (d.listedCellars.filter fun c => (d.cellar c).tenant == t).foldl Dev.freeCellar d
  if root = 0 then d
  else ((root :: d.tablesBelow 3 8192 root).foldl (fun d g => d.freeRun g none) d).put Fld.MEM_TT_ROOT_GRAN 0 t

/-- A tenant's windows revoked and its queue pairs drained and reset (R276, R260, R361). -/
def Dev.releaseFabric (d : Dev) (t : Nat) : Dev :=
  let ws := (List.range d.winCount).filter fun w => (d.win w).state != wsFree && (d.win w).tenant == t
  let d := ws.foldl (fun (d : Dev) w => (d.setWin w { (d.win w) with state := wsRevoking }).endRevoke w) d
  (d.listedQps.filter fun q => !(qReserved q) && d.qTenant q == t && d.qState q != qsReset).foldl (fun (d : Dev) q =>
    if d.qState q = qsActive then (d.qput q 0 63 61 qsDraining).drainCheck q
    else if d.qState q = qsDraining then d.drainCheck q
    else d.resetQp q) d

/-- The release of a slot begun (R361): steps 1 to 4 at once, its boats and ways to the scrubbers. -/
def Dev.releaseSlot (d : Dev) (k : Nat) : Dev :=
  let t := d.partTenant k
  let d := d.setPart k ptReleasing
  let rs := d.liveRings.filter fun r => d.ringTenant r == t
  let d := (rs.filter fun r => d.ringState r == rsRun || d.ringState r == rsWait).foldl Dev.ringStop d
  let d := rs.foldl Dev.ringFlush d
  let d := (d.releaseRecs t).releaseFabric t
  let d := (d.listedAdps.filter fun a => (d.adp a).tenant == t && (d.adp a).state != adEmpty).foldl (fun (d : Dev) a =>
    if d.adpUsers a = 0 then d.freeAdp a else d.setAdp a { (d.adp a) with state := adDraining }) d
  let d := (({ d.unmapAll t with lines := d.lines.filter (·.tenant ≠ t), gw := d.gw.filter (·.tenant ≠ t) } : Dev)).setCache t 0
  let d := ((List.range 128).filter fun w => d.flag Fld.HAL_WAY_TEN w && d.get Fld.HAL_WAY_TENANT w == t).foldl (Dev.leaveWay k) d
  let busy := d.scrubs.map (·.boat)
  let d := ((bitsOf 64 (d.get Fld.SEC_PART1_BOATS k)).filter fun b => !(busy.contains b)).foldl (Dev.leaveBoat k) d
  d.releaseCheck k

/-! ## PART (R359 to R361) -/

/-- A partition instruction carried out, once what has ended meanwhile is taken into account: the device after it, and whether its
preconditions held. -/
def Dev.part (d : Dev) (p : PartInstr) : Dev × Bool :=
  let d := d.partCheck
  let k := p.slot.toNat
  let st := d.partState k
  let no (why : Nat) : Dev × Bool := (if why = 0 ∨ why = 4 then d else d.partRefused k why, false)
  if st = ptChanging ∨ st = ptReleasing then no prBusy
  else match p.op with
    | .form =>
      if st ≠ ptFree then no prBusy
      else if (d.slotOfTenant p.tenant.toNat).isSome ∨ p.boats = 0 ∨ p.ways = 0 ∨ p.pcs = 0 then no 0
      else if d.joinCheck p ≠ 0 then no (d.joinCheck p)
      else ((((d.put Fld.SEC_PART0_TENANT p.tenant.toNat k).join k p).setCache p.tenant.toNat p.cache.toNat).setPart k ptActive, true)
    | .add =>
      if st ≠ ptActive then no 0
      else if d.joinCheck p ≠ 0 then no (d.joinCheck p)
      else (d.join k p, true)
    | .remove =>
      if st ≠ ptActive then no 0
      else match d.removeFrom k p with
        | (some d, _) => (d, true)
        | (none, why) => no why
    | .release => if st ≠ ptActive then no 0 else (d.releaseSlot k, true)

end Sys2Proof.Machine
end

