-- ==== Sys2Proof/Machine/Prefix.lean ====
section
/-! DEFINITION. Machine/Prefix.lean: the prefix tree: block hashes, nodes, block vectors, lookup, insertion, eviction and
key loads (R54 to R61, R427), and the epoch sweep (R42, R192). -/

namespace Sys2Proof.Machine

/-- Rotation of a 64-bit value to the left. -/
def rotl64 (x k : Nat) : Nat := (x % 2 ^ 64 * 2 ^ k) % 2 ^ 64 + x % 2 ^ 64 / 2 ^ (64 - k)

/-- One step of the block hash (R54). -/
def hashStep (ab : Nat × Nat) (m : Nat) : Nat × Nat :=
  let a := rotl64 ((ab.1 ^^^ m) * 0x8C3F5D29E1A74B63 % 2 ^ 64) 27
  (a, rotl64 ((ab.2 + a) % 2 ^ 64 * 0xF135C7A92E6D0B87 % 2 ^ 64) 31)

/-- block_hash of R54 over the 256 bytes of a block's token ids. -/
def blockHash (key0 key1 parent : Nat) (tok : List Byte) : Nat :=
  let ms := (chunks 8 32 tok).map ofBytes
  let (a, b) := ms.foldl hashStep (key0 ^^^ parent, key1 ^^^ 0x5C4E13B7A2D986F1)
  let a := a ^^^ b ^^^ 0x40
  let a := (a ^^^ (a >>> 31)) * 0x8C3F5D29E1A74B63 % 2 ^ 64
  let a := a ^^^ (a >>> 29)
  if a = 0 then 1 else a

/-- A tree node (R55). -/
structure PNode where
  hash   : Nat
  tenant : Nat
  depth  : Nat
  last   : Nat
  bvec   : Nat
  hdim   : Nat
  layers : Nat
  heads  : Nat
  kgen   : Nat
deriving DecidableEq, Repr

/-- The table: log2 of its entries, and the hall offset of entry `k`. -/
def Dev.ptSize (d : Dev) : Nat := d.get Fld.IDX_PT_CFG_SIZE_LOG2
def Dev.ptAddr (d : Dev) (k : Nat) : Nat := d.get Fld.IDX_PT_CFG_BASE + 32 * k

/-- The empty entry. -/
def PNode.empty : PNode := ⟨0, 0, 0, 0, 0, 0, 0, 0, 0⟩

/-- Whether the index engine can read entry `k`: its own table stands in system ways (R109), its words correctable (R117). -/
def Dev.ptReads (d : Dev) (k : Nat) : Bool := d.hallOk none (d.ptAddr k) 32 && (d.badWords (d.ptAddr k) 32).isEmpty

/-- A node read: a refused read returns zero (R109), and an entry with an uncorrectable word holds no node (log entry 176). -/
def Dev.pnode (d : Dev) (k : Nat) : PNode :=
  if !(d.ptReads k) then PNode.empty else
  let a := d.ptAddr k
  let w1 := d.hallWord (a + 8)
  let w3 := d.hallWord (a + 24)
  { hash := d.hallWord a, tenant := bits w1 63 56, depth := bits w1 55 32, last := bits w1 31 0, bvec := bits (d.hallWord (a + 16)) 26 0,
    hdim := bits w3 33 32, layers := bits w3 31 24, heads := bits w3 23 16, kgen := bits w3 7 0 }

/-- The accesses that read entry `k` counted: refused (R109), or meeting uncorrectable words (R117). -/
def Dev.ptRead (d : Dev) (k : Nat) : Dev :=
  if d.hallOk none (d.ptAddr k) 32 then d.meetBad mIndex (d.badWords (d.ptAddr k) 32) else d.deny

/-- A node written; a refused write changes nothing (R109). -/
def Dev.setPnode (d : Dev) (k : Nat) (n : PNode) : Dev :=
  if !(d.hallOk none (d.ptAddr k) 32) then d.deny else
  d.hallPut (d.ptAddr k) (toBytes 8 n.hash ++ toBytes 8 (n.tenant * 2 ^ 56 + n.depth % 2 ^ 24 * 2 ^ 32 + n.last % 2 ^ 32) ++ toBytes 8 n.bvec
    ++ toBytes 8 (n.hdim % 4 * 2 ^ 32 + n.layers * 2 ^ 24 + n.heads * 2 ^ 16 + n.kgen))

/-- Buckets of the table, and the four entries of the bucket of a hash (R55). -/
def Dev.buckets (d : Dev) : Nat := 2 ^ (d.ptSize - 2)
def Dev.bucketOf (d : Dev) (hash : Nat) : List Nat := (List.range 4).map (4 * (hash % d.buckets) + ·)

/-- A bucket read. -/
def Dev.readBucket (d : Dev) (hash : Nat) : Dev := (d.bucketOf hash).foldl Dev.ptRead d

/-- A tenant's prefix key (R61). -/
def Dev.prefixKey (d : Dev) (t : Nat) : PrefixKey := sget ⟨0, 0, 0⟩ t d.keys

/-- Entries of a block vector per (layer, head) (R55). -/
def bvSlots (hdim : Nat) : Nat := ceilDiv 64 (tokensOf hdim)

/-- The page-map slots of block `j` (R46, R55). -/
def blockSlots (hdim j : Nat) : List Nat := (List.range (bvSlots hdim)).map (64 * j / tokensOf hdim + ·)

/-- Entries of a node's block vector, and the address of entry `x`. -/
def PNode.count (n : PNode) : Nat := bvSlots n.hdim * n.layers * n.heads
def PNode.addr (n : PNode) (x : Nat) : Nat := n.bvec * granBytes + 8 * x
def Dev.bvEntry (d : Dev) (n : PNode) (x : Nat) : PEntry := unpackEntry (d.dramWord (n.addr x))

/-- Whether every page of a block vector stands in DRAM under the tag it was named with; a stale tag is R41's case. -/
def Dev.bvState (d : Dev) (n : PNode) : Option (Option (Nat × Nat)) :=
  if (List.range n.count).any (fun x => (d.bvEntry n x).loc != 1) then none
  else some (((List.range n.count).map (d.bvEntry n)).findSome? fun e => if (d.page e.page).vtag = e.vtag then none else some (e.page, e.vtag))

/-- The node of block `j` (R56): its place in the table. A node whose parent was evicted is never matched (R60). -/
def Dev.matchNode (d : Dev) (i hash j : Nat) : Option Nat :=
  (d.bucketOf hash).find? fun k =>
    let n := d.pnode k
    n.hash == hash && n.tenant == d.rTenant i && n.depth == j && n.kgen == (d.prefixKey (d.rTenant i)).gen && n.layers == d.rLayers i
      && n.heads == d.rHeads i && n.hdim == d.rHdim i && sget 1 (d.ptAddr k) d.ptParent != 0 && (d.bvState n).isSome

/-- `LAST` of a node set (R55). -/
def Dev.stampNode (d : Dev) (k : Nat) : Dev := d.setPnode k { d.pnode k with last := d.stroke32 }

/-- The tree's reference to a page given up (R60). -/
def Dev.untree (d : Dev) (p : Nat) : Dev :=
  let e := d.page p
  if e.tree2 then d.setPage p { e with tree2 := false }
  else if !e.tree then d
  else if e.refc ≤ 1 then d.zeroPage p
  else d.setPage p { e with tree := false, refc := e.refc - 1, state := sharedState (e.refc - 1) false }

/-- A node evicted (R60): its pages given up, its vector freed, its children never matched again. -/
def Dev.evictNode (d : Dev) (k : Nat) : Dev :=
  let n := d.pnode k
  let es := ((List.range n.count).map (d.bvEntry n)).filter fun e => e.loc == 1 && (d.page e.page).vtag == e.vtag
  let d := (distinct (es.map (·.page))).foldl Dev.untree d
  let d := d.freeRun n.bvec none
  let a := d.ptAddr k
  let par := (sdel a d.ptParent).map fun x => if x.2 = a + 1 then (x.1, 0) else x
  ({ d with ptParent := par } : Dev).setPnode k PNode.empty

/-- The entry an insertion takes in a bucket (R58, R60): a free one, else the oldest, evicted. -/
def Dev.nodePlace (d : Dev) (hash : Nat) : Nat × Dev :=
  let b := d.bucketOf hash
  let free := b.filter fun k => (d.pnode k).hash == 0
  match free with
  | [] =>
    let k := b.tail.foldl (fun o k => if modDiff 32 (d.pnode k).last (d.pnode o).last < 0 then k else o) (b.headD 0)
    (k, d.evictNode k)
  | _ =>
    let (c, d) := d.choose free.length
    (free.getD c (b.headD 0), d)

/-- The entries of a sequence's page map that block `j` names, in the order of a block vector (R46, R55). -/
def Dev.blockEntries (d : Dev) (i j : Nat) : List PEntry :=
  let lh := d.rLayers i * d.rHeads i
  (blockSlots (d.rHdim i) j).flatMap fun s => (List.range lh).map fun x => d.entry i (s * lh + x)

/-- One page of an inserted block (R58). -/
def Dev.entree (d : Dev) (p : Nat) : Dev :=
  let e := d.page p
  if e.tree then d.setPage p { e with tree2 := true } else d.setPage p { e with tree := true, refc := e.refc + 1, state := pgShared }

/-- A block inserted (R58): its vector's granules, its node, its pages. A parent that the insertion itself evicts leaves the new
node without a live one (R60). None: the granules cannot be had, counted under their cause (R429; log entry 21). -/
def Dev.insertBlock (d : Dev) (i hash j : Nat) (parent : Option Nat) : Option Nat × Dev :=
  let l := d.rLayers i
  let h := d.rHeads i
  let t := d.rTenant i
  let es := d.blockEntries i j
  let n := ceilDiv (8 * es.length) granBytes
  if !(d.admits t t1 n) then (none, d.refusedQuota)
  else match d.allocRun (some t) n 1 .blockVec with
  | none => (none, d.refusedPool)
  | some (g, d) =>
    let d := d.dramPut (g * granBytes) (es.flatMap fun e => toBytes 8 (packEntry e))
    let (k, d) := d.nodePlace hash
    let d := d.setPnode k ⟨hash, t, j, d.stroke32, g, d.rHdim i, l, h, (d.prefixKey t).gen⟩
    let d := match parent with
      | some p => { d with ptParent := sins (d.ptAddr k) (if p = k then 0 else d.ptAddr p + 1) d.ptParent }
      | none => d
    (some k, (distinct (es.map (·.page))).foldl Dev.entree d)

/-- The tokens of block `j` of a prefix command. -/
def Dev.blockTokens (d : Dev) (k : RunCmd) (j : Nat) : Res (List Byte) := d.vaRead (some (k.ring, k.index)) k.tenant (u64 k.entry 24 + 256 * j) 256

/-- The hash of block `j` after `parent` under the tenant's key. -/
def Dev.hashOf (d : Dev) (t parent : Nat) (tok : List Byte) : Nat := blockHash (d.prefixKey t).key0 (d.prefixKey t).key1 parent tok

/-- Blocks matched from block `j` on (R56, R57): the places of their nodes. -/
def Dev.lookupFrom (k : RunCmd) (i : Nat) : Nat → Nat → Nat → List Nat → Dev → Res (List Nat)
  | 0, _, _, acc, d => .ok acc d
  | n + 1, j, parent, acc, d =>
    if d.rMaxslots i ≤ (64 * j + 63) / d.rT i then .ok acc d
    else (d.blockTokens k j).andThen fun tok d =>
      let h := d.hashOf (d.rTenant i) parent tok
      let d := d.readBucket h
      match d.matchNode i h j with
      | none => .ok acc d
      | some p => Dev.lookupFrom k i n (j + 1) h (acc ++ [p]) d

/-- The entries of matched blocks copied into the page map (R57). -/
def Dev.copyBlock (i : Nat) (d : Dev) (jp : Nat × Nat) : Dev :=
  let (j, p) := jp
  let n := d.pnode p
  let lh := d.rLayers i * d.rHeads i
  (List.range n.count).foldl (fun d x =>
    d.setEntry i ((64 * j / d.rT i + x / lh) * lh + x % lh) (d.bvEntry n x)) (d.stampNode p)

/-- What a lookup does with the blocks it matched (R57). -/
def Dev.useMatches (d : Dev) (i : Nat) (ps : List Nat) : Dev :=
  match ps.findSome? (fun p => (d.bvState (d.pnode p)).join) with
  | some _ => d
  | none =>
    let d := ((List.range ps.length).zip ps).foldl (Dev.copyBlock i) d
    let d := (d.recPages i).foldl Dev.addRef d
    let d := (d.usedEntries i).foldl (fun d x => d.mirrorPage i x (d.entry i x).page) d
    if ps.isEmpty then d else (List.range (d.rLayers i)).foldl (fun d l => d.setHdr i l (64 * ps.length) (d.lrows i l)) d

/-- The handle check and `PAGED` check of a prefix command, before anything else (R32, R57, R427). -/
def Dev.prefixCheck (d : Dev) (k : RunCmd) (lookup : Bool) : Nat :=
  let h := u32 k.entry 16
  let st := d.checkHandle h k.tenant k.order
  if st ≠ stOK then st
  else if lookup ∧ (List.range (d.rLayers (hIndex h))).any (fun l => d.paged (hIndex h) l != 0) then stAborted else stOK

/-- PREFIX_LOOKUP (R57, R427). -/
def execPrefixLookup (c : CmdId) (s : State) : Host.Outcome State Fault Refusal :=
  onHall (fun d =>
    match d.act c opPrefixLookup with
    | none => d
    | some k =>
      let i := hIndex (u32 k.entry 16)
      let st := d.prefixCheck k true
      if st ≠ stOK then d.endCmd k d.pair.next st []
      else if d.ptSize = 0 then d.endCmd k d.pair.next stOK [0]
      else d.settleCmd k ((Dev.lookupFrom k i (u32 k.entry 32) 0 (u32 k.entry 20) [] d).andThen fun ps d =>
        match ps.findSome? (fun p => (d.bvState (d.pnode p)).join) with
        | some (p, tag) => .ok (stAborted, []) (d.tagMismatch mIndex p tag)
        | none => .ok (stOK, [ps.length]) (d.useMatches i ps))) s

/-- The hashes of the blocks offered whose positions are all in pages (R46, R58), and the first stale reference among them
(R41). -/
def Dev.hashesFrom (k : RunCmd) (i : Nat) : Nat → Nat → Nat → List Nat → Dev → Res (List Nat × Option (Nat × Nat))
  | 0, _, _, acc, d => .ok (acc, none) d
  | n + 1, j, parent, acc, d =>
    if (List.range (d.rLayers i)).any (fun l => decide (d.paged i l < 64 * (j + 1))) then .ok (acc, none) d
    else
      let lh := d.rLayers i * d.rHeads i
      let xs := (blockSlots (d.rHdim i) j).flatMap fun s => (List.range lh).map fun x => s * lh + x
      if xs.any (fun x => (d.entry i x).loc == 0) then .ok (acc, none) d
      else match xs.find? (fun x => (d.entry i x).loc != 1) with
      | some x => .fault (.layer i (x / d.rHeads i % d.rLayers i))
      | none =>
        match (d.blockEntries i j).find? d.staleRef with
        | some e => .ok (acc, some (e.page, e.vtag)) d
        | none => (d.blockTokens k j).andThen fun tok d =>
        let h := d.hashOf (d.rTenant i) parent tok
        Dev.hashesFrom k i n (j + 1) h (acc ++ [h]) d

/-- Blocks offered one after another (R58, R59): present, inserted, and the node of the last. -/
def Dev.insertFrom (i : Nat) : List Nat → Nat → Option Nat → Nat → Nat → Dev → Dev × Nat × Nat
  | [], _, _, ins, pres, d => (d, ins, pres)
  | h :: hs, j, parent, ins, pres, d =>
    let d := d.readBucket h
    match d.matchNode i h j with
    | some p => Dev.insertFrom i hs (j + 1) (some p) ins (pres + 1) (d.stampNode p)
    | none => match d.insertBlock i h j parent with
      | (some p, d) => Dev.insertFrom i hs (j + 1) (some p) (ins + 1) pres d
      | (none, d) => (d, ins, pres)

/-- PREFIX_INSERT (R58, R427). -/
def execPrefixInsert (c : CmdId) (s : State) : Host.Outcome State Fault Refusal :=
  onHall (fun d =>
    match d.act c opPrefixInsert with
    | none => d
    | some k =>
      let i := hIndex (u32 k.entry 16)
      let st := d.prefixCheck k false
      if st ≠ stOK then d.endCmd k d.pair.next st []
      else if d.ptSize = 0 then d.endCmd k d.pair.next stOK [0, 0]
      else d.settleCmd k ((Dev.hashesFrom k i (u32 k.entry 32) 0 (u32 k.entry 20) [] d).andThen fun hs d =>
        match hs.2 with
        | some (p, tag) => .ok (stAborted, []) (d.tagMismatch mIndex p tag)
        | none =>
          let (d, ins, pres) := Dev.insertFrom i hs.1 0 none 0 0 d
          .ok (stOK, [ins, pres]) d)) s

/-- A tenant's key loaded (R61): both halves as the registers hold them, the generation advanced, the scan begun again. -/
def Dev.loadKey (d : Dev) : Dev :=
  let t := d.get Fld.IDX_PT_KEY_SEL_TENANT
  let k : PrefixKey := ⟨d.get Fld.IDX_PT_KEY_LO_KEY0, d.get Fld.IDX_PT_KEY_HI_KEY1, ((d.prefixKey t).gen + 1) % 256⟩
  { d with keys := sins t k d.keys, scans := d.scans.filter (fun x => x.tenant != t) ++ [(⟨t, 0⟩ : KeyScan)] }

/-- A write of the upper half of `IDX_PT_KEY_HI`, alone or within a 64-bit write. -/
def Dev.writeKeyHi (d : Dev) (upperOnly : Bool) (v : Nat) : Dev :=
  (d.put Fld.IDX_PT_KEY_HI_KEY1 (if upperOnly then v % 2 ^ 32 * 2 ^ 32 + d.get Fld.IDX_PT_KEY_HI_KEY1 % 2 ^ 32 else v)).loadKey

/-- Whether a host write through a function reaches the PF's registers (R10, R377). -/
def Dev.pfOpen (d : Dev) (fn : Nat) : Bool := fn == 0 && d.open'

/-- IDX_PT_KEY_LOAD (R61): with `upperOnly`, `v` carries the 32 bits written to the upper half. A part without the index
engine ignores it (R5). -/
def execIdxPtKeyLoad (fn : BitVec 6) (upperOnly : Bool) (v : Word) (s : State) : Host.Outcome State Fault Refusal :=
  onDev (fun d => if d.pfOpen fn.toNat && d.flag Fld.GLB_UNIT_EN_IDX then d.writeKeyHi upperOnly v.toNat else d) s

/-- The stale nodes of a tenant in one bucket evicted (R61). -/
def Dev.scanBucket (d : Dev) (t b : Nat) : Dev :=
  let d := ((List.range 4).map (4 * b + ·)).foldl Dev.ptRead d
  (((List.range 4).map (4 * b + ·)).filter fun k =>
    let n := d.pnode k
    n.hash != 0 && n.tenant == t && n.kgen != (d.prefixKey t).gen).foldl Dev.evictNode d

/-- KEY_SCAN_BUCKET (R61): the scan of a tenant visits its next bucket. -/
def execKeyScanBucket (tenant : BitVec 8) (s : State) : Host.Outcome State Fault Refusal :=
  onHall (fun d =>
    let t := tenant.toNat
    match d.scans.find? (·.tenant == t) with
    | none => d
    | some x =>
      let d := if d.ptSize = 0 then d else d.scanBucket t x.bucket
      let rest := d.scans.filter (fun y => y.tenant != t)
      if d.ptSize = 0 ∨ d.buckets ≤ x.bucket + 1 then { d with scans := rest } else { d with scans := rest ++ [(⟨t, x.bucket + 1⟩ : KeyScan)] }) s

/-- SWEEP_START (R42). -/
def execSweepStart (fn : BitVec 6) (s : State) : Host.Outcome State Fault Refusal :=
  onDev (fun d => if d.pfOpen fn.toNat then d.startSweep else d) s

/-- Nodes of the tree in use. -/
def Dev.nodes (d : Dev) : List Nat :=
  if d.ptSize = 0 then [] else (d.hall.blocksOf (d.get Fld.IDX_PT_CFG_BASE) 32 (2 ^ d.ptSize)).filter fun k => (d.pnode k).hash != 0

/-- Step 1 of the sweep: stale page-map and block-vector entries marked empty, with their number. -/
def Dev.sweepRefs (d : Dev) : Nat × Dev :=
  let maps := d.liveRecs.flatMap fun i => ((d.usedEntries i).filter fun x => d.staleRef (d.entry i x)).map fun x => (i, x)
  let vecs := d.nodes.flatMap fun k =>
    let n := d.pnode k
    ((List.range n.count).filter fun x => (d.bvEntry n x).loc != 0 && d.staleRef (d.bvEntry n x)).map n.addr
  let d := maps.foldl (fun d ix => d.setEntry ix.1 ix.2 PEntry.empty) d
  (maps.length + vecs.length, vecs.foldl (fun d a => d.dramPutN 8 a 0) d)

/-- Step 2: pages reserved under an older epoch. -/
def Dev.sweepReserved (d : Dev) : Nat × Dev :=
  let ps := (d.pagesIn pgReserved).filter fun p => (d.page p).epoch != d.epoch
  let keep (x : Nat × Nat) : Bool := !(ps.contains x.2)
  let d := { d with rsvs := d.rsvs.map fun (r : Rsv) => { r with spare := r.spare.filter keep, placed := r.placed.filter keep } }
  (ps.length, ps.foldl Dev.zeroPage d)

/-- Step 3: pages of an older epoch that no ACTIVE or MIRROR record and no tree names. -/
def Dev.sweepOld (d : Dev) : Nat × Dev :=
  let named := distinct ((d.liveRecs.filter fun i => d.rState i == recActive || d.rState i == recMirror).flatMap d.recPages)
  let ps := d.listedPages.filter fun p =>
    let e := d.page p
    (e.state == pgOwned || e.state == pgShared || e.state == pgMirror) && decide (0 < modDiff 32 d.epoch e.epoch) && !e.tree && !(named.contains p)
  (ps.length, ps.foldl Dev.zeroPage d)

/-- Step 4: quarantined pages and held cellar entries (R42, R192). -/
def Dev.sweepQuar (d : Dev) : Nat × Dev :=
  let ps := d.pagesIn pgQuarantined
  (ps.length, ps.foldl (fun d p => d.setPage p { (d.page p) with state := pgFree, vtag := 0 }) { d with cellarHeld := [] })

/-- SWEEP_DONE (R42): the sweep's steps in order, `BUSY` cleared, the counts logged, 16 bits each (R352). -/
def execSweepDone (s : State) : Host.Outcome State Fault Refusal :=
  onHall (fun d =>
    if !(d.flag Fld.MEM_PD_SWEEP_BUSY) then d
    else
      let (a, d) := d.sweepRefs
      let (b, d) := d.sweepReserved
      let (c, d) := d.sweepOld
      let (q, d) := d.sweepQuar
      let sat (n : Nat) : Nat := min n 0xFFFF
      (d.put Fld.MEM_PD_SWEEP_BUSY 0).logEv evSweepDone mCox (sat a + sat b * 2 ^ 16 + sat c * 2 ^ 32 + sat q * 2 ^ 48)) s

end Sys2Proof.Machine
end

