-- ==== Sys2Proof/Machine/Queues.lean ====
section
/-! DEFINITION. Machine/Queues.lean: the commands of chapter 9: pushes, doorbells, sync words, the queue commands, the choice
of engines, the ends of saves and restores, and the control of rings. -/

namespace Sys2Proof.Machine

/-- The entries of a push (R216). -/
def entriesOf (data : List Byte) : List Entry := chunks 64 (data.length / 64) data

/-- Entries pushed in order; when the ring is popped in the cycle of the first, that one raises no full event (R215). -/
def Dev.pushAll (d : Dev) (r : Nat) (joint : Bool) (es : List Entry) : Dev :=
  match joint, es with
  | true, e :: rest => rest.foldl (Dev.pushOne r) (d.without Fld.QUE_SETUP_IRQ_FULL r (Dev.pushOne r · e))
  | _, es => es.foldl (Dev.pushOne r) d

/-- A write to the push window of a doorbell page (R215 to R217, R377, R391, R431); `joint`: the ring was popped in its cycle. -/
def Dev.push (d : Dev) (fn r off : Nat) (data : List Byte) (joint : Bool := false) : Dev :=
  let k := data.length / 64
  if 0x100 ≤ off then d
  else if off ≠ 0 ∨ data.length % 64 ≠ 0 ∨ k = 0 ∨ 4 < k ∨ !(d.assigned fn r) ∨ !d.open' then d.badPush r 1
  else if d.ringState r = rsOff then d.badPush r k
  else if d.ringSize r < d.depth r + k then (d.bump Fld.QUE_STAT_DROPPED k r).ringErr Fld.QUE_STAT_OVF r
  else
    let d := d.pushAll r joint (entriesOf data)
    if d.ringState r = rsRun then d.dropList r k else d

/-- PUSH (R214): host software pushes one to four entries through a doorbell page. -/
def execPush (fn : BitVec 6) (ring : BitVec 16) (off : BitVec 12) (data : List Byte) (s : State) : Host.Outcome State Fault Refusal :=
  onHall (fun d => d.push fn.toNat ring.toNat off.toNat data) s

/-- CQ_DB (R218): `CQ_CI` set through the doorbell page; completions that waited for room follow (R222). -/
def execCqDb (fn : BitVec 6) (ring : BitVec 16) (v : Word) (s : State) : Host.Outcome State Fault Refusal :=
  onHall (fun d =>
    let r := ring.toNat
    if d.assigned fn.toNat r then (d.put Fld.QUE_CQIDX_CQ_CI (v.toNat % 2 ^ 32) r).release else d) s

/-- An access to a sync word that reaches the hall (R229): the tenant's ways, FetchAdd and Swap as hall ADD and SWAP. -/
def Dev.syncHall (d : Dev) (t a : Nat) (kind : AccessKind) (v : Nat) : Dev :=
  let old := d.hallWord a
  let ok := d.hallOk (some t) a 8
  let d := if ok then d else d.deny
  let bad := if kind = .write ∨ !ok then [] else d.badWords a 8
  let d := d.meetBad mHost bad
  let ok := ok && bad.isEmpty
  match kind with
  | .read => d.emit (.readData (if ok then old else 0))
  | .write => if ok then d.hallPut a (toBytes 8 v) else d
  | .fetchAdd => if ok then (d.hallPut a (toBytes 8 (old + v))).emit (.readData old) else d.emit (.readData 0)
  | .swap => if ok then (d.hallPut a (toBytes 8 v)).emit (.readData old) else d.emit (.readData 0)
  | .cas => d.emit .unsupported

/-- An access to a doorbell page beside pushes and `CQ_DB` (R218, R229, R431). -/
def Dev.syncAccess (d : Dev) (fn r off width : Nat) (kind : AccessKind) (v : Nat) : Dev :=
  if off < 0x800 then
    match kind with
    | .read =>
      d.emit (.readData (if off = 0x108 ∧ width = 8 ∧ d.assigned fn r then d.ringPI r * 2 ^ 32 + d.ringCI r else 0))
    | .write => d
    | _ => d.emit .unsupported
  else if kind = .cas ∨ ((off % 8 ≠ 0 ∨ width ≠ 8) ∧ kind ≠ .write) then d.emit .unsupported
  else if off % 8 ≠ 0 ∨ width ≠ 8 then d
  else if !(d.assigned fn r) then (if kind = .write then d else d.emit (.readData 0))
  else d.syncHall (d.ringTenant r) (d.get Fld.QUE_SYNC_OFF r + off - 0x800) kind v

/-- SYNC_WORD_ACCESS (R229): the host reads, writes, or atomically changes a sync word. -/
def execSyncWordAccess (fn : BitVec 6) (ring : BitVec 16) (off : BitVec 12) (width : BitVec 8) (kind : AccessKind) (v : Word)
    (s : State) : Host.Outcome State Fault Refusal :=
  onHall (fun d => d.syncAccess fn.toNat ring.toNat off.toNat width.toNat kind v.toNat) s

/-- Whether a push is taken into a ring that is popped in the same cycle (R215 to R217). -/
def Dev.pushFits (d : Dev) (p : JointPush) : Bool :=
  let r := p.ring.toNat
  let k := p.data.length / 64
  p.off == 0 && p.data.length % 64 == 0 && decide (1 ≤ k) && decide (k ≤ 4) && d.assigned p.fn.toNat r && d.open' && d.ringState r != rsOff
    && decide (d.depth r + k ≤ d.ringSize r + 1)

/-- One choice of an engine in a cycle in which a push reaches a ring (R215). The engine sees the ring as it stood before the
push. A pop that the push makes up for raises no EMPTY, a push into the slot that the pop freed no full event. -/
def Dev.dispatchWith (d : Dev) (eng : Nat) (p : JointPush) : Dev :=
  let r := p.ring.toNat
  let ci := d.ringCI r
  let d := if d.pushFits p then d.without Fld.QUE_SETUP_IRQ_EMPTY r (Dev.dispatch · eng) else d.dispatch eng
  d.push p.fn.toNat r p.off.toNat p.data (d.ringCI r != ci)

/-- ENGINE_DISPATCH (R232): one choice of an engine, with the push that reaches a ring in the same cycle, if any (R215). -/
def execEngineDispatch (engine : BitVec 3) (joint : Option JointPush) (s : State) : Host.Outcome State Fault Refusal :=
  onHall (fun d =>
    if engine.toNat < 5 then
      match joint with
      | none => d.dispatch engine.toNat
      | some p => d.dispatchWith engine.toNat p
    else match joint with
      | none => d
      | some p => d.push p.fn.toNat p.ring.toNat p.off.toNat p.data) s

/-- PREEMPT_SAVE_DONE (R234): the core's state is in its slot. -/
def execPreemptSaveDone (core : BitVec 9) (s : State) : Host.Outcome State Fault Refusal := onHall (fun d => d.saveDone core.toNat) s

/-- RESTORE_DONE (R235): the core continues at the saved instruction. -/
def execRestoreDone (core : BitVec 9) (s : State) : Host.Outcome State Fault Refusal := onHall (fun d => d.restoreDone core.toNat) s

/-- NOP (R220). -/
def execNop (ring : BitVec 16) (s : State) : Host.Outcome State Fault Refusal :=
  onHall (fun d =>
    let r := ring.toNat
    if d.ready r && opOf (d.head r) == opNop then d.popEnd r stOK [] else d) s

/-- WAIT (R225): armed at the head of its ring. -/
def execWait (ring : BitVec 16) (s : State) : Host.Outcome State Fault Refusal :=
  onHall (fun d =>
    let r := ring.toNat
    if d.ready r && opOf (d.head r) == opWait then d.armWait r else d) s

/-- A polled wait's look at its word (R226): every `POLL` cycles, and by a watch as soon as one frees. -/
def Dev.pollWait (d : Dev) (r : Nat) : Dev :=
  match d.watches.find? (fun w => w.ring == r && w.polled) with
  | none => d
  | some w =>
    let d := { d with watches := d.watches.map fun x => if x = w then { w with polled := decide (16384 ≤ d.armed), polledAt := d.clk.now } else x }
    if waitHolds (d.head r) (d.hallWord w.addr) = some true then d.endWait r stOK (halves (d.hallWord w.addr)) else d

/-- WAIT_POLL (R226): a wait that found no watch reads its word again once `POLL` cycles have passed. -/
def execWaitPoll (ring : BitVec 16) (s : State) : Host.Outcome State Fault Refusal :=
  onHall (fun d =>
    let r := ring.toNat
    if d.watches.any (fun w => w.ring == r && w.polled && decide (w.polledAt + 2 * atLeast1 (d.get Fld.HAL_QCFG_POLL) ≤ d.clk.now))
    then d.pollWait r else d) s

/-- The watchdog of a wait inside a command for fabric acknowledgements (R228); the results of a command that had counted them
(R128, R174, R176) stand. One that waits within its run takes the status, with which its next row ends it (R123, R133). -/
def Dev.ackTimeout (d : Dev) (k : RunCmd) : Dev :=
  let mine := d.ops.filter fun o => o.cmd == some (k.ring, k.index)
  if !(d.expired 0 0 k.ring k.strokes k.lostT) ∨ ((k.phase = .run ∨ k.phase = .held) ∧ mine.isEmpty = true) then d
  else
    let d := match k.core with
      | some n => d.put Fld.ATT_CORE_ERR_WATCHDOG 1 n
      | none => d
    let d := mine.foldl Dev.dropUnsent { d with ops := d.ops.filter fun o => !(mine.contains o) }
    let d := mine.foldl (fun (d : Dev) o => d.drainCheck o.qp) d
    if k.phase = .run ∨ k.phase = .held then d.setCmd { k with status := if k.status ≠ stOK then k.status else stWaitTimeout, ops := [], waits := false, strokes := 0, lostT := 0 }
    else d.endCmd k d.pair.next stWaitTimeout (if opOf k.entry = opAttnStep ∨ opOf k.entry = opLoraApply ∨ opOf k.entry = opWstream then k.res.take 2 else [])

/-- WATCHDOG_EXPIRY (R227, R228): the waits of a ring whose limits have run out end with WAIT_TIMEOUT. -/
def execWatchdogExpiry (ring : BitVec 16) (t : BitVec 64) (s : State) : Host.Outcome State Fault Refusal :=
  onHall (fun d =>
    let r := ring.toNat
    let d := d.advanceTo t.toNat
    let d := (d.cmds.filter fun k => k.ring == r && (decide (k.phase = .acks) || ((decide (k.phase = .run) || decide (k.phase = .held)) && k.waits))).foldl Dev.ackTimeout d
    match d.watches.find? (fun w => w.ring == r) with
    | none => d
    | some w => if d.expired (u8 (d.head r) 21) (u16 (d.head r) 22) r w.strokes w.lostT then d.endWait r stWaitTimeout [] else d) s

/-- What a SIGNAL does (R230): its status and results. -/
def Dev.signalAct (d : Dev) (r : Nat) (e : Entry) : Dev × Nat × List Nat :=
  let a := u64 e 16
  let v := u64 e 32
  let op := u8 e 24
  let sp := u8 e 25
  if sp = 1 ∧ op = 0 then (d.hostPut (d.ringFunc r) a (toBytes 8 v), stOK, [])
  else if sp ≠ 0 ∨ 3 ≤ op then (d, stAborted, [])
  else if op ≠ 0 ∧ a % 8 ≠ 0 then (d.bump Fld.HAL_FAULT_MISALIGN, stAborted, [])
  else if !(d.hallOk (some (d.ringTenant r)) a 8) then (d.deny, stTenantMismatch, [])
  else if op ≠ 0 ∧ !(d.badWords a 8).isEmpty then (d.meetBad mQueue (d.badWords a 8), stCrcFault, [])
  else
    let old := d.hallWord a
    if op = 0 then (d.hallPut a (toBytes 8 v), stOK, [])
    else (d.hallPut a (toBytes 8 (if op = 1 then old + v else v)), stOK, halves old)

/-- SIGNAL (R230): acts when popped, or with `AFTER` is held until every earlier command of its ring has ended. -/
def execSignal (ring : BitVec 16) (s : State) : Host.Outcome State Fault Refusal :=
  onHall (fun d =>
    let r := ring.toNat
    if d.ready r && opOf (d.head r) == opSignal then
      let e := d.head r
      if bit (u8 e 26) 0 then d.take r 8 false none .held
      else
        let (d, st, res) := d.signalAct r e
        d.popEnd r st res
    else d) s

/-- SIGNAL_AFTER (R230): a held SIGNAL acts once every command popped from its ring before it has ended. -/
def execSignalAfter (c : CmdId) (s : State) : Host.Outcome State Fault Refusal :=
  onHall (fun d =>
    match d.cmdAs c opSignal .held with
    | none => d
    | some k =>
      if d.cmds.any (fun j => j.ring == k.ring && decide (j.order < k.order)) then d
      else
        let (d, st, res) := d.signalAct k.ring k.entry
        d.endCmd k d.pair.next st res) s

/-- A write of `QUE_CTRL` by the host, dropped until phase 5 (R238, R377). -/
def ringWrite (op r v : Nat) (s : State) : Host.Outcome State Fault Refusal := onHall (fun d => if d.open' then d.ringCtl r op v else d) s

/-- ENABLE (R238). -/
def execEnable (ring : BitVec 16) (s : State) : Host.Outcome State Fault Refusal := ringWrite 1 ring.toNat 0 s

/-- STOP (R238). -/
def execStop (ring : BitVec 16) (s : State) : Host.Outcome State Fault Refusal := ringWrite 2 ring.toNat 0 s

/-- RESUME (R238). -/
def execResume (ring : BitVec 16) (s : State) : Host.Outcome State Fault Refusal := ringWrite 3 ring.toNat 0 s

/-- FLUSH (R238). -/
def execFlush (ring : BitVec 16) (s : State) : Host.Outcome State Fault Refusal := ringWrite 4 ring.toNat 0 s

/-- RESET (R238). -/
def execReset (ring : BitVec 16) (v : BitVec 32) (s : State) : Host.Outcome State Fault Refusal := ringWrite 5 ring.toNat v.toNat s

end Sys2Proof.Machine
end

