-- ==== Sys2Proof/Machine/Host.lean ====
section
/-! DEFINITION. Machine/Host.lean: the host's accesses to BAR0 (R10 to R13, R377, R390, R399, R401 to R404, R424, R425), its
aliases (R397, R398), and the proxy window of a head (R393 to R396). -/

namespace Sys2Proof.Machine

/-! ## What a register shows -/

/-- A word with a named field replaced. -/
def Fld.into (f : Fld) (v w : Nat) : Nat := setBits w f.hi f.lo v

/-- The partition slot whose boats hold core `n`. -/
def Dev.slotOfCore (d : Dev) (n : Nat) : Option Nat :=
  (List.range 64).find? fun k => d.partState k != ptFree && bit (d.get Fld.SEC_PART1_BOATS k) (n / 8)

/-- A one-bit value. -/
def oneIf (b : Bool) : Nat := if b then 1 else 0

/-- State codes of the tracker (R323). -/
def Track.code : Track → Nat
  | .acquire => 0
  | .locked => 1
  | .freerun => 2
  | .lost => 3

/-- The word of TIM_STAT (R323): `STEPPED` is the register's own. -/
def Dev.timStat (d : Dev) (w : Nat) : Nat :=
  Fld.TIM_STAT_ANGLE.into d.angle (Fld.TIM_STAT_STATE.into d.clk.state.code (Fld.TIM_STAT_STROKE_LOST.into (oneIf d.clk.lost)
    (Fld.TIM_STAT_SRC_HOLD.into (oneIf d.clk.srcHold) (Fld.TIM_STAT_PPS_HOLD.into (oneIf d.clk.ppsHold)
      (Fld.TIM_STAT_TAI_VALID.into (oneIf d.clk.taiValid) (Fld.TIM_STAT_PERIOD.into d.clk.latched w))))))

/-- Commands of a ring popped and not yet completed (R239). -/
def Dev.ringRunning (d : Dev) (r : Nat) : Nat :=
  (d.cmds.filter fun k => k.ring == r && !(decide (k.phase = .preempted true))).length + (d.held.filter (·.ring == r)).length

/-- The word at a register's offset as the device holds it: fields that units keep elsewhere are taken from there. -/
def Dev.liveWord (d : Dev) (s : RegSpec) (off : Nat) : Nat :=
  let w := d.word off s.wreset
  let i := if s.s1 = 0 then 0 else (off - s.base) / s.s1
  if s.base = Reg.MEM_PD_COUNT.base then
    Fld.MEM_PD_COUNT_QUAR.into (d.pagesIn pgQuarantined).length
      (Fld.MEM_PD_COUNT_FREE.into (d.pages - (d.listedPages.filter fun p => (d.page p).state != pgFree).length) w)
  else if s.base = Reg.MEM_QFLAG.base then
    Fld.MEM_QFLAG_OVER_T1.into (oneIf (d.overQuota i t1)) (Fld.MEM_QFLAG_OVER_T2.into (oneIf (d.overQuota i t2))
      (Fld.MEM_QFLAG_OVER_T3.into (oneIf (d.overQuota i t3)) w))
  else if s.base = Reg.QUE_STAT.base then
    Fld.QUE_STAT_FULL.into (oneIf (d.depth i == d.ringSize i)) (Fld.QUE_STAT_RUNNING.into (d.ringRunning i) w)
  else if s.base = Reg.HAL_QMON.base then Fld.HAL_QMON_WATCHES.into d.armed w
  else if s.base = Reg.HAL_QSLOT.base then Fld.HAL_QSLOT_FREE.into d.pool.length w
  else if s.base = Reg.SMP_HELD.base then Fld.SMP_HELD_HELD.into (((d.groups.filter fun g => d.mirrors && !(d.groupReady g)).map fun g => g.tokens.length).foldl (· + ·) 0) w
  else if s.base = Reg.MEM_FAULT_STAT.base then Fld.MEM_FAULT_STAT_QUEUED.into (min 0xFFF d.faults.length) w
  else if s.base = Reg.FAB_STAT1.base then
    Fld.FAB_STAT1_OPS.into (min 0x3FFF d.opsUsed) w
  else if s.base = Reg.PAIR_CNT.base then Fld.PAIR_CNT_UNACKED.into d.pair.unacked.length w
  else if s.base = Reg.LOG_HEAD.base then Fld.LOG_HEAD_NEXT.into d.log.next w
  else if s.base = Reg.LOG_STAT.base then Fld.LOG_STAT_FIFO.into d.log.fifo.length w
  else if s.base = Reg.TIM_STROKE.base then Fld.TIM_STROKE_NUMBER.into d.clk.number w
  else if s.base = Reg.TIM_STAT.base then d.timStat w
  else if s.base = Reg.TIM_CNT.base then Fld.TIM_CNT_NS.into d.clk.cnt w
  else if s.base = Reg.SEC_SPDM.base then Fld.SEC_SPDM_SESSION.into (oneIf d.sec.session) w
  else if s.base = Reg.ATT_CORE_STAT.base then
    match d.slotOfCore i with
    | some k => Fld.ATT_CORE_STAT_TENANT.into (d.partTenant k) (Fld.ATT_CORE_STAT_PART.into 1 w)
    | none => w
  else w

/-! ## Which registers are reached -/

/-- Whether an offset lies in the block of a unit that is fused off (R5). -/
def Dev.fusedBlock (d : Dev) (off : Nat) : Bool :=
  let b := off / 0x100000
  if b = 0xB then !(d.flag Fld.GLB_UNIT_EN_SMP)
  else if b = 0xC then !(d.flag Fld.GLB_UNIT_EN_ADP)
  else if b = 0xD then !(d.flag Fld.GLB_UNIT_EN_IDX)
  else (b == 9 || b == 0xA) && !(d.boatFitted ((off - 0x900000) / 0x8000))

/-- Whether an offset is reached before phase 5 (R377). -/
def exempt (off : Nat) : Bool := decide (off < 0x20) || off / 0x100000 == 0x12

/-- The register that an access through the PF at an offset reaches, if any (R5, R377, R402). -/
def Dev.reached' (d : Dev) (off : Nat) : Option RegSpec :=
  if (d.open' || exempt off) && !(d.fusedBlock off) then regAt off else none

/-- Whether an access is of a size and at a place that a register has (R10). -/
def aligned (off width : Nat) : Bool := (width == 8 && off % 8 == 0) || (width == 4 && off % 4 == 0)

/-- The half of a word that an access covers, as a value. -/
def halfOf (off width w : Nat) : Nat := if width = 8 then w else if off % 8 = 0 then w % 2 ^ 32 else w / 2 ^ 32 % 2 ^ 32

/-- The mask of an access. -/
def maskOf (off width : Nat) : Nat := if width = 8 then maskAll else if off % 8 = 0 then maskLow else maskHigh

/-- The written value at its place in the word. -/
def atPlace (off width v : Nat) : Nat := if width = 8 then v % 2 ^ 64 else if off % 8 = 0 then v % 2 ^ 32 else v % 2 ^ 32 * 2 ^ 32

/-- Latches (R424) by function and register. -/
def latchKey (fn off : Nat) : Nat := fn * 2 ^ 26 + off

/-- A latch ended: any access to its register through its function ends it. -/
def Dev.unlatch (d : Dev) (fn off : Nat) : Dev := { d with latch := sdel (latchKey fn off) d.latch }

/-! ## Reads -/

/-- A read of a register through a function (R11, R424): the value, and the device with `RC` fields cleared. -/
def Dev.readReg (d : Dev) (fn key : Nat) (s : RegSpec) (at' off width : Nat) : Nat × Dev :=
  let w := s.shown (d.liveWord s at')
  let held := (d.latch.find? (·.1 == latchKey fn key)).map (·.2)
  let d := d.unlatch fn key
  let clear (mask : Nat) : Dev := d.setWord at' s.wreset (s.cleared mask (d.word at' s.wreset))
  if width = 8 then (w, clear maskAll)
  else if !s.latches then (halfOf off 4 w, clear (maskOf off 4))
  else if off % 8 = 0 then
    let d := clear maskAll
    (w % 2 ^ 32, { d with latch := sins (latchKey fn key) (w / 2 ^ 32 % 2 ^ 32) d.latch })
  else match held with
    | some v => (v, d)
    | none => (w / 2 ^ 32 % 2 ^ 32, clear maskHigh)

/-- Where the MSI-X table and the logbook window lie in the PF's BAR0 (R401, R354). -/
def msixBase : Nat := 0x01F00000
def logWindow : Nat := 0x00340000

/-- A function's MSI-X table is plain storage here; its words by function and offset. -/
def Dev.msixWord (d : Dev) (fn off : Nat) : Nat := (sget 0 (fn * 65536 + off) d.msixTab).toNat

/-- A word written into a function's MSI-X table. -/
def Dev.msixPut (d : Dev) (fn off mask v : Nat) : Dev :=
  let w := ((d.msixWord fn off ||| mask) ^^^ mask) ||| v
  { d with msixTab := sput 0 (fn * 65536 + off) (BitVec.ofNat 64 w) d.msixTab }

/-- A logbook record word read by the host in the system's ways (R109, R117, R354). -/
def Dev.readLog (d : Dev) (a : Nat) : Nat × Dev :=
  if !(d.hallOk none a 8) then (0, d.deny)
  else
    let (d, bad) := d.hallSees mHost a 8
    (if bad then 0 else d.hallWord a, d)

/-- A read through the PF's BAR0 below the aliases. -/
def Dev.readPf (d : Dev) (off width : Nat) : Nat × Dev :=
  let at' := off - off % 8
  if d.open' ∧ ¬ off < msixBase ∧ off < msixBase + 0x10000 then (halfOf off width (d.msixWord 0 (at' - msixBase)), d)
  else if d.open' ∧ ¬ off < logWindow ∧ off < logWindow + 0x40000 then
    if width = 8 then d.readLog (d.log.base + (off - logWindow)) else (0, d)
  else match d.reached' at' with
    | some s => d.readReg 0 at' s at' off width
    | none => (0, d)

/-- A read through a VF's BAR0 (R390): copies of `GLB_ID` and of word 0 of its slot, and its MSI-X table. -/
def Dev.readVf (d : Dev) (fn off width : Nat) : Nat × Dev :=
  let at' := off - off % 8
  if at' = 0 then d.readReg fn 0 Reg.GLB_ID 0 off width
  else if at' = 8 then d.readReg fn 8 Reg.SEC_PART0 (Fld.SEC_PART0_STATE.off fn 0) off width
  else if d.open' ∧ 0x8000 ≤ off ∧ off < 0x9000 then (halfOf off width (d.msixWord fn (at' - 0x8000)), d)
  else (0, d)

/-! ## The aliases (R397, R398) -/

/-- A block that the aliases reach: its first offset, instances, stride and the place of an alias offset within one. -/
def aliasBlock (off : Nat) : Option (Nat × Nat × Nat × Nat) :=
  if ¬ off < 0x400000 ∧ off < 0x800000 then some (0x400000, 65536, 0x40, off % 0x40)
  else if ¬ off < 0x900000 ∧ off < 0xB00000 then some (0x900000, 512, 0x1000, off % 0x1000)
  else if ¬ off < 0xF01000 ∧ off < 0xF03000 then some (0xF01000, 24, 0x100, off % 0x100)
  else none

/-- Whether an instance of `n` is selected (R398). -/
def Dev.selected (d : Dev) (group : Bool) (n i : Nat) : Bool :=
  !group || bit (d.get Fld.GLB_GROUP_MASK_MASK (d.get Fld.GLB_GROUP_SEL_N)) (if n ≤ 64 then i else i / (n / 64))

/-- The offsets that an alias offset selects. -/
def Dev.aliasOffs (d : Dev) (group : Bool) (off : Nat) : List Nat :=
  match aliasBlock off with
  | none => []
  | some (base, n, stride, place) => ((List.range n).filter (d.selected group n)).map fun i => base + i * stride + place

/-- A read through an alias: the OR over the selected instances, nothing cleared or latched (R397). Whether it ends a latch that
stands on an instance is left open; here it does not (log entry 190). -/
def Dev.readAlias (d : Dev) (group : Bool) (off width : Nat) : Nat :=
  (d.aliasOffs group off).foldl (fun acc o =>
    match d.reached' (o - o % 8) with
    | some s => acc ||| halfOf o width (s.shown (d.liveWord s (o - o % 8)))
    | none => acc) 0

/-- A host read of BAR0 through a function (R10). -/
def Dev.hostRead (d : Dev) (fn off width : Nat) : Nat × Dev :=
  if !(aligned off width) then (0, d)
  else if fn ≠ 0 then d.readVf fn off width
  else if ¬ off < 0x02000000 then (d.readAlias (!(decide (off < 0x03000000))) (off % 0x1000000) width, d)
  else d.readPf off width

/-- A read with its data returned. -/
def Dev.answerRead (d : Dev) (fn off width : Nat) : Dev :=
  let (v, d) := d.hostRead fn off width
  d.emit (.readData v)

/-! ## Writes -/

/-- The spare slots of the pool after `SPARE_SLOTS` is written (R237, R212): those of no core and no command, and not being
zero-filled (R364). -/
def Dev.poolAgain (d : Dev) : Dev :=
  let n := d.get Fld.MEM_FAULT_CFG_SPARE_SLOTS
  let used (s : Nat) : Bool := d.slots.any (·.2 == s) || (d.cmds.any fun k => k.slot == some s)
    || d.zeroing.any fun z => z.start == d.get Fld.HAL_QSLOT_GRAN + slotGrans * s
  { d with pool := d.pool.filter (· < 512) ++ ((List.range n).map (512 + ·)).filter fun s => !used s }

/-- Per-stroke events whose angle was written to one already reached in this stroke fire first in the next (R439). -/
def Dev.anglesWritten (d : Dev) : Dev :=
  let done (angle : Nat) (was : Bool) : Bool := was || (d.firing && decide (angle ≤ d.angle))
  { d with clk := { d.clk with flushed := done (d.get Fld.MOV_XFER_CFG_LFLUSH_ANGLE) d.clk.flushed,
                               scanned := done (d.get Fld.SMP_CFG_SCAN_ANGLE) d.clk.scanned } }

/-- The ring whose context holds an offset. -/
def ringOf (off : Nat) : Nat := (off - 0x400000) / 64

/-- A write of QUE_SETUP (R239, R391, R425): `FUNC` takes 0 or the ring's own function slice, and on a member 0, only (R393). -/
def Dev.writeSetup (d : Dev) (cox : Bool) (r off mask v : Nat) : Dev :=
  if d.ringState r ≠ rsOff then d
  else
    let was := d.ringFunc r
    let d := d.writeReg cox Reg.QUE_SETUP off mask v
    if d.ringFunc r = 0 ∨ (d.cox.proxyNodes.isEmpty ∧ d.ringFunc r = r / 1024) then d else d.put Fld.QUE_SETUP_FUNC was r

/-- The write of one register (R11, R13, R425) with all that a write of it does: by Cox (`cox`) or by the host. `v` stands at its
place in the word and is zero outside `mask`. -/
def Dev.regWrite (d : Dev) (cox : Bool) (s : RegSpec) (off mask v : Nat) : Dev :=
  let plain (d : Dev) : Dev := d.writeReg cox s off mask v
  let merged := ((d.word off s.wreset ||| mask) ^^^ mask) ||| v
  let upper := bit mask 63
  let r := ringOf off
  let i := if s.s1 = 0 then 0 else (off - s.base) / s.s1
  if s.base = Reg.GLB_CFG_LOCK.base then
    let d := plain d
    if bit v 1 then d.put Fld.GLB_CFG_LOCK_LOCK 1 else d
  else if s.base = Reg.MEM_PD_SWEEP.base then
    let d := plain d
    if bit v 32 then d.startSweep else d
  else if s.base = Reg.IDX_PT_KEY_LO.base then d.setWord off 0 merged
  else if s.base = Reg.IDX_PT_KEY_HI.base then
    let d := d.setWord off 0 merged
    if upper then d.loadKey else d
  else if s.base = Reg.MEM_CELLAR0.base then
    (plain d).put Fld.MEM_CELLAR0_KEY (bits merged 31 0) i
  else if s.base = Reg.MEM_FAULT_CFG.base then (plain d).poolAgain
  else if s.base = Reg.MOV_XFER_CFG.base ∨ s.base = Reg.SMP_CFG.base then (plain d).anglesWritten
  else if s.base = Reg.QUE_SETUP.base then d.writeSetup cox r off mask v
  else if s.base = Reg.QUE_BODY.base ∨ s.base = Reg.QUE_CQ.base ∨ s.base = Reg.QUE_SYNC.base then
    if d.ringState r = rsOff then plain d else d
  else if s.base = Reg.QUE_CQIDX.base then (plain d).release
  else if s.base = Reg.QUE_CTRL.base then if upper then d.ringCtl r (bits v 34 32) (bits v 31 0) else d
  else if s.base = Reg.FAB_QP_OP.base then if upper then d.qpOp (bits v 50 48) (bits v 15 0) else d
  else if s.base = Reg.FAB_PORT_CTL.base then if bit mask 0 then d.writePortEn i (bit v 0) else d
  else if s.base = Reg.TRF_QP_CLASS.base then if upper then d.writeQpClass v else d
  else if s.base = Reg.TRF_SHAPE.base then d.writeShape i merged
  else if s.base = Reg.TRF_METER0.base then d.writeMeter i false merged
  else if s.base = Reg.TRF_METER1.base then d.writeMeter i true merged
  else if s.base = Reg.TIM_CFG.base then
    let was := d.flag Fld.TIM_CFG_EN
    (plain d).timEn was
  else plain d

/-- A write to one register through the PF, if the PF reaches it (R5, R377, R402). -/
def Dev.writePf (d : Dev) (off width v : Nat) : Dev :=
  let at' := off - off % 8
  match d.reached' at' with
  | some s => (d.unlatch 0 at').regWrite false s at' (maskOf off width) (atPlace off width v)
  | none => d

/-- A host write of BAR0 through a function (R10, R390, R403). -/
def Dev.hostWrite (d : Dev) (fn off width v : Nat) : Dev :=
  let at' := off - off % 8
  if !(aligned off width) then d
  else if fn ≠ 0 then
    if at' = 0 ∨ at' = 8 then d.unlatch fn at'
    else if d.open' ∧ 0x8000 ≤ off ∧ off < 0x9000 then d.msixPut fn (at' - 0x8000) (maskOf off width) (atPlace off width v) else d
  else if ¬ off < 0x02000000 then
    (d.aliasOffs (!(decide (off < 0x03000000))) (off % 0x1000000)).foldl (fun (d : Dev) o => d.writePf o width v) d
  else if d.open' ∧ ¬ off < msixBase ∧ off < msixBase + 0x10000 then d.msixPut 0 (at' - msixBase) (maskOf off width) (atPlace off width v)
  else d.writePf off width v

/-- The code that `GLB_RESET.CODE` takes for a full reset (R375). -/
def resetCode : Nat := 0x3C5A

/-- A host write, a full reset by `GLB_RESET` included (R375, R377). -/
def State.hostWrite (s : State) (fn off width v : Nat) : State :=
  if fn = 0 ∧ off = Reg.GLB_RESET.base ∧ aligned off width ∧ s.dev.open' ∧ v % 65536 = resetCode then s.fullReset
  else { s with dev := (s.dev.hostWrite fn off width v).settle }

/-- An effect on the whole state of a device that runs. -/
def onState (f : State → State) (s : State) : Host.Outcome State Fault Refusal := .next (if s.dev.alive then f s else s)

/-- REGISTER_WRITE (R11): a host write of BAR0. -/
def execRegisterWrite (fn : BitVec 6) (off : BitVec 26) (width : BitVec 8) (v : Word) (s : State) : Host.Outcome State Fault Refusal :=
  onState (fun s => s.hostWrite fn.toNat off.toNat width.toNat v.toNat) s

/-- RC_COUNTER_READ (R424): a host read of BAR0, which returns data and clears what reading clears. -/
def execRcCounterRead (fn : BitVec 6) (off : BitVec 26) (width : BitVec 8) (s : State) : Host.Outcome State Fault Refusal :=
  onDev (fun d => d.answerRead fn.toNat off.toNat width.toNat) s

/-- CFG_LOCK_SET (R383): the host writes 1 to `SET`, and nothing else. -/
def execCfgLockSet (fn : BitVec 6) (s : State) : Host.Outcome State Fault Refusal :=
  onState (fun s => s.hostWrite fn.toNat Reg.GLB_CFG_LOCK.base 8 2) s

/-- GLB_RESET (R375). -/
def execGlbReset (fn : BitVec 6) (v : Word) (s : State) : Host.Outcome State Fault Refusal :=
  onState (fun s => s.hostWrite fn.toNat Reg.GLB_RESET.base 8 v.toNat) s

/-- ALIAS_ACCESS (R397, R398). -/
def execAliasAccess (group : Bool) (off : BitVec 24) (width : BitVec 8) (isWrite : Bool) (v : Word) (s : State)
    : Host.Outcome State Fault Refusal :=
  let a := (if group then 0x03000000 else 0x02000000) + off.toNat
  onState (fun s =>
    if isWrite then s.hostWrite 0 a width.toNat v.toNat else { s with dev := s.dev.answerRead 0 a width.toNat }) s

/-! ## The proxy window (R393 to R396) -/

/-- The doorbell page of a head's own ring reached through slot 0. -/
def Dev.doorbell (d : Dev) (x width : Nat) (kind : AccessKind) (data : List Byte) : Dev :=
  let r := x / 4096
  let off := x % 4096
  if kind = .write ∧ off < 0x100 then d.push 0 r off data
  else if kind = .write ∧ off = 0x100 then
    if d.assigned 0 r ∧ data.length = 8 then (d.put Fld.QUE_CQIDX_CQ_CI (ofBytes data % 2 ^ 32) r).release else d
  else d.syncAccess 0 r off (if kind = .write then data.length else width) kind (ofBytes data % 2 ^ 64)

/-- Whether an access in a member's or the head's half of a slot reaches a sync word of BAR2, which alone take atomics (R229). -/
def onSync (x : Nat) : Bool := !(decide (x < 0x10000000)) && decide (0x800 ≤ x % 4096) && x % 8 == 0

/-- A read answered in the proxy window: at once by what the member gives, or kept until it times out (R395). -/
def Dev.proxyAnswer (d : Dev) (slot width : Nat) (answer : Option Nat) : Dev :=
  match answer with
  | some v => d.emit (.readData (v % 2 ^ (8 * min 8 width)))
  | none => { d with proxy := d.proxy ++ [(⟨slot, d.ns, width⟩ : ProxyRead)] }

/-- An access to a slot of the proxy window of a member (R394, R395). -/
def Dev.proxyMember (d : Dev) (m x width : Nat) (kind : AccessKind) (data : List Byte) (answer : Option Nat) : Dev :=
  if kind = .cas ∨ ((kind = .fetchAdd ∨ kind = .swap) ∧ !(onSync x && width == 8)) then d.emit .unsupported
  else if !(d.flag Fld.GLB_PROXY_MAP_VALID m) then (if kind = .write then d else d.emit (.readData 0))
  else
    let d := d.ctrl (d.get Fld.GLB_PROXY_MAP_NODE m) (.proxy m x (kind != .read) data)
    if kind = .write then d else d.proxyAnswer m width answer

/-- An access to the head's own registers through slot 0 (R394). -/
def State.proxySelf (s : State) (x width : Nat) (kind : AccessKind) (data : List Byte) : State :=
  if ¬ x < 0x10000000 then { s with dev := (s.dev.doorbell (x - 0x10000000) width kind data).settle }
  else if ¬ x < 0x04000000 then (if kind = .read then { s with dev := s.dev.emit (.readData 0) } else s)
  else match kind with
    | .read => { s with dev := s.dev.answerRead 0 x width }
    | .write => s.hostWrite 0 x data.length (ofBytes data)
    | _ => { s with dev := s.dev.emit .unsupported }

/-- PROXY_ACCESS (R394, R395): a host access to BAR4. -/
def execProxyAccess (off : BitVec 35) (width : BitVec 8) (kind : AccessKind) (data : List Byte) (answer : Option Word) (s : State)
    : Host.Outcome State Fault Refusal :=
  onState (fun s =>
    let m := off.toNat / 0x20000000
    let x := off.toNat % 0x20000000
    if !(s.dev.open' && s.dev.flag Fld.GLB_PROXY_CFG_HEAD) then
      if kind = .write then s else { s with dev := s.dev.emit (.readData 0) }
    else if m = 0 then s.proxySelf x width.toNat kind data
    else { s with dev := s.dev.proxyMember m x width.toNat kind data (answer.map BitVec.toNat) }) s

/-- PROXY_READ_TIMEOUT (R395): `TMO` µs without the member's answer. -/
def execProxyReadTimeout (slot : BitVec 6) (t : BitVec 64) (s : State) : Host.Outcome State Fault Refusal :=
  onDev (fun d =>
    let d := d.advanceTo t.toNat
    let tmo := 1000 * atLeast1 (d.get Fld.GLB_PROXY_CFG_TMO)
    match d.proxy.find? fun p => p.slot == slot.toNat && decide (p.at' + tmo ≤ d.ns) with
    | none => d
    | some p =>
      let d := { d with proxy := d.proxy.erase p }
      ((d.emit (.readData (2 ^ (8 * min 8 p.width) - 1))).bump Fld.GLB_PROXY_STAT_TIMEOUTS).logEv evProxyTimeout mHost p.slot) s

/-- MEMBER_HOST_REQUEST (R396): the head issues a member's request as a request of the PF. -/
def execMemberHostRequest (slot : BitVec 6) (r : MemberReq) (s : State) : Host.Outcome State Fault Refusal :=
  onDev (fun d =>
    let m := slot.toNat
    if !(d.flag Fld.GLB_PROXY_CFG_HEAD) ∨ m = 0 ∨ !(d.flag Fld.GLB_PROXY_MAP_VALID m) then d
    else match r with
      | .write a data => d.hostPut 0 a.toNat data
      | .read _ _ => d.emit (.hostRequest r m)
      | .msix v => if v.toNat < 32 then d.raise 0 (2048 + 32 * m + v.toNat) else d) s

end Sys2Proof.Machine
end

