-- ==== Sys2Proof/Machine/Spdm.lean ====
section
/-! DEFINITION. Machine/Spdm.lean: the SPDM 1.2 responder of the SEC block and its one session (R368 to R371, R373, R374). What an
answer spells is the SPDM standard's, not the manual's: bodies are uninterpreted (log entry 15). -/

namespace Sys2Proof.Machine

/-- The requests of R369 in the order of its table. -/
def sqVersion : Nat := 1
def sqCapabilities : Nat := 2
def sqAlgorithms : Nat := 3
def sqDigests : Nat := 4
def sqCertificate : Nat := 5
def sqChallenge : Nat := 6
def sqMeasurements : Nat := 7
def sqKeyExchange : Nat := 8
def sqFinish : Nat := 9
def sqEndSession : Nat := 10
def sqHeartbeat : Nat := 11
def sqKeyUpdate : Nat := 12

/-- A request refused. -/
def Dev.spdmNo (d : Dev) (code : Nat) : Dev := d.emit (.spdm code false [])

/-- A request answered about `about`. -/
def Dev.spdmYes (d : Dev) (code : Nat) (r : SpdmReq) (about : List Byte) : Dev := d.emit (.spdm code true (Config.spdmBody code r.body about))

/-- A request that fails verification or decryption counts in `REJECTS` (R373); one of another version, or one that `ok` does not
hold of, is refused; any other has its effect. -/
def Dev.spdm (d : Dev) (code : Nat) (r : SpdmReq) (ok : Bool) (f : Dev → Dev) : Dev :=
  if !r.verifies then (d.bump Fld.SEC_SPDM_REJECTS).spdmNo code
  else if !r.version12 || !ok then d.spdmNo code
  else f d

/-- The measurements as bytes, index 1 first (R368). -/
def Dev.measBytes (d : Dev) : List Byte := d.sec.meas.flatMap fun m => toBytes 48 m.toNat

/-- The session ended, if one is open (R371, R374). -/
def Dev.endSession (d : Dev) : Dev :=
  if d.sec.session then
    ({ d with sec := { d.sec with session := false, finished := false, keyGen := 0 } } : Dev).logEv evSpdmSession mCox 0
  else d

/-- A message of the session at the present moment. -/
def Dev.sessionHeard (d : Dev) : Dev := { d with sec := { d.sec with lastMsg := d.ns } }

/-- GET_VERSION (R369): 1.2 only, whatever version the request carries. -/
def execGetVersion (r : SpdmReq) (s : State) : Host.Outcome State Fault Refusal :=
  onDev (fun d => d.spdm sqVersion { r with version12 := true } true fun d =>
    d.spdmYes sqVersion r []) s

/-- GET_CAPABILITIES (R369). -/
def execGetCapabilities (r : SpdmReq) (s : State) : Host.Outcome State Fault Refusal :=
  onDev (fun d => d.spdm sqCapabilities r true fun d => d.spdmYes sqCapabilities r []) s

/-- NEGOTIATE_ALGORITHMS (R369). -/
def execNegotiateAlgorithms (r : SpdmReq) (s : State) : Host.Outcome State Fault Refusal :=
  onDev (fun d => d.spdm sqAlgorithms r true fun d => d.spdmYes sqAlgorithms r []) s

/-- GET_DIGESTS (R369): of the chain of slot 0. -/
def execGetDigests (r : SpdmReq) (s : State) : Host.Outcome State Fault Refusal :=
  onDev (fun d => d.spdm sqDigests r (r.slot == 0) fun d =>
    d.spdmYes sqDigests r (toBytes 48 (Config.sha384 (Config.certChain s.fuse.secret)).toNat)) s

/-- GET_CERTIFICATE (R369, R370): slot 0 only. -/
def execGetCertificate (r : SpdmReq) (s : State) : Host.Outcome State Fault Refusal :=
  onDev (fun d => d.spdm sqCertificate r (r.slot == 0) fun d => d.spdmYes sqCertificate r (Config.certChain s.fuse.secret)) s

/-- CHALLENGE (R369, R370): signed by the SEC block, over the measurements of R368. -/
def execChallenge (r : SpdmReq) (s : State) : Host.Outcome State Fault Refusal :=
  onDev (fun d => d.spdm sqChallenge r (r.slot == 0) fun d =>
    d.spdmYes sqChallenge r (d.measBytes ++ Config.secSign s.fuse.secret (r.body ++ d.measBytes))) s

/-- GET_MEASUREMENTS (R368, R369, R371): signed; inside a session it is a message of it. -/
def execGetMeasurements (r : SpdmReq) (s : State) : Host.Outcome State Fault Refusal :=
  onDev (fun d => d.spdm sqMeasurements r true fun d =>
    (if d.sec.session then d.sessionHeard else d).spdmYes sqMeasurements r
      (d.measBytes ++ Config.secSign s.fuse.secret (r.body ++ d.measBytes))) s

/-- KEY_EXCHANGE (R371): an open session ends first; then a new one is open. -/
def execKeyExchange (r : SpdmReq) (t : BitVec 64) (s : State) : Host.Outcome State Fault Refusal :=
  onDev (fun d => (d.advanceTo t.toNat).spdm sqKeyExchange r (r.slot == 0) fun d =>
    let d := d.endSession
    let d := ({ d with sec := { d.sec with session := true } } : Dev).logEv evSpdmSession mCox 1
    d.sessionHeard.spdmYes sqKeyExchange r []) s

/-- FINISH (R369): of the open session. -/
def execFinish (r : SpdmReq) (t : BitVec 64) (s : State) : Host.Outcome State Fault Refusal :=
  onDev (fun d =>
    let d := d.advanceTo t.toNat
    d.spdm sqFinish r d.sec.session fun d =>
    ({ d with sec := { d.sec with finished := true } } : Dev).sessionHeard.spdmYes sqFinish r []) s

/-- END_SESSION (R371). -/
def execEndSession (r : SpdmReq) (s : State) : Host.Outcome State Fault Refusal :=
  onDev (fun d => d.spdm sqEndSession r d.sec.session fun d => d.endSession.spdmYes sqEndSession r []) s

/-- HEARTBEAT (R371). -/
def execHeartbeat (r : SpdmReq) (t : BitVec 64) (s : State) : Host.Outcome State Fault Refusal :=
  onDev (fun d =>
    let d := d.advanceTo t.toNat
    d.spdm sqHeartbeat r d.sec.session fun d => d.sessionHeard.spdmYes sqHeartbeat r []) s

/-- KEY_UPDATE (R369): the session keys change. -/
def execKeyUpdate (r : SpdmReq) (t : BitVec 64) (s : State) : Host.Outcome State Fault Refusal :=
  onDev (fun d =>
    let d := d.advanceTo t.toNat
    d.spdm sqKeyUpdate r d.sec.session fun d =>
    ({ d with sec := { d.sec with keyGen := d.sec.keyGen + 1 } } : Dev).sessionHeard.spdmYes sqKeyUpdate r []) s

/-- SPDM_SESSION_TIMEOUT (R371): 3 heartbeat periods without a message. -/
def execSpdmSessionTimeout (t : BitVec 64) (s : State) : Host.Outcome State Fault Refusal :=
  onDev (fun d =>
    let d := d.advanceTo t.toNat
    if d.sec.lastMsg + 3 * Config.heartbeatNs ≤ d.ns then d.endSession else d) s

end Sys2Proof.Machine
end

