-- ==== Sys2Proof/Machine/Boot.lean ====
section
/-! DEFINITION. Machine/Boot.lean: the boot memory, its directory, the firmware slots, the role image and the calibration journal;
the phases from ROM to READY (R366 to R368, R375 to R385), and function-level resets (R392). -/

namespace Sys2Proof.Machine

/-! ## The boot memory (R378, R379) -/

/-- Bytes of the boot memory (R378). -/
def nvmSize : Nat := if Config.nvmLarge then 2 ^ 27 else 2 ^ 26

/-- A sector of the boot memory, the unit of an erase (R385, R388). -/
def nvmSector : Nat := 65536

/-- One byte of the boot memory; an unlisted one is erased (log entry 5). -/
def nvmByte (m : Mem) (a : Nat) : Byte := sget 0xFF a m
def nvmBytes (m : Mem) (a n : Nat) : List Byte := (List.range n).map fun k => nvmByte m (a + k)

/-- A number of `n` bytes in the boot memory. -/
def nvmN (m : Mem) (n a : Nat) : Nat := ofBytes (nvmBytes m a n)

/-- Bytes written to the boot memory. -/
def nvmPut (m : Mem) (a : Nat) : List Byte → Mem
  | [] => m
  | b :: bs => nvmPut (sput 0xFF a b m) (a + 1) bs

/-- Bytes programmed: programming only clears bits (log entry 30). -/
def nvmProgram (m : Mem) (a : Nat) (bs : List Byte) : Mem := nvmPut m a (bs.zipIdx.map fun b => b.1 &&& nvmByte m (a + b.2))

/-- A sector erased. -/
def nvmErase (m : Mem) (a : Nat) : Mem := m.filter fun e => !(e.1 / nvmSector == a / nvmSector)

/-- The directory (R379). -/
structure NvmDir where
  gen      : Nat
  slotA    : Nat × Nat
  slotB    : Nat × Nat
  role     : Nat × Nat
  jrnl     : Nat
  sectors  : Nat
deriving DecidableEq, Repr

/-- A copy of the directory whose CRC passes. -/
def dirAt (m : Mem) (a : Nat) : Option NvmDir :=
  let w (o : Nat) : Nat := nvmN m 4 (a + o)
  if w 40 ≠ crc32c (nvmBytes m a 40) then none
  else some ⟨w 4, (w 8, w 12), (w 16, w 20), (w 24, w 28), w 32, nvmN m 2 (a + 36)⟩

/-- The copy that the ROM uses: the one whose `GENERATION` is higher in modular order. -/
def directory (m : Mem) : Option NvmDir :=
  match dirAt m 0, dirAt m 0x1000 with
  | some x, some y => some (if 0 ≤ modDiff 32 x.gen y.gen then x else y)
  | some x, none => some x
  | none, y => y

/-- The regions of a directory. -/
def NvmDir.regions (x : NvmDir) : List (Nat × Nat) := [x.slotA, x.slotB, x.role, (x.jrnl, nvmSector * x.sectors)]

/-- Whether two ranges have a place in common. -/
def overlap (a b : Nat × Nat) : Bool := decide (0 < a.2) && decide (0 < b.2) && decide (a.1 < b.1 + b.2) && decide (b.1 < a.1 + a.2)

/-- Whether no two ranges of a list overlap. -/
def disjoint : List (Nat × Nat) → Bool
  | [] => true
  | r :: rs => (rs.all fun x => !(overlap r x)) && disjoint rs

/-- Whether the regions are placed as R379 says. -/
def NvmDir.placed (x : NvmDir) : Bool :=
  (x.regions.all fun r => decide (r.1 % nvmSector = 0) && decide (r.2 % nvmSector = 0) && decide (r.1 + r.2 ≤ nvmSize))
    && disjoint x.regions && decide (4 ≤ x.sectors) && decide (x.sectors ≤ 64)

/-! ## Phases (R376) -/

/-- Codes of `GLB_BOOT.PHASE`. -/
def bpRom : Nat := 0
def bpFw : Nat := 1
def bpDram : Nat := 2
def bpRole : Nat := 3
def bpLock : Nat := 4
def bpReady : Nat := 5
def bpUnconf : Nat := 6
def bpFailed : Nat := 7

def Dev.phase (d : Dev) : Nat := d.get Fld.GLB_BOOT_PHASE

/-- A phase entered; entering 6 or 7 raises an in-band interrupt (R388). -/
def Dev.toPhase (d : Dev) (n : Nat) : Dev :=
  let d := d.put Fld.GLB_BOOT_PHASE n
  if n = bpUnconf ∨ n = bpFailed then d.emit (.ibi n) else d

/-- BOOT_ROM_DONE (R376): fuses read, the identity set (R7), the host interface trained. -/
def execBootRomDone (t : BitVec 64) (s : State) : Host.Outcome State Fault Refusal :=
  onDev (fun d =>
    let d := d.advanceTo t.toNat
    if d.phase = bpRom then d.toPhase bpFw else d) s

/-- The key-hash slot that an image's key matches, if one that is not revoked does (R366). -/
def Fuses.keySlot (f : Fuses) (key : List Byte) : Option Nat :=
  (List.range 4).find? fun j => f.keys[j]? == some (Config.sha384 key) && f.revoked[j]? == some false

/-- Whether the ROM accepts an image, and with which key-hash slot (R366). -/
def Fuses.accepts (f : Fuses) (img : List Byte) : Option Nat :=
  let key := Config.imageKey img
  if Config.ecdsaVerify key (Config.sha384 (Config.imageSigned img)) (Config.imageSig img) ∧ f.svn ≤ (Config.imageSvn img).toNat then
    f.keySlot key
  else none

/-- The first slot accepted, A and then B: its number, bytes and key slot. -/
def State.firmware (s : State) : Option (Nat × List Byte × Nat) :=
  match directory s.nvm with
  | none => none
  | some x =>
    let a := nvmBytes s.nvm x.slotA.1 x.slotA.2
    let b := nvmBytes s.nvm x.slotB.1 x.slotB.2
    match s.fuse.accepts a, s.fuse.accepts b with
    | some k, _ => some (0, a, k)
    | none, some k => some (1, b, k)
    | none, none => none

/-- The measurements of R368 with an image (none: all zero) and its kernel stores; the role image's is added when it is read. -/
def Fuses.measure (f : Fuses) (img : Option (List Byte)) (key : Nat) : List (BitVec 384) :=
  let of (g : List Byte → List Byte) : BitVec 384 := match img with
    | some b => Config.sha384 (g b)
    | none => 0
  [Config.sha384 Config.romBytes, of id, of Config.imageKernels, 0, Config.sha384 (Config.fuseBytes f.order f.stepping key f.svn)]

/-- The kernel store of every boat that is fitted, loaded with the image's kernels (R92): 64 KiB at 65,536 × b for boat b. -/
def Dev.kernelStores (d : Dev) (img : List Byte) : Mem :=
  ((List.range 64).filter d.boatFitted).foldl (fun (m : Mem) b => m.writeBytes (65536 * b) (img.take 65536)) []

/-- FIRMWARE_VERIFY (R366 to R368, R376): the accepted slot is measured and loaded with the kernel stores, or phase 7. -/
def execFirmwareVerify (t : BitVec 64) (s : State) : Host.Outcome State Fault Refusal :=
  onDev (fun d =>
    let d := d.advanceTo t.toNat
    if d.phase ≠ bpFw then d
    else
      let d := d.put Fld.SEC_BOOT_SVN_FUSE s.fuse.svn
      match s.firmware with
      | none =>
        let d := { d with sec := { d.sec with meas := s.fuse.measure none 0 } }
        ((d.put Fld.SEC_BOOT_RESULT 2).put Fld.GLB_BOOT_CAUSE 1).toPhase bpFailed
      | some (slot, img, key) =>
        let d := { d with sec := { d.sec with meas := s.fuse.measure (some img) key }, kernels := d.kernelStores (Config.imageKernels img) }
        let d := ((d.put Fld.SEC_BOOT_RESULT 1).put Fld.SEC_BOOT_SLOT slot).put Fld.SEC_BOOT_KEY key
        (d.put Fld.SEC_BOOT_SVN_IMG (Config.imageSvn img).toNat).toPhase bpDram) s

/-- DRAM_INIT_DONE (R376): the stacks trained, `failed` naming those that were not; stroke acquisition starts. -/
def execDramInitDone (t : BitVec 64) (failed : BitVec 8) (s : State) : Host.Outcome State Fault Refusal :=
  onDev (fun d =>
    let d := d.advanceTo t.toNat
    if d.phase ≠ bpDram then d
    else
      let d := { d with cox := { d.cox with drams := failed.toNat }, dram := [] }
      (if d.clk.halted.isSome then d else d.acquire).toPhase bpRole) s

/-! ## The journal (R384, R385) -/

/-- Records of a sector. -/
def jrnlRecords : Nat := 2046

/-- A valid record: its content and number. -/
def jrnlAt (m : Mem) (a : Nat) : Option (JRec × Nat) :=
  if nvmN m 4 (a + 28) ≠ crc32c (nvmBytes m a 28) then none
  else some (⟨(nvmByte m a).toNat, nvmN m 7 (a + 1), nvmN m 8 (a + 8)⟩, nvmN m 8 (a + 16))

/-- The 32 bytes of a record. -/
def jrnlBytes (r : JRec) (number : Nat) : List Byte :=
  let b := toBytes 1 r.kind ++ toBytes 7 r.key ++ toBytes 8 r.value ++ toBytes 8 number ++ zeros 4
  b ++ toBytes 4 (crc32c b)

/-- The place of record `k` of a sector. -/
def NvmDir.recAddr (x : NvmDir) (sector k : Nat) : Nat := x.jrnl + nvmSector * sector + 64 + 32 * k

/-- The valid records of a sector with their numbers. -/
def NvmDir.sectorRecs (x : NvmDir) (m : Mem) (sector : Nat) : List (JRec × Nat) :=
  (List.range jrnlRecords).filterMap fun k => jrnlAt m (x.recAddr sector k)

/-- The valid records of the journal. -/
def NvmDir.records (x : NvmDir) (m : Mem) : List (JRec × Nat) := (List.range x.sectors).flatMap (x.sectorRecs m)

/-- Whether two records set the same thing. -/
def JRec.same (a b : JRec) : Bool := a.kind == b.kind && a.key == b.key

/-- The records that stand: of each kind and key the one with the highest number. -/
def live (rs : List (JRec × Nat)) : List (JRec × Nat) :=
  rs.filter fun r => rs.all fun x => !(r.1.same x.1) || decide (x.2 ≤ r.2)

/-- `ERASES` of a sector, if its header can be read: an erased header cannot (log entry 31). -/
def NvmDir.erasesRead (x : NvmDir) (m : Mem) (sector : Nat) : Option Nat :=
  let n := nvmN m 4 (x.jrnl + nvmSector * sector + 4)
  if n = 2 ^ 32 - 1 then none else some n

/-- The highest `ERASES` of any sector. -/
def NvmDir.maxErases (x : NvmDir) (m : Mem) : Nat := ((List.range x.sectors).filterMap (x.erasesRead m)).foldl max 0

/-- `ERASES` of a sector (R384). -/
def NvmDir.erases (x : NvmDir) (m : Mem) (sector : Nat) : Nat := (x.erasesRead m sector).getD (x.maxErases m)

/-- The sector that holds the record with the highest number. -/
def NvmDir.current (x : NvmDir) (m : Mem) : Nat :=
  ((List.range x.sectors).foldl (fun (best : Nat × Nat) k =>
    let top := ((x.sectorRecs m k).map (·.2 + 1)).foldl max 0
    if best.2 < top then (k, top) else best) (0, 0)).1

/-- The first record place of a sector that is erased. -/
def NvmDir.freeRec (x : NvmDir) (m : Mem) (sector : Nat) : Option Nat :=
  (List.range jrnlRecords).find? fun k => (nvmBytes m (x.recAddr sector k) 32).all (· == 0xFF)

/-- The journal as it is loaded at boot (R384). -/
def Dev.loadJournal (d : Dev) (m : Mem) (x : NvmDir) : Dev :=
  let rs := x.records m
  let next := (rs.map (·.2 + 1)).foldl max 0
  let d := { d with cox := { d.cox with journal := (live rs).map (fun (r : JRec × Nat) => r.1), jnext := next } }
  (d.put Fld.GLB_NVM_SECTOR (x.current m)).put Fld.GLB_NVM_MAX_ERASES (x.maxErases m)

/-- The next sector in rotation taken: its live records kept, the sector erased, its `ERASES` advanced, the records put back; none
when the sector is worn (R385). -/
def NvmDir.rotate (x : NvmDir) (m : Mem) (sector : Nat) : Option Mem :=
  let n := x.erases m sector
  if ¬ n < 100000 then none
  else
    let all' := live (x.records m)
    let keep := (x.sectorRecs m sector).filter all'.contains
    let m := nvmErase m (x.jrnl + nvmSector * sector)
    let m := nvmPut m (x.jrnl + nvmSector * sector + 4) (toBytes 4 (n + 1))
    some ((keep.zipIdx.foldl (fun (m : Mem) (r : (JRec × Nat) × Nat) => nvmPut m (x.recAddr sector r.2) (jrnlBytes r.1.1 r.1.2)) m))

/-- Records programmed one after the other, sectors rotating as they fill: the memory, the sector, the next number, and whether the
journal is worn. -/
def NvmDir.program (x : NvmDir) : List JRec → Mem × Nat × Nat → Mem × Nat × Nat × Bool
  | [], (m, sec, n) => (m, sec, n, false)
  | r :: rs, (m, sec, n) =>
    match x.freeRec m sec with
    | some k => NvmDir.program x rs (nvmPut m (x.recAddr sec k) (jrnlBytes r n), sec, n + 1)
    | none =>
      let next := (sec + 1) % atLeast1 x.sectors
      match x.rotate m next with
      | none => (m, sec, n, true)
      | some m => match x.freeRec m next with
        | some k => NvmDir.program x rs (nvmPut m (x.recAddr next k) (jrnlBytes r n), next, n + 1)
        | none => (m, next, n, false)

/-- JOURNAL_PROGRAM (R385): at most once every 60 s. -/
def State.journalProgram (s : State) (t : Nat) : State :=
  let d := s.dev.advanceTo t
  let due := decide (d.cox.jlast = 0) || decide (d.cox.jlast + 60000000000 ≤ d.ns)
  match directory s.nvm with
  | none => { s with dev := d }
  | some x =>
    if !due ∨ d.cox.dirty.isEmpty ∨ d.phase < bpLock ∨ d.phase = bpFailed ∨ !x.placed ∨ d.flag Fld.GLB_NVM_NVM_WORN then { s with dev := d }
    else
      let (m, sec, n, worn) := x.program d.cox.dirty (s.nvm, d.get Fld.GLB_NVM_SECTOR, d.cox.jnext)
      let left := if worn then d.cox.dirty.drop (n - d.cox.jnext) else []
      let d := { d with cox := { d.cox with dirty := left, jnext := n, jlast := d.ns } }
      let d := (d.put Fld.GLB_NVM_SECTOR sec).put Fld.GLB_NVM_MAX_ERASES (x.maxErases m)
      { s with nvm := m, dev := if worn then (d.put Fld.GLB_NVM_NVM_WORN 1).logEv evNvmWorn mCox sec else d }

/-- JOURNAL_PROGRAM (R385). -/
def execJournalProgram (t : BitVec 64) (s : State) : Host.Outcome State Fault Refusal := onState (fun s => s.journalProgram t.toNat) s

/-! ## The role image (R380, R381) -/

/-- A section: its type, its entry count and its body. -/
structure Section where
  type  : Nat
  count : Nat
  body  : List Byte
deriving DecidableEq, Repr

/-- The header of an image (R380). -/
structure ImageHdr where
  magic    : Nat
  format   : Nat
  role     : Nat
  flags    : Nat
  length   : Nat
  sections : Nat
  crc      : Nat
  id       : Nat
deriving DecidableEq, Repr

def imageHdr (b : List Byte) : ImageHdr :=
  ⟨fld b 0 4, fld b 4 2, fld b 6 1, fld b 7 1, fld b 8 4, fld b 12 4, fld b 16 4, fld b 20 4⟩

/-- The next multiple of 64. -/
def align64 (n : Nat) : Nat := (n + 63) / 64 * 64

/-- Whether a section type is permitted (R380). -/
def typeOk (t : Nat) : Bool := (decide (1 ≤ t) && decide (t ≤ 8)) || decide (0x80 ≤ t)

/-- `n` sections from `at'` on; none when one does not lie within the image or has a type that is not permitted. -/
def sectionsFrom (b : List Byte) : Nat → Nat → Option (List Section)
  | 0, _ => some []
  | n + 1, at' =>
    let len := fld b (at' + 4) 4
    if b.length < at' + 16 + len ∨ !(typeOk (fld b at' 2)) then none
    else (sectionsFrom b n (align64 (at' + 16 + len))).map fun rest => ⟨fld b at' 2, fld b (at' + 8) 4, slice b (at' + 16) len⟩ :: rest

/-- The sections of an image. -/
def sectionsOf (b : List Byte) : Option (List Section) :=
  let n := (imageHdr b).sections
  if b.length / 64 < n then none else sectionsFrom b n 64

/-- The bodies of the sections of one type, in the image's order. -/
def bodies (ss : List Section) (t : Nat) : List Section := ss.filter (·.type == t)

/-- The entries of a section of fixed entries of `n` bytes. -/
def Section.entries (x : Section) (n : Nat) : List (List Byte) := chunks n (min x.count (x.body.length / n)) x.body

/-- The register writes of an image: offsets and values. -/
def regsOf (ss : List Section) : List (Nat × Nat) :=
  (bodies ss 1).flatMap fun x => (x.entries 16).map fun e => (fld e 0 4, fld e 8 8)

/-- Whether an offset names a register with an `RW` or `RWL` field (R381). -/
def regsOk (off : Nat) : Bool :=
  decide (off < 0x02000000) && (match regAt off with
    | some s => s.fields.any fun f => f.acc == .rw || f.acc == .rwl
    | none => false)

/-- One register write by Cox (R380, R383): `PAIR_CFG.TWIN` is Cox's to write (R325); a block that is fused off ignores it (R5). -/
def Dev.coxWrite (d : Dev) (w : Nat × Nat) : Dev :=
  match regAt w.1 with
  | some s =>
    if d.fusedBlock w.1 then d else
    let d := d.regWrite true s w.1 maskAll w.2
    if s.base = Reg.PAIR_CFG.base then d.put Fld.PAIR_CFG_TWIN (bits w.2 47 32) else d
  | none => d

/-- The base registers of the pinned regions, in the order of `pinnedRegions`. -/
def pinnedBases : List Nat :=
  [Reg.MEM_PD_BASE.base, Reg.MEM_SCALE_BASE.base, Reg.MEM_SEQ_BASE.base, Reg.IDX_SUM_BASE.base, Reg.ADP_LARDER_BASE.base,
   Reg.MEM_CELLAR_BASE.base, Reg.MEM_PF_CFG.base, Reg.MEM_TOUCH_BASE.base, Reg.HAL_QSLOT.base, Reg.FAB_QP_BASE.base, Reg.FAB_PEER_BASE.base,
   Reg.RMA_WIN_CFG.base, Reg.RMA_MC_CFG.base, Reg.RMA_IMP_CFG.base, Reg.RMA_MAP_BASE.base, Reg.PAIR_MIR_BASE.base]

/-- Granules of the DRAM (R356). -/
def dramGrans : Nat := 2 ^ 27

/-- Check 8 of R381 on the device with the image's registers: a region counts as placed when the image writes its base (log entry 32). -/
def Dev.pinnedOk (d : Dev) (written : List Nat) : Bool :=
  let rs := ((pinnedBases.zip d.pinnedRegions).filter fun x => written.contains x.1 && decide (0 < x.2.2)).map (·.2)
  let n := d.get Fld.IDX_PT_CFG_SIZE_LOG2
  (rs.all fun r => decide (r.1 + r.2 ≤ dramGrans)) && disjoint rs
    && (decide (n = 0) || decide (d.get Fld.IDX_PT_CFG_BASE + 32 * 2 ^ n ≤ hallSize))

/-- The partitions of an image formed one after the other; none when one is refused (R356, R357, R359). -/
def Dev.formAll : List PartInstr → Dev → Option Dev
  | [], d => some d
  | p :: ps, d =>
    match d.part { p with op := .form } with
    | (d, true) => Dev.formAll ps d
    | (_, false) => none

/-- The partitions that an image names. -/
def partsIn (ss : List Section) : List PartInstr := (bodies ss 2).flatMap fun x => Config.partsOf x.body

/-- Whether an order code permits a role (R3, R7). -/
def Fuses.permits (f : Fuses) (role : Nat) : Bool := decide (1 ≤ role) && decide (role ≤ 4) && bit f.units (2 + role)

/-- The image in the role region, its CRC field zero for its own check (R380). -/
def roleBytes (m : Mem) (x : NvmDir) : List Byte := nvmBytes m x.role.1 (nvmN m 4 (x.role.1 + 8))

/-- Check 3 of R381. -/
def imageOk (b : List Byte) (room : Nat) : Bool :=
  (imageHdr b).magic == 0x4D494F5A && decide (64 ≤ (imageHdr b).length) && decide ((imageHdr b).length ≤ room)
    && (imageHdr b).crc == crc32c (b.take 16 ++ zeros 4 ++ b.drop 20)

/-- Where the checks of R381 come to: the first that fails, or the device with the image's registers and partitions. -/
inductive RoleCheck where
  | refused (cause : Nat)
  | good (d : Dev) (b : List Byte) (ss : List Section)

/-- The checks of R381 in their order. -/
def State.roleCheck (s : State) : RoleCheck :=
  match directory s.nvm with
  | none => .refused 2
  | some x =>
    if !x.placed then .refused 2
    else if x.role.2 < nvmN s.nvm 4 (x.role.1 + 8) ∨ !(imageOk (roleBytes s.nvm x) x.role.2) then .refused 3
    else
      let b := roleBytes s.nvm x
      if (imageHdr b).format ≠ 1 then .refused 4
      else if !(s.fuse.permits (imageHdr b).role) then .refused 5
      else match sectionsOf b with
        | none => .refused 6
        | some ss =>
          let ws := regsOf ss
          if !(ws.all fun w => regsOk w.1) then .refused 7
          else
            let d := ws.foldl Dev.coxWrite s.dev
            if !(d.pinnedOk (ws.map (·.1))) then .refused 8
            else match Dev.formAll (partsIn ss) d with
              | none => .refused 9
              | some d => if s.dev.cox.drams ≠ 0 then .refused 10 else .good d b ss

/-- A reserved pair set up by Cox and enabled (R258, R260). -/
def Dev.loadQp (d : Dev) (q : Nat) (b : List Byte) : Dev := (d.dramPut (d.qpAddr q) (padTo 128 b)).enableQp q

/-- A placement made (R201): each mapping as `VM_MAP` would make it; the first status that is not OK. -/
def Dev.placeAll (d : Dev) (ms : List PlaceMap) : Dev × Nat :=
  ms.foldl (fun (r : Dev × Nat) m =>
    let (d, st) := r.1.vmMap m.tenant.toNat m.va.toNat m.grans.toNat m.type.toNat m.flags.toNat m.frame.toNat
    (d, if r.2 = stOK then st else r.2)) (d, stOK)

/-- Prefetch table entries loaded from entry 0 on, as far as the table goes (R202); one whose angle has passed in this stroke waits
for the next (R439). -/
def Dev.loadTable (d : Dev) (es : List (List Byte)) : Dev :=
  let es := es.take (d.get Fld.MEM_PF_ENTRIES_ENTRIES)
  let d := es.zipIdx.foldl (fun (d : Dev) (e : List Byte × Nat) => d.dramPut (d.pfAddr e.2) (padTo 32 e.1)) d
  let past := (List.range es.length).filter fun i => match d.pfPending i with
    | some a => d.firing && decide (a ≤ d.angle)
    | none => false
  { d with clk := { d.clk with pfIssued := past.foldl (fun l i => insertNat i l) d.clk.pfIssued } }

/-- The management address list of an image (R382, R386). -/
def Dev.setMgmt (d : Dev) (ss : List Section) : Dev :=
  match (bodies ss 6).find? fun x => Config.mgmtGood x.body with
  | none => d
  | some x => { d with cox := { d.cox with mgmtOk := true, managers := Config.mgmtOf x.body } }

/-- The `PROXY` section (R380, R393). -/
def Dev.setProxy (d : Dev) (flags : Nat) (x : Section) : Dev :=
  if bit flags 0 then
    (Config.proxySlots x.body).foldl (fun (d : Dev) (m : BitVec 6 × BitVec 16) =>
      if m.1 = 0 then d else (d.put Fld.GLB_PROXY_MAP_NODE m.2.toNat m.1.toNat).put Fld.GLB_PROXY_MAP_VALID 1 m.1.toNat) d
  else if bit flags 1 then { d with cox := { d.cox with proxyNodes := [(Config.proxyHead x.body).toNat] } } else d

/-- A role image applied, sections in the order of R380 after registers and partitions; the spare slots stand where the registers place
them (R240); then the twin that the image named. -/
def Dev.applyImage (d : Dev) (b : List Byte) (ss : List Section) : Dev :=
  let d := (bodies ss 3).foldl (fun (d : Dev) x => (((x.entries 128).take 16).zipIdx).foldl (fun (d : Dev) (c : List Byte × Nat) => d.loadQp c.2 c.1) d) d
  let d := ((bodies ss 4).foldl (fun (d : Dev) x => (d.placeAll (Config.placeOf x.body)).1) d)
  let d := d.loadTable ((bodies ss 5).flatMap fun x => x.entries 32)
  let d := d.setMgmt ss
  let d := if bit (imageHdr b).flags 0 then d.put Fld.GLB_PROXY_CFG_HEAD 1 else d
  let d := (bodies ss 7).foldl (fun (d : Dev) x => d.setProxy (imageHdr b).flags x) d
  let tune : List Byte := (bodies ss 8).flatMap fun x => x.body
  let d := ({ d with cox := { d.cox with tune := tune } } : Dev).poolAgain
  let d : Dev := (d.put Fld.GLB_BOOT_ROLE (imageHdr b).role).put Fld.GLB_BOOT_IMAGE_ID (imageHdr b).id
  if d.pairState = psSolo ∧ d.get Fld.PAIR_CFG_TWIN ≠ 0 then d.startSync else d

/-- The role image measured (R368). -/
def Dev.measureRole (d : Dev) (b : List Byte) : Dev := { d with sec := { d.sec with meas := d.sec.meas.set 3 (Config.sha384 b) } }

/-- The bytes of the role image as far as it can be read. -/
def State.roleImage (s : State) : List Byte :=
  match directory s.nvm with
  | some x => if x.role.2 < nvmN s.nvm 4 (x.role.1 + 8) then [] else roleBytes s.nvm x
  | none => []

/-- ROLE_IMAGE_APPLY (R376, R380 to R384): refused as a whole, or applied, locked and READY. -/
def State.applyRole (s : State) (t : Nat) : State :=
  let d := s.dev.advanceTo t
  if d.phase ≠ bpRole then { s with dev := d }
  else
    let d := d.measureRole s.roleImage
    match ({ s with dev := d } : State).roleCheck with
    | .refused cause =>
      let d := (d.put Fld.GLB_BOOT_CAUSE cause).logEv evRoleRefused mCox cause
      let d := if cause ≤ 4 then d else d.setMgmt ((sectionsOf s.roleImage).getD [])
      { s with dev := d.toPhase bpUnconf }
    | .good d b ss =>
      let d := d.applyImage b ss
      let d := match directory s.nvm with
        | some x => d.loadJournal s.nvm x
        | none => d
      let d := ((d.toPhase bpLock).put Fld.GLB_CFG_LOCK_LOCK 1).toPhase bpReady
      { s with dev := d.logEv evBootDone mCox ((imageHdr b).id * 2 ^ 32 + (imageHdr b).role) }

/-- ROLE_IMAGE_APPLY (R381). -/
def execRoleImageApply (t : BitVec 64) (s : State) : Host.Outcome State Fault Refusal := onState (fun s => s.applyRole t.toNat) s

/-! ## Function-level resets (R375, R392) -/

/-- A reset of one function (R392): its rings stopped and flushed, their host writes held back, its MSI-X state cleared; of the PF,
the SPDM session ends (R371). -/
def Dev.functionReset (d : Dev) (k : Nat) : Dev :=
  let d := { d with muted := insertNat k d.muted, msixTab := d.msixTab.filter fun e => e.1 / 65536 != k }
  let rs := d.liveRings.filter fun r => d.ringFunc r == k
  let d := (rs.filter fun r => d.ringState r == rsRun || d.ringState r == rsWait).foldl Dev.ringStop d
  let d := rs.foldl Dev.ringFlush d
  if k = 0 then d.endSession else d

/-- FUNCTION_LEVEL_RESET (R392). -/
def execFunctionLevelReset (fn : BitVec 6) (s : State) : Host.Outcome State Fault Refusal :=
  onHall (fun d => d.functionReset fn.toNat) s

/-- HOT_RESET (R375): the effects of R392 for every function. -/
def execHotReset (s : State) : Host.Outcome State Fault Refusal :=
  onHall (fun d => (List.range 64).foldl Dev.functionReset d) s

end Sys2Proof.Machine
end

