-- ==== Sys2Proof/Machine/Board.lean ====
section
/-! DEFINITION. Machine/Board.lean: the board controller's port, power, clocks and temperatures (R375, R388, R410 to R420). What hangs
on `VDD_STBY` works in full reset and with every other clock stopped. -/

namespace Sys2Proof.Machine

/-- The pins and sensors changed. -/
def State.withElec (s : State) (f : Elec → Elec) : State := { s with dev := { s.dev with elec := f s.dev.elec } }

/-- Full reset entered and held (R411, R413, R415). -/
def State.hold (s : State) : State := s.fullReset.withElec fun e => { e with held := true }

/-- The internal reset released when nothing holds it any longer: `PWRGD` and `PERST_N` high, `SYSREF` present, no thermal trip;
the phases run from that moment (R411, R415, R419). -/
def State.letGo (s : State) : State :=
  let e := s.dev.elec
  if e.held ∧ e.pwrgd ∧ e.perstN ∧ e.sysref ∧ !e.trip then s.withElec fun e => { e with held := false, stopped := false } else s

/-- The junction and power state of THERMTRIP_N's end (R419). -/
def State.coolDown (s : State) : State :=
  let e := s.dev.elec
  if e.trip ∧ !e.pwrgd ∧ e.tj < 95 then
    let s := s.withElec fun e => { e with trip := false }
    { s with dev := s.dev.emit (.thermtrip false) }
  else s

/-- POWER_ON_RESET (R411): the levels that `PWRGD` and `PERST_N` come to; while either is low the device is held in reset. -/
def execPowerOnReset (pwrgd perstN : Bool) (s : State) : Host.Outcome State Fault Refusal :=
  let s' := s.withElec fun e => { e with pwrgd := pwrgd, perstN := perstN }
  .next (if pwrgd && perstN then s'.letGo else s'.hold.coolDown)

/-- PERST_ASSERT (R375): `PERST_N` falls. -/
def execPerstAssert (s : State) : Host.Outcome State Fault Refusal := .next (s.withElec fun e => { e with perstN := false }).hold

/-- PWRGD_FALL (R413, R419). -/
def execPwrgdFall (s : State) : Host.Outcome State Fault Refusal :=
  .next ((s.withElec fun e => { e with pwrgd := false }).hold).coolDown

/-- Rails in the order of R409; `VDD_STBY` is the last and is not monitored (R413). -/
def railStby : Nat := 7

/-- RAIL_UNDERVOLTAGE (R413): more than 10 µs below the operating range; the device is held until reset is released again. -/
def execRailUndervoltage (rail : BitVec 3) (us : BitVec 16) (s : State) : Host.Outcome State Fault Refusal :=
  .next (if rail.toNat ≠ railStby ∧ 10 < us.toNat then s.hold else s)

/-- SYSREF_LOSS (R415): `SYSREF` absent for `ns`; after 1 µs, full reset. -/
def execSysrefLoss (ns : BitVec 64) (s : State) : Host.Outcome State Fault Refusal :=
  .next (if 1000 < ns.toNat then (s.withElec fun e => { e with sysref := false }).hold else s)

/-- SYSREF_RETURN (R415): `SYSREF` present again for `ns`; after 1 ms the reset is released. -/
def execSysrefReturn (ns : BitVec 64) (s : State) : Host.Outcome State Fault Refusal :=
  .next (if ¬ ns.toNat < 1000000 then (s.withElec fun e => { e with sysref := true }).letGo else s)

/-! ## Temperatures (R388, R419, R420) -/

/-- TJ_ALARM (R419): `TJ` comes to `tj`, `TJ_ALARM` holding `threshold`; reaching it from below raises an in-band interrupt and does
nothing else. -/
def execTjAlarm (tj threshold : BitVec 8) (s : State) : Host.Outcome State Fault Refusal :=
  let was := s.dev.elec.tj
  let s := s.withElec fun e => { e with tj := tj.toInt, alarm := threshold.toInt }
  .next (if was < s.dev.elec.alarm ∧ s.dev.elec.alarm ≤ tj.toInt then { s with dev := s.dev.emit (.ibi 0) } else s)

/-- The fixed threshold (R419). -/
def tripTemp : Int := 112

/-- THERMTRIP (R419): at 112 °C, `THERMTRIP_N` asserted and every clock but standby's stopped. -/
def execThermtrip (tj : BitVec 8) (s : State) : Host.Outcome State Fault Refusal :=
  let s := s.withElec fun e => { e with tj := tj.toInt }
  .next (if tj.toInt < tripTemp ∨ s.dev.elec.trip then s
    else
      let s := s.withElec fun e => { e with trip := true, stopped := true }
      { s with dev := s.dev.emit (.thermtrip true) })

/-- THERMTRIP_RELEASE (R419): with `PWRGD` low, the junction below 95 °C. -/
def execThermtripRelease (tj : BitVec 8) (s : State) : Host.Outcome State Fault Refusal :=
  .next (s.withElec fun e => { e with tj := tj.toInt }).coolDown

/-- DRAM_OVERTEMP (R420): above 85 °C a stack's refresh rate doubles; it is the normal one again at or below. -/
def execDramOvertemp (stack : BitVec 3) (temp : BitVec 8) (s : State) : Host.Outcome State Fault Refusal :=
  onState (fun s => s.withElec fun e => { e with temps := e.temps.set stack.toNat temp.toInt, refresh := e.refresh.set stack.toNat (decide (85 < temp.toInt)) }) s

/-! ## The I3C target (R388, R418) -/

/-- STRAP_SAMPLE (R418): `VDD_STBY` enters its range. -/
def execStrapSample (straps : BitVec 3) (s : State) : Host.Outcome State Fault Refusal :=
  .next (s.withElec fun e => { e with straps := straps.toNat, dynAddr := none })

/-- The static address (R388). -/
def Elec.staticAddr (e : Elec) : Nat := 0x50 + e.straps

/-- SETDASA (R388): taken when it names the static address. -/
def execSetdasa (staticAddr dynAddr : BitVec 7) (s : State) : Host.Outcome State Fault Refusal :=
  .next (if staticAddr.toNat = s.dev.elec.staticAddr then s.withElec fun e => { e with dynAddr := some dynAddr.toNat } else s)

/-- I3C_RESET (R388): 0xA5 performs a full reset. A device held in reset stays held. -/
def execI3cReset (v : BitVec 8) (s : State) : Host.Outcome State Fault Refusal :=
  .next (if v.toNat = 0xA5 then (if s.dev.elec.held then s.hold else s.fullReset) else s)

/-- `NVM_CMD` at byte address `addr` (R388): what it reads back, 0 done or 2 refused; refused outside phases 6 and 7 (R382), and
beyond the device (log entry 33). -/
def State.nvmCmd (s : State) (addr : Nat) (f : State → State) : State :=
  let s := s.withElec fun e => { e with nvmAddr := addr }
  if s.dev.alive ∧ (s.dev.phase = bpUnconf ∨ s.dev.phase = bpFailed) ∧ addr + 256 ≤ nvmSize then (f s).withElec fun e => { e with nvmCmd := 0 }
  else s.withElec fun e => { e with nvmCmd := 2 }

/-- NVM_READ (R388): 256 bytes into the buffer. -/
def execNvmRead (addr : BitVec 32) (s : State) : Host.Outcome State Fault Refusal :=
  .next (s.nvmCmd addr.toNat fun s => s.withElec fun e => { e with nvmBuf := nvmBytes s.nvm addr.toNat 256 })

/-- NVM_PROGRAM (R388): the 256 bytes that the buffer holds. -/
def execNvmProgram (addr : BitVec 32) (buf : List Byte) (s : State) : Host.Outcome State Fault Refusal :=
  .next ((s.withElec fun e => { e with nvmBuf := padTo 256 buf }).nvmCmd addr.toNat fun s =>
    { s with nvm := nvmProgram s.nvm addr.toNat s.dev.elec.nvmBuf })

/-- NVM_ERASE (R388): the 64 KiB that hold the address. -/
def execNvmErase (addr : BitVec 32) (s : State) : Host.Outcome State Fault Refusal :=
  .next (s.nvmCmd addr.toNat fun s => { s with nvm := nvmErase s.nvm addr.toNat })

end Sys2Proof.Machine
end

