-- ==== Sys2Proof/Machine/Mgmt.lean ====
section
/-! DEFINITION. Machine/Mgmt.lean: the fault manager's instructions over the management port (R320, R325 to R327, R333, R335, R340,
R342, R359, R366, R375, R386, R387). -/

namespace Sys2Proof.Machine

/-- Instruction codes (R387). -/
def mcSetEpoch : Nat := 0x01
def mcPeerSet : Nat := 0x02
def mcPart : Nat := 0x03
def mcMapNext : Nat := 0x04
def mcPair : Nat := 0x05
def mcAdmit : Nat := 0x06
def mcMclass : Nat := 0x07
def mcTaiLoad : Nat := 0x08
def mcPlace : Nat := 0x09
def mcSvnFuse : Nat := 0x0A
def mcNvmWrite : Nat := 0x0B
def mcReset : Nat := 0x0C
def mcHeartbeat : Nat := 0x0D

/-- Whether Cox accepts a message of this sender (R382, R386). -/
def Dev.accepts (d : Dev) (h : MgmtHdr) : Bool := d.cox.mgmtOk && d.cox.managers.contains h.from'

/-- The answer a sequence number already has. -/
def Dev.answeredAs (d : Dev) (h : MgmtHdr) : Option Nat := (d.cox.answered.find? (·.1 == h.seq.toNat)).map (·.2)

/-- An instruction executed with status `st`: remembered, answered, and logged when its preconditions failed (R387). -/
def Dev.mgmtDone (d : Dev) (h : MgmtHdr) (code st : Nat) : Dev :=
  let d := { d with cox := { d.cox with answered := d.cox.answered ++ [(h.seq.toNat, st)] }, pair := { d.pair with fmAt := d.ns } }
  let d := if st = stAborted then d.logEv evMgmtRefused mCox code else d
  d.emit (.mgmtAnswer h.seq.toNat st)

/-- An instruction taken in: dropped from a stranger, answered again as a duplicate, else executed and answered (R386, R387). -/
def State.mgmt (s : State) (h : MgmtHdr) (code : Nat) (f : State → State × Nat) : State :=
  if !(s.dev.accepts h) then s
  else match s.dev.answeredAs h with
    | some st => { s with dev := s.dev.emit (.mgmtAnswer h.seq.toNat st) }
    | none =>
      let (s, st) := f s
      { s with dev := (s.dev.mgmtDone h code st).settle }

/-- An instruction that acts on the device alone. -/
def mgmtDev (h : MgmtHdr) (code : Nat) (f : Dev → Dev × Nat) (s : State) : Host.Outcome State Fault Refusal :=
  onState (fun s => s.mgmt h code fun s =>
    let (d, st) := f s.dev
    ({ s with dev := d }, st)) s

/-- An instruction with a precondition, refused with ABORTED where that fails. -/
def provided (ok : Bool) (d : Dev) (f : Dev → Dev) : Dev × Nat := if ok then (f d, stOK) else (d, stAborted)

/-- SET_EPOCH (R340): the epoch is never 0; messages that waited for an epoch go out. -/
def execSetEpoch (h : MgmtHdr) (epoch : BitVec 32) (s : State) : Host.Outcome State Fault Refusal :=
  mgmtDev h mcSetEpoch (fun d => provided (epoch != 0) d fun d =>
    let d := d.takeEpoch epoch.toNat
    d.sendWaiting d.pair.unsent) s

/-- PEER_SET (R271, R260, R434). -/
def execPeerSet (h : MgmtHdr) (node : BitVec 16) (epoch : BitVec 32) (valid : Bool) (s : State) : Host.Outcome State Fault Refusal :=
  mgmtDev h mcPeerSet (fun d => (d.peerPut node.toNat epoch.toNat valid, stOK)) s

/-- PART (R359 to R361). -/
def execPart (h : MgmtHdr) (p : PartInstr) (s : State) : Host.Outcome State Fault Refusal :=
  mgmtDev h mcPart (fun d =>
    let (d, ok) := d.part p
    (d, if ok then stOK else stAborted)) s

/-- The next bank filled: the entries of the current one, with those that the fault manager gives laid over them (R289). -/
def Dev.fillBank (d : Dev) (es : List MapEntry) : Dev :=
  let b := d.nextBank
  let d := { d with dram := d.dram.zero (d.mapAddr b 0) 524288 }
  let d := (d.dram.blocksOf (d.mapAddr d.mapBank 0) 8 65536).foldl (fun (d : Dev) q => d.dramPutN 8 (d.mapAddr b q) (d.mapWord d.mapBank q)) d
  (es.filter fun e => !(qReserved e.qp.toNat)).foldl (fun (d : Dev) e => d.dramPutN 8 (d.mapAddr b e.qp.toNat) e.entry.toNat) d

/-- MAP_NEXT (R289): refused, and logged, unless `ver` is the current version plus 1. -/
def execMapNext (h : MgmtHdr) (ver : BitVec 16) (stroke : BitVec 32) (drain : BitVec 8) (entries : List MapEntry) (s : State)
    : Host.Outcome State Fault Refusal :=
  mgmtDev h mcMapNext (fun d =>
    if ver.toNat ≠ (d.get Fld.RMA_MAP_CUR_VER + 1) % 65536 then (d.logEv evMapRefused mCox ver.toNat, stAborted)
    else
      let d := (((d.fillBank entries).put Fld.RMA_MAP_NEXT_VER ver.toNat).put Fld.RMA_MAP_NEXT_STROKE stroke.toNat).put Fld.RMA_MAP_NEXT_DRAIN drain.toNat
      (d.put Fld.RMA_MAP_NEXT_PEND 1, stOK)) s

/-- PAIR_TWIN (R325, R327): `TWIN` written, the initial copy begun. -/
def execPairTwin (h : MgmtHdr) (node : BitVec 16) (s : State) : Host.Outcome State Fault Refusal :=
  mgmtDev h mcPair (fun d => provided (d.pairState == psSolo && !d.spare) d fun d => (d.put Fld.PAIR_CFG_TWIN node.toNat).startSync) s

/-- DETACH (R327, R331). -/
def execDetach (h : MgmtHdr) (s : State) : Host.Outcome State Fault Refusal :=
  mgmtDev h mcPair (fun d => provided (d.pairState == psPaired) d Dev.detach) s

/-- REPAIR (R327): a new initial copy. -/
def execRepair (h : MgmtHdr) (s : State) : Host.Outcome State Fault Refusal :=
  mgmtDev h mcPair (fun d => provided (d.pairState == psDetached) d Dev.startSync) s

/-- TAKEOVER (R335, R336), with the epoch for the twin's node ID. -/
def execTakeover (h : MgmtHdr) (epoch : BitVec 32) (s : State) : Host.Outcome State Fault Refusal :=
  mgmtDev h mcPair (fun d => provided d.mayTake d fun d => d.takeover epoch.toNat) s

/-- ADMIT on the loader (R342, R343): the spare's epoch in its peer table, the test step begun; while an admission already runs, a
new stroke (R345). -/
def Dev.admitLoader (d : Dev) (epoch stroke spareNode spareEpoch : Nat) : Dev :=
  let d := d.put Fld.PAIR_ADMIT_STROKE stroke
  if (d.adm = admTesting ∨ d.adm = admLoading ∨ d.adm = admReady) ∧ d.pair.loadNode = spareNode then
    { d with pair := { d.pair with missed := false } }
  else
    let p := { d.pair with loadNode := spareNode, newNode := d.get Fld.PAIR_STAT_SERVED, newEpoch := epoch, missed := false }
    ((({ d with pair := p } : Dev).peerPut spareNode spareEpoch true).put Fld.PAIR_ADMIT_LOADER 1).setAdm admTesting

/-- ADMIT on the spare (R342, R343): its own identity, the node and epoch it will take, its loader; its test begins. -/
def Dev.admitSpare (d : Dev) (node epoch stroke spareNode spareEpoch loader : Nat) : Dev :=
  let d := d.put Fld.PAIR_ADMIT_STROKE stroke
  if (d.adm = admTesting ∨ d.adm = admLoading ∨ d.adm = admReady) ∧ d.pair.loadNode = loader then
    { d with pair := { d.pair with missed := false } }
  else
    let d := (d.put Fld.FAB_CFG_NODE_ID spareNode).takeEpoch spareEpoch
    let p := { d.pair with loadNode := loader, newNode := node, newEpoch := epoch, missed := false }
    (({ d with pair := p } : Dev).put Fld.PAIR_ADMIT_LOADER 0).setAdm admTesting

/-- ADMIT (R342 to R345). -/
def execAdmitSpare (h : MgmtHdr) (asLoader : Bool) (node : BitVec 16) (epoch stroke : BitVec 32) (spareNode : BitVec 16)
    (spareEpoch : BitVec 32) (loader : BitVec 16) (s : State) : Host.Outcome State Fault Refusal :=
  mgmtDev h mcAdmit (fun d =>
    if asLoader then provided (d.pairState == psServing && spareEpoch != 0) d fun d => d.admitLoader epoch.toNat stroke.toNat spareNode.toNat spareEpoch.toNat
    else provided (d.pairState == psSolo && spareEpoch != 0) d fun d =>
      d.admitSpare node.toNat epoch.toNat stroke.toNat spareNode.toNat spareEpoch.toNat loader.toNat) s

/-- MCLASS (R333): class 3 is reserved. -/
def execMclass (h : MgmtHdr) (tenant : BitVec 8) (cls : BitVec 2) (s : State) : Host.Outcome State Fault Refusal :=
  mgmtDev h mcMclass (fun d => provided (cls != 3) d fun d => d.setClass tenant.toNat cls.toNat) s

/-- TAI seconds loaded (R320): pending until the next accepted edge, or taken at once in holdover. -/
def Dev.taiLoad (d : Dev) (sec : Nat) : Dev :=
  let d := (d.put Fld.TIM_TAI_SEC sec).put Fld.TIM_TAI_PEND 1
  if !d.clk.ppsHold then d
  else
    let before := d.clk.cnt
    let d := d.taiTake
    d.logEv evTimeStep mTiming (toField 64 ((before : Int) - (d.clk.cnt : Int)))

/-- TAI_LOAD (R320). -/
def execTaiLoad (h : MgmtHdr) (sec : BitVec 40) (s : State) : Host.Outcome State Fault Refusal :=
  mgmtDev h mcTaiLoad (fun d => (d.taiLoad sec.toNat, stOK)) s

/-- PLACE (R201, R202): the mappings of a placement image, and a prefetch schedule. -/
def execPlace (h : MgmtHdr) (maps : List PlaceMap) (table : List (List Byte)) (s : State) : Host.Outcome State Fault Refusal :=
  mgmtDev h mcPlace (fun d =>
    let (d, st) := d.placeAll maps
    (d.loadTable table, st)) s

/-- SVN_FUSE (R366): fuses blown up to the SVN of the running image, of the 64 there are. -/
def execSvnFuse (h : MgmtHdr) (s : State) : Host.Outcome State Fault Refusal :=
  onState (fun s => s.mgmt h mcSvnFuse fun s =>
    let n := max s.fuse.svn (min 64 (s.dev.get Fld.SEC_BOOT_SVN_IMG))
    ({ s with fuse := { s.fuse with svn := n }, dev := s.dev.put Fld.SEC_BOOT_SVN_FUSE n }, stOK)) s

/-- NVM_WRITE (R387): a region of the boot memory written; the device reads it at its next full reset. -/
def execNvmWrite (h : MgmtHdr) (addr : BitVec 32) (data : List Byte) (s : State) : Host.Outcome State Fault Refusal :=
  onState (fun s => s.mgmt h mcNvmWrite fun s =>
    if nvmSize < addr.toNat + data.length then (s, stAborted) else ({ s with nvm := nvmPut s.nvm addr.toNat data }, stOK)) s

/-- RESET (R375, R387): a full reset once the answer is given. -/
def execMgmtReset (h : MgmtHdr) (s : State) : Host.Outcome State Fault Refusal :=
  onState (fun s =>
    let fresh := s.dev.accepts h && (s.dev.answeredAs h).isNone
    let s := s.mgmt h mcReset fun s => (s, stOK)
    if fresh then s.fullReset else s) s

/-- MGMT_HEARTBEAT (R326, R386): a heartbeat of the Cox of `node`; from a fault manager it is an instruction too, and is answered. -/
def execMgmtHeartbeat (h : MgmtHdr) (node : BitVec 16) (t : BitVec 64) (s : State) : Host.Outcome State Fault Refusal :=
  onState (fun s =>
    let s := { s with dev := s.dev.advanceTo t.toNat }
    if s.dev.accepts h then s.mgmt h mcHeartbeat fun s => ({ s with dev := s.dev.mgmtHeard node.toNat }, stOK)
    else if s.dev.cox.mgmtOk then { s with dev := (s.dev.mgmtHeard node.toNat).settle } else s) s

end Sys2Proof.Machine
end

