-- ==== Sys2Proof/Machine/Dispatch.lean ====
section
/-! DEFINITION. Machine/Dispatch.lean: one arm per constructor of Instr, in the order of the table: a direct call of the
command's meaning. -/

namespace Sys2Proof.Machine

def exec (i : Instr) (s : State) : Host.Outcome State Fault Refusal :=
  match i with
  | .registerWrite fn off width v => Sys2Proof.Machine.execRegisterWrite fn off width v s
  | .rcCounterRead fn off width => Sys2Proof.Machine.execRcCounterRead fn off width s
  | .cfgLockSet fn => Sys2Proof.Machine.execCfgLockSet fn s
  | .glbReset fn v => Sys2Proof.Machine.execGlbReset fn v s
  | .sweepStart fn => Sys2Proof.Machine.execSweepStart fn s
  | .sweepDone => Sys2Proof.Machine.execSweepDone s
  | .idxPtKeyLoad fn upperOnly v => Sys2Proof.Machine.execIdxPtKeyLoad fn upperOnly v s
  | .keyScanBucket tenant => Sys2Proof.Machine.execKeyScanBucket tenant s
  | .seqCreate c twinGrants => Sys2Proof.Machine.execSeqCreate c twinGrants s
  | .seqRelease c => Sys2Proof.Machine.execSeqRelease c s
  | .kvTransfer c => Sys2Proof.Machine.execKvTransfer c s
  | .kvTransferProceed xid => Sys2Proof.Machine.execKvTransferProceed xid s
  | .appendHoldTimeout c t => Sys2Proof.Machine.execAppendHoldTimeout c t s
  | .rsvReq m twinGrants => Sys2Proof.Machine.execRsvReq m twinGrants s
  | .rsvGrant xid => Sys2Proof.Machine.execRsvGrant xid s
  | .rsvNak xid why cross => Sys2Proof.Machine.execRsvNak xid why cross s
  | .reservationRetry xid => Sys2Proof.Machine.execReservationRetry xid s
  | .xferPage m => Sys2Proof.Machine.execXferPage m s
  | .xferPageAck xid entry status => Sys2Proof.Machine.execXferPageAck xid entry status s
  | .commit m => Sys2Proof.Machine.execCommit m s
  | .commitRetry xid t => Sys2Proof.Machine.execCommitRetry xid t s
  | .commitAck xid handle dst => Sys2Proof.Machine.execCommitAck xid handle dst s
  | .commitUnknown xid => Sys2Proof.Machine.execCommitUnknown xid s
  | .abort h => Sys2Proof.Machine.execAbort h s
  | .abortAck xid dst => Sys2Proof.Machine.execAbortAck xid dst s
  | .xferHold h => Sys2Proof.Machine.execXferHold h s
  | .xferHoldSend => Sys2Proof.Machine.execXferHoldSend s
  | .rsvHoldTimeout src xid => Sys2Proof.Machine.execRsvHoldTimeout src xid s
  | .landingFlushPoint => Sys2Proof.Machine.execLandingFlushPoint s
  | .prefixLookup c => Sys2Proof.Machine.execPrefixLookup c s
  | .prefixInsert c => Sys2Proof.Machine.execPrefixInsert c s
  | .hallBankGrant bank reqs errors => Sys2Proof.Machine.execHallBankGrant bank reqs errors s
  | .attCoreCtlWrite core v => Sys2Proof.Machine.execAttCoreCtlWrite core v s
  | .attnMerge c ev => Sys2Proof.Machine.execAttnMerge c ev s
  | .attnStep c uncorrectable => Sys2Proof.Machine.execAttnStep c uncorrectable s
  | .outputSendAck c => Sys2Proof.Machine.execOutputSendAck c s
  | .retrSelect c => Sys2Proof.Machine.execRetrSelect c s
  | .retrSelectStart c => Sys2Proof.Machine.execRetrSelectStart c s
  | .sample c => Sys2Proof.Machine.execSample c s
  | .sampSet c => Sys2Proof.Machine.execSampSet c s
  | .tokenRelease number => Sys2Proof.Machine.execTokenRelease number s
  | .ttftScan => Sys2Proof.Machine.execTtftScan s
  | .loraApply c => Sys2Proof.Machine.execLoraApply c s
  | .wstream c => Sys2Proof.Machine.execWstream c s
  | .adpLoad c => Sys2Proof.Machine.execAdpLoad c s
  | .adpLoadMember m => Sys2Proof.Machine.execAdpLoadMember m s
  | .adpUnload c => Sys2Proof.Machine.execAdpUnload c s
  | .adpUnloadDrained c => Sys2Proof.Machine.execAdpUnloadDrained c s
  | .adpBind c => Sys2Proof.Machine.execAdpBind c s
  | .vmMap c => Sys2Proof.Machine.execVmMap c s
  | .vmUnmap c => Sys2Proof.Machine.execVmUnmap c s
  | .demote c => Sys2Proof.Machine.execDemote c s
  | .demoteProceed c => Sys2Proof.Machine.execDemoteProceed c s
  | .demotePageHeld cellar => Sys2Proof.Machine.execDemotePageHeld cellar s
  | .prefetch c => Sys2Proof.Machine.execPrefetch c s
  | .prefetchIssue c => Sys2Proof.Machine.execPrefetchIssue c s
  | .prefetchTableIssue entry => Sys2Proof.Machine.execPrefetchTableIssue entry s
  | .prefetchComplete id t got => Sys2Proof.Machine.execPrefetchComplete id t got s
  | .faultResolved id t got => Sys2Proof.Machine.execFaultResolved id t got s
  | .faultTimeout core t => Sys2Proof.Machine.execFaultTimeout core t s
  | .reclaim tenant => Sys2Proof.Machine.execReclaim tenant s
  | .zeroingDone gran => Sys2Proof.Machine.execZeroingDone gran s
  | .push fn ring off data => Sys2Proof.Machine.execPush fn ring off data s
  | .cqDb fn ring v => Sys2Proof.Machine.execCqDb fn ring v s
  | .syncWordAccess fn ring off width kind v => Sys2Proof.Machine.execSyncWordAccess fn ring off width kind v s
  | .engineDispatch engine joint => Sys2Proof.Machine.execEngineDispatch engine joint s
  | .preemptSaveDone core => Sys2Proof.Machine.execPreemptSaveDone core s
  | .restoreDone core => Sys2Proof.Machine.execRestoreDone core s
  | .nop ring => Sys2Proof.Machine.execNop ring s
  | .wait ring => Sys2Proof.Machine.execWait ring s
  | .waitPoll ring => Sys2Proof.Machine.execWaitPoll ring s
  | .watchdogExpiry ring t => Sys2Proof.Machine.execWatchdogExpiry ring t s
  | .signal ring => Sys2Proof.Machine.execSignal ring s
  | .signalAfter c => Sys2Proof.Machine.execSignalAfter c s
  | .enable ring => Sys2Proof.Machine.execEnable ring s
  | .stop ring => Sys2Proof.Machine.execStop ring s
  | .resume ring => Sys2Proof.Machine.execResume ring s
  | .flush ring => Sys2Proof.Machine.execFlush ring s
  | .reset ring v => Sys2Proof.Machine.execReset ring v s
  | .portEnWrite port en => Sys2Proof.Machine.execPortEnWrite port en s
  | .portTuneDone port locked codes => Sys2Proof.Machine.execPortTuneDone port locked codes s
  | .ringLockLost port => Sys2Proof.Machine.execRingLockLost port s
  | .laserFeedLevel feed power => Sys2Proof.Machine.execLaserFeedLevel feed power s
  | .linkctl port credits node farPort isSwitch beat t => Sys2Proof.Machine.execLinkctl port credits node farPort isSwitch beat t s
  | .linkctlSend port => Sys2Proof.Machine.execLinkctlSend port s
  | .linkctlTimeout port t => Sys2Proof.Machine.execLinkctlTimeout port t s
  | .trainingTimeout port t => Sys2Proof.Machine.execTrainingTimeout port t s
  | .berCheck port lanes t => Sys2Proof.Machine.execBerCheck port lanes t s
  | .relearnDone port => Sys2Proof.Machine.execRelearnDone port s
  | .uncorrectableCodeword port symbols => Sys2Proof.Machine.execUncorrectableCodeword port symbols s
  | .packetHandoff lc => Sys2Proof.Machine.execPacketHandoff lc s
  | .packetSpray => Sys2Proof.Machine.execPacketSpray s
  | .write a p => Sys2Proof.Machine.execWrite a p s
  | .readReq a p => Sys2Proof.Machine.execReadReq a p s
  | .readResp a p => Sys2Proof.Machine.execReadResp a p s
  | .atomic a p => Sys2Proof.Machine.execAtomic a p s
  | .atomicResp a p => Sys2Proof.Machine.execAtomicResp a p s
  | .reduce a p => Sys2Proof.Machine.execReduce a p s
  | .mcastWrite a p => Sys2Proof.Machine.execMcastWrite a p s
  | .inval a p => Sys2Proof.Machine.execInval a p s
  | .ack a p => Sys2Proof.Machine.execAck a p s
  | .nak a p => Sys2Proof.Machine.execNak a p s
  | .ackTimer qp node t => Sys2Proof.Machine.execAckTimer qp node t s
  | .retransmitTimeout qp node psn t => Sys2Proof.Machine.execRetransmitTimeout qp node psn t s
  | .rcUpdate qp node t => Sys2Proof.Machine.execRcUpdate qp node t s
  | .fabQpWrite qp => Sys2Proof.Machine.execFabQpWrite qp s
  | .fabQpRead qp => Sys2Proof.Machine.execFabQpRead qp s
  | .fabQpEnable qp => Sys2Proof.Machine.execFabQpEnable qp s
  | .fabQpDrain qp => Sys2Proof.Machine.execFabQpDrain qp s
  | .fabQpReset qp => Sys2Proof.Machine.execFabQpReset qp s
  | .winOpen c got => Sys2Proof.Machine.execWinOpen c got s
  | .winRevoke c => Sys2Proof.Machine.execWinRevoke c s
  | .winRevokeComplete w => Sys2Proof.Machine.execWinRevokeComplete w s
  | .rmOpWrite c => Sys2Proof.Machine.execRmOpWrite c s
  | .rmOpRead c => Sys2Proof.Machine.execRmOpRead c s
  | .rmOpAtomic c => Sys2Proof.Machine.execRmOpAtomic c s
  | .rmOpReduce c => Sys2Proof.Machine.execRmOpReduce c s
  | .rmOpMcast c => Sys2Proof.Machine.execRmOpMcast c s
  | .rmOpInval c => Sys2Proof.Machine.execRmOpInval c s
  | .importSet c => Sys2Proof.Machine.execImportSet c s
  | .importClear c => Sys2Proof.Machine.execImportClear c s
  | .groupSet c => Sys2Proof.Machine.execGroupSet c s
  | .rmCtlFlush c => Sys2Proof.Machine.execRmCtlFlush c s
  | .drop c => Sys2Proof.Machine.execDrop c s
  | .gatewayIdleFlush tenant block t => Sys2Proof.Machine.execGatewayIdleFlush tenant block t s
  | .mapSwitch => Sys2Proof.Machine.execMapSwitch s
  | .drainWindowEnd => Sys2Proof.Machine.execDrainWindowEnd s
  | .trfQpClass v => Sys2Proof.Machine.execTrfQpClass v s
  | .trfShapeWrite n v => Sys2Proof.Machine.execTrfShapeWrite n v s
  | .trfMeterWrite n word1 v => Sys2Proof.Machine.execTrfMeterWrite n word1 v s
  | .strokeCatch edge idle line => Sys2Proof.Machine.execStrokeCatch edge idle line s
  | .catchInsert t => Sys2Proof.Machine.execCatchInsert t s
  | .acquireTimeout t => Sys2Proof.Machine.execAcquireTimeout t s
  | .timCfgWrite v => Sys2Proof.Machine.execTimCfgWrite v s
  | .ppsEdge t => Sys2Proof.Machine.execPpsEdge t s
  | .ppsHoldover t => Sys2Proof.Machine.execPpsHoldover t s
  | .taiLoad h sec => Sys2Proof.Machine.execTaiLoad h sec s
  | .mirrorMessage src m => Sys2Proof.Machine.execMirrorMessage src m s
  | .mirrorAck src number skips short => Sys2Proof.Machine.execMirrorAck src number skips short s
  | .pairHeartbeatSend t => Sys2Proof.Machine.execPairHeartbeatSend t s
  | .linkUpTimeout t => Sys2Proof.Machine.execLinkUpTimeout t s
  | .mgmtHeartbeatSend t => Sys2Proof.Machine.execMgmtHeartbeatSend t s
  | .peerMgmtTimeout t => Sys2Proof.Machine.execPeerMgmtTimeout t s
  | .autoTakeover t => Sys2Proof.Machine.execAutoTakeover t s
  | .takeoverNotice sender node epoch senderEpoch listed => Sys2Proof.Machine.execTakeoverNotice sender node epoch senderEpoch listed s
  | .seqHot c => Sys2Proof.Machine.execSeqHot c s
  | .spareTestDone pass => Sys2Proof.Machine.execSpareTestDone pass s
  | .admissionRecordLoad src phandle index words headers pages rows => Sys2Proof.Machine.execAdmissionRecordLoad src phandle index words headers pages rows s
  | .admissionLoadDone => Sys2Proof.Machine.execAdmissionLoadDone s
  | .admissionHandover => Sys2Proof.Machine.execAdmissionHandover s
  | .dramStackFailure stack copies => Sys2Proof.Machine.execDramStackFailure stack copies s
  | .logRecordWrite => Sys2Proof.Machine.execLogRecordWrite s
  | .boatDrained boat => Sys2Proof.Machine.execBoatDrained boat s
  | .boatScrubDone boat uncorrectable => Sys2Proof.Machine.execBoatScrubDone boat uncorrectable s
  | .wayScrubDone => Sys2Proof.Machine.execWayScrubDone s
  | .getVersion r => Sys2Proof.Machine.execGetVersion r s
  | .getCapabilities r => Sys2Proof.Machine.execGetCapabilities r s
  | .negotiateAlgorithms r => Sys2Proof.Machine.execNegotiateAlgorithms r s
  | .getDigests r => Sys2Proof.Machine.execGetDigests r s
  | .getCertificate r => Sys2Proof.Machine.execGetCertificate r s
  | .challenge r => Sys2Proof.Machine.execChallenge r s
  | .getMeasurements r => Sys2Proof.Machine.execGetMeasurements r s
  | .keyExchange r t => Sys2Proof.Machine.execKeyExchange r t s
  | .finish r t => Sys2Proof.Machine.execFinish r t s
  | .endSession r => Sys2Proof.Machine.execEndSession r s
  | .heartbeat r t => Sys2Proof.Machine.execHeartbeat r t s
  | .keyUpdate r t => Sys2Proof.Machine.execKeyUpdate r t s
  | .spdmSessionTimeout t => Sys2Proof.Machine.execSpdmSessionTimeout t s
  | .powerOnReset pwrgd perstN => Sys2Proof.Machine.execPowerOnReset pwrgd perstN s
  | .perstAssert => Sys2Proof.Machine.execPerstAssert s
  | .hotReset => Sys2Proof.Machine.execHotReset s
  | .functionLevelReset fn => Sys2Proof.Machine.execFunctionLevelReset fn s
  | .bootRomDone t => Sys2Proof.Machine.execBootRomDone t s
  | .firmwareVerify t => Sys2Proof.Machine.execFirmwareVerify t s
  | .dramInitDone t failed => Sys2Proof.Machine.execDramInitDone t failed s
  | .roleImageApply t => Sys2Proof.Machine.execRoleImageApply t s
  | .journalProgram t => Sys2Proof.Machine.execJournalProgram t s
  | .setEpoch h epoch => Sys2Proof.Machine.execSetEpoch h epoch s
  | .peerSet h node epoch valid => Sys2Proof.Machine.execPeerSet h node epoch valid s
  | .part h p => Sys2Proof.Machine.execPart h p s
  | .mapNext h ver stroke drain entries => Sys2Proof.Machine.execMapNext h ver stroke drain entries s
  | .pairTwin h node => Sys2Proof.Machine.execPairTwin h node s
  | .detach h => Sys2Proof.Machine.execDetach h s
  | .repair h => Sys2Proof.Machine.execRepair h s
  | .takeover h epoch => Sys2Proof.Machine.execTakeover h epoch s
  | .admitSpare h asLoader node epoch stroke spareNode spareEpoch loader => Sys2Proof.Machine.execAdmitSpare h asLoader node epoch stroke spareNode spareEpoch loader s
  | .mclass h tenant cls => Sys2Proof.Machine.execMclass h tenant cls s
  | .place h maps table => Sys2Proof.Machine.execPlace h maps table s
  | .svnFuse h => Sys2Proof.Machine.execSvnFuse h s
  | .nvmWrite h addr data => Sys2Proof.Machine.execNvmWrite h addr data s
  | .mgmtReset h => Sys2Proof.Machine.execMgmtReset h s
  | .mgmtHeartbeat h node t => Sys2Proof.Machine.execMgmtHeartbeat h node t s
  | .i3cReset v => Sys2Proof.Machine.execI3cReset v s
  | .setdasa staticAddr dynAddr => Sys2Proof.Machine.execSetdasa staticAddr dynAddr s
  | .nvmRead addr => Sys2Proof.Machine.execNvmRead addr s
  | .nvmProgram addr buf => Sys2Proof.Machine.execNvmProgram addr buf s
  | .nvmErase addr => Sys2Proof.Machine.execNvmErase addr s
  | .tjAlarm tj threshold => Sys2Proof.Machine.execTjAlarm tj threshold s
  | .thermtrip tj => Sys2Proof.Machine.execThermtrip tj s
  | .dramOvertemp stack temp => Sys2Proof.Machine.execDramOvertemp stack temp s
  | .pwrgdFall => Sys2Proof.Machine.execPwrgdFall s
  | .railUndervoltage rail us => Sys2Proof.Machine.execRailUndervoltage rail us s
  | .sysrefLoss ns => Sys2Proof.Machine.execSysrefLoss ns s
  | .sysrefReturn ns => Sys2Proof.Machine.execSysrefReturn ns s
  | .strapSample straps => Sys2Proof.Machine.execStrapSample straps s
  | .aliasAccess group off width isWrite v => Sys2Proof.Machine.execAliasAccess group off width isWrite v s
  | .proxyAccess off width kind data answer => Sys2Proof.Machine.execProxyAccess off width kind data answer s
  | .proxyReadTimeout slot t => Sys2Proof.Machine.execProxyReadTimeout slot t s
  | .memberHostRequest slot r => Sys2Proof.Machine.execMemberHostRequest slot r s
  | .heartbeatCtrlPacket src t => Sys2Proof.Machine.execHeartbeatCtrlPacket src t s
  | .mgmtLinkState up t => Sys2Proof.Machine.execMgmtLinkState up t s
  | .mgmtUpTimeout t => Sys2Proof.Machine.execMgmtUpTimeout t s
  | .thermtripRelease tj => Sys2Proof.Machine.execThermtripRelease tj s

end Sys2Proof.Machine
end

