-- ==== Sys2Proof/Machine/Idle.lean ====
section
/-! DEFINITION. Machine/Idle.lean: what a step does on an empty queue. -/

namespace Sys2Proof.Machine

/-- One cycle of the 1.5 GHz clock, two thirds of a nanosecond, passes (R101, R319; log entry 2); under full reset or
with every clock stopped, nothing does (R411, R419). -/
def idle (s : State) : Host.Outcome State Fault Refusal :=
  onDev (fun d => d.advance 2) s

end Sys2Proof.Machine
end

