-- ==== Sys2Proof/Safety.lean ====
section
/-! DEFINITION. Safety.lean: what a safe run keeps: the forms in which the model holds its storage. -/

namespace Sys2Proof.Machine

/-- The boot memory keeps its canonical form: unlisted bytes read FFH, its erased state (R376, log entry 5). -/
def State.nvmOk (s : State) : Bool := Mem.wf 0xFF s.nvm

/-- `s` with `d` for its device. -/
def State.withDev (s : State) (d : Dev) : State := { s with dev := d }

/-- `s` with `d` for its device once the monitor has looked at its watches (R225). -/
def State.settled (s : State) (d : Dev) : State := { s with dev := d.settle }

/-- A running device on which no wait is armed: the monitor has nothing to look at (R225, R226). -/
def State.calm (s : State) : Prop := s.dev.alive = true ∧ s.dev.watches = []

/-- Every register word of `d'` is that of `d`, but those at the offsets listed. -/
def Dev.sameRegsBut (offs : List Nat) (d d' : Dev) : Prop := ∀ off wreset, off ∉ offs → d'.word off wreset = d.word off wreset

/-- `t` is `s` after a full reset (R375): the fuses, the boot memory and the queue as they were, the device at its reset state but for the host's memory,
what has been emitted, the counter of the free values and what the board drives (log entries 1, 10, 11). -/
def State.resetTo (s t : State) : Prop :=
  t.pending = s.pending ∧ t.fuse = s.fuse ∧ t.nvm = s.nvm
    ∧ t.dev = { Dev.reset s.fuse with host := t.dev.host, out := t.dev.out, freeCtr := t.dev.freeCtr, elec := t.dev.elec }

/-- Every byte of a memory reads as before, but `n` bytes from `a`. -/
def Mem.sameBut (a n : Nat) (m m' : Mem) : Prop := ∀ x, x < a ∨ a + n ≤ x → m'.read x = m.read x

/-- The registers whose write does more than change their stored fields, or that a write changes only under a condition. -/
def writeActs : List Nat :=
  [Reg.GLB_CFG_LOCK, Reg.MEM_PD_SWEEP, Reg.IDX_PT_KEY_LO, Reg.IDX_PT_KEY_HI, Reg.MEM_CELLAR0, Reg.MEM_FAULT_CFG, Reg.MOV_XFER_CFG, Reg.SMP_CFG,
   Reg.QUE_SETUP, Reg.QUE_BODY, Reg.QUE_CQ, Reg.QUE_SYNC, Reg.QUE_CQIDX, Reg.QUE_CTRL, Reg.FAB_QP_OP, Reg.FAB_PORT_CTL, Reg.TRF_QP_CLASS, Reg.TRF_SHAPE,
   Reg.TRF_METER0, Reg.TRF_METER1, Reg.TIM_CFG, Reg.GLB_RESET].map (·.base)

/-- A received packet that passes the checks of R264 before its PSN, which leave the device `d'`, is in the receive window and not yet received, and
whose map version is accepted. -/
def Accepted (d : Dev) (p : Packet) (d' : Dev) : Prop :=
  d.checkPkt p = .pass d' ∧ subMod 32 p.psn.toNat (d'.qpt p.dstQp.toNat p.srcNode.toNat).rpsn < rxWindow
    ∧ (d'.qpt p.dstQp.toNat p.srcNode.toNat).got.contains p.psn.toNat = false ∧ d'.mapOk p.mapVer.toNat = true

/-- The device on which an accepted packet acts: the pair answers under the identity that the packet addressed (R336). -/
def Dev.heard (d : Dev) (p : Packet) : Dev := d.setQpt { (d.qpt p.dstQp.toNat p.srcNode.toNat) with ident := p.dstNode.toNat }

/-- The ingress meter and the placement queue pass a packet, marked or not, and leave the device `d'` (R270, R303): the system's packets are not
metered. -/
def Dev.Passes (d : Dev) (a : Arrival) (p : Packet) (d' : Dev) (mark : Bool) : Prop :=
  (qReserved p.dstQp.toNat = true ∧ d' = d ∧ mark = d.rxMark a)
    ∨ (qReserved p.dstQp.toNat = false ∧ ∃ m, d.meter (d.qTenant p.dstQp.toNat) (pktWire p) = (d', true, m) ∧ mark = (m || d.rxMark a))

/-- The bytes that an RM_OP sends, read from its local memory, and the device after that (R109, R117, R292). -/
def Dev.LocalBytes (d : Dev) (k : RunCmd) (bs : List Byte) (d' : Dev) : Prop :=
  let a := u64 k.entry 40
  let n := rmLen k.entry
  (rmVirt k.entry = true ∧ d.vaRead (some (k.ring, k.index)) k.tenant a n = .ok bs d')
    ∨ (rmVirt k.entry = false ∧ n = 0 ∧ bs = [] ∧ d' = d)
    ∨ (rmVirt k.entry = false ∧ n ≠ 0 ∧ d.hallOk (some k.tenant) a n = true ∧ d.hallSees k.master a n = (d', false) ∧ bs = d'.hall.readBytes a n)

/-- The commands of the board, which reach what hangs on `VDD_STBY` and the pins, also of a device held in reset (R411 to R419). -/
def boardRow : Instr → Bool
  | .powerOnReset _ _ | .perstAssert | .i3cReset _ | .setdasa _ _ | .nvmRead _ | .nvmProgram _ _ | .nvmErase _ | .tjAlarm _ _ | .thermtrip _
  | .thermtripRelease _ | .pwrgdFall | .railUndervoltage _ _ | .sysrefLoss _ | .sysrefReturn _ | .strapSample _ => true
  | _ => false

/-- The commands that write the boot memory (R384, R387, R388). -/
def nvmRow : Instr → Bool
  | .nvmWrite _ _ _ | .nvmProgram _ _ | .nvmErase _ | .journalProgram _ => true
  | _ => false

end Sys2Proof.Machine
end

