-- ==== Sys2Proof/Certificates/Slice0/Obligations.lean ====
section
/-! DEFINITION. Obligations.lean: the statements for the provers, family by family; each docstring names the rules it formalises
and, where the model chose, the log entry. -/

open Sys2Proof Sys2Proof.Machine

/-! ## Rings (chapter 9) -/

/-- R214, R216: one entry pushed through its doorbell page. The entry stands at the slot of the old `PI`, `PI` has advanced by 1 modulo 2^32, and nothing else of the device has
changed: no other byte of DRAM, no other register, no other storage. -/
def Obligations.PushOneEntry : Prop :=
  ∀ (s : State) (fn : BitVec 6) (ring : BitVec 16) (data : List Byte),
    let d := s.dev
    let r := ring.toNat
    s.calm → d.open' = true → d.assigned fn.toNat r = true → d.ringState r = rsRun → r ∉ d.aborting → data.length = 64 →
    d.depth r < d.ringSize r → d.flag Fld.QUE_SETUP_IRQ_FULL r = false →
    ∃ t : State, exec (.push fn ring 0 data) s = .next t
      ∧ t.dev.ringPI r = (d.ringPI r + 1) % 2 ^ 32 ∧ t.dev.ringCI r = d.ringCI r
      ∧ t.dev.entryAt r (d.ringPI r) = data
      ∧ Mem.sameBut (d.slotAddr r (d.ringPI r)) 64 d.dram t.dev.dram
      ∧ Dev.sameRegsBut [Fld.QUE_IDX_PI.off r 0] d t.dev
      ∧ t = s.withDev { d with regs := t.dev.regs, dram := t.dev.dram }

/-- R216, R217, R239: a push refused. Not a whole number of 64-byte entries: one push is counted in `DROPPED` and `BADPUSH` is set. Too many for the ring: each entry is counted and
`OVF` is set. Neither changes `PI`, `CI` or DRAM. -/
def Obligations.PushRefused : Prop :=
  ∀ (s : State) (fn : BitVec 6) (ring : BitVec 16) (data : List Byte),
    let d := s.dev
    let r := ring.toNat
    s.calm → d.flag Fld.QUE_SETUP_IRQ_ERR r = false →
    (data.length % 64 ≠ 0 →
      ∃ t : State, exec (.push fn ring 0 data) s = .next t ∧ t.dev.flag Fld.QUE_STAT_BADPUSH r = true
        ∧ t.dev.get Fld.QUE_STAT_DROPPED r = min Fld.QUE_STAT_DROPPED.max (d.get Fld.QUE_STAT_DROPPED r + 1)
        ∧ t = s.withDev { d with regs := t.dev.regs } ∧ Dev.sameRegsBut [Fld.QUE_STAT_STATE.off r 0] d t.dev)
    ∧ (∀ k, data.length = 64 * k → 1 ≤ k → k ≤ 4 → d.open' = true → d.assigned fn.toNat r = true → d.ringState r ≠ rsOff →
        d.ringSize r < d.depth r + k →
        ∃ t : State, exec (.push fn ring 0 data) s = .next t ∧ t.dev.flag Fld.QUE_STAT_OVF r = true
          ∧ t.dev.get Fld.QUE_STAT_DROPPED r = min Fld.QUE_STAT_DROPPED.max (d.get Fld.QUE_STAT_DROPPED r + k)
          ∧ t = s.withDev { d with regs := t.dev.regs } ∧ Dev.sameRegsBut [Fld.QUE_STAT_STATE.off r 0] d t.dev)

/-- R238: The permitted ring control operations. `ENABLE` takes OFF to RUN, `STOP` takes RUN to STOPPED, `RESUME` takes STOPPED to RUN, `FLUSH` takes STOPPED to OFF with `CI` at
`PI`, and `RESET` of an OFF ring sets `PI` and `CI` to the value written and the completion indices to 0. The rings concerned hold no running command and no list that is ending. A
control operation that is not permitted from the state the ring is in sets `BADPUSH` and changes nothing else. -/
def Obligations.RingControl : Prop :=
  (∀ (s : State) (ring : BitVec 16),
    let d := s.dev
    let r := ring.toNat
    s.calm → d.open' = true → d.cmds = [] → d.aborting = [] →
    (d.ringState r = rsOff → ∃ t : State, exec (.enable ring) s = .next t ∧ t.dev.ringState r = rsRun
      ∧ Dev.sameRegsBut [Fld.QUE_STAT_STATE.off r 0] d t.dev ∧ t.dev.dram = d.dram)
    ∧ (d.ringState r = rsRun → ∃ t : State, exec (.stop ring) s = .next t ∧ t.dev.ringState r = rsStopped
      ∧ Dev.sameRegsBut [Fld.QUE_STAT_STATE.off r 0] d t.dev ∧ t.dev.dram = d.dram)
    ∧ (d.ringState r = rsStopped → d.depth r = 0 → ∃ t : State, exec (.resume ring) s = .next t ∧ t.dev.ringState r = rsRun
      ∧ Dev.sameRegsBut [Fld.QUE_STAT_STATE.off r 0] d t.dev ∧ t.dev.dram = d.dram)
    ∧ (d.ringState r = rsStopped → ∃ t : State, exec (.flush ring) s = .next t ∧ t.dev.ringState r = rsOff
      ∧ t.dev.ringCI r = d.ringPI r ∧ Dev.sameRegsBut [Fld.QUE_STAT_STATE.off r 0, Fld.QUE_IDX_CI.off r 0] d t.dev ∧ t.dev.dram = d.dram)
    ∧ (∀ v : BitVec 32, d.ringState r = rsOff → ∃ t : State, exec (.reset ring v) s = .next t ∧ t.dev.ringState r = rsOff
      ∧ t.dev.ringPI r = v.toNat ∧ t.dev.ringCI r = v.toNat ∧ t.dev.get Fld.QUE_CQIDX_CQ_PI r = 0 ∧ t.dev.get Fld.QUE_CQIDX_CQ_CI r = 0
      ∧ Dev.sameRegsBut [Fld.QUE_IDX_PI.off r 0, Fld.QUE_CQIDX_CQ_PI.off r 0] d t.dev ∧ t.dev.dram = d.dram))
  ∧ (∀ (s : State) (ring : BitVec 16) (v : BitVec 32) (i : Instr),
    let d := s.dev
    let r := ring.toNat
    s.calm → d.open' = true → d.flag Fld.QUE_SETUP_IRQ_ERR r = false →
    (i = .enable ring ∧ d.ringState r ≠ rsOff) ∨ (i = .stop ring ∧ d.ringState r ≠ rsRun ∧ d.ringState r ≠ rsWait)
      ∨ (i = .resume ring ∧ d.ringState r ≠ rsStopped) ∨ (i = .flush ring ∧ d.ringState r ≠ rsStopped)
      ∨ (i = .reset ring v ∧ d.ringState r ≠ rsOff) →
    exec i s = .next (s.withDev (d.put Fld.QUE_STAT_BADPUSH 1 r)))

/-- R220, R224, R225, R230: the queue commands. A `NOP` is popped and completes `OK`. A `WAIT` whose condition does not hold is armed and its ring waits; the head stays. One whose
condition holds is popped and completes `OK` with the word as its two halves. A `SIGNAL` without `AFTER` writes, adds or swaps its hall word, and a `WRITE` of host space writes the
host; with `AFTER` it is taken and held. A word that the command
reads is correctable; an atomic `SIGNAL` of an uncorrectable one ends `CRC_FAULT` (R117). -/
def Obligations.QueueCommands : Prop :=
  ∀ (s : State) (ring : BitVec 16),
    let d := s.dev
    let r := ring.toNat
    let e := d.head r
    s.dev.alive = true → d.ready r = true →
    (opOf e = opNop → exec (.nop ring) s = .next (s.settled (d.popEnd r stOK [])))
    ∧ (opOf e = opWait → u32 e 16 % 8 = 0 → d.hallOk (some (d.ringTenant r)) (u32 e 16) 8 = true → d.badWords (u32 e 16) 8 = [] → d.armed < 16384 →
        (waitHolds e (d.hallWord (u32 e 16)) = some false →
          exec (.wait ring) s = .next (s.settled
            (({ d with watches := d.watches ++ [⟨r, u32 e 16, false, d.clk.now, 0, 0⟩] } : Dev).put Fld.QUE_STAT_STATE rsWait r)))
        ∧ (waitHolds e (d.hallWord (u32 e 16)) = some true →
          exec (.wait ring) s = .next (s.settled (d.endWait r stOK (halves (d.hallWord (u32 e 16)))))))
    ∧ (opOf e = opSignal → bit (u8 e 26) 0 = true → exec (.signal ring) s = .next (s.settled (d.take r 8 false none .held)))
    ∧ (opOf e = opSignal → bit (u8 e 26) 0 = false → u8 e 25 = 1 → u8 e 24 = 0 →
        exec (.signal ring) s = .next (s.settled ((d.hostPut (d.ringFunc r) (u64 e 16) (toBytes 8 (u64 e 32))).popEnd r stOK [])))
    ∧ (opOf e = opSignal → bit (u8 e 26) 0 = false → u8 e 25 = 0 → u64 e 16 % 8 = 0 → d.hallOk (some (d.ringTenant r)) (u64 e 16) 8 = true →
        (u8 e 24 = 0 → exec (.signal ring) s = .next (s.settled ((d.hallPut (u64 e 16) (toBytes 8 (u64 e 32))).popEnd r stOK [])))
        ∧ (d.badWords (u64 e 16) 8 = [] →
          (u8 e 24 = 1 → exec (.signal ring) s = .next (s.settled
            ((d.hallPut (u64 e 16) (toBytes 8 (d.hallWord (u64 e 16) + u64 e 32))).popEnd r stOK (halves (d.hallWord (u64 e 16))))))
          ∧ (u8 e 24 = 2 → exec (.signal ring) s = .next (s.settled
            ((d.hallPut (u64 e 16) (toBytes 8 (u64 e 32))).popEnd r stOK (halves (d.hallWord (u64 e 16)))))))
        ∧ (u8 e 24 = 1 ∨ u8 e 24 = 2 → d.badWords (u64 e 16) 8 ≠ [] → exec (.signal ring) s = .next (s.settled
            ((d.meetBad mQueue (d.badWords (u64 e 16) 8)).popEnd r stCrcFault []))))

/-- R215, R218, R229, R226, R227, R228, R230, R232, R233, R234, R235: Doorbell pages. `CQ_DB` sets `CQ_CI`; a 64-bit access to a sync word reads it, writes it, adds to it or swaps it and
answers the old value; a compare-and-swap is answered as unsupported. Waits that go on. A polled wait whose time has come and whose word satisfies it ends `OK`; the watchdog ends
an expired wait with `WAIT_TIMEOUT`; a held `SIGNAL` of a hall `WRITE` acts once no earlier command of its ring runs. An idle engine other than attention takes the first
best-effort head in turn; the attention engine puts it on the first free core; a push that reaches a ring in
the same cycle is taken with the choice (R215). A finished save leaves its command resumable and its core idle; a finished restore runs its command again from the place its slot
holds. -/
def Obligations.DoorbellsWaitsEngines : Prop :=
  (∀ (s : State) (fn : BitVec 6) (ring : BitVec 16) (v : Word),
    let d := s.dev
    let r := ring.toNat
    d.alive = true → d.assigned fn.toNat r = true →
    (exec (.cqDb fn ring v) s = .next (s.settled ((d.put Fld.QUE_CQIDX_CQ_CI (v.toNat % 2 ^ 32) r).release)))
    ∧ (∀ off : BitVec 12, 0x800 ≤ off.toNat → off.toNat % 8 = 0 →
        exec (.syncWordAccess fn ring off 8 .cas v) s = .next (s.settled (d.emit .unsupported))
        ∧ (let a := d.get Fld.QUE_SYNC_OFF r + off.toNat - 0x800
           d.hallOk (some (d.ringTenant r)) a 8 = true →
            exec (.syncWordAccess fn ring off 8 .write v) s = .next (s.settled (d.hallPut a (toBytes 8 v.toNat)))
            ∧ (d.badWords a 8 = [] → exec (.syncWordAccess fn ring off 8 .read v) s = .next (s.settled (d.emit (.readData (d.hallWord a))))
            ∧ exec (.syncWordAccess fn ring off 8 .fetchAdd v) s
                = .next (s.settled ((d.hallPut a (toBytes 8 (d.hallWord a + v.toNat))).emit (.readData (d.hallWord a))))
            ∧ exec (.syncWordAccess fn ring off 8 .swap v) s
                = .next (s.settled ((d.hallPut a (toBytes 8 v.toNat)).emit (.readData (d.hallWord a))))))))
  ∧ (∀ (s : State) (ring : BitVec 16), s.dev.alive = true →
    let d := s.dev
    let r := ring.toNat
    (∀ w : Watch, d.watches = [w] → w.ring = r → w.polled = true → w.polledAt + 2 * atLeast1 (d.get Fld.HAL_QCFG_POLL) ≤ d.clk.now →
        waitHolds (d.head r) (d.hallWord w.addr) = some true →
        exec (.waitPoll ring) s = .next (s.settled
          (({ d with watches := [{ w with polled := false, polledAt := d.clk.now }] } : Dev).endWait r stOK (halves (d.hallWord w.addr)))))
    ∧ (∀ (w : Watch) (t : BitVec 64),
        let d := d.advanceTo t.toNat
        d.watches = [w] → w.ring = r → d.cmds = [] → d.expired (u8 (d.head r) 21) (u16 (d.head r) 22) r w.strokes w.lostT = true →
        exec (.watchdogExpiry ring t) s = .next (s.settled (d.endWait r stWaitTimeout [])))
    ∧ (∀ (c : CmdId) (k : RunCmd), d.cmds = [k] → d.cmdAs c opSignal .held = some k → u8 k.entry 25 = 0 → u8 k.entry 24 = 0 →
        d.hallOk (some (d.ringTenant k.ring)) (u64 k.entry 16) 8 = true →
        exec (.signalAfter c) s = .next (s.settled
          ((d.hallPut (u64 k.entry 16) (toBytes 8 (u64 k.entry 32))).endCmd k (d.hallPut (u64 k.entry 16) (toBytes 8 (u64 k.entry 32))).pair.next stOK []))))
  ∧ (∀ (s : State) (r : Nat) (rest : List Nat), s.dev.alive = true →
    let d := s.dev
    (∀ eng : BitVec 3, eng.toNat < 5 → d.cmds = [] → d.heads eng.toNat true = [] → d.heads eng.toNat false = r :: rest →
        d.unserved eng.toNat (d.head r) = false → d.handing = false →
        (eng.toNat ≠ engAttn → exec (.engineDispatch eng none) s
          = .next (s.settled ((d.take r eng.toNat (d.isLc r (d.head r)) none .run).served eng.toNat r)))
        ∧ (∀ n, eng.toNat = engAttn → d.freeCore (d.ringTenant r) = some n →
            exec (.engineDispatch eng none) s = .next (s.settled ((d.startOn r n).served engAttn r))))
    ∧ (∀ (eng : BitVec 3) (p : JointPush), eng.toNat < 5 → exec (.engineDispatch eng (some p)) s = .next (s.settled (d.dispatchWith eng.toNat p)))
    ∧ (∀ (core : BitVec 9) (k : RunCmd) (sl : Nat), d.cmds = [k] → k.core = some core.toNat → k.slot = some sl →
        (k.phase = .saving → k.after = afterPark → d.faults = [] → ((d.writeSlot k core.toNat sl).coreFree core.toNat).ringState k.ring ≠ rsStopped →
          exec (.preemptSaveDone core) s = .next (s.settled
            (((d.writeSlot k core.toNat sl).coreFree core.toNat).setCmd { k with core := none, phase := .resumable, after := 0 })))
        ∧ (k.phase = .restoring → ∃ t : State, exec (.restoreDone core) s = .next t
            ∧ ∃ d' : Dev, t = s.settled d' ∧ d'.slotOf core.toNat = sl
              ∧ d'.cmds = [{ k with slot := none, phase := if k.acks then .acks else .run, acks := false, pos := (d'.placeOf core.toNat).1,
                                    res := (d'.placeOf core.toNat).2 }]
              ∧ d'.pool = insertNat (d.slotOf core.toNat) d.pool ∧ d'.get Fld.ATT_CORE_STAT_STATE core.toNat = csRun)))

/-! ## Sequences and transfers (chapter 2) -/

/-- R69, R21, R31, R144, R330: a `SEQ_CREATE` with fields in range, a free record, quota and room, for which a mirror record is asked of the twin while the device is paired. With
the twin's grant where it is asked, the page map and the landing bodies are zero-filled, the record's words 0 to 5 are written, the other words are 0, the touch stamp is set, the
record is mirrored, and the command completes `OK` with the new handle; refused by the twin it completes `RESERVE_DENIED` and takes nothing. -/
def Obligations.SeqCreateCompletes : Prop :=
  ∀ (s : State) (c : CmdId) (k : RunCmd) (twinGrants : Bool) (i pm la : Nat) (d' : Dev),
    let d := s.dev
    let e := k.entry
    let gen := genIssued (d.rGen i)
    let w0 := word0 gen recActive k.tenant (u8 e 16) (u8 e 17) (u8 e 18) (u8 e 19) (u16 e 20)
    d.alive = true → d.act c opSeqCreate = some k → seqFieldsOk e = true → d.freeRec = some i →
    d.admits k.tenant t1 (bodyGrans (u8 e 16) (u8 e 17) (u16 e 20)) = true →
    d.allocBodies i k.tenant (u8 e 16) (u8 e 17) (u16 e 20) = some (pm, la, d') →
    ((d.mirrors = true → twinGrants = true) →
      let d1 := d'.askTwin i w0
      exec (.seqCreate c twinGrants) s = .next (s.settled
        ((((((((((List.range 16).foldl (fun d w => d.rset i w 0) d1).rset i 0 w0).rset i 1 d1.clk.cnt).rset i 3 (la * 2 ^ 27 + pm)).rset i 4
          (d1.epoch * 2 ^ 32)).rset i 5 0xFFFFFFFF00000000).touch i).mirrorRec i).endCmd k d.pair.next stOK [mkHandle i gen])))
    ∧ (d.mirrors = true → exec (.seqCreate c false) s = .next (s.settled ((d.askTwin i w0).endCmd k d.pair.next stReserveDenied [])))

/-- R32, R41, R69, R157: `SEQ_RELEASE` and `KV_TRANSFER` of a handle that passes R32. The release clears `PROMOTED`, retires the record and completes `OK`, or, over a stale
reference, completes `ABORTED` and records the mismatch; the transfer makes the record `LEAVING` with the next transfer number, and waits. A handle that does not pass ends either
command with the status of R32, the transfer with its pages counted as failed and its bitmap first. -/
def Obligations.ReleaseAndTransferAccepted : Prop :=
  ∀ (s : State) (c : CmdId) (k : RunCmd),
    let d := s.dev
    let e := k.entry
    let i := hIndex (u32 e 16)
    d.alive = true →
    (d.act c opSeqRelease = some k →
      let st := d.checkHandle (u32 e 16) k.tenant k.order
      (st = stOK → d.staleOf i = none → exec (.seqRelease c) s = .next (s.settled ((((d.touch i).rput i 7 45 45 0).retire i).endCmd k d.pair.next stOK [])))
      ∧ (∀ p tag, st = stOK → d.staleOf i = some (p, tag) →
          exec (.seqRelease c) s = .next (s.settled ((d.tagMismatch mMover p tag).endCmd k d.pair.next stAborted [])))
      ∧ (st ≠ stOK → exec (.seqRelease c) s = .next (s.settled (d.endCmd k d.pair.next st []))))
    ∧ (d.act c opKvTransfer = some k → k.stage ≠ stageBitmap → d.xfers = [] →
      let st := d.checkHandle (u32 e 16) k.tenant d.orders
      let pages := if d.rState i ≠ recFree ∧ hGen (u32 e 16) = d.rGen i ∧ d.rTenant i = k.tenant then d.usedEntries i else []
      (st = stOK → u8 e 22 ≤ 3 →
        ∃ x : Xfer, x.xid = d.nextXid ∧ x.idx = i ∧ x.dest = u16 e 20 ∧ x.recomp = u8 e 22 ∧ x.retryMax = u8 e 23 ∧ x.bitmap = u64 e 24 ∧ x.phase = .waiting
          ∧ x.order = d.orders ∧ exec (.kvTransfer c) s = .next (s.settled
              (((({ d.setCmd { k with order := d.orders } with xfers := [x], nextXid := if d.nextXid = 2 ^ 32 - 1 then 1 else d.nextXid + 1,
                                                               orders := d.orders + 1 } : Dev).touch i).rput i 0 46 44 recLeaving).rput i 4 31 0
                d.nextXid |>.mirrorRec i)))
      ∧ (st ≠ stOK → exec (.kvTransfer c) s = .next (s.settled (d.refuseXfer k d.pair.next st [0, 0, 0, pages.length] (ackBits pages []))))
      ∧ (st = stOK → 3 < u8 e 22 → exec (.kvTransfer c) s = .next (s.settled (d.refuseXfer k d.pair.next stAborted [0, 0, 0, pages.length] (ackBits pages [])))))
    ∧ (d.act c opKvTransfer = some k → k.stage = stageBitmap → exec (.kvTransfer c) s = .next (s.settled (d.endRest k (u64 e 24))))
    ∧ (∀ (d : Dev) n st res bm, d.refuseXfer k n st res bm = if u64 e 24 = 0 then d.endCmd k n st res else d.endBitmap k n (u64 e 24) st res bm)

/-- R25, R62, R63, R64, R66, R24: The source of a transfer. Once no earlier command names the record, its landing is flushed and `RSV_REQ` is sent; a retry asks again and counts; a
refusal for records or space waits for the next catch, or, when two devices ask each other, for a drawn number of strokes on the lower node; `COMMIT` is repeated when its time has
come. The move. A grant begins it at the first page; an acknowledgement of a page counts it as moved, or as copied when the page is shared, and the last one sends `COMMIT`; an
acknowledged commit retires the record and completes the command `OK` with the new handle. Each answer counts as received on the mover's pair with the destination. -/
def Obligations.TransferAtSource : Prop :=
  (∀ (s : State) (x : Xfer) (xid : BitVec 32), s.dev.alive = true →
    let d := s.dev
    d.xfer xid.toNat = some x →
    (x.phase = .waiting → x.waitFor = 0 → d.earlierNaming x.idx x.order = false → d.rState x.idx = recLeaving → d.rXfer x.idx = x.xid →
      ∀ d', d.flushSeq x.idx = (true, d') →
      let x' := { x with entries := d'.usedEntries x.idx, phase := .reserving, lastTry := d'.ns }
      exec (.kvTransferProceed xid) s = .next (s.settled ((d'.setXfer x').sendRsv x')))
    ∧ (x.phase = .retry → x.waitFor = 0 → x.retries < x.retryMax →
      let x' := { x with phase := .reserving, retries := x.retries + 1, lastTry := d.ns }
      exec (.reservationRetry xid) s = .next (s.settled ((d.setXfer x').sendRsv x')))
    ∧ (x.phase = .retry → x.waitFor = 0 → x.retryMax ≤ x.retries →
      exec (.reservationRetry xid) s = .next (s.settled (d.failXfer x d.pair.next stReserveDenied)))
    ∧ (∀ why cross, d.hears 0 x.dest = true → x.phase = .reserving →
      let d := d.took (.rsvNak x.xid why cross) x.dest
      let e := (d.choose 8).2
      (why = .space ∨ why = .records →
        (cross = false ∨ x.dest ≤ d.node → exec (.rsvNak xid why cross) s = .next (s.settled (d.setXfer { x with phase := .retry, waitFor := 1 })))
        ∧ (cross = true → d.node < x.dest →
            exec (.rsvNak xid why cross) s = .next (s.settled (e.setXfer { x with phase := .retry, waitFor := (d.choose 8).1 + 1 }))))
      ∧ (why = .quota → exec (.rsvNak xid why cross) s = .next (s.settled (d.failXfer x d.pair.next stQuotaBlocked)))
      ∧ (why = .tenant → exec (.rsvNak xid why cross) s = .next (s.settled (d.failXfer x d.pair.next stTenantMismatch)))
      ∧ (why = .epoch → exec (.rsvNak xid why cross) s = .next (s.settled (d.failXfer x d.pair.next stStaleEpoch))))
    ∧ (d.hears 0 x.dest = true → x.phase = .committing →
      let d := d.took (.commitUnknown x.xid) x.dest
      exec (.commitUnknown xid) s = .next (s.settled (d.failXfer x d.pair.next stPartialFail)))
    ∧ (∀ t : BitVec 64,
      let d := d.advanceTo t.toNat
      x.phase = .committing → d.xfer xid.toNat = some x → x.lastTry + 1000 * atLeast1 (d.get Fld.MOV_XFER_CFG_COMMIT_RETRY) ≤ d.ns →
      exec (.commitRetry xid t) s = .next (s.settled (d.sendCommit x))))
  ∧ (∀ (s : State) (x : Xfer) (xid entry : BitVec 32), s.dev.alive = true → s.dev.xfer xid.toNat = some x → s.dev.hears 0 x.dest = true →
    (x.phase = .reserving → exec (.rsvGrant xid) s = .next (s.settled ((s.dev.took (.rsvGrant x.xid) x.dest).move x)))
    ∧ (x.phase = .moving → entry.toNat ∈ x.entries → entry.toNat ∉ x.acked →
      let d := s.dev.took (.pageAck x.xid entry.toNat stOK) x.dest
      let shared := (d.page (d.entry x.idx entry.toNat).page).state = pgShared
      let x' := { x with acked := x.acked ++ [entry.toNat], moved := if shared then x.moved else x.moved + 1, copied := if shared then x.copied + 1 else x.copied }
      (x.acked.length + 1 < x.entries.length → exec (.xferPageAck xid entry 0) s = .next (s.settled (d.setXfer x')))
      ∧ (x.acked.length + 1 = x.entries.length → exec (.xferPageAck xid entry 0) s = .next (s.settled ((d.setXfer x').sendCommit x'))))
    ∧ (∀ st : BitVec 8, x.phase = .moving → st ≠ 0 →
      let d := s.dev.took (.pageAck x.xid entry.toNat st.toNat) x.dest
      exec (.xferPageAck xid entry st) s = .next (s.settled (d.failXfer x d.pair.next (if st.toNat = stStaleEpoch then stStaleEpoch else stPartialFail))))
    ∧ (∀ h dst, x.phase = .committing → s.dev.inDoubt xid.toNat dst = none → s.dev.answersTo x dst = true → dst < 65536 →
      exec (.commitAck xid h (BitVec.ofNat 16 dst)) s = .next (s.settled ((s.dev.took (.commitAck xid.toNat h.toNat) x.dest).commitAck xid.toNat h.toNat))))
  ∧ (∀ (d : Dev) (x : Xfer) (xid h : Nat), d.xfer xid = some x → x.phase = .committing → d.commitAck xid h = (d.retire x.idx).endXfer x d.pair.next stOK h)

/-- R62, R63, R65, R66, R67, R330: the destination of a transfer, whose source it hears on the mover's pair. A request is checked in order: the epoch; one repeated is granted again
(the model's choice, log entry 179); the tenant's partition; its quota; a free record; the twin's mirror record where it is asked; the space. One that all admit reserves everything and is
granted. A page is placed and acknowledged, or refused by its check sum, its epoch or for want of a reservation. A `COMMIT` makes the record and its pages its own; it is acknowledged
again when it is repeated, and unknown when nothing is reserved. An `ABORT` frees the reservation and says so, unless the transfer has committed. -/
def Obligations.TransferDestination : Prop :=
  ∀ (s : State) (h : XferHdr), s.dev.alive = true →
    let src := h.src.toNat
    let dst := h.dst.toNat
    let xid := h.xid.toNat
    s.dev.hears 0 src = true →
    (∀ (m : RsvReq) (twinGrants : Bool), m.hdr = h →
      let d := s.dev.took (.rsvReq m) src
      let w0 (i : Nat) := word0 (genIssued (d.rGen i)) recArriving m.tenant.toNat m.layers.toNat m.kvheads.toNat m.hdim.toNat m.kvmode.toNat m.maxslots.toNat
      let cross := d.xfers.any fun x => x.dest == src && (decide (x.phase = .waiting) || decide (x.phase = .reserving) || decide (x.phase = .retry))
      (d.epochOk src h.epoch.toNat = false → exec (.rsvReq m twinGrants) s = .next (s.settled (d.answer src dst (.rsvNak xid .epoch false))))
      ∧ (d.epochOk src h.epoch.toNat = true →
        (∀ r, d.rsv src xid = some r → exec (.rsvReq m twinGrants) s = .next (s.settled ((d.heardXfer src xid).answer src dst (.rsvGrant xid))))
        ∧ (d.rsv src xid = none →
          (d.hasPart m.tenant.toNat = false → exec (.rsvReq m twinGrants) s = .next (s.settled (d.answer src dst (.rsvNak xid .tenant false))))
          ∧ (d.hasPart m.tenant.toNat = true →
            (d.admits m.tenant.toNat t1 (rsvGrans m) = false → exec (.rsvReq m twinGrants) s = .next (s.settled (d.refusedQuota.answer src dst (.rsvNak xid .quota false))))
            ∧ (d.admits m.tenant.toNat t1 (rsvGrans m) = true →
              (d.freeRec = none → exec (.rsvReq m twinGrants) s = .next (s.settled (d.answer src dst (.rsvNak xid .records cross))))
              ∧ (∀ i, d.freeRec = some i →
                let d1 := d.askTwin i (w0 i)
                (d1.mirrors = true → twinGrants = false → exec (.rsvReq m twinGrants) s = .next (s.settled (d1.answer src dst (.rsvNak xid .records cross))))
                ∧ (d1.mirrors = false ∨ twinGrants = true →
                  (∀ d2, d1.reserve m i = .ok d2 → exec (.rsvReq m twinGrants) s = .next (s.settled (d2.answer src dst (.rsvGrant xid))))
                  ∧ (∀ d2, d1.reserve m i = .error d2 → exec (.rsvReq m twinGrants) s = .next (s.settled
                      (((d1.keepQuarantined d2).refusedPool.mirror [.freed (BitVec.ofNat 15 i)]).answer src dst (.rsvNak xid .space cross)))))))))))
    ∧ (∀ m : XferPage, m.hdr = h →
      let d := s.dev.took (.page m) src
      let e := d.heardXfer src xid
      let ack (d : Dev) (st : Nat) : State := s.settled (d.answer src dst (.pageAck xid m.entry.toNat st))
      (d.epochOk src h.epoch.toNat = false → exec (.xferPage m) s = .next (ack d stStaleEpoch))
      ∧ (d.epochOk src h.epoch.toNat = true →
        (d.rsv src xid = none → exec (.xferPage m) s = .next (ack d stAborted))
        ∧ (∀ r, d.rsv src xid = some r →
          (m.crc.toNat ≠ crc32c (m.payload ++ m.scale) → exec (.xferPage m) s = .next (ack e stCrcFault))
          ∧ (m.crc.toNat = crc32c (m.payload ++ m.scale) →
            (r.placed.any (·.1 == m.entry.toNat) = true → exec (.xferPage m) s = .next (ack e stOK))
            ∧ (r.placed.any (·.1 == m.entry.toNat) = false →
              (takeSpare m.mode.toNat r.spare = none → exec (.xferPage m) s = .next (ack e stAborted))
              ∧ (∀ p rest, takeSpare m.mode.toNat r.spare = some (p, rest) →
                let e1 := (e.setPage p { (e.page p) with fill := m.fill.toNat, hot := m.hot }).fillPage p m.payload m.scale
                  (if m.summary.isEmpty then none else some m.summary)
                exec (.xferPage m) s = .next (ack ({ e1 with rsvs := e1.rsvs.map fun (q : Rsv) => if q.src = r.src ∧ q.xid = r.xid then
                  { r with silent := 0, spare := rest, placed := r.placed ++ [(m.entry.toNat, p)] } else q } : Dev) stOK)))))))
    ∧ (∀ m : CommitMsg, m.hdr = h →
      let d := s.dev.took (.commit m) src
      let done := d.committed.find? (fun c => c.src == src && c.xid == xid && (c.dst == dst))
      (d.epochOk src h.epoch.toNat = false → exec (.commit m) s = .next (s.settled (d.answer src dst (.rsvNak xid .epoch false))))
      ∧ (d.epochOk src h.epoch.toNat = true →
        (∀ x, done = some x → x.told = true → exec (.commit m) s = .next (s.settled (d.answer src dst (.commitAck xid x.handle))))
        ∧ (∀ x, done = some x → x.told = false → exec (.commit m) s = .next (s.settled d))
        ∧ (done = none → d.rsv src xid = none → exec (.commit m) s = .next (s.settled (d.answer src dst (.commitUnknown xid))))
        ∧ (∀ r, done = none → d.rsv src xid = some r →
          let d1 := r.placed.foldl (Dev.commitPage r.idx)
            ((r.spare.map (·.2)).foldl Dev.zeroPage { d with rsvs := d.rsvs.filter fun q => !(q.src == src && q.xid == xid) })
          let d2 := d1.commitRec r.idx m
          let d3 := d2.mirror [.committed (BitVec.ofNat 16 src) (BitVec.ofNat 32 xid) (BitVec.ofNat 32 (d2.handleOf r.idx))]
          exec (.commit m) s = .next (s.settled
            ({ d3 with committed := d3.committed ++ [⟨src, xid, dst, d2.handleOf r.idx, d3.needSince d.pair.next, false⟩] } : Dev).tellCommits))))
    ∧ (let d := s.dev.took (.abort h) src
       let done := d.committed.find? (fun c => c.src == src && c.xid == xid && (c.dst == dst))
       (∀ x, done = some x → x.told = true → exec (.abort h) s = .next (s.settled (d.answer src dst (.commitAck xid x.handle))))
       ∧ (∀ x, done = some x → x.told = false → exec (.abort h) s = .next (s.settled d))
       ∧ (∀ r, done = none → d.rsv src xid = some r → exec (.abort h) s = .next (s.settled ((d.freeRsv r).answer src dst (.abortAck xid))))
       ∧ (done = none → d.rsv src xid = none → exec (.abort h) s = .next (s.settled (d.answer src dst (.abortAck xid)))))

/-- R50, R52, R65, R198, R337: the holds and timeouts of transfers and landings. A `XFER_HOLD` of the source ends the silence of its reservation, and is refused without one; a
reservation silent for `RSV_HOLD` strokes is freed, and one silent for less stays; a parked transfer sends its hold once in a stroke; an append that waited for its time ends
`QUOTA_BLOCKED`; the landing flush runs at its angle; a record in doubt at a takeover is kept once its abort is acknowledged, and is gone once its commit is. -/
def Obligations.TransferHolds : Prop :=
  ∀ (s : State), s.dev.alive = true →
    let d := s.dev
    (∀ h : XferHdr, d.hears 0 h.src.toNat = true →
      let d := d.took (.xferHold h) h.src.toNat
      (∀ r, d.rsv h.src.toNat h.xid.toNat = some r → exec (.xferHold h) s = .next (s.settled
        { d with rsvs := d.rsvs.map fun q => if q.src = h.src.toNat ∧ q.xid = h.xid.toNat then { q with silent := 0 } else q }))
      ∧ (d.rsv h.src.toNat h.xid.toNat = none → exec (.xferHold h) s
          = .next (s.settled (d.answer h.src.toNat h.dst.toNat (.pageAck h.xid.toNat 0 stAborted)))))
    ∧ (∀ (src : BitVec 16) (xid : BitVec 32) (r : Rsv), d.rsv src.toNat xid.toNat = some r →
        (d.get Fld.MOV_XFER_CFG_RSV_HOLD ≤ r.silent → exec (.rsvHoldTimeout src xid) s = .next (s.settled (d.freeRsv r)))
        ∧ (r.silent < d.get Fld.MOV_XFER_CFG_RSV_HOLD → exec (.rsvHoldTimeout src xid) s = .next (s.settled d)))
    ∧ (∀ x : Xfer, d.xfers = [x] → x.parked = true → x.tried = false → exec .xferHoldSend s = .next (s.settled
        ((d.setXfer { x with tried := true }).xsend x (.xferHold (d.xhdr x)))))
    ∧ (∀ (c : CmdId) (k : RunCmd) (t : BitVec 64),
        let d := d.advanceTo t.toNat
        let d' := d.bump Fld.MEM_STALL_TIME ((d.ns - k.since) / 1000) 6
        d.cmdAs c opAttnMerge .run = some k → k.holds = true → k.since + 1000 * d.get Fld.MEM_FAULT_CFG_TIMEOUT ≤ d.ns →
        exec (.appendHoldTimeout c t) s = .next (s.settled (d'.attEnd k d.pair.next stQuotaBlocked [k.merged])))
    ∧ (d.firing = true → d.clk.flushed = false → d.get Fld.MOV_XFER_CFG_LFLUSH_ANGLE ≤ d.angle →
        exec .landingFlushPoint s = .next (s.settled d.landingFlush))
    ∧ (∀ (i : Nat) (xid h : BitVec 32) (dst : BitVec 16), d.inDoubt xid.toNat dst.toNat = some i → d.hears 0 (d.sideDest i) = true →
        exec (.abortAck xid dst) s = .next (s.settled ((((d.took (.abortAck xid.toNat) (d.sideDest i)).decided i).convertMirror i).endTakeover))
        ∧ exec (.commitAck xid h dst) s = .next (s.settled ((((d.took (.commitAck xid.toNat h.toNat) (d.sideDest i)).decided i).movedMirror i).endTakeover)))

/-! ## Page directory and prefix tree (chapter 2) -/

/-- R57, R58, R427, R61, R42, R41: The prefix commands on a device with a tree: a handle that does not pass R32, or, for a lookup, a sequence that holds pages already, ends them with
that status. A lookup whose matched pages stand under their tags copies the blocks it matched and completes `OK` with their number; an insertion completes `OK` with the blocks
inserted and present; a stale reference ends either `ABORTED` and is recorded. Without a tree both complete `OK` with zeros. A write of `IDX_PT_KEY_HI` by the PF, whole or of its
upper half, gives the selected tenant the key the two registers hold, advances its key generation modulo 256 and begins its scan again at bucket 0; nothing but the key table, the
scans and that register changes; any other function, or a part without the index engine, changes nothing. The scan of a tenant visits its next bucket and goes on to the one after
it, or ends at the last; a sweep of the page directory begins by setting `BUSY`, and its end clears `BUSY` and logs its four counts. -/
def Obligations.PrefixTreeAndScans : Prop :=
  (∀ (s : State) (c : CmdId) (k : RunCmd),
    let d := s.dev
    let e := k.entry
    let i := hIndex (u32 e 16)
    let n0 := d.pair.next
    d.alive = true →
    (d.act c opPrefixLookup = some k →
      (d.prefixCheck k true ≠ stOK → exec (.prefixLookup c) s = .next (s.settled (d.endCmd k n0 (d.prefixCheck k true) [])))
      ∧ (d.prefixCheck k true = stOK → d.ptSize = 0 → exec (.prefixLookup c) s = .next (s.settled (d.endCmd k n0 stOK [0])))
      ∧ (d.prefixCheck k true = stOK → d.ptSize ≠ 0 → ∀ ps d', Dev.lookupFrom k i (u32 e 32) 0 (u32 e 20) [] d = .ok ps d' →
        (ps.findSome? (fun p => (d'.bvState (d'.pnode p)).join) = none →
          exec (.prefixLookup c) s = .next (s.settled ((d'.useMatches i ps).endCmd k n0 stOK [ps.length])))
        ∧ (∀ p tag, ps.findSome? (fun p => (d'.bvState (d'.pnode p)).join) = some (p, tag) →
          exec (.prefixLookup c) s = .next (s.settled ((d'.tagMismatch mIndex p tag).endCmd k n0 stAborted [])))))
    ∧ (d.act c opPrefixInsert = some k →
      (d.prefixCheck k false ≠ stOK → exec (.prefixInsert c) s = .next (s.settled (d.endCmd k n0 (d.prefixCheck k false) [])))
      ∧ (d.prefixCheck k false = stOK → d.ptSize = 0 → exec (.prefixInsert c) s = .next (s.settled (d.endCmd k n0 stOK [0, 0])))
      ∧ (d.prefixCheck k false = stOK → d.ptSize ≠ 0 → ∀ hs stale d', Dev.hashesFrom k i (u32 e 32) 0 (u32 e 20) [] d = .ok (hs, stale) d' →
        (stale = none → ∀ ins pres d'', Dev.insertFrom i hs 0 none 0 0 d' = (d'', ins, pres) →
          exec (.prefixInsert c) s = .next (s.settled (d''.endCmd k n0 stOK [ins, pres])))
        ∧ (∀ p tag, stale = some (p, tag) → exec (.prefixInsert c) s = .next (s.settled ((d'.tagMismatch mIndex p tag).endCmd k n0 stAborted []))))))
  ∧ (∀ (s : State) (fn : BitVec 6) (upperOnly : Bool) (v : Word),
    let d := s.dev
    let t := d.get Fld.IDX_PT_KEY_SEL_TENANT
    d.alive = true →
    (fn = 0 → d.open' = true → d.flag Fld.GLB_UNIT_EN_IDX = true →
      ∃ d' : Dev, exec (.idxPtKeyLoad fn upperOnly v) s = .next (s.withDev d')
        ∧ d'.prefixKey t = ⟨d.get Fld.IDX_PT_KEY_LO_KEY0,
            if upperOnly then v.toNat % 2 ^ 32 * 2 ^ 32 + d.get Fld.IDX_PT_KEY_HI_KEY1 % 2 ^ 32 else v.toNat, ((d.prefixKey t).gen + 1) % 256⟩
        ∧ d'.scans = d.scans.filter (fun x => x.tenant != t) ++ [⟨t, 0⟩]
        ∧ (∀ u, u ≠ t → d'.prefixKey u = d.prefixKey u)
        ∧ Dev.sameRegsBut [Fld.IDX_PT_KEY_HI_KEY1.off 0 0] d d'
        ∧ d' = { d with regs := d'.regs, keys := d'.keys, scans := d'.scans })
    ∧ (fn ≠ 0 ∨ d.open' = false ∨ d.flag Fld.GLB_UNIT_EN_IDX = false → exec (.idxPtKeyLoad fn upperOnly v) s = .next s))
  ∧ (∀ (s : State), s.dev.alive = true →
    let d := s.dev
    (∀ tenant : BitVec 8,
      (d.scans.find? (·.tenant == tenant.toNat) = none → exec (.keyScanBucket tenant) s = .next (s.settled d))
      ∧ (∀ x : KeyScan, d.scans.find? (·.tenant == tenant.toNat) = some x →
        let d' := if d.ptSize = 0 then d else d.scanBucket tenant.toNat x.bucket
        let rest := d'.scans.filter (fun y => y.tenant != tenant.toNat)
        (d'.ptSize ≠ 0 → x.bucket + 1 < d'.buckets →
          exec (.keyScanBucket tenant) s = .next (s.settled { d' with scans := rest ++ [⟨tenant.toNat, x.bucket + 1⟩] }))
        ∧ (d'.ptSize = 0 ∨ d'.buckets ≤ x.bucket + 1 → exec (.keyScanBucket tenant) s = .next (s.settled { d' with scans := rest }))))
    ∧ (∀ fn : BitVec 6, (fn = 0 → d.open' = true → exec (.sweepStart fn) s = .next (s.withDev (d.put Fld.MEM_PD_SWEEP_BUSY 1)))
        ∧ (fn ≠ 0 ∨ d.open' = false → exec (.sweepStart fn) s = .next s))
    ∧ (d.flag Fld.MEM_PD_SWEEP_BUSY = false → exec .sweepDone s = .next (s.settled d))
    ∧ (d.flag Fld.MEM_PD_SWEEP_BUSY = true →
        let r1 := d.sweepRefs
        let r2 := r1.2.sweepReserved
        let r3 := r2.2.sweepOld
        let r4 := r3.2.sweepQuar
        exec .sweepDone s = .next (s.settled ((r4.2.put Fld.MEM_PD_SWEEP_BUSY 0).logEv evSweepDone mCox
          (min r1.1 0xFFFF + min r2.1 0xFFFF * 2 ^ 16 + min r3.1 0xFFFF * 2 ^ 32 + min r4.1 0xFFFF * 2 ^ 48)))))

/-! ## The hall and the attention engine (chapters 4 and 5) -/

/-- R109, R111, R115, R112, R113, R114: One request granted at a bank with no other ready there. A read answers the word; an `ADD` or `SWAP` by a master whose attribution allows it
writes the new word and answers the old; a request to a way of another is refused with `TENANT_MISMATCH` and counted. Nothing else of the hall changes. Two whole-word writes of one
word that are ready together. The lower master's data is stored and it completes `OK`; the other completes `OK` as well when its data is the same, and otherwise `WRITE_LOST`,
counted once, as the host's when it is the host's, and the command it was made for has lost a write. Two requests that cannot be merged: the lower master is granted, the other stalls
and is one cycle older; one that has stalled `AGE` cycles is granted before a lower master, and counted. -/
def Obligations.HallGrants : Prop :=
  (∀ (s : State) (bank : BitVec 8) (q : HallReq),
    let d := s.dev
    let a := bankAddr bank.toNat q.row.toNat
    let m := q.master.toNat
    s.calm → d.badWords a 8 = [] → d.stalled.filter (fun (x : BankReq) => x.bank == bank.toNat) = [] →
    ∃ t : State, exec (.hallBankGrant bank [q] []) s = .next t ∧ Mem.sameBut a 8 d.hall t.dev.hall ∧ t.dev.dram = d.dram ∧ t.dev.host = d.host
      ∧ (d.reqOk bank.toNat q = true → q.kind = .read → t.dev.hall = d.hall ∧ t.dev.out = d.out ++ [.hallStatus m stOK (d.hallWord a)])
      ∧ (d.reqOk bank.toNat q = true → q.kind = .add → t.dev.hallWord a = (d.hallWord a + q.data.toNat) % 2 ^ 64
          ∧ t.dev.out = d.out ++ [.hallStatus m stOK (d.hallWord a)])
      ∧ (d.reqOk bank.toNat q = true → q.kind = .swap → t.dev.hallWord a = q.data.toNat ∧ t.dev.out = d.out ++ [.hallStatus m stOK (d.hallWord a)])
      ∧ (d.reqOk bank.toNat q = false → t.dev.hall = d.hall ∧ t.dev.out = d.out ++ [.hallStatus m stTenantMismatch 0]
          ∧ t.dev.get Fld.HAL_FAULT_DENY = min Fld.HAL_FAULT_DENY.max (d.get Fld.HAL_FAULT_DENY + 1)))
  ∧ (∀ (s : State) (bank : BitVec 8) (p q : HallReq),
    let d := s.dev
    let a := bankAddr bank.toNat p.row.toNat
    s.calm → p.kind = .write → q.kind = .write → q.row = p.row → p.be.toNat = 255 → q.be.toNat = 255 → p.master.toNat < q.master.toNat →
    (d.badWords a 8 = [] ∨ d.badWords a 8 = [a]) → d.stalled.filter (fun (x : BankReq) => x.bank == bank.toNat) = [] →
    d.reqOk bank.toNat p = true → d.reqOk bank.toNat q = true →
    ∃ t : State, exec (.hallBankGrant bank [p, q] []) s = .next t ∧ t.dev.hallWord a = p.data.toNat ∧ Mem.sameBut a 8 d.hall t.dev.hall
      ∧ (p.data = q.data → t.dev.out = d.out ++ [.hallStatus p.master.toNat stOK 0, .hallStatus q.master.toNat stOK 0])
      ∧ (p.data ≠ q.data → t.dev.out = d.out ++ [.hallStatus p.master.toNat stOK 0, .hallStatus q.master.toNat stWriteLost 0]
          ∧ t.dev.get Fld.HAL_WLOST_ALL = min Fld.HAL_WLOST_ALL.max (d.get Fld.HAL_WLOST_ALL + 1)
          ∧ (q.master.toNat = mHost → t.dev.get Fld.HAL_WLOST_HOST = min Fld.HAL_WLOST_HOST.max (d.get Fld.HAL_WLOST_HOST + 1))
          ∧ (∀ c, q.owner = .cmd c → ∀ k ∈ t.dev.cmds, k.ring = c.ring.toNat → k.index = c.index.toNat → k.lost = true)))
  ∧ (∀ (s : State) (bank : BitVec 8) (p q : HallReq),
    let d := s.dev
    s.calm → p.kind ≠ .write → p.master.toNat < q.master.toNat →
    (d.stalled.filter (fun (x : BankReq) => x.bank == bank.toNat) = [] →
      ∃ t : State, exec (.hallBankGrant bank [p, q] []) s = .next t ∧ t.dev.stalled = d.stalled ++ [⟨bank.toNat, 1, q⟩]
        ∧ t.dev.get Fld.HAL_CONFLICT_STALLS = min Fld.HAL_CONFLICT_STALLS.max (d.get Fld.HAL_CONFLICT_STALLS + 1))
    ∧ (∀ n, d.stalled = [⟨bank.toNat, n, q⟩] → atLeast1 (d.get Fld.HAL_CFG_AGE) ≤ n → q.kind = .read → d.reqOk bank.toNat q = true →
        d.badWords (bankAddr bank.toNat q.row.toNat) 8 = [] →
        ∃ t : State, exec (.hallBankGrant bank [p] []) s = .next t ∧ t.dev.stalled = [⟨bank.toNat, 1, p⟩]
          ∧ t.dev.out = d.out ++ [.hallStatus q.master.toNat stOK (d.hallWord (bankAddr bank.toNat q.row.toNat))]
          ∧ t.dev.get Fld.HAL_ROTATE_AGED = min Fld.HAL_ROTATE_AGED.max (d.get Fld.HAL_ROTATE_AGED + 1)))

/-- R118, R124, R140, R141, R143, R175: A write of a fitted core's control register sets `EN` and `DRAIN` of that core and changes nothing else; the command it runs is left alone. A
posted output send whose atomic has been answered ends its command with the send's status; a `RETR_SELECT` at the head of its ring stays there until its angle in this stroke or, when
that has passed, in the next; without a summary array it is popped and completes `ABORTED`. Once due it leaves its ring while the index engine has room, and completes `OK` with the
selections written and the segments skipped. -/
def Obligations.CoreControlAndSends : Prop :=
  (∀ (s : State) (core : BitVec 9) (v : Word),
    let d := s.dev
    let n := core.toNat
    d.alive = true → d.open' = true → d.boatFitted (n / 8) = true →
    ∃ t : State, exec (.attCoreCtlWrite core v) s = .next t ∧ t.dev.get Fld.ATT_CORE_CTL_EN n = bits v.toNat 0 0
      ∧ t.dev.get Fld.ATT_CORE_CTL_DRAIN n = bits v.toNat 1 1 ∧ Dev.sameRegsBut [Fld.ATT_CORE_CTL_EN.off n 0] d t.dev
      ∧ t = s.withDev { d with regs := t.dev.regs })
  ∧ (∀ (s : State) (c : CmdId) (k : RunCmd),
    let d := s.dev
    let e := k.entry
    let r := c.ring.toNat
    d.alive = true →
    (d.cmdOf c = some k → k.phase = .acks → k.ops = [] → k.note = sendSync →
      (opOf e = opAttnStep → exec (.outputSendAck c) s = .next (s.settled (d.endCmd k d.pair.next (if k.status ≠ stOK then k.status else k.pos) k.res)))
      ∧ (opOf e = opLoraApply →
        let j := { k with res := k.res.take 2 }
        exec (.outputSendAck c) s = .next (s.settled (d.endCmd j d.pair.next (if k.status ≠ stOK then k.status else k.pos) j.res))))
    ∧ (d.retrHead c = true → d.retr = [] →
      (d.flag Fld.IDX_SUM_BASE_EN = true → d.handing = false → exec (.retrSelect c) s = .next (s.settled
        { d with retr := [⟨r, c.index.toNat, if u16 (d.head r) 22 < d.angle then d.clk.number + 1 else d.clk.number⟩] }))
      ∧ (d.flag Fld.IDX_SUM_BASE_EN = false → exec (.retrSelect c) s = .next (s.settled (d.popEnd r stAborted []))))
    ∧ (d.act c opRetrSelect = some k → exec (.retrSelectStart c) s = .next (s.settled (d.retrGo k)))
    ∧ (d.act c opRetrSelect = none → d.retrHead c = true → d.retrDue c = true → d.flag Fld.IDX_SUM_BASE_EN = true → d.handing = false →
      d.running engIndex < room engIndex →
      let d1 := { (d.take r engIndex (d.isLc r (d.head r)) none .run) with retr := d.retr.filter fun w => w.ring != r }
      d1.act c opRetrSelect = some k → exec (.retrSelectStart c) s = .next (s.settled (d1.retrGo k))))
  ∧ (∀ (d : Dev) (k : RunCmd) d1 sh m d2, k.status = stOK → d.retrCheck k = (d1, stOK) → d1.tableShape (d1.stepTab (u32 k.entry 16)) = some sh →
      Dev.selectSegs k (d1.stepTab (u32 k.entry 16)) sh (List.range (d1.stepTab (u32 k.entry 16)).nsegs) ⟨0, 0, none⟩ d1 = .ok m d2 →
      (m.stale = none → d.retrGo k = ((d2.bump Fld.IDX_RSEL_STAT_SETS m.sets).bump Fld.IDX_RSEL_STAT_SKIPPED m.skip).endCmd k d1.pair.next stOK [m.sets, m.skip])
      ∧ (∀ p tag, m.stale = some (p, tag) → tag ≠ 0 → d.retrGo k = (d2.tagMismatch mIndex p tag).endCmd k d1.pair.next stAborted []))

/-- R107, R130, R131: an `ATTN_MERGE` whose range passes its checks and whose rows all find room completes `OK` with the number of entries merged; one whose checks fail completes with
their status and merges nothing; an uncorrectable error fails the core and ends it with `CRC_FAULT`; one that an access of its own has already ended completes with that status. -/
def Obligations.AttnMergeCompletes : Prop :=
  ∀ (s : State) (c : CmdId) (k : RunCmd) (ev : CoreEvents) (d1 : Dev) (st : Nat),
    let e := k.entry
    let d := s.dev.coreEvents k ev
    s.dev.alive = true → s.dev.act c opAttnMerge = some k →
    (k.status ≠ stOK → exec (.attnMerge c ev) s = .next (s.settled (s.dev.attEnd k s.dev.pair.next k.status [k.merged])))
    ∧ (k.status = stOK → ev.uncorrectable = true → exec (.attnMerge c ev) s = .next (s.settled ((d.coreFailed k).attEnd k d.pair.next stCrcFault [k.merged])))
    ∧ (k.status = stOK → ev.uncorrectable = false → k.begun = false → k.pos = 0 → k.res = [] → k.holds = false → d.mergeCheck k = (d1, st) →
      (st = stOK →
        let k' := { k with stage := 1 }
        let d2 := ((d1.setAt k').named k.tenant e).foldl Dev.touch (d1.setAt k')
        ∀ sh m d3, d2.tableShape (d2.stepTab (u32 e 16)) = some sh →
          Dev.mergeFrom k' (d2.stepTab (u32 e 16)) sh (u32 e 20) (u8 e 28) (d2.mergeOrder (d2.stepTab (u32 e 16)) (u16 e 24) (u16 e 26)) ⟨0, 0⟩ d2 = (.done, m, d3) →
          exec (.attnMerge c ev) s = .next (s.settled (d3.attEnd { k' with pos := m.rows, res := [m.un], need := max k.need (d3.needSince d2.pair.next) } d2.pair.next stOK
            [m.rows - m.un])))
      ∧ (st ≠ stOK → exec (.attnMerge c ev) s = .next (s.settled (d1.attEnd k d1.pair.next st [0]))))

/-- R107, R133, R135: an `ATTN_STEP` whose range passes its checks runs its units in order; a unit computed is written where R127 places it and adds its keys and pages, a padding entry
delivers zeros; after the last the command completes `OK`. A range that fails delivers NaN and ends with the check's status; an uncorrectable error fails the core and ends the command
with `CRC_FAULT`, its unfinished units NaN. -/
def Obligations.AttnStepRuns : Prop :=
  (∀ (s : State) (c : CmdId) (k : RunCmd) (ev : CoreEvents) (d1 : Dev) (st : Nat),
    let e := k.entry
    let d := s.dev.coreEvents k ev
    s.dev.alive = true → s.dev.act c opAttnStep = some k →
    (k.status ≠ stOK → exec (.attnStep c ev) s = .next (s.settled (s.dev.stepFail k s.dev.pair.next k.status)))
    ∧ (k.status = stOK → ev.uncorrectable = true → exec (.attnStep c ev) s = .next (s.settled ((d.coreFailed k).stepFail k d.pair.next stCrcFault)))
    ∧ (k.status = stOK → ev.uncorrectable = false → k.begun = false → k.pos = 0 → d.stepRange k = (d1, st) →
      (st = stOK →
        let d2 := (d1.named k.tenant e).foldl Dev.touch d1
        ∀ sh, d2.tableShape (d2.stepTab (u32 e 16)) = some sh →
          exec (.attnStep c ev) s = .next (s.settled (Dev.runUnits (d2.stepTab (u32 e 16)) sh d.pair.next (unitList e) { k with stage := 1 } d2)))
      ∧ (st ≠ stOK → exec (.attnStep c ev) s = .next (s.settled (d1.stepFail k d.pair.next st)))))
  ∧ (∀ (t : StepTab) (sh : Shape) (n0 : Nat) (k : RunCmd) (d : Dev),
      Dev.runUnits t sh n0 [] k d = d.attEnd k n0 stOK [k.res.getD 0 0, k.res.getD 1 0]
      ∧ (∀ x xs d2, d.tagSeg t x.1 = segPad → d.deliver k (unitOff k.entry t sh x) (List.replicate (unitElems sh) 0) = (d2, stOK) →
          Dev.runUnits t sh n0 (x :: xs) k d = Dev.runUnits t sh n0 xs { k with pos := k.pos + 1 } d2)
      ∧ (∀ x xs u d1, d.tagSeg t x.1 ≠ segPad → d.badQuery t sh (u32 k.entry 20) x.1 x.2 = [] →
          d.unit k t sh (u32 k.entry 20) x.1 (u8 k.entry 32) x.2 = .ok u d1 →
          (∀ d2, u.stale = none → ((d1.countBad k u.bad).countSel k u.sel).deliver k (unitOff k.entry t sh x) u.out = (d2, stOK) →
            Dev.runUnits t sh n0 (x :: xs) k d
              = Dev.runUnits t sh n0 xs { k with pos := k.pos + 1, res := [k.res.getD 0 0 + u.keys, k.res.getD 1 0 + u.pages] } d2)
          ∧ (∀ p tag, u.stale = some (p, tag) → tag ≠ 0 →
            Dev.runUnits t sh n0 (x :: xs) k d = ((d1.countBad k u.bad).tagMismatch k.master p tag).stepFail k n0 stAborted))
      ∧ (∀ a xs, d.hallOk (some k.tenant) a (2 * xs.length) = true → d.lostWords (.cmd k.id) a (bf16Bytes xs).length = [] → d.badPart a (bf16Bytes xs).length = [] →
          d.deliver k a xs = ((d.hallPut a (bf16Bytes xs)).countBad k (badBf16 xs), stOK)))

/-! ## Sampler and latency tracking (chapter 6) -/

/-- R152, R154, R160, R153, R156, R159: A `SAMPLE` as a whole. Checks that fail end it with their status and no token. Otherwise every segment's handle is checked
and the segments run one after another: a decided token is committed and joins the open group, any other outcome is counted; a command with nothing left to release ends
with its counts. `SAMP_SET` of a handle that passes R32 with parameters in range writes the record's sampler words in one go and completes `OK`, and with parameters out of range
completes `ABORTED`; the group of an acknowledged mirror message is released; the scan runs once a stroke at its angle. -/
def Obligations.SamplerRuns : Prop :=
  ((∀ (s : State) (c : CmdId) (k : RunCmd) (d1 : Dev) (st : Nat),
    s.dev.alive = true → s.dev.act c opSample = some k →
    (k.stage = stageNotRun → exec (.sample c) s = .next (s.settled (if k.status ≠ stOK then s.dev.sampleFinish k else s.dev.sampleRest k)))
    ∧ (k.begun = false → k.stage ≠ stageNotRun → s.dev.sampleCheck k = (d1, st) →
      (st ≠ stOK → exec (.sample c) s = .next (s.settled (d1.endCmd k d1.pair.next st [0, 0])))
      ∧ (st = stOK →
        let k' := { k with stage := 1, res := [0, 0, 0] ++ d1.sampleChecks (d1.stepTab (u32 k.entry 16)) k }
        exec (.sample c) s = .next (s.settled ((d1.setCmd k').sampleRun k'))))
    ∧ (k.begun = true → k.stage ≠ stageNotRun → (k.status = stOK → exec (.sample c) s = .next (s.settled (s.dev.sampleRun k)))
      ∧ (k.status ≠ stOK → exec (.sample c) s = .next (s.settled (s.dev.sampleEarly k k.status)))))
  ∧ (∀ (t : StepTab) (k : RunCmd) (d : Dev),
      Dev.sampleFrom t [] k d = d.sampleFinish k
      ∧ (∀ j js r st d', d.segment k t j = .ok (r, st) d' → r.code ≠ ocToken →
          Dev.sampleFrom t (j :: js) k d
            = (let k' := { k.failWith st with pos := j + 1, res := (k.failWith st).res.set 1 ((k.failWith st).res.getD 1 0 + 1) }
               Dev.sampleFrom t js k' ((d'.countOutcome r.code).setAt k')))
      ∧ (∀ j js r st d', d.segment k t j = .ok (r, st) d' → r.code = ocToken →
          let i := hIndex (d'.segHandle t (u16 k.entry 20 + j))
          let k' := { k with pos := j + 1, res := k.res.set 0 (k.res.getD 0 0 + 1) }
          let d'' := ((d'.commitToken i r).setAt k').addToken k'
            ⟨i, (d'.commitToken i r).rGen i, u64 k.entry 32 + 16 * j, r.token, (d'.commitToken i r).segNumber t (u16 k.entry 20 + j), none⟩
          Dev.sampleFrom t (j :: js) k d = match d''.sampleGoes k.ring k.index with
            | some k => Dev.sampleFrom t js k d''
            | none => d'')
      ∧ (d.mirrors = false → d.groupsOf k = [] → d.cmds = [k] →
          d.sampleFinish k = (d.setCmd { k with phase := .held }).endCmd { k with phase := .held } d.pair.next (k.res.getD 2 0) (k.res.take 2))))
  ∧ (∀ (s : State), s.dev.alive = true →
    let d := s.dev
    (∀ (c : CmdId) (k : RunCmd), d.act c opSampSet = some k →
      let st := d.checkHandle (u32 k.entry 16) k.tenant k.order
      (st = stOK → sampSetOk k.entry = true → exec (.sampSet c) s
        = .next (s.settled ((d.sampSet (hIndex (u32 k.entry 16)) k.entry).endCmd k d.pair.next stOK [])))
      ∧ (st = stOK → sampSetOk k.entry = false → exec (.sampSet c) s = .next (s.settled (d.endCmd k d.pair.next stAborted [])))
      ∧ (st ≠ stOK → exec (.sampSet c) s = .next (s.settled (d.endCmd k d.pair.next st []))))
    ∧ (∀ (g : TokGroup) (n : BitVec 64), d.groups = [g] → g.number = n.toNat → d.groupReady g = true →
        exec (.tokenRelease n) s = .next (s.settled (d.releaseGroup g)))
    ∧ (d.firing = true → d.clk.scanned = false → d.get Fld.SMP_CFG_SCAN_ANGLE ≤ d.angle → exec .ttftScan s = .next (s.settled d.ttftScan)))

/-- R144, R152: a committed token enters the record as `LAST_TOKEN`, `TOKENS` advances by 1, and the grammar state moves when there is one; no byte outside the record's words 9 and
15 changes. -/
def Obligations.TokenCommit : Prop :=
  ∀ (d : Dev) (i : Nat) (x : Decided),
    let d' := d.commitToken i x
    d'.rget i 15 31 0 = x.token % 2 ^ 32 ∧ d'.sTokens i = (d.sTokens i + 1) % 2 ^ 32
    ∧ (∀ g, x.next = some g → d'.sGstate i = g % 2 ^ 32) ∧ (x.next = none → d'.sGstate i = d.sGstate i)
    ∧ (∀ a, (a < d.recAddr i + 72 ∨ d.recAddr i + 80 ≤ a) → (a < d.recAddr i + 120 ∨ d.recAddr i + 128 ≤ a) → d'.dram.read a = d.dram.read a)
    ∧ d' = { d with dram := d'.dram }

/-- R147: choosing among allowed tokens. A NaN among their logits gives `NONFINITE`; all at minus infinity give `EMPTY_MASK`; a positive infinity is taken at once; a temperature of
0 or `TOP_K` 1 takes the greatest logit, the lowest token among equals. -/
def Obligations.ChooseToken : Prop :=
  ∀ (lg : List (Nat × Nat)) (temp topK topP seed pos : Nat), (∀ x ∈ lg, x.2 < 2 ^ 32) →
    ((∃ x ∈ lg, (dec32 x.2).isNan = true) → chooseToken lg temp topK topP seed pos = .outcome ocNonfinite)
    ∧ ((∀ x ∈ lg, (dec32 x.2).isNan = false) →
      ((∀ x ∈ lg, x.2 = negInf32) → chooseToken lg temp topK topP seed pos = .outcome ocEmptyMask)
      ∧ (∀ x ∈ lg, x.2 = posInf32 → ∃ y ∈ lg, y.2 = posInf32 ∧ chooseToken lg temp topK topP seed pos = .token y.1)
      ∧ ((∃ x ∈ lg, x.2 ≠ negInf32) → (∀ x ∈ lg, x.2 ≠ posInf32) → (dec32 temp).isZero = true ∨ topK = 1 →
          ∃ pre y post, lg = pre ++ y :: post ∧ chooseToken lg temp topK topP seed pos = .token y.1
            ∧ (∀ z ∈ pre, z.2 = negInf32 ∨ lt32 z.2 y.2 = true) ∧ (∀ z ∈ post, lt32 y.2 z.2 = false)))

/-! ## Adapter engine (chapter 7) -/

/-- R171 to R175, R176 to R178, R164: A `LORA_APPLY` that passes its checks writes the output row of every entry of its range in order and ends `OK` with the number of entries and
of groups of at most 8 entries with one adapter, or with `CRC_FAULT` when an input row was malformed; one whose checks fail writes no row. A `WSTREAM` that passes its checks holds
its `DIFF` entry and sends its tiles from the first; once every tile has been acknowledged it sends the atomic addition, and once that has been answered it ends `OK` with the tiles
and patches it counted. -/
def Obligations.AdapterRuns : Prop :=
  (∀ (s : State) (c : CmdId) (k : RunCmd) (d1 : Dev) (st di do' : Nat),
    let e := k.entry
    s.dev.alive = true → s.dev.act c opLoraApply = some k →
    (k.status ≠ stOK → exec (.loraApply c) s = .next (s.settled (s.dev.loraEnd k k.status (s.dev.loraOut k) [0, 0])))
    ∧ (k.status = stOK → s.dev.loraCheck k = (d1, st, di, do') → st ≠ stOK →
        exec (.loraApply c) s = .next (s.settled (d1.loraEnd k st (d1.loraOut k) [0, 0])))
    ∧ (k.status = stOK → s.dev.loraCheck k = (d1, st, di, do') → st = stOK → do' = 0 → exec (.loraApply c) s = .next (s.settled
        (d1.loraEnd k stOK 0 [u16 e 30, groupCount ((d1.loraEntries (d1.stepTab (u32 e 16)) e).map (·.2))])))
    ∧ (k.status = stOK → s.dev.loraCheck k = (d1, st, di, do') → st = stOK → do' ≠ 0 →
      let t := d1.stepTab (u32 e 16)
      ∀ d2 bad, ((List.range (u16 e 30)).map (u16 e 28 + ·)).foldl (fun (r : Dev × Bool) x =>
          ((r.1.loraEntry k t di do' x).1, r.2 || (r.1.loraEntry k t di do' x).2)) (d1, false) = (d2, bad) →
        exec (.loraApply c) s = .next (s.settled
          (d2.loraEnd k (if bad then stCrcFault else stOK) do' [u16 e 30, groupCount ((d2.loraEntries t e).map (·.2))]))))
  ∧ (∀ (s : State) (c : CmdId) (k : RunCmd), s.dev.alive = true → s.dev.cmdOf c = some k → opOf k.entry = opWstream →
    let d := s.dev
    (k.phase = .run → k.begun = false → ∀ d1, d.wstreamCheck k = (d1, stOK) → u16 k.entry 28 = adpNone →
      exec (.wstream c) s = .next (s.settled (Dev.wstreamFrom (u32 k.entry 24) { k with stage := 1, res := [0, 0] } (d1.setCmd { k with stage := 1, res := [0, 0] }))))
    ∧ (k.phase = .run → k.begun = false → ∀ d1, d.wstreamCheck k = (d1, stOK) → u16 k.entry 28 ≠ adpNone →
      exec (.wstream c) s = .next (s.settled (Dev.wstreamFrom (u32 k.entry 24) { k with stage := 1, res := [0, 0] }
        ((d1.dramPutN 4 (d1.adpAddr (u16 k.entry 28) + 24) (d1.adpUsers (u16 k.entry 28) + 1)).setCmd { k with stage := 1, res := [0, 0] }))))
    ∧ (k.phase = .run → k.begun = false → ∀ d1 st, d.wstreamCheck k = (d1, st) → st ≠ stOK →
      exec (.wstream c) s = .next (s.settled (d1.endCmd k d1.pair.next st [0, 0])))
    ∧ (k.phase = .run → k.begun = true →
      (k.status = stOK → exec (.wstream c) s = .next (s.settled (Dev.wstreamFrom (u32 k.entry 24 - k.pos) k d)))
      ∧ (k.status ≠ stOK → exec (.wstream c) s = .next (s.settled (d.wstreamStop k k.status))))
    ∧ (k.phase = .acks → k.ops = [] → k.status = stOK → k.pos = stOK → k.note = wsTiles → d.pairRefuses k.tenant (u16 k.entry 36) = stOK →
      ∀ d1, d.sendAtomic k (u16 k.entry 36) (u64 k.entry 40) wsSync = some d1 → exec (.wstream c) s = .next (s.settled d1))
    ∧ (k.phase = .acks → k.ops = [] → k.status = stOK → k.note = wsSync →
      exec (.wstream c) s = .next (s.settled (d.endCmd k d.pair.next k.pos k.res))))

/-- R163, R168, R169, R179, R180, R181: every form of loading, unloading and binding. A load whose checks fail ends with their status and has no effect but the count of a refused
quota; one that passes them makes its entry `LOADING`, counts the tenant's use and reads the body: a body in its format and under its check sum makes the entry `VALID` and, without a
group, ends `OK`, and with one goes on to the members; any other body gives entry and use back. A member answers what it was sent with the status its own checks gave; an unload drains
the entry and ends once nothing reads it; a binding enters the record. -/
def Obligations.AdapterDirectory : Prop :=
  (∀ (s : State), s.dev.alive = true →
    let d := s.dev
    (∀ (c : CmdId) (k : RunCmd), d.act c opAdpLoad = some k →
      let e := k.entry
      let k' := { k with stage := 1 }
      let d1 := ((d.put Fld.MEM_QUOTA_USE (d.get Fld.MEM_QUOTA_USE k.tenant t1 + u32 e 32) k.tenant t1).setAdp (u16 e 16) (loadEntry e k.tenant)).setCmd k'
      (k.stage = 0 → d.adpLoadCheck k = stOK → exec (.adpLoad c) s = .next (s.settled (d1.adpBody k')))
      ∧ (k.stage = 0 → d.adpLoadCheck k ≠ stOK → d.adpLoadCheck k ≠ stQuotaBlocked →
          exec (.adpLoad c) s = .next (s.settled (d.endCmd k d.pair.next (d.adpLoadCheck k) [])))
      ∧ (k.stage = 0 → d.adpLoadCheck k = stQuotaBlocked →
          exec (.adpLoad c) s = .next (s.settled (d.refusedQuota.endCmd k d.pair.next stQuotaBlocked [])))
      ∧ (k.stage = 1 → k.status = stOK → exec (.adpLoad c) s = .next (s.settled (d.adpBody k)))
      ∧ (k.stage = 1 → k.status ≠ stOK → exec (.adpLoad c) s = .next (s.settled ((d.unload (u16 e 16)).endCmd k d.pair.next k.status [])))
      ∧ (k.stage = 2 → exec (.adpLoad c) s = .next (s.settled (d.adpMcast k)))
      ∧ (k.stage = stageBitmap → exec (.adpLoad c) s = .next (s.settled (d.endRest k (u64 e 56)))))
    ∧ (∀ (m : AdpLoadMsg),
      let w (k : Nat) : Nat := (m.words.getD k 0).toNat
      let e : AdpE := { tenant := bits (w 0) 63 56, state := adLoading, cls := bits (w 0) 53 52, mode := bits (w 0) 51 50, rank := bits (w 0) 47 40 + 1,
                        gran := bits (w 0) 26 0, alpha := bits (w 1) 63 32, grans := bits (w 1) 31 0, stamp := 0, crc := bits (w 3) 63 32 }
      let st := bodyStatus e.cls e.mode e.rank e.grans e.crc m.body
      let form := d.flag Fld.GLB_UNIT_EN_ADP = true ∧ m.id.toNat < 4096 ∧ (e.cls = 1 ∨ e.cls = 2) ∧ m.body.length = e.grans * granBytes
        ∧ d.larderFree m.id.toNat e.gran e.grans = true
      d.takesPart 12 m.src.toNat = true →
      (form → d.admits e.tenant t1 e.grans = true → st = stOK → exec (.adpLoadMember m) s = .next (s.settled
        (((d.put Fld.MEM_QUOTA_USE (d.get Fld.MEM_QUOTA_USE e.tenant t1 + e.grans) e.tenant t1).makeValid m.id.toNat e m.body).ctrl m.src.toNat (.adpAck m.id.toNat stOK))))
      ∧ (form → d.admits e.tenant t1 e.grans = true → st ≠ stOK →
          exec (.adpLoadMember m) s = .next (s.settled (d.ctrl m.src.toNat (.adpAck m.id.toNat st))))
      ∧ (form → d.admits e.tenant t1 e.grans = false →
          exec (.adpLoadMember m) s = .next (s.settled (d.refusedQuota.ctrl m.src.toNat (.adpAck m.id.toNat stQuotaBlocked))))
      ∧ (¬form → exec (.adpLoadMember m) s = .next (s.settled (d.ctrl m.src.toNat (.adpAck m.id.toNat stAborted)))))
    ∧ (∀ (m : AdpLoadMsg), d.takesPart 12 m.src.toNat = false → exec (.adpLoadMember m) s = .next (s.settled d))
    ∧ (∀ (c : CmdId) (k : RunCmd), d.act c opAdpUnload = some k →
      let id := u16 k.entry 16
      (k.begun = false → (4096 ≤ id ∨ (d.adp id).state ≠ adValid) → exec (.adpUnload c) s = .next (s.settled (d.endCmd k d.pair.next stAborted [])))
      ∧ (k.begun = false → id < 4096 → (d.adp id).state = adValid → (d.adp id).tenant = k.tenant →
        exec (.adpUnload c) s = .next (s.settled ((d.setAdp id { d.adp id with state := adDraining }).setCmd { k with stage := 1 })))
      ∧ (k.begun = false → id < 4096 → (d.adp id).state = adValid → (d.adp id).tenant ≠ k.tenant →
        exec (.adpUnload c) s = .next (s.settled (d.endCmd k d.pair.next stTenantMismatch [])))
      ∧ (k.begun = true → d.adpUsers id = 0 →
        exec (.adpUnloadDrained c) s = .next (s.settled ((d.freeAdp id).endCmd k d.pair.next stOK [])))
      ∧ (k.begun = true → d.adpUsers id ≠ 0 → exec (.adpUnloadDrained c) s = .next (s.settled d)))
    ∧ (∀ (c : CmdId) (k : RunCmd), d.act c opAdpBind = some k →
      let e := k.entry
      let i := hIndex (u32 e 16)
      let st := d.checkHandle (u32 e 16) k.tenant k.order
      (st = stOK → d.bindCheck (u16 e 20) 1 (d.rTenant i) = stOK → d.bindCheck (u16 e 22) 2 (d.rTenant i) = stOK →
        exec (.adpBind c) s = .next (s.settled
          ((((d.rput i 5 63 48 (u16 e 20)).rput i 5 47 32 (u16 e 22)).mirrorRec i).endCmd k d.pair.next stOK [])))
      ∧ (st ≠ stOK → exec (.adpBind c) s = .next (s.settled (d.endCmd k d.pair.next st [])))
      ∧ (st = stOK → d.bindCheck (u16 e 20) 1 (d.rTenant i) ≠ stOK →
          exec (.adpBind c) s = .next (s.settled (d.endCmd k d.pair.next (d.bindCheck (u16 e 20) 1 (d.rTenant i)) [])))
      ∧ (st = stOK → d.bindCheck (u16 e 20) 1 (d.rTenant i) = stOK → d.bindCheck (u16 e 22) 2 (d.rTenant i) ≠ stOK →
          exec (.adpBind c) s = .next (s.settled (d.endCmd k d.pair.next (d.bindCheck (u16 e 22) 2 (d.rTenant i)) [])))))
  ∧ (∀ (d : Dev) (k : RunCmd) (body : List Byte) (d2 : Dev),
      let e := k.entry
      let a := loadEntry e k.tenant
      let st := bodyStatus a.cls a.mode a.rank a.grans a.crc body
      d.vaRead (some (k.ring, k.index)) k.tenant (u64 e 24) (u32 e 32 * granBytes) = .ok body d2 →
      (st = stOK → u16 e 48 = 0xFFFF →
        d.adpBody k = (d2.makeValid (u16 e 16) a body).endCmd k (d2.makeValid (u16 e 16) a body).pair.next stOK [])
      ∧ (st = stOK → u16 e 48 ≠ 0xFFFF →
        d.adpBody k = ((d2.makeValid (u16 e 16) a body).setCmd { k with stage := 2 }).adpMcast { k with stage := 2 })
      ∧ (st ≠ stOK → d.adpBody k = (d2.unload (u16 e 16)).endCmd k d2.pair.next st []))

/-! ## Translation, tiers, faults and prefetch (chapter 8) -/

/-- R186, R188, R429, R430: `VM_MAP` completes with the status of its checks, and `OK` once every leaf of its range is written; `VM_UNMAP` waits for the accesses that
are on their way in its range and completes `OK` with the granules given back, or `ABORTED` on a range that is malformed or pinned. -/
def Obligations.MapAndUnmap : Prop :=
  ∀ (s : State) (c : CmdId) (k : RunCmd), s.dev.alive = true →
    let d := s.dev
    let e := k.entry
    (d.act c opVmMap = some k → ∀ d' st, d.vmMap k.tenant (u64 e 16) (u32 e 24) (u8 e 28) (u8 e 29) (u64 e 32) = (d', st) →
      exec (.vmMap c) s = .next (s.settled (d'.endCmd k d'.pair.next st [])))
    ∧ (d.act c opVmUnmap = some k → d.draining k.tenant (u64 e 16) (u32 e 24) = true → exec (.vmUnmap c) s = .next (s.settled d))
    ∧ (d.act c opVmUnmap = some k → d.draining k.tenant (u64 e 16) (u32 e 24) = false → ∀ d' st n, d.vmUnmap k.tenant (u64 e 16) (u32 e 24) = (d', st, n) →
      exec (.vmUnmap c) s = .next (s.settled (d'.endCmd k d'.pair.next st [n])))
    ∧ (∀ t va grans type flags frame, grans = 0 ∨ va % (leafGrans (bit flags 4) * 4096) ≠ 0 ∨ d.mapped t va grans = true →
        d.vmMap t va grans type flags frame = (d, stAborted))
    ∧ (∀ t va grans type flags frame d', d.vmMap t va grans type flags frame = (d', stOK) →
        Dev.mapLeaves t (bit flags 4) type flags va frame (grans / leafGrans (bit flags 4)) 0 d = some d')
    ∧ (∀ t va grans, grans = 0 ∨ va % 4096 ≠ 0 ∨ d.pinnedIn t va grans = true → d.vmUnmap t va grans = (d, stAborted, 0))

/-- R193, R194, R206, R210: a `DEMOTE` that passes its checks is accepted; once no earlier command names the sequence its pages go out; when the lower tier has acknowledged a page
its cellar entry is `HELD` and the reference names it; reclaim demotes one page of a tenant above its quota. -/
def Obligations.Demotion : Prop :=
  ∀ (s : State), s.dev.alive = true →
    let d := s.dev
    (∀ (c : CmdId) (k : RunCmd), d.act c opDemote = some k →
      let e := k.entry
      let i := hIndex (u32 e 16)
      (k.begun = false → bit (u8 e 26) 0 = false → d.demoteCheck k = stOK →
        exec (.demote c) s = .next (s.settled ((d.touch i).setCmd { k with stage := 1, res := [0] })))
      ∧ (k.begun = false → bit (u8 e 26) 0 = true → d.demoteCheck k = stOK →
        exec (.demote c) s = .next (s.settled (d.setCmd { k with stage := 1, res := [0] })))
      ∧ (k.begun = false → d.demoteCheck k ≠ stOK → exec (.demote c) s = .next (s.settled (d.endCmd k d.pair.next (d.demoteCheck k) [0])))
      ∧ (k.stage = 1 → k.pos ≠ 1 → bit (u8 e 26) 0 = false → d.earlierNaming i k.order = false →
        (∀ d' st, Dev.demoteAll (fun d x => d.demotePage i x (u8 e 22) (some (k.ring, k.index))) (d.demotable i (u8 e 20) (u8 e 21)) d = (d', some st) →
          exec (.demoteProceed c) s = .next (s.settled ((d'.setAt { k with pos := 1, status := st }).demoteEnd k.ring k.index)))
        ∧ (∀ d', Dev.demoteAll (fun d x => d.demotePage i x (u8 e 22) (some (k.ring, k.index))) (d.demotable i (u8 e 20) (u8 e 21)) d = (d', none) →
          exec (.demoteProceed c) s = .next (s.settled d')))
      ∧ (k.stage = 1 → k.pos ≠ 1 → bit (u8 e 26) 0 = true → ∀ d' st,
          Dev.demoteAll (fun d x => d.demoteLeaf k.tenant (u8 e 22) x (some (k.ring, k.index)))
            ((d.leavesOf k.tenant (u64 e 32) (u32 e 40)).filter fun x => lfType x.2.word == lfLocal && !(lfPin x.2.word)) d = (d', some st) →
          exec (.demoteProceed c) s = .next (s.settled ((d'.setAt { k with pos := 1, status := st }).demoteEnd k.ring k.index)))
      ∧ (k.stage = 1 → k.pos ≠ 1 → bit (u8 e 26) 0 = false → d.earlierNaming i k.order = true → exec (.demoteProceed c) s = .next (s.settled d)))
    ∧ (∀ (c : BitVec 26) (m : Dem), d.dems.find? (·.cellar == c.toNat) = some m →
        (d.writing m.cellar = false → exec (.demotePageHeld c) s = .next (s.settled (d.pageHeld m)))
        ∧ (d.writing m.cellar = true → exec (.demotePageHeld c) s = .next (s.settled d)))
    ∧ (∀ (c : BitVec 26) (m : Dem) (i x p : Nat), d.dems = [m] → m.cellar = c.toNat → m.cmd = none → m.ref = .entry i x p → d.writing c.toNat = false →
        let ce := d.cellar c.toNat
        let d1 := { d.setCellar c.toNat { ce with state := clHeld } with dems := [] }
        exec (.demotePageHeld c) s = .next (s.settled ((d1.dramPutN 8 (d1.entAddr i x) (packEntry ⟨ce.vtag, c.toNat, 2⟩)).dropRef p).afterHeld))
    ∧ (∀ (t : BitVec 8) (i x : Nat) (d' : Dev), d.flag Fld.MEM_QFLAG_RECLAIM t.toNat = true → d.overQuota t.toNat t1 = true →
        (d.reclaimable t.toNat).findSome? (fun i => (d.reclaimEntry i).map fun x => (i, x)) = some (i, x) →
        let n := pageGrans (d.page (d.entry i x).page).mode
        sget 0 t.toNat d.reclaimed + n ≤ d.get Fld.MEM_RECLAIM_CFG_RATE →
        d.demotePage i x (if d.admits t.toNat t2 (n + 1) && (d.cellarFit t.toNat 2 (n + 1)).isSome then 2 else 3) none = (d', .sent) →
        exec (.reclaim t) s = .next (s.settled { d' with reclaimed := sput 0 t.toNat (sget 0 t.toNat d.reclaimed + n) d'.reclaimed }))

/-- R202 to R206, R195 to R199, R208, R39: A `PREFETCH` fixes its due point and its issue point; it issues when that point has come, its entries `FETCHING`; a table entry issues
once a stroke at its angle; when everything is in, the command ends `OK` with the granules brought and how late they came. The fault that Cox serves next is resolved: its data is
brought in and every command waiting for it goes on, or its commands end with `QUOTA_BLOCKED`; a core that stood in `FAULT_STALL` for the timeout parks its command when a spare
slot is free; a zero-filled run is given back. -/
def Obligations.PrefetchAndFaults : Prop :=
  (∀ (s : State), s.dev.alive = true →
    let d := s.dev
    (∀ (c : CmdId) (k : RunCmd), d.act c opPrefetch = some k → k.begun = false → bit (u8 k.entry 26) 0 = false →
      let e := k.entry
      let due := u16 e 22
      let n := if d.angle < due then d.clk.number else d.clk.number + 1
      let pt := pfPoint n due (u16 e 24 + d.get Fld.MEM_QFLAG_PF_EXT k.tenant)
      (d.prefetchCheck k = stOK → exec (.prefetch c) s = .next (s.settled
        (({ d.touch (hIndex (u32 e 16)) with pfs := d.pfs ++ [⟨d.nextId, some (k.ring, k.index), none, k.tenant, n, due, pt.2, pt.1, false, 0, none⟩],
                                              nextId := d.nextId + 1 } : Dev).setCmd { k with stage := 1, res := [0, 0] })))
      ∧ (d.prefetchCheck k ≠ stOK → exec (.prefetch c) s = .next (s.settled (d.endCmd k d.pair.next (d.prefetchCheck k) [0, 0]))))
    ∧ (∀ (c : CmdId) (p : Pf), d.pfs.find? (fun p => p.cmd == some (c.ring.toNat, c.index.toNat) && !p.issued) = some p →
        (d.reached p.issueStroke p.issue = true → exec (.prefetchIssue c) s = .next (s.settled (d.pfIssue p)))
        ∧ (d.reached p.issueStroke p.issue = false → exec (.prefetchIssue c) s = .next (s.settled d)))
    ∧ (∀ (i : BitVec 16) (a : Nat), d.pfPending i.toNat = some a → d.firing = true → a ≤ d.angle →
        exec (.prefetchTableIssue i) s = .next (s.settled (d.pfTable i.toNat)))
    ∧ (∀ (id : BitVec 32) (t : BitVec 64) (got : List FetchResult) (p : Pf),
        let d := d.advanceTo t.toNat
        d.pfs.find? (fun p => p.id % 2 ^ 32 == id.toNat && p.issued) = some p →
        (d.pfCells p).any (fun c => (d.cellar c).state == clWriting) = false →
        (∀ d' n rest, Dev.bringEach (d.pfTargets p) false 0 got d = .done d' n rest →
          exec (.prefetchComplete id t got) s = .next (s.settled ((d'.pfFinish p (d'.pfSoFar p + n)).settleFaults d)))
        ∧ (∀ d', Dev.bringEach (d.pfTargets p) false 0 got d = .refused d' true →
          exec (.prefetchComplete id t got) s = .next (s.settled (((d.keepQuarantined d').refusedQuota.pfFail p stQuotaBlocked).settleFaults d)))
        ∧ (∀ a tag, Dev.bringEach (d.pfTargets p) false 0 got d = .stale a tag →
          exec (.prefetchComplete id t got) s = .next (s.settled (((d.tagMismatch mMover a tag).pfFail p stAborted).settleFaults d))))
    ∧ (∀ (id : BitVec 32) (t : BitVec 64) (got : List FetchResult) (p : Pf),
        let d := d.advanceTo t.toNat
        d.pfs.find? (fun p => p.id % 2 ^ 32 == id.toNat && p.issued) = some p →
        (d.pfCells p).any (fun c => (d.cellar c).state == clWriting) = true → exec (.prefetchComplete id t got) s = .next (s.settled d)))
  ∧ (∀ (s : State), s.dev.alive = true →
    (∀ (id : BitVec 32) (t : BitVec 64) (got : List FetchResult) (f : FaultRec),
      let d := s.dev.advanceTo t.toNat
      let fs := d.faults.filter fun g => sameFault f.kind g.kind
      d.nextFault = some f → f.id % 2 ^ 32 = id.toNat →
      (∀ d' n rest, d.bring f.kind got = .done d' n rest →
        exec (.faultResolved id t got) s = .next (s.settled (((d'.takeFaults fs (d.faultCause f.kind)).resumeAll fs).serveFault)))
      ∧ (∀ d' n rest, d.bring f.kind got = .failed d' n rest →
        exec (.faultResolved id t got) s = .next (s.settled ((((d'.giveUpFault f.kind).takeFaults fs 9).resumeAll fs).serveFault)))
      ∧ (∀ d', d.bring f.kind got = .refused d' true →
        exec (.faultResolved id t got) s
          = .next (s.settled ((((d.keepQuarantined d').giveUpFault f.kind).refusedQuota.endAll fs stQuotaBlocked).serveFault)))
      ∧ (∀ p tag, d.bring f.kind got = .stale p tag →
        exec (.faultResolved id t got) s = .next (s.settled ((((d.giveUpFault f.kind).tagMismatch mCox p tag).endAll fs stAborted).serveFault))))
    ∧ (∀ (core : BitVec 9) (t : BitVec 64) (k : RunCmd),
      let d := s.dev.advanceTo t.toNat
      d.cmds.find? (fun k => k.core == some core.toNat && decide (k.phase = .faulted)) = some k →
      k.since + 1000 * atLeast1 (d.get Fld.MEM_FAULT_CFG_TIMEOUT) ≤ d.ns →
      (∀ d', d.beginSave k afterPark = some d' → exec (.faultTimeout core t) s = .next (s.settled d'))
      ∧ (d.beginSave k afterPark = none → k.note ≠ noteSlotEmpty →
          exec (.faultTimeout core t) s = .next (s.settled ((d.stall 10 0).setCmd { k with note := noteSlotEmpty }))))
    ∧ (∀ (g : BitVec 27) (z : Zeroing), s.dev.zeroing = [z] → z.start = g.toNat → z.page = none → (∀ u, z.tenant = some u → u < 256) →
      (∀ k < 64, s.dev.partState k ≠ ptReleasing ∧ s.dev.partState k ≠ ptChanging) →
      ∃ d' : Dev, exec (.zeroingDone g) s = .next (s.withDev d') ∧ d'.zeroing = []
        ∧ ∀ a, z.start * granBytes ≤ a → a < (z.start + z.len) * granBytes → d'.dram.read a = 0))

/-! ## The host interface (chapters 1, 15) -/

/-- R11, R13, R383, R425: one field of a register written whole. An `RW` field takes the value written when it is in range and aligned as stated, and else keeps its value; an `RWL`
field does so while the lock is clear, and once it is set a change is refused and noted; a `W1C` field clears the bits written 1; `RO`, `RC` and `WO` fields do not change. No other
bit of the register changes. -/
def Obligations.WriteByAccessType : Prop :=
  ∀ (locked : Bool) (v w : Nat) (viol : Bool) (f : FieldSpec), f.lo ≤ f.hi → f.hi < 64 → v < 2 ^ 64 → w < 2 ^ 64 →
    let r := writeField locked maskAll v (w, viol) f
    let cur := bits w f.hi f.lo
    let new := bits v f.hi f.lo
    (f.acc = .rw → f.admits new = true → bits r.1 f.hi f.lo = new ∧ r.2 = viol)
    ∧ (f.acc = .rwl → f.admits new = true → locked = false → bits r.1 f.hi f.lo = new ∧ r.2 = viol)
    ∧ (f.acc = .rwl → f.admits new = true → locked = true → new ≠ cur → r = (w, true))
    ∧ (f.admits new = false → f.acc = .rw ∨ f.acc = .rwl → r = (w, viol))
    ∧ (f.acc = .w1c → ∀ b < f.hi + 1 - f.lo, bit (bits r.1 f.hi f.lo) b = (bit cur b && !(bit new b)))
    ∧ (f.acc = .ro ∨ f.acc = .rc ∨ f.acc = .wo → r = (w, viol))
    ∧ (∀ b, b < f.lo ∨ f.hi < b → bit r.1 b = bit w b)

/-- R10, R11, R383, R424: the PF's accesses to a register. A 64-bit write of a register that only holds its fields writes them by their access types; a 64-bit read returns the word
and clears the `RC` fields; `SET` sets the lock and nothing else. -/
def Obligations.RegisterAccess : Prop :=
  ∀ (s : State) (off : BitVec 26) (v : Word) (r : RegSpec), s.dev.alive = true →
    let d := s.dev
    d.open' = true → off.toNat % 8 = 0 → off.toNat < 0x01F00000 → d.reached' off.toNat = some r →
    (r.base ∉ writeActs → exec (.registerWrite 0 off 8 v) s = .next (s.settled ((d.unlatch 0 off.toNat).writeReg false r off.toNat maskAll v.toNat)))
    ∧ ((off.toNat < logWindow ∨ logWindow + 0x40000 ≤ off.toNat) → exec (.rcCounterRead 0 off 8) s = .next (s.withDev
        (((d.unlatch 0 off.toNat).setWord off.toNat r.wreset (r.cleared maskAll (d.word off.toNat r.wreset))).emit
          (.readData (r.shown (d.liveWord r off.toNat))))))
    ∧ (s.calm → ∃ t : State, exec (.cfgLockSet 0) s = .next t ∧ t.dev.flag Fld.GLB_CFG_LOCK_LOCK = true ∧ t.dev.get Fld.GLB_CFG_LOCK_VIOL_OFF = d.get Fld.GLB_CFG_LOCK_VIOL_OFF
        ∧ t.dev.flag Fld.GLB_CFG_LOCK_VIOL = d.flag Fld.GLB_CFG_LOCK_VIOL ∧ Dev.sameRegsBut [Reg.GLB_CFG_LOCK.base] d t.dev ∧ t.dev.dram = d.dram ∧ t.dev.hall = d.hall)

/-- R375: the reset sources. Power or `PERST_N` low, the board's `RESET`, the fault manager's instruction and the host's code each cause a full reset: everything is at its reset
state but the boot memory and the fuses, the epoch reads 0, and no packet leaves. A hot reset has the effects of R392 for every function, a function-level reset for its own. -/
def Obligations.ResetSources : Prop :=
  ∀ (s : State),
    let full (o : Host.Outcome State Fault Refusal) : Prop := ∃ t : State, o = .next t ∧ s.resetTo t ∧ t.dev.epoch = 0 ∧ exec .packetSpray t = .next t
    full (exec .perstAssert s) ∧ full (exec .pwrgdFall s) ∧ (∀ pwrgd perstN, pwrgd = false ∨ perstN = false → full (exec (.powerOnReset pwrgd perstN) s))
    ∧ full (exec (.i3cReset 0xA5) s)
    ∧ (∀ h : MgmtHdr, s.dev.alive = true → s.dev.accepts h = true → s.dev.answeredAs h = none → full (exec (.mgmtReset h) s))
    ∧ (∀ v : Word, s.dev.alive = true → s.dev.open' = true → v.toNat % 65536 = 0x3C5A → full (exec (.glbReset 0 v) s))
    ∧ (s.dev.alive = true → exec .hotReset s = .next (s.settled ((List.range 64).foldl Dev.functionReset s.dev))
        ∧ ∀ fn : BitVec 6, exec (.functionLevelReset fn) s = .next (s.settled (s.dev.functionReset fn.toNat)))

/-- R10: every register stands at an 8-byte-aligned offset. An access that is neither an aligned 64-bit nor an aligned 32-bit one has no effect and reads zero; an aligned one reads
the register's word, or the half of it that it covers. -/
def Obligations.AlignedAccessesOnly : Prop :=
  (∀ n r, regAt n = some r → n % 8 = 0)
  ∧ ∀ (s : State) (fn : BitVec 6) (off : BitVec 26) (width : BitVec 8) (v : Word), s.calm →
    let d := s.dev
    let o := off.toNat
    let fits := (width = 8 ∧ o % 8 = 0) ∨ (width = 4 ∧ o % 4 = 0)
    (¬ fits → exec (.registerWrite fn off width v) s = .next s ∧ exec (.rcCounterRead fn off width) s = .next (s.withDev (d.emit (.readData 0))))
    ∧ (∀ r, fits → d.latch = [] → o < 0x01F00000 → o < logWindow ∨ logWindow + 0x40000 ≤ o → d.reached' (o - o % 8) = some r →
        let w := r.shown (d.liveWord r (o - o % 8))
        ∃ t : State, exec (.rcCounterRead 0 off width) s = .next t ∧ t.dev.dram = d.dram ∧ t.dev.hall = d.hall
          ∧ t.dev.out = d.out ++ [.readData (if width = 8 then w else if o % 8 = 0 then w % 2 ^ 32 else w / 2 ^ 32 % 2 ^ 32)])

/-- R424: a register whose fields are all `RO` or `RC` latches on a 32-bit read of its lower half: it clears the `RC` fields of both halves, and the upper half is read next as it
then stood, clearing nothing. With no latch held, and on every other register, a 32-bit read acts on its own half only. -/
def Obligations.LatchedReads : Prop :=
  ∀ (s : State) (off : BitVec 26) (r : RegSpec), s.dev.alive = true →
    let d := s.dev
    let o := off.toNat
    let w := r.shown (d.liveWord r o)
    let wiped (mask : Nat) : Nat := r.cleared mask (d.word o r.wreset) % 2 ^ 64
    let after (t : State) (v : Nat) : Prop := Dev.sameRegsBut [o] d t.dev ∧ t.dev.dram = d.dram ∧ t.dev.hall = d.hall ∧ t.dev.out = d.out ++ [.readData v]
    o % 8 = 0 → o < 0x01F00000 → o < logWindow ∨ logWindow + 0x40000 ≤ o → d.reached' o = some r →
    (∃ t : State, exec (.rcCounterRead 0 off 4) s = .next t ∧ after t (w % 2 ^ 32) ∧ t.dev.word o r.wreset = wiped (if r.latches then maskAll else maskLow)
      ∧ (r.latches = true → t.dev.reached' o = some r →
          ∃ u : State, exec (.rcCounterRead 0 (off + 4) 4) t = .next u ∧ u.dev.out = t.dev.out ++ [.readData (w / 2 ^ 32 % 2 ^ 32)] ∧ u.dev.regs = t.dev.regs))
    ∧ (r.latches = false ∨ d.latch = [] → ∃ t : State, exec (.rcCounterRead 0 (off + 4) 4) s = .next t ∧ after t (w / 2 ^ 32 % 2 ^ 32) ∧ t.dev.word o r.wreset = wiped maskHigh)

/-- R13, R383: a host write that would change an `RWL` field after the lock is set leaves every `RWL` field as it was, sets `VIOL`, records the offset when `VIOL` was clear, and
writes a `LOCK_VIOLATION` record. -/
def Obligations.LockedWrites : Prop :=
  ∀ (s : State) (off : BitVec 26) (v : Word) (r : RegSpec) (f : FieldSpec), s.calm →
    let d := s.dev
    let o := off.toNat
    let cur (e : Dev) (g : FieldSpec) : Nat := bits (e.word o r.wreset) g.hi g.lo
    d.open' = true → o < 0x01F00000 → d.reached' o = some r → r.base ∉ writeActs → d.flag Fld.GLB_CFG_LOCK_LOCK = true → f ∈ r.fields → f.acc = .rwl →
    f.admits (bits v.toNat f.hi f.lo) = true → bits v.toNat f.hi f.lo ≠ cur d f → d.log.pending = 0 → d.log.fifo.length < 64 →
    ∃ (t : State) (e : LogEv), exec (.registerWrite 0 off 8 v) s = .next t ∧ (∀ g ∈ r.fields, g.acc = .rwl → cur t.dev g = cur d g) ∧ t.dev.flag Fld.GLB_CFG_LOCK_VIOL = true
      ∧ t.dev.get Fld.GLB_CFG_LOCK_VIOL_OFF = (if d.flag Fld.GLB_CFG_LOCK_VIOL then d.get Fld.GLB_CFG_LOCK_VIOL_OFF else o)
      ∧ t.dev.log.fifo = d.log.fifo ++ [e] ∧ e.code = evLockViolation ∧ e.data = o
      ∧ Dev.sameRegsBut [o, Reg.GLB_CFG_LOCK.base] d t.dev ∧ t.dev.dram = d.dram ∧ t.dev.hall = d.hall

/-- R394, R395, R396, R397, R398: the aliases and the proxy window of a head. An alias write writes the place in every selected instance and an alias read returns the OR over them;
an access to a mapped member goes out as a control packet, one to an unmapped member reads zero; a read unanswered for `TMO` returns ones and is counted; a member's write and its
MSI-X become the PF's. -/
def Obligations.AliasesAndProxy : Prop :=
  ∀ (s : State), s.dev.alive = true →
    let d := s.dev
    (∀ (group : Bool) (off : BitVec 24) (v : Word), off.toNat % 8 = 0 →
        exec (.aliasAccess group off 8 true v) s = .next (s.settled ((d.aliasOffs group off.toNat).foldl (fun (d : Dev) o => d.writePf o 8 v.toNat) d))
        ∧ exec (.aliasAccess group off 8 false v) s = .next (s.withDev (d.emit (.readData (d.readAlias group off.toNat 8)))))
    ∧ (∀ (m x : Nat) (off : BitVec 35) (data : List Byte) (a : Word), d.open' = true → d.flag Fld.GLB_PROXY_CFG_HEAD = true → 0 < m → m < 64 → x < 0x20000000 →
        off.toNat = m * 0x20000000 + x →
        (d.flag Fld.GLB_PROXY_MAP_VALID m = true →
          exec (.proxyAccess off 8 .write data none) s = .next (s.withDev (d.ctrl (d.get Fld.GLB_PROXY_MAP_NODE m) (.proxy m x true data)))
          ∧ exec (.proxyAccess off 8 .read data (some a)) s = .next (s.withDev
              ((d.ctrl (d.get Fld.GLB_PROXY_MAP_NODE m) (.proxy m x false data)).emit (.readData (a.toNat % 2 ^ 64)))))
        ∧ (d.flag Fld.GLB_PROXY_MAP_VALID m = false →
          exec (.proxyAccess off 8 .write data none) s = .next s ∧ exec (.proxyAccess off 8 .read data none) s = .next (s.withDev (d.emit (.readData 0)))))
    ∧ (∀ (slot : BitVec 6) (t : BitVec 64) (p : ProxyRead), (d.advanceTo t.toNat).proxy = [p] → p.slot = slot.toNat →
        p.at' + 1000 * atLeast1 ((d.advanceTo t.toNat).get Fld.GLB_PROXY_CFG_TMO) ≤ (d.advanceTo t.toNat).ns →
        exec (.proxyReadTimeout slot t) s = .next (s.withDev ((((({ d.advanceTo t.toNat with proxy := [] } : Dev).emit
          (.readData (2 ^ (8 * min 8 p.width) - 1))).bump Fld.GLB_PROXY_STAT_TIMEOUTS).logEv evProxyTimeout mHost p.slot))))
    ∧ (∀ (slot : BitVec 6) (a : BitVec 64) (len v : BitVec 16) (data : List Byte), d.flag Fld.GLB_PROXY_CFG_HEAD = true → slot ≠ 0 →
        d.flag Fld.GLB_PROXY_MAP_VALID slot.toNat = true →
        exec (.memberHostRequest slot (.write a data)) s = .next (s.withDev (d.hostPut 0 a.toNat data))
        ∧ exec (.memberHostRequest slot (.read a len)) s = .next (s.withDev (d.emit (.hostRequest (.read a len) slot.toNat)))
        ∧ (v.toNat < 32 → exec (.memberHostRequest slot (.msix v)) s = .next (s.withDev (d.raise 0 (2048 + 32 * slot.toNat + v.toNat)))))

/-! ## Ports (chapter 10) -/

/-- R243, R245, R250, R251, R253: A port comes up and goes down. Enabled with light, a DOWN port tunes; a port that tuned trains, and the third failure in a row fails it; a feed
below 3 dBm takes its ports down; a port that loses its lock tunes again. Link control. A `LINKCTL` of a switch that reports this port's number brings a TRAINING port UP, one from
another far end marks it miscabled; each sent one counts its beat; without one for 10 µs, or without success for 1 ms, the port trains or tunes again; the millisecond check counts
corrected symbols and sends a port over its limit to RELEARN, which ends UP, or to TUNING; an uncorrectable codeword is counted, and the symbols corrected in any other are charged to
their lanes. -/
def Obligations.PortsAndLinkControl : Prop :=
  (∀ (s : State) (port : BitVec 5), s.dev.alive = true → port.toNat < 24 →
    let d := s.dev
    let p := port.toNat
    (d.open' = true → d.portState p = poDown → d.flag Fld.FAB_PORT_CTL_EN p = false → 300 < d.feedPower (p / 3) →
      ∃ t : State, exec (.portEnWrite port true) s = .next t ∧ t.dev.portState p = poTuning ∧ t.dev.flag Fld.FAB_PORT_CTL_EN p = true
        ∧ t.dev.get Fld.FAB_PORT_BER_TUNES p = min Fld.FAB_PORT_BER_TUNES.max (d.get Fld.FAB_PORT_BER_TUNES p + 1)
        ∧ Dev.sameRegsBut [Fld.FAB_PORT_CTL_STATE.off p 0, Fld.FAB_PORT_BER_TUNES.off p 0] d t.dev ∧ t.dev.dram = d.dram)
    ∧ (d.open' = true → ∃ t : State, exec (.portEnWrite port false) s = .next t ∧ t.dev.portState p = poDown ∧ t.dev.flag Fld.FAB_PORT_CTL_EN p = false
        ∧ Dev.sameRegsBut [Fld.FAB_PORT_CTL_STATE.off p 0] d t.dev ∧ t.dev.dram = d.dram)
    ∧ (p ∈ d.tunable → (d.ports.length = 24 → ∀ codes, ∃ t : State, exec (.portTuneDone port true codes) s = .next t ∧ t.dev.portState p = poTraining
          ∧ (t.dev.port p).fails = 0 ∧ (t.dev.port p).codes = (List.range 16).map fun k => (codes.getD k 0).toNat)
        ∧ ((d.port p).fails + 1 < 3 → exec (.portTuneDone port false []) s
            = .next (s.withDev (d.setPort p { (d.port p) with fails := (d.port p).fails + 1, since := d.ns })))
        ∧ (3 ≤ (d.port p).fails + 1 → ∃ t : State, exec (.portTuneDone port false []) s = .next t ∧ t.dev.portState p = poFailed))
    ∧ (d.portState p = poUp ∨ d.portState p = poRelearn → exec (.ringLockLost port) s = .next (s.withDev (d.toTuning p)))
    ∧ (∀ (feed : BitVec 3) (power : BitVec 16), feed.toNat = p / 3 → ofField 16 power.toNat < 300 → d.portState p ≠ poFailed →
        ∃ t : State, exec (.laserFeedLevel feed power) s = .next t ∧ t.dev.portState p = poDown ∧ t.dev.flag Fld.FAB_LASER_LOW feed.toNat = true
          ∧ t.dev.get Fld.FAB_LASER_POWER feed.toNat = power.toNat))
  ∧ (∀ (s : State) (port : BitVec 5) (t : BitVec 64), s.dev.alive = true → port.toNat < 24 →
    let p := port.toNat
    let d := s.dev.advanceTo t.toNat
    (∀ (cr : List (BitVec 16)) (node : BitVec 16) (far : BitVec 8) (beat : BitVec 32), d.portState p = poTraining →
      let d1 := d.setPort p { ((d.port p).credit cr) with lastCtl := d.ns }
      (far.toNat = p → exec (.linkctl port cr node far true beat t) s = .next (s.withDev (d1.portTo p poUp)))
      ∧ (far.toNat ≠ p → exec (.linkctl port cr node far true beat t) s = .next (s.withDev (d1.put Fld.FAB_PORT_CTL_MISCABLE 1 p)))
      ∧ exec (.linkctl port cr node far false beat t) s = .next (s.withDev (d1.put Fld.FAB_PORT_CTL_MISCABLE 1 p)))
    ∧ (∀ (cr : List (BitVec 16)) (node : BitVec 16) (far : BitVec 8) (sw : Bool) (beat : BitVec 32), d.portState p = poUp ∨ d.portState p = poRelearn →
      d.spray = [] → (d.port p).egress = [] →
      exec (.linkctl port cr node far sw beat t) s = .next (s.withDev (d.setPort p { ((d.port p).credit cr) with lastCtl := d.ns })))
    ∧ (s.dev.portState p = poUp ∨ s.dev.portState p = poRelearn ∨ s.dev.portState p = poTraining → s.dev.ports.length = 24 →
      ∃ t : State, exec (.linkctlSend port) s = .next t ∧ (t.dev.port p).beat = ((s.dev.port p).beat + 1) % 2 ^ 32 ∧ (t.dev.port p).freed = [0, 0, 0, 0]
        ∧ t.dev.regs = s.dev.regs ∧ t.dev.dram = s.dev.dram
        ∧ t.dev.out = s.dev.out ++ [.linkctl p s.dev.node false (s.dev.port p).beat (s.dev.port p).freed])
    ∧ (d.portState p = poUp ∨ d.portState p = poRelearn → (d.port p).lastCtl + 10000 ≤ d.ns → exec (.linkctlTimeout port t) s = .next (s.withDev (d.portTo p poTraining)))
    ∧ (d.portState p = poTraining → d.flag Fld.FAB_PORT_CTL_MISCABLE p = false → (d.port p).since + 1000000 ≤ d.ns →
      exec (.trainingTimeout port t) s = .next (s.withDev (d.toTuning p)))
    ∧ (∀ lanes : List (BitVec 16), (d.port p).lastBer + 1000000 ≤ d.ns →
      let d1 := d.chargeLanes p (lanes.map BitVec.toNat)
      let x := d1.port p
      let d2 := d1.setPort p { x with lastBer := d1.ns, uncorrMs := 0, corr := List.replicate 16 0 }
      (d.portState p = poUp → exec (.berCheck port lanes t) s = .next (s.withDev (d2.judgePort p x)))
      ∧ (d.portState p = poTraining ∨ d.portState p = poRelearn → exec (.berCheck port lanes t) s = .next (s.withDev d2)))
    ∧ (s.dev.portState p = poRelearn → exec (.relearnDone port) s = .next (s.withDev (s.dev.portTo p poUp)))
    ∧ (∀ symbols : List (BitVec 10), s.dev.portState p = poUp ∨ s.dev.portState p = poRelearn ∨ s.dev.portState p = poTraining →
      (rsDecode (symbols.map BitVec.toNat) = none → exec (.uncorrectableCodeword port symbols) s = .next (s.withDev
        ((s.dev.bump Fld.FAB_PORT_FEC_UNCORR 1 p).setPort p { (s.dev.port p) with
          uncorrMs := if s.dev.portState p = poUp then (s.dev.port p).uncorrMs + 1 else (s.dev.port p).uncorrMs, resync := true })))
      ∧ (∀ w errs, rsDecode (symbols.map BitVec.toNat) = some (w, errs) → exec (.uncorrectableCodeword port symbols) s = .next (s.withDev
        (s.dev.chargeLanes p ((List.range 16).map fun k => (errs.filter fun j => rsLane j == k).length))))))
  ∧ (∀ (d : Dev) (p : Nat) (x : Port),
      let recent := x.relearns.filter fun r => decide (d.ns < r + 100000000)
      let d1 := (d.bump Fld.FAB_PORT_BER_RELEARNS 1 p).setPort p { (d.port p) with relearns := recent ++ [d.ns] }
      (d.get Fld.FAB_PORT_BER_UNCORR_MAX p < x.uncorrMs → d.judgePort p x = d.toTuning p)
      ∧ (x.uncorrMs ≤ d.get Fld.FAB_PORT_BER_UNCORR_MAX p → (∀ c ∈ x.corr, c ≤ d.get Fld.FAB_PORT_BER_TH p) → d.judgePort p x = d)
      ∧ (x.uncorrMs ≤ d.get Fld.FAB_PORT_BER_UNCORR_MAX p → (∃ c ∈ x.corr, d.get Fld.FAB_PORT_BER_TH p < c) →
          (recent.length < 2 → d.judgePort p x = d1.portTo p poRelearn) ∧ (2 ≤ recent.length → d.judgePort p x = d1.toTuning p)))

/-! ## Transport and traffic (chapters 10, 12) -/

/-- R252, R254, R261, R262, R298, R340, R265, R266, R267, R270: A scheduler hands over the packet it picks, which takes its pair's next PSN; a packet that waits for a port goes to
the next port in turn that has room; while the epoch is 0 nothing leaves. The timers of a pair. The ACK timer acknowledges what is fresh; a retransmission timeout halves the rate,
counts, and sends the packet again, or ends the pair at the limit; a rate update once a period, which with no mark of congestion recovers and with one takes the rate for its target. -/
def Obligations.PacketsLeaveAndTimers : Prop :=
  (∀ (s : State), s.dev.alive = true →
    let d := s.dev
    (∀ (lc : Bool) (t : TxPkt), d.pick (schedOf lc) = some t → t.retx = false → t.flow = 256 →
      ∃ t' : State, exec (.packetHandoff lc) s = .next t' ∧ t'.dev.txq = d.txq.erase t
        ∧ t'.dev.spray = d.spray ++ [{ t with pkt := { t.pkt with psn := BitVec.ofNat 32 (d.qpt t.qp t.node).spsn } }]
        ∧ (t'.dev.qpt t.qp t.node).spsn = ((d.qpt t.qp t.node).spsn + 1) % 2 ^ 32 ∧ t'.dev.dram = d.dram)
    ∧ (∀ (t : TxPkt) (p : Nat), d.epoch ≠ 0 → d.spray = [t] → d.sprayable t = true → d.nextPort (laneOf t) = some p → exec .packetSpray s = .next (s.withDev (d.sprayTo t p)))
    ∧ (d.epoch = 0 → exec .packetSpray s = .next s))
  ∧ (∀ (s : State) (qp node : BitVec 16) (psn : BitVec 32) (t : BitVec 64), s.dev.alive = true →
    let d := s.dev.advanceTo t.toNat
    let q := qp.toNat
    let n := node.toNat
    let x := d.qpt q n
    (x.fresh ≠ 0 → x.firstAt + 1000 ≤ d.ns → exec (.ackTimer qp node t) s = .next (s.withDev (d.sendAck q n)))
    ∧ (∀ o, x.out.find? (fun o => o.sent && o.pkt.psn == psn) = some o → o.sentAt + 1000 * atLeast1 (d.get Fld.FAB_XPORT_CFG_RTO) ≤ d.ns →
      let d1 := d.setQpt { x with tmo := x.tmo + 1, rate := max (d.get Fld.FAB_RC_CFG_RMIN) (x.rate / 2) }
      (x.tmo + 1 < atLeast1 (d.get Fld.FAB_XPORT_CFG_RETRY_MAX) → exec (.retransmitTimeout qp node psn t) s = .next (s.settled (d1.resend q n o)))
      ∧ (atLeast1 (d.get Fld.FAB_XPORT_CFG_RETRY_MAX) ≤ x.tmo + 1 →
        (q < 16 → exec (.retransmitTimeout qp node psn t) s = .next (s.settled (d1.resetToward q n)))
        ∧ (16 ≤ q → exec (.retransmitTimeout qp node psn t) s = .next (s.settled (d1.errorPair q)))))
    ∧ (x.out ≠ [] → x.rcAt + 100 * atLeast1 (d.get Fld.FAB_RC_CFG_PERIOD) ≤ d.ns →
       ∃ t' : State, exec (.rcUpdate qp node t) s = .next t' ∧ (t'.dev.qpt q n).rcAt = d.ns ∧ (t'.dev.qpt q n).acked = 0 ∧ (t'.dev.qpt q n).marked = 0
         ∧ t'.dev.regs = d.regs ∧ t'.dev.dram = d.dram ∧ t'.dev.spray = d.spray
         ∧ (x.marked = 0 → x.quiet < d.get Fld.FAB_RC_CFG_FAST → d.get Fld.FAB_RC_CFG_FAST ≤ 31 →
             (t'.dev.qpt q n).target = x.target ∧ (t'.dev.qpt q n).quiet = x.quiet + 1
               ∧ (t'.dev.qpt q n).rate = min (d.get Fld.FAB_RC_RATE_RMAX) ((x.rate + x.target + 1) / 2))
         ∧ (0 < x.marked → (t'.dev.qpt q n).target = x.rate ∧ (t'.dev.qpt q n).quiet = 0)))

/-- R256, R264: the checks of a received packet, in their order. A wrong header CRC, an unknown opcode, a node that is not this device's, and an epoch ahead of the peer table's are
each counted, and the packet is dropped without answer; a wrong payload CRC is answered `CRC_FAULT`. -/
def Obligations.PacketChecks : Prop :=
  ∀ (s : State) (a : Arrival) (p : Packet) (i : Instr) (op : Nat), s.dev.alive = true →
    let d := s.dev.arrive a p
    (i, op) ∈ [(Instr.write a p, pkWrite), (.readReq a p, pkReadReq), (.readResp a p, pkReadResp), (.atomic a p, pkAtomic), (.atomicResp a p, pkAtomicResp),
      (.reduce a p, pkReduce), (.mcastWrite a p, pkMcast), (.inval a p, pkInval), (.ack a p, pkAck), (.nak a p, pkNak)] →
    (p.opc.toNat = op → p.hcrc.toNat ≠ pktHeadCrc p → exec i s = .next (s.settled (d.bump Fld.FAB_STAT0_HCRC)))
    ∧ (p.hcrc.toNat = pktHeadCrc p → knownOpc p.opc.toNat = false → exec (.write a p) s = .next (s.settled (d.bump Fld.FAB_STAT0_BADOPC)))
    ∧ (p.opc.toNat = op → p.hcrc.toNat = pktHeadCrc p → p.dstNode.toNat ≠ d.node → d.serves p.dstNode.toNat = false →
        exec i s = .next (s.settled (d.bump Fld.FAB_STAT0_MISROUTE)))
    ∧ (p.opc.toNat = op → p.hcrc.toNat = pktHeadCrc p → p.dstNode.toNat = d.node →
        (p.icrc.toNat ≠ pktBodyCrc p → exec i s = .next (s.settled (d.nak p stCrcFault)))
        ∧ (p.icrc.toNat = pktBodyCrc p → p.payload.length = p.len.toNat → d.peerValid p.srcNode.toNat = true → d.peerEpoch p.srcNode.toNat < p.epoch.toNat →
            exec i s = .next (s.settled (d.bump Fld.FAB_STAT0_EPOCH_AHEAD))))

/-- R264, R265, R274, R277, R279, R280, R281, R286, R287: An accepted WRITE places its enabled bytes: by its pair's receive region, or through its window once the window's checks
pass; so does an accepted MCAST_WRITE through its window. The packet counts as received. Accepted READ_REQ, ATOMIC, REDUCE and INVAL. Data are read and sent back 4,096 bytes a
packet; an atomic leaves its word and answers the old one; a reduction goes word by word; lines are dropped and fills marked stale. What a window's checks refuse is refused with
their status, and so is what needs a window and names none. -/
def Obligations.RequestsReceived : Prop :=
  (∀ (s : State) (a : Arrival) (p : Packet) (d0 : Dev), s.dev.alive = true → Accepted (s.dev.arrive a p) p d0 →
    let d := d0.heard p
    let q := p.dstQp.toNat
    let w := p.window.toNat
    (∀ d1 mark, p.opc.toNat = pkWrite → pktHas p pfWin = false → p.raddr.toNat + p.len.toNat ≤ d.qget q 3 63 32 →
      d.qget q 2 63 62 < 2 ∨ (d.qget q 2 63 62 = 2 ∧ qReserved q = true) → d.Passes a p d1 mark →
      exec (.write a p) s = .next (s.settled (d1.settlePlaced p mark
        (Dev.placeRuns mRx (ownerOf p) (if qReserved q then none else some (d.qTenant q)) (d.qget q 2 63 62) (d.qget q 2 51 0 + p.raddr.toNat) (byteRuns (enabledBytes p)) d1))))
    ∧ (p.opc.toNat = pkWrite → pktHas p pfWin = false → d.qget q 3 63 32 < p.raddr.toNat + p.len.toNat →
        exec (.write a p) s = .next (s.settled (d.refuse p stBoundsFault)))
    ∧ (∀ i d1 mark, (i = .write a p ∧ p.opc.toNat = pkWrite) ∨ (i = .mcastWrite a p ∧ p.opc.toNat = pkMcast) → pktHas p pfWin = true → d.winCheck p = (d, stOK) →
      d.Passes a p d1 mark →
      exec i s = .next (s.settled (((d1.fly w).settlePlaced p mark
        (Dev.placeRuns mRma (ownerOf p) (some (d1.win w).tenant) (d1.win w).space ((d1.win w).base + p.raddr.toNat) (byteRuns (enabledBytes p)) (d1.fly w))).land w)))
    ∧ (∀ i op, (i, op) ∈ [(Instr.write a p, pkWrite), (.mcastWrite a p, pkMcast), (.readReq a p, pkReadReq), (.atomic a p, pkAtomic), (.reduce a p, pkReduce)] →
      p.opc.toNat = op →
      (∀ d1 st, pktHas p pfWin = true → d.winCheck p = (d1, st) → st ≠ stOK → exec i s = .next (s.settled (d1.refuse p st)))
      ∧ (pktHas p pfWin = false → op ≠ pkWrite → exec i s = .next (s.settled (d.refuse p stAborted)))))
  ∧ (∀ (d d1 : Dev) (p : Packet) (mark : Bool),
      (d1.hallLost.any (fun x => decide (x.1 = ownerOf p)) = false → d.settlePlaced p mark (.ok d1) = d1.placed p mark)
      ∧ (d1.hallLost.any (fun x => decide (x.1 = ownerOf p)) = true → d.settlePlaced p mark (.ok d1) = (d1.forgetLost (ownerOf p)).refuse p stWriteLost)
      ∧ (∀ st, d.settlePlaced p mark (.bad d1 st) = ({ d with regs := d1.regs, log := d1.log } : Dev).refuse p st)
      ∧ d.settlePlaced p mark .later = d)
  ∧ (∀ (s : State) (a : Arrival) (p : Packet) (d0 : Dev), s.dev.alive = true → Accepted (s.dev.arrive a p) p d0 →
    let d := d0.heard p
    let q := p.dstQp.toNat
    let w := p.window.toNat
    (∀ d1 mark, d.Passes a p d1 mark → pktHas p pfWin = true → d.winCheck p = (d, stOK) →
      let e := d1.win w
      let b := e.base + p.raddr.toNat
      (∀ bs d2, p.opc.toNat = pkReadReq → (∃ d3, (d1.fly w).winRead e p.raddr.toNat p.aux.toNat = (d3, .ok bs d2)) →
        let n := ceilDiv p.aux.toNat 4096
        exec (.readReq a p) s = .next (s.settled ((((List.range n).foldl (fun (d : Dev) j =>
          d.respond p (d.respPkt p pkReadResp (4096 * j) j n (slice bs (4096 * j) 4096)) false) d2).placed p mark).land w)))
      ∧ (p.opc.toNat = pkAtomic → (d1.fly w).hallOk (some e.tenant) b 8 = true → (d1.fly w).badWords b 8 = [] →
        let old := d1.hallWord b
        let d2 := (d1.fly w).hallPut b (toBytes 8 (fabricWord (p.aux.toNat % 4) old (ofBytes (p.payload.take 8)) (ofBytes (slice p.payload 8 8))))
        exec (.atomic a p) s = .next (s.settled (((d2.respond p (d2.respPkt p pkAtomicResp 0 0 1 (toBytes 8 old)) true).placed p mark).land w)))
      ∧ (p.opc.toNat = pkReduce → (d1.fly w).hallOk (some e.tenant) b p.len.toNat = true → (d1.fly w).badWords b p.len.toNat = [] →
        let d2 := (List.range (p.len.toNat / 8)).foldl (fun (d : Dev) k =>
          d.hallPut (b + 8 * k) (toBytes 8 (reduceWord (p.aux.toNat % 4) (d.hallWord (b + 8 * k)) (ofBytes (slice p.payload (8 * k) 8))))) (d1.fly w)
        exec (.reduce a p) s = .next (s.settled
          (((d2.respond p (d2.respPkt p pkAtomicResp 0 p.pkt.toNat (p.pktsM1.toNat + 1) []) true).placed p mark).land w))))
    ∧ (p.opc.toNat = pkInval →
        let mine (x : Nat) : Bool := qReserved q || x == p.tenant.toNat
        (p.aux.toNat ≠ wholeWindow → exec (.inval a p) s = .next (s.settled
          (((d.bump Fld.RMA_STAT1_INVAL).dropRange p.srcNode.toNat w p.raddr.toNat p.aux.toNat mine).placed p false)))
        ∧ (p.aux.toNat = wholeWindow → exec (.inval a p) s = .next (s.settled
          (((d.bump Fld.RMA_STAT1_INVAL).dropRange p.srcNode.toNat w 0 (2 ^ 64) mine).placed p false)))))

/-- R269, R277, R280, R435, R265, R266, R268: An accepted response is delivered to the outstanding operation it names; one that names none is counted and dropped. An ACK releases
every packet sent that lies before its PSN or that its bitmap names, clears the timeouts in a row, and counts for rate control; with no operation outstanding nothing else of the
device changes. A NAK of an outstanding packet takes it off, or sends it again on `CRC_FAULT`. -/
def Obligations.AnswersReceived : Prop :=
  (∀ (s : State) (a : Arrival) (p : Packet) (d0 : Dev), s.dev.alive = true → Accepted (s.dev.arrive a p) p d0 →
    let d := d0.heard p
    (p.opc.toNat = pkReadResp → d.opOfResp p = none → exec (.readResp a p) s = .next (s.settled (d.bump Fld.FAB_STAT0_NOQP)))
    ∧ (p.opc.toNat = pkAtomicResp → d.opOfResp p = none → exec (.atomicResp a p) s = .next (s.settled (d.bump Fld.FAB_STAT0_NOQP)))
    ∧ (∀ o d1 mark, d.opOfResp p = some o → d.Passes a p d1 mark →
      let o' : Op := { o with resp := o.resp + 1 }
      (p.opc.toNat = pkReadResp → exec (.readResp a p) s = .next (s.settled (d1.deliverResp o p mark)))
      ∧ (∀ d2, o.space = spHall → d1.hallOk (some (d1.qTenant o.qp)) (o.laddr + p.raddr.toNat) p.payload.length = true →
        d1.hallLost.any (fun x => decide (x.1 = ownerOf p)) = false → d1.hallStoreFor (ownerOf p) mRx (o.laddr + p.raddr.toNat) p.payload = (d2, false) →
        d1.deliverResp o p mark = ((d2.setOp o').placed p mark).checkOp o.id)
      ∧ (o.space = spFill → d1.deliverResp o p mark = (((d1.fillLines o p).setOp o').placed p mark).checkOp o.id)
      ∧ (o.space = spCellar → d1.deliverResp o p mark = ((d1.setOp o').placed p mark).checkOp o.id)
      ∧ (∀ d2, o.space = spVa → d1.vaWrite none (d1.qTenant o.qp) (o.laddr + p.raddr.toNat) p.payload = .ok () d2 →
        d1.deliverResp o p mark = ((d2.setOp o').placed p mark).checkOp o.id)
      ∧ (p.opc.toNat = pkAtomicResp → (o.cmd.bind fun c => d1.cmd c.1 c.2) = none →
        exec (.atomicResp a p) s = .next (s.settled (((d1.setOp o').placed p mark).checkOp o.id)))
      ∧ (∀ k, p.opc.toNat = pkAtomicResp → (o.cmd.bind fun c => d1.cmd c.1 c.2) = some k → opOf k.entry = opRmOp → o.kind = .atomic →
        exec (.atomicResp a p) s = .next (s.settled
          ((((d1.setOp o').setCmd { k with res := halves (ofBytes (p.payload.take 8)) }).placed p mark).checkOp o.id)))))
  ∧ (∀ (s : State) (a : Arrival) (p : Packet) (d : Dev), s.dev.alive = true → (s.dev.arrive a p).checkPkt p = .pass d →
    let q := p.dstQp.toNat
    let n := p.srcNode.toNat
    let x := d.qpt q n
    (d.mapOk p.mapVer.toNat = false →
      (p.opc.toNat = pkAck → exec (.ack a p) s = .next (s.settled (d.bump Fld.RMA_STAT1_MAP_STALE)))
      ∧ (p.opc.toNat = pkNak → exec (.nak a p) s = .next (s.settled (d.bump Fld.RMA_STAT1_MAP_STALE))))
    ∧ (d.mapOk p.mapVer.toNat = true → p.opc.toNat = pkAck → (x.out.any fun o => o.sent && ackCovers p o.pkt.psn.toNat) = false →
        exec (.ack a p) s = .next (s.settled d))
    ∧ (d.mapOk p.mapVer.toNat = true → d.ops = [] → d.watches = [] →
      (p.opc.toNat = pkAck → (x.out.any fun o => o.sent && ackCovers p o.pkt.psn.toNat) = true →
        ∃ t : State, exec (.ack a p) s = .next t ∧ (t.dev.qpt q n).out = x.out.filter (fun o => !(o.sent && ackCovers p o.pkt.psn.toNat))
          ∧ (t.dev.qpt q n).tmo = 0 ∧ (t.dev.qpt q n).marked = x.marked + p.stat.toNat ∧ (t.dev.qpt q n).rpsn = x.rpsn
          ∧ t.dev.regs = d.regs ∧ t.dev.dram = d.dram ∧ t.dev.hall = d.hall)
      ∧ (∀ o, p.opc.toNat = pkNak → x.out.find? (fun o => o.sent && o.pkt.psn == p.psn) = some o →
        (nakStatus p ≠ stCrcFault → nakStatus p ≠ stStaleEpoch →
          ∃ t : State, exec (.nak a p) s = .next t ∧ (t.dev.qpt q n).out = x.out.filter (fun y => y.pkt.psn != p.psn) ∧ t.dev.regs = d.regs ∧ t.dev.dram = d.dram)
        ∧ (nakStatus p = stCrcFault →
          let o' := { o with crc := o.crc + 1 }
          exec (.nak a p) s = .next (s.settled
            ((d.setQpt { x with out := x.out.map fun (y : OutPkt) => if y.pkt.psn = o.pkt.psn then o' else y }).resend q n o'))))))

/-- R257, R259, R260, R300, R301, R302, R304, R309: The queue pair operations. Each is accepted in the state that R260 gives it, and sets `RESULT` 0; a `WRITE`, `ENABLE`, `DRAIN`
or `RESET` of a pair in another state, or of a reserved pair, changes nothing but `RESULT`, which is 1. The writes of the traffic unit. A shaper's write takes its rate and burst
and empties its bucket; a meter's takes its fields and fills both buckets; a class change moves a pair to the flow of its new class. -/
def Obligations.QueuePairsAndTraffic : Prop :=
  (∀ (s : State) (qp : BitVec 16), s.dev.alive = true → s.dev.open' = true →
    let d := s.dev
    let q := qp.toNat
    let ok (e : Dev) : State := s.withDev (e.put Fld.FAB_QP_OP_RESULT 0)
    exec (.fabQpRead qp) s = .next (ok ((List.range 16).foldl (fun (d : Dev) k => d.put Fld.FAB_QP_STAGE_WORD (d.contextWord q k) k) d))
    ∧ (64 ≤ q →
      (d.qState q = qsReset → exec (.fabQpWrite qp) s = .next (ok
        (((List.range 16).foldl (fun (d : Dev) k => d.dramPutN 8 (d.qpAddr q + 8 * k) (d.get Fld.FAB_QP_STAGE_WORD k)) d).qput q 0 63 61 qsInit)))
      ∧ (d.qState q = qsInit → exec (.fabQpEnable qp) s = .next (ok (d.enableQp q)))
      ∧ (d.qState q = qsActive → exec (.fabQpDrain qp) s = .next (ok ((d.qput q 0 63 61 qsDraining).drainCheck q)))
      ∧ (d.qState q = qsError ∨ d.qState q = qsInit → exec (.fabQpReset qp) s = .next (ok (d.qput q 0 63 61 qsReset))))
    ∧ (∀ i, (i = .fabQpWrite qp ∧ d.qState q ≠ qsReset) ∨ (i = .fabQpEnable qp ∧ d.qState q ≠ qsInit) ∨ (i = .fabQpDrain qp ∧ d.qState q ≠ qsActive)
          ∨ (i = .fabQpReset qp ∧ d.qState q ≠ qsError ∧ d.qState q ≠ qsInit) ∨ (q < 64 ∧ i ∈ [.fabQpWrite qp, .fabQpEnable qp, .fabQpDrain qp, .fabQpReset qp]) →
        exec i s = .next (s.withDev (d.put Fld.FAB_QP_OP_RESULT 1))))
  ∧ (∀ (s : State) (n : BitVec 8) (v : Word), s.dev.alive = true → s.dev.open' = true →
    let d := s.dev
    let k := n.toNat
    (∃ t : State, exec (.trfShapeWrite n v) s = .next t ∧ t.dev.get Fld.TRF_SHAPE_RATE k = bits v.toNat 63 40 ∧ t.dev.get Fld.TRF_SHAPE_BURST k = bits v.toNat 39 24
        ∧ sget Bucket.empty k t.dev.shapers = ⟨0, 0, d.ns / 10⟩ ∧ Dev.sameRegsBut [Fld.TRF_SHAPE_RATE.off k 0] d t.dev
        ∧ t = s.withDev { d with regs := t.dev.regs, shapers := t.dev.shapers })
    ∧ (∃ t : State, exec (.trfMeterWrite n false v) s = .next t ∧ t.dev.get Fld.TRF_METER0_CIR k = bits v.toNat 63 40 ∧ t.dev.get Fld.TRF_METER0_PIR k = bits v.toNat 39 16
        ∧ sget (Bucket.empty, Bucket.empty) k t.dev.meters
          = (⟨d.get Fld.TRF_METER1_CBS k * 1024, 0, d.ns / 10⟩, ⟨d.get Fld.TRF_METER1_PBS k * 1024, 0, d.ns / 10⟩)
        ∧ Dev.sameRegsBut [Fld.TRF_METER0_CIR.off k 0] d t.dev ∧ t = s.withDev { d with regs := t.dev.regs, meters := t.dev.meters })
    ∧ (∃ t : State, exec (.trfMeterWrite n true v) s = .next t ∧ t.dev.get Fld.TRF_METER1_CBS k = bits v.toNat 63 48 ∧ t.dev.get Fld.TRF_METER1_PBS k = bits v.toNat 47 32
        ∧ sget (Bucket.empty, Bucket.empty) k t.dev.meters = (⟨bits v.toNat 63 48 * 1024, 0, d.ns / 10⟩, ⟨bits v.toNat 47 32 * 1024, 0, d.ns / 10⟩)
        ∧ Dev.sameRegsBut [Fld.TRF_METER1_CBS.off k 0] d t.dev)
    ∧ (64 ≤ bits v.toNat 15 0 → bits v.toNat 49 48 = 1 ∨ bits v.toNat 49 48 = 2 →
        exec (.trfQpClass v) s = .next (s.withDev (d.reclass (bits v.toNat 15 0) (bits v.toNat 49 48 == 1)))))

/-! ## Remote memory (chapter 11) -/

/-- R272, R273, R276: windows. A well-formed `WIN_OPEN` of hall space opens a FREE window under a new key and completes `OK`; one of virtual space does so once every leaf is
resolved and pinned, the fetches of what lies in lower tiers begun first; one that is malformed, or finds no FREE window, completes `ABORTED`. `WIN_REVOKE` of an own window
makes it REVOKING, and once nothing is in flight it is FREE, its pins are gone and the revocation completes `OK`. -/
def Obligations.Windows : Prop :=
  ∀ (s : State) (c : CmdId) (k : RunCmd), s.dev.alive = true →
    let d := s.dev
    let e := k.entry
    (∀ got w, d.act c opWinOpen = some k → d.winFor (u16 e 16) = some w → winOk (u8 e 18) (u8 e 19) (u64 e 24) (u64 e 32) = true →
      let ls := d.leavesOf k.tenant (granSpan (u64 e 24) (u64 e 32)).1 (granSpan (u64 e 24) (u64 e 32)).2
      let cells := d.leafCells ls
      (u8 e 18 = 0 → exec (.winOpen c got) s = .next (s.settled (d.openWin k w)))
      ∧ (u8 e 18 = 1 → d.allLeaves k.tenant (granSpan (u64 e 24) (u64 e 32)).1 (granSpan (u64 e 24) (u64 e 32)).2 = true →
        (k.stage = 0 → cells.any (fun c => (d.cellar c).state == clHeld) = true →
          exec (.winOpen c got) s = .next (s.settled ((cells.foldl Dev.beginFetch d).setCmd { k with stage := 1 })))
        ∧ (k.stage ≠ 0 ∨ cells.any (fun c => (d.cellar c).state == clHeld) = false →
          (∀ d' rest, Dev.resolveLeaves k.tenant ls got d = .ok d' rest →
            exec (.winOpen c got) s = .next (s.settled
              ((((d'.leavesOf k.tenant (granSpan (u64 e 24) (u64 e 32)).1 (granSpan (u64 e 24) (u64 e 32)).2).map (·.2.addr)).foldl (Dev.pinLeaf w) d').openWin k w)))
          ∧ (∀ d', Dev.resolveLeaves k.tenant ls got d = .quota d' →
            exec (.winOpen c got) s = .next (s.settled ((cells.foldl Dev.giveUp d').endCmd k d.pair.next stQuotaBlocked [])))
          ∧ (∀ d', Dev.resolveLeaves k.tenant ls got d = .abort d' →
            exec (.winOpen c got) s = .next (s.settled ((cells.foldl Dev.giveUp d').endCmd k d.pair.next stAborted [])))
          ∧ (Dev.resolveLeaves k.tenant ls got d = .wait → exec (.winOpen c got) s = .next (s.settled d)))))
    ∧ (∀ got, d.act c opWinOpen = some k → d.winFor (u16 e 16) = none ∨ winOk (u8 e 18) (u8 e 19) (u64 e 24) (u64 e 32) = false →
      exec (.winOpen c got) s = .next (s.settled (d.endCmd k d.pair.next stAborted [])))
    ∧ (d.act c opWinRevoke = some k → k.begun = false →
      let w := u16 e 16
      (w < d.winCount → (d.win w).state ≠ wsFree → (d.win w).tenant = k.tenant →
        exec (.winRevoke c) s = .next (s.settled
          (({ (d.setWin w { d.win w with state := wsRevoking }) with revokes := d.revokes ++ [(k.ring, k.index, w)] } : Dev).setCmd { k with stage := 1 })))
      ∧ (d.winCount ≤ w ∨ (d.win w).state = wsFree ∨ (d.win w).tenant ≠ k.tenant →
        exec (.winRevoke c) s = .next (s.settled (d.endCmd k d.pair.next stAborted []))))
    ∧ (∀ w : BitVec 16, w.toNat < d.winCount → (d.win w.toNat).state = wsRevoking → sget 0 w.toNat d.flights = 0 →
      let d1 := (d.setWin w.toNat { d.win w.toNat with state := wsFree }).unpin w.toNat
      (d.revokes = [] → exec (.winRevokeComplete w) s = .next (s.settled ({ d1 with revokes := [] } : Dev)))
      ∧ (d.revokes = [(k.ring, k.index, w.toNat)] → d1.cmd k.ring k.index = some k →
          exec (.winRevokeComplete w) s = .next (s.settled (({ d1 with revokes := [] } : Dev).endCmd k d1.pair.next stOK []))))

/-- R254, R259, R261, R277, R280, R281, R283, R287, R292: the remote memory operations of a command that has not sent yet, on a pair it may use and with fields in range. Each
issues its packets on its pair. -/
def Obligations.RemoteOpsIssue : Prop :=
  ∀ (s : State) (c : CmdId) (k : RunCmd), s.dev.alive = true →
    let d := s.dev
    let e := k.entry
    k.note ≠ rmSent → k.status = stOK → k.stage ≠ stageBitmap →
    let hdr (opc flags : Nat) : Packet := { pktBlank with opc := BitVec.ofNat 6 opc, flags := BitVec.ofNat 6 flags, raddr := BitVec.ofNat 64 (u64 e 32),
                                                          window := BitVec.ofNat 16 (u16 e 22) }
    (d.rmCheck k true = stOK →
      (∀ bs d0, d.rmAct c 1 = some k → rmKind e = 1 → rmLenOk (rmLen e) = true → d.LocalBytes k bs d0 →
        (∀ body d1, d0.egress (rmQp e) bs = some (body, d1) → exec (.rmOpWrite c) s = .next (s.settled (d0.orWait k (d1.rmSend k .write (fun _ => 0) (fun _ => 0)
          (if body.isEmpty then [] else [splitPayload pkWrite (u64 e 32) (rmFlags e) (u32 e 24) (u16 e 22) allBytes body])))))
        ∧ (d0.egress (rmQp e) bs = none → exec (.rmOpWrite c) s = .next (s.settled (d0.endCmd k d0.pair.next stAborted []))))
      ∧ (∀ d0, d.rmAct c 2 = some k → rmLenOk (rmLen e) = true → 8 ≤ rmLen e →
        (rmVirt e = true ∧ (∃ bs, d.canWrite k.tenant (u64 e 40) (rmLen e) = .ok bs d0))
          ∨ (rmVirt e = false ∧ d.hallOk (some k.tenant) (u64 e 40) (rmLen e) = true ∧ d0 = d) →
        exec (.rmOpRead c) s = .next (s.settled
          (d0.rmIssue k .read (fun p => ceilDiv p.aux.toNat 4096) (fun p => u64 e 40 + (p.raddr.toNat - u64 e 32)) (readReqs e))))
      ∧ (d.rmAct c 3 = some k → u8 e 19 < 3 → exec (.rmOpAtomic c) s = .next (s.settled (d.rmIssue k .atomic (fun _ => 1) (fun _ => 0)
        [[{ hdr pkAtomic (rmFlags e + pfLast) with key := BitVec.ofNat 32 (u32 e 24), aux := BitVec.ofNat 32 (u8 e 19), len := 16,
                                                   payload := toBytes 8 (u64 e 48) ++ toBytes 8 (u64 e 56) }]])))
      ∧ (∀ bs d0, d.rmAct c 4 = some k → u8 e 19 < 4 → rmLenOk (rmLen e) = true → d.LocalBytes k bs d0 →
        let ps := splitPayload pkReduce (u64 e 32) (rmFlags e) (u32 e 24) (u16 e 22) (u8 e 19) bs
        exec (.rmOpReduce c) s = .next (s.settled (d0.rmIssue k .reduce (fun _ => ps.length) (fun _ => 0) (if bs.isEmpty then [] else [ps]))))
      ∧ (d.rmAct c 6 = some k → rmLen e = wholeWindow ∨ rmLenOk (rmLen e) = true → exec (.rmOpInval c) s = .next (s.settled
        (d.rmIssue k .inval (fun _ => 0) (fun _ => 0) [[{ hdr pkInval pfLast with aux := BitVec.ofNat 32 (rmLen e) }]]))))
    ∧ (∀ bs d0, d.rmAct c 5 = some k → rmLenOk (rmLen e) = true → u16 e 48 < 1024 → d.grpTenant (u16 e 48) = k.tenant → d.grpCount (u16 e 48) ≠ 0 →
        d.LocalBytes k bs d0 →
        (∀ d1, d0.mcastSend k (u16 e 48) (u64 e 32) (rmFence e) bs = some d1 → exec (.rmOpMcast c) s = .next (s.settled (d1.afterOps k.ring k.index)))
        ∧ (d0.mcastSend k (u16 e 48) (u64 e 32) (rmFence e) bs = none → exec (.rmOpMcast c) s = .next (s.settled (d0.creditWait (some (k.ring, k.index))))))

/-- R282, R284, R285, R286, R288, R292, R289, R290, R291: The `RM_CTL` commands. An import entry or a group is replaced by its image once its checks pass; a cleared entry is all
zeros; a `DROP` drops the tenant's lines; a `FLUSH` waits for the stores of its tenant, and ends `OK` when there are none; an idle gateway buffer is sent. The composition map
switches at the catch of its stroke: `VER`, `PREV` and the end of the drain window are set, `PEND` is cleared and the banks change places; before that stroke, and while no event fires, nothing happens but
the traffic unit's work at a catch that had waited for them. When the window ends, every changed pair is bound again. -/
def Obligations.RemoteControlAndMaps : Prop :=
  (∀ (s : State) (c : CmdId) (k : RunCmd), s.dev.alive = true →
    let d := s.dev
    let e := k.entry
    let x := u16 e 18
    k.status = stOK →
    (∀ bs d1 d2, d.ctlAct c 1 = some k → ctlSub e = 1 → x < 4096 → (d.imp x).valid = false ∨ (d.imp x).tenant = k.tenant →
        d.vaRead (some (k.ring, k.index)) k.tenant (u64 e 24) 32 = .ok bs d1 →
        let w0 := setBits (imgWord bs 0) 55 48 k.tenant
        d1.importOk k.tenant x (impOf w0 (imgWord bs 1) (imgWord bs 2) (imgWord bs 3)) = true → d1.setImport x (toBytes 8 w0 ++ bs.drop 8) = some d2 →
        exec (.importSet c) s = .next (s.settled (d2.endCmd k d2.pair.next stOK [])))
    ∧ (∀ d2, d.ctlAct c 2 = some k → x < 4096 → (d.imp x).valid = false ∨ (d.imp x).tenant = k.tenant → d.setImport x (zeros 32) = some d2 →
        exec (.importClear c) s = .next (s.settled (d2.endCmd k d2.pair.next stOK [])))
    ∧ (∀ bs d1, d.ctlAct c 3 = some k → x < 1024 → d.vaRead (some (k.ring, k.index)) k.tenant (u64 e 24) 512 = .ok bs d1 → bits (imgWord bs 0) 5 0 ≠ 0 →
        (d1.grpCount x = 0 ∨ d1.grpTenant x = k.tenant) →
        (∀ i < bits (imgWord bs 0) 5 0, qReserved (bits (imgWord bs (i + 1)) 63 48) = false ∧ d1.qTenant (bits (imgWord bs (i + 1)) 63 48) = k.tenant) →
        exec (.groupSet c) s = .next (s.settled ((d1.dramPut (d1.get Fld.RMA_MC_CFG_GRAN * granBytes + 512 * x)
          (toBytes 8 (setBits (imgWord bs 0) 15 8 k.tenant) ++ bs.drop 8)).endCmd k d1.pair.next stOK [])))
    ∧ (d.ctlAct c 4 = some k → d.gw = [] → exec (.rmCtlFlush c) s = .next (s.settled
        (((d.creditGot (some (k.ring, k.index))).setAt { k with phase := .acks, note := rmSent, pos := stOK, strokes := 0, lostT := 0 }).settleFlushes)))
    ∧ (d.ctlAct c 5 = some k → qReserved (u16 e 20) = false → d.qTenant (u16 e 20) = k.tenant → exec (.drop c) s = .next (s.settled
        ((d.dropRange (d.qRnode (u16 e 20)) (u16 e 22) (u64 e 32) (u64 e 40) (· == k.tenant)).endCmd k d.pair.next stOK [])))
    ∧ (∀ (tenant : BitVec 8) (block : BitVec 40) (t : BitVec 64) (g : GwBuf),
        let d := d.advanceTo t.toNat
        d.gw = [g] → g.tenant = tenant.toNat → g.block = block.toNat → g.stored + 3000 * atLeast1 (d.get Fld.RMA_GW_CFG_IDLE) ≤ d.clk.now →
        exec (.gatewayIdleFlush tenant block t) s = .next (s.settled (d.flushGw g))))
  ∧ (∀ (s : State), s.dev.alive = true →
    let d := s.dev
    (d.firing = true → d.flag Fld.RMA_MAP_NEXT_PEND = true → 0 ≤ modDiff 32 d.stroke32 (d.get Fld.RMA_MAP_NEXT_STROKE) → d.mapPairs = [] → d.watches = [] →
      ∃ t : State, exec .mapSwitch s = .next t ∧ t.dev.get Fld.RMA_MAP_CUR_VER = d.get Fld.RMA_MAP_NEXT_VER ∧ t.dev.get Fld.RMA_MAP_CUR_PREV = d.get Fld.RMA_MAP_CUR_VER
        ∧ t.dev.flag Fld.RMA_MAP_NEXT_PEND = false ∧ t.dev.mapBank = 1 - d.mapBank
        ∧ t.dev.drainTo = some ((d.get Fld.RMA_MAP_NEXT_STROKE + d.get Fld.RMA_MAP_NEXT_DRAIN) % 2 ^ 32) ∧ t.dev.dram = d.dram
        ∧ Dev.sameRegsBut [Reg.RMA_MAP_CUR.base, Reg.RMA_MAP_NEXT.base] d t.dev)
    ∧ (d.firing = false ∨ d.flag Fld.RMA_MAP_NEXT_PEND = false ∨ modDiff 32 d.stroke32 (d.get Fld.RMA_MAP_NEXT_STROKE) < 0 →
        exec .mapSwitch s = .next (s.settled d.trafficCatch))
    ∧ (∀ stop, d.firing = true → d.drainTo = some stop → 0 ≤ modDiff 32 d.stroke32 stop →
        exec .drainWindowEnd s = .next (s.settled ((d.changed.foldl Dev.rebind { d with drainTo := none, changed := [] }).trafficCatch)))
    ∧ (d.firing = false ∨ d.drainTo = none → exec .drainWindowEnd s = .next (s.settled d.trafficCatch)))

/-! ## Stroke and time (chapter 13) -/

/-- R312, R314, R315, R317: the tracker in LOCKED. A good catch of the next number within `WIN` of the held period begins that stroke at the edge and moves the period by an eighth
of the difference; with no catch by P + `WIN` one is inserted P after the last, and the tracker runs free. The ending stroke has no event left to fire. -/
def Obligations.LockedTracker : Prop :=
  ∀ (s : State) (edge idle : BitVec 64) (line : BitVec 200) (t : BitVec 64), s.dev.alive = true → s.dev.watches = [] → s.dev.adm ≠ admLoading →
    (let d := s.dev.advanceTo (edge.toNat + 800)
     let p := d.clk.period
     let at3 := edgeAt edge.toNat
     let i := (at3 - d.clk.catchAt) / 3
     let frame := frameOf line.toNat
     idleNs ≤ idle.toNat → markOk line.toNat = true → cellsOk line.toNat = true →
     d.tracking = true → d.clk.halted = none → d.clk.state = .locked → d.clk.catchAt ≤ at3 → d.unfired = [] →
     bits frame 95 80 = frameCrc frame → bits frame 63 0 = (d.clk.number + 1) % 2 ^ 64 → minInterval ≤ i → i ≤ maxInterval →
     p ≤ i + d.winNs → i ≤ p + d.winNs →
     ∃ t' : State, exec (.strokeCatch edge idle line) s = .next t' ∧ t'.dev.clk.number = bits frame 63 0 ∧ t'.dev.clk.catchAt = at3
       ∧ t'.dev.clk.period = ((p : Int) + ((i : Int) - (p : Int)) / 8).toNat ∧ t'.dev.clk.latched = t'.dev.clk.period ∧ t'.dev.clk.state = .locked
       ∧ t'.dev.clk.lost = d.clk.lost ∧ t'.dev.clk.cnt = d.clk.cnt ∧ t'.dev.regs = d.regs ∧ t'.dev.dram = d.dram ∧ t'.dev.hall = d.hall)
    ∧ (let d := s.dev.advanceTo (edge.toNat + 800)
       idle.toNat < idleNs → exec (.strokeCatch edge idle line) s = .next (s.settled d))
    ∧ (let d := s.dev.advanceTo t.toNat
       d.clk.halted = none → d.clk.state = .locked → d.clk.catchAt + 3 * (d.clk.period + d.winNs) ≤ d.clk.now → d.unfired = [] →
       d.clk.inserted < d.get Fld.TIM_CFG_FREE_MAX →
       ∃ t' : State, exec (.catchInsert t) s = .next t' ∧ t'.dev.clk.number = (d.clk.number + 1) % 2 ^ 64 ∧ t'.dev.clk.catchAt = d.clk.catchAt + 3 * d.clk.period
         ∧ t'.dev.clk.period = d.clk.period ∧ t'.dev.clk.state = .freerun ∧ t'.dev.clk.inserted = d.clk.inserted + 1 ∧ t'.dev.clk.lost = d.clk.lost
         ∧ t'.dev.get Fld.TIM_ERR_MISSED = min Fld.TIM_ERR_MISSED.max (d.get Fld.TIM_ERR_MISSED + 1) ∧ Dev.sameRegsBut [Reg.TIM_ERR.base] d t'.dev
         ∧ t'.dev.dram = d.dram ∧ t'.dev.hall = d.hall)

/-- R313, R320, R321, R322, R438: no lock in time loses the stroke and begins stroke 0; `EN` written 0 halts the tracker and written 1 starts it again. An edge in holdover, or off
by more than `STEP_TH`, steps the counter to the second; any other moves the frequency and slews; a second edge within half a second only counts; holdover begins without an edge.
-/
def Obligations.TimeCounter : Prop :=
  ∀ (s : State) (t : BitVec 64), s.dev.alive = true →
    let d := s.dev.advanceTo t.toNat
    (d.tracking = true → d.clk.halted = none → d.clk.state = .acquire →
      d.clk.entered + (d.get Fld.TIM_CFG_FREE_MAX + 1) * d.get Fld.TIM_CFG_SELF_PERIOD ≤ d.ns → s.dev.watches = [] →
      ∃ t' : State, exec (.acquireTimeout t) s = .next t' ∧ t'.dev.clk.state = .lost ∧ t'.dev.clk.lost = true ∧ t'.dev.clk.number = 0
        ∧ t'.dev.clk.period = d.get Fld.TIM_CFG_SELF_PERIOD ∧ t'.dev.dram = d.dram)
    ∧ (∀ v : Word, s.dev.get Fld.GLB_BOOT_PHASE = 5 →
        let e := s.dev.writeReg false Reg.TIM_CFG Reg.TIM_CFG.base maskAll v.toNat
        (s.dev.flag Fld.TIM_CFG_EN = true → e.flag Fld.TIM_CFG_EN = false →
          exec (.timCfgWrite v) s = .next (s.withDev { e with clk := { e.clk with halted := some e.angle, lost := true } }))
        ∧ (s.dev.flag Fld.TIM_CFG_EN = false → e.flag Fld.TIM_CFG_EN = true → exec (.timCfgWrite v) s = .next (s.withDev e.acquire))
        ∧ (s.dev.flag Fld.TIM_CFG_EN = e.flag Fld.TIM_CFG_EN → exec (.timCfgWrite v) s = .next (s.withDev e)))
    ∧ ((∀ a, d.clk.lastPps = some a → a + 500000000 ≤ d.ns) → d.flag Fld.TIM_TAI_PEND = false →
      let e := ppsOffset d.clk.cnt
      (d.clk.ppsHold = false → e.natAbs ≤ d.get Fld.TIM_PPS_CFG_STEP_TH →
        ∃ t' : State, exec (.ppsEdge t) s = .next t' ∧ t'.dev.clk.cnt = d.clk.cnt ∧ ofField 32 (t'.dev.get Fld.TIM_PPS_STAT_OFFSET) = e
          ∧ ofField 32 (t'.dev.get Fld.TIM_PPS_STAT_FREQ) = max (-100000) (min 100000 (ofField 32 (d.get Fld.TIM_PPS_STAT_FREQ) + (-e) / 16))
          ∧ t'.dev.clk.slew = max (-(d.get Fld.TIM_PPS_CFG_SLEW_MAX : Int)) (min (d.get Fld.TIM_PPS_CFG_SLEW_MAX : Int) (-e)) ∧ t'.dev.clk.lastPps = some d.ns
          ∧ Dev.sameRegsBut [Reg.TIM_PPS_STAT.base] d t'.dev)
      ∧ (d.clk.ppsHold = true ∨ d.get Fld.TIM_PPS_CFG_STEP_TH < e.natAbs →
        ∃ t' : State, exec (.ppsEdge t) s = .next t' ∧ t'.dev.clk.cnt = toField 64 ((d.clk.cnt : Int) - e) ∧ t'.dev.clk.slew = 0 ∧ t'.dev.clk.ppsHold = false
          ∧ t'.dev.flag Fld.TIM_STAT_STEPPED = true ∧ t'.dev.dram = d.dram))
    ∧ (∀ a, d.clk.lastPps = some a → d.ns < a + 500000000 → exec (.ppsEdge t) s = .next (s.withDev (d.bump Fld.TIM_ERR_PPS_GLITCH)))
    ∧ (d.clk.lastPps.getD 0 + 1100000000 ≤ d.ns → exec (.ppsHoldover t) s = .next (s.withDev { d with clk := { d.clk with ppsHold := true, slew := 0 } }))

/-- R317: a stroke begun at a catch has its period latched in `TIM_STAT.PERIOD`, and its angle is 0 there. The angle at a local time t after the catch is min(65,535, floor(t ×
65,536 / P)); while no catch comes it never decreases, and it holds at 65,535. -/
def Obligations.StrokeAngle : Prop :=
  ∀ (d : Dev), d.clk.halted = none → d.clk.state ≠ .acquire →
    (∀ number at3, let e := d.beginStroke number at3
      (d.clk.period < 2 ^ 30 → bits (e.liveWord Reg.TIM_STAT Reg.TIM_STAT.base) Fld.TIM_STAT_PERIOD.hi Fld.TIM_STAT_PERIOD.lo = d.clk.period) ∧ (d.clk.now = at3 → e.angle = 0))
    ∧ (∀ t, d.clk.now = d.clk.catchAt + 3 * t → 0 < d.clk.latched → d.angle = min 65535 (t * 65536 / d.clk.latched))
    ∧ (∀ dt, d.angle ≤ (d.advance dt).angle ∧ (d.angle = 65535 → (d.advance dt).angle = 65535))

/-! ## Pairing, admission and the logbook (chapter 14) -/

/-- R330, R331, R332: a mirror message whose turn it is is applied and acknowledged, and so is one that came before; an acknowledgement covers every message up to its number,
counts the pages skipped, and ends `SYNCING` once the initial copy is covered. Nothing waits to become visible. A message of a node that is not the one mirrored with changes
nothing; the first of a numbering that comes before the pair is formed is kept (log entry 35). On a pair that takes no message one is counted and dropped. -/
def Obligations.MirrorMessages : Prop :=
  ∀ (s : State) (src : BitVec 16), s.dev.alive = true →
    (∀ m : MirrorMsg,
      let n := m.number.toNat
      let d := (s.dev.took (.mirror m) src.toNat).heardTwin src.toNat
      (s.dev.hears 8 src.toNat = false → exec (.mirrorMessage src m) s = .next (s.settled (s.dev.bump Fld.FAB_STAT0_NOQP)))
      ∧ (s.dev.hears 8 src.toNat = true → d.takesMirror = true → src.toNat = d.mirrorNode →
        (d.pair.applied < n → exec (.mirrorMessage src m) s = .next (s.settled (d.keepAhead m).takeAhead))
        ∧ (n ≤ d.pair.applied → exec (.mirrorMessage src m) s = .next (s.settled d.takeAhead)))
      ∧ (s.dev.hears 8 src.toNat = true → d.takesMirror = false ∨ src.toNat ≠ d.mirrorNode →
        (d.keepsMirror src.toNat = false → exec (.mirrorMessage src m) s = .next (s.settled d))
        ∧ (d.keepsMirror src.toNat = true → m.number = 1 →
            exec (.mirrorMessage src m) s = .next (s.settled (({ d with pair := { d.pair with ahead := [], aheadFrom := src.toNat } } : Dev).keepAhead m)))
        ∧ (d.keepsMirror src.toNat = true → m.number ≠ 1 → src.toNat = d.pair.aheadFrom → exec (.mirrorMessage src m) s = .next (s.settled (d.keepAhead m)))
        ∧ (d.keepsMirror src.toNat = true → m.number ≠ 1 → src.toNat ≠ d.pair.aheadFrom → exec (.mirrorMessage src m) s = .next (s.settled d))))
    ∧ (∀ (number : BitVec 64) (skips : BitVec 16) (short : Bool),
      let d := (s.dev.took (.mirrorAck number.toNat skips.toNat short) src.toNat).heardTwin src.toNat
      (s.dev.hears 8 src.toNat = false → exec (.mirrorAck src number skips short) s = .next (s.settled (s.dev.bump Fld.FAB_STAT0_NOQP)))
      ∧ (s.dev.hears 8 src.toNat = true → d.sendsMirror = false ∨ src.toNat ≠ d.mirrorNode → exec (.mirrorAck src number skips short) s = .next (s.settled d))
      ∧ (s.dev.hears 8 src.toNat = true → d.sendsMirror = true → src.toNat = d.mirrorNode →
        d.held = [] → d.groups = [] → d.committed = [] → d.pair.unsent = 0 → d.pair.short = false → short = false → d.watches = [] →
        let n := min number.toNat (d.pair.next - 1)
        ∃ t : State, exec (.mirrorAck src number skips short) s = .next t ∧ t.dev.pair.acked = max d.pair.acked n
          ∧ t.dev.pair.unacked = d.pair.unacked.filter (fun m => decide (n < m.number.toNat)) ∧ t.dev.pair.next = d.pair.next ∧ t.dev.dram = d.dram ∧ t.dev.hall = d.hall
          ∧ t.dev.get Fld.PAIR_CNT_PAGE_SKIP = min Fld.PAIR_CNT_PAGE_SKIP.max (d.get Fld.PAIR_CNT_PAGE_SKIP + skips.toNat)
          ∧ (d.pairState = psSyncing → d.pair.syncTo ≤ max d.pair.acked n → t.dev.pairState = psPaired)
          ∧ (d.pairState = psSyncing → max d.pair.acked n < d.pair.syncTo → t.dev.pairState = psSyncing)))

/-- R326: the liveness of a pair. Intervals that end send heartbeats where nothing else was sent; indications that are heard read 1, and those not heard for their time read 0; the
link and the management paths are judged as they stand. -/
def Obligations.Liveness : Prop :=
  ∀ (s : State) (t : BitVec 64), s.dev.alive = true →
    let d := s.dev.advanceTo t.toNat
    (d.pair.hbAt + d.hbNs ≤ d.ns →
      (d.pairState ≠ psSolo → d.pair.sentSince = false → exec (.pairHeartbeatSend t) s = .next (s.settled
        (let e := d.ctrl (d.get Fld.PAIR_CFG_TWIN) .heartbeat; { e with pair := { e.pair with hbAt := e.ns, sentSince := false } })))
      ∧ (d.pairState = psSolo ∨ d.pair.sentSince = true → exec (.pairHeartbeatSend t) s = .next (s.settled
          { d with pair := { d.pair with hbAt := d.ns, sentSince := false } })))
    ∧ (∀ src : BitVec 16,
      let d1 := d.took .heartbeat src.toNat
      (d.hears 8 src.toNat = true → src.toNat = d1.get Fld.PAIR_CFG_TWIN → d1.pairState ≠ psSolo → d1.watches = [] →
        ∃ t' : State, exec (.heartbeatCtrlPacket src t) s = .next t' ∧ t'.dev.flag Fld.PAIR_STAT_LINK_UP = true ∧ t'.dev.pair.twinAt = d1.ns ∧ t'.dev.pair.silentAt = none
          ∧ Dev.sameRegsBut [Reg.PAIR_STAT.base] d1 t'.dev ∧ t'.dev.dram = d1.dram)
      ∧ (d.hears 8 src.toNat = true → src.toNat ≠ d1.get Fld.PAIR_CFG_TWIN ∨ d1.pairState = psSolo → exec (.heartbeatCtrlPacket src t) s = .next (s.settled d1))
      ∧ (d.hears 8 src.toNat = false → exec (.heartbeatCtrlPacket src t) s = .next (s.settled (d.bump Fld.FAB_STAT0_NOQP))))
    ∧ (d.flag Fld.PAIR_STAT_LINK_UP = true → d.pair.twinAt + atLeast1 (d.get Fld.PAIR_CFG_HB_MISS) * d.hbNs ≤ d.ns → s.dev.watches = [] →
      ∃ t' : State, exec (.linkUpTimeout t) s = .next t' ∧ t'.dev.flag Fld.PAIR_STAT_LINK_UP = false
        ∧ t'.dev.get Fld.PAIR_CNT_LINK_LOSS = min Fld.PAIR_CNT_LINK_LOSS.max (d.get Fld.PAIR_CNT_LINK_LOSS + 1)
        ∧ Dev.sameRegsBut [Reg.PAIR_STAT.base, Reg.PAIR_CNT.base] d t'.dev ∧ t'.dev.dram = d.dram)
    ∧ (d.pair.mgmtHbAt + mgmtPeriod ≤ d.ns → exec (.mgmtHeartbeatSend t) s = .next (s.settled
        (({ d with pair := { d.pair with mgmtHbAt := d.ns } } : Dev).emit .mgmtHeartbeat)))
    ∧ (d.flag Fld.PAIR_STAT_PEER_MGMT = true → d.pair.peerAt + mgmtSilence ≤ d.ns →
      exec (.peerMgmtTimeout t) s = .next (s.settled (d.put Fld.PAIR_STAT_PEER_MGMT 0).judge))
    ∧ (∀ up : Bool, exec (.mgmtLinkState up t) s = .next (s.settled
        ((({ d with pair := { d.pair with linkUp := up } } : Dev).put Fld.PAIR_STAT_MGMT_UP (if up && d.othersHeard then 1 else 0)).judge)))
    ∧ exec (.mgmtUpTimeout t) s = .next (s.settled ((d.put Fld.PAIR_STAT_MGMT_UP (if d.pair.linkUp && d.othersHeard then 1 else 0)).judge))

/-- R334, R335, R336, R339: a takeover that is due begins with the twin's epoch plus 1; a notice that the fault manager's list and the peer table bear out raises the node's epoch,
any other changes nothing; `SEQ_HOT` sets or clears the mark of a sequence's pages and answers the number of pages changed, or ends with the status of R32, or with `ABORTED` on a
stale reference. -/
def Obligations.Takeovers : Prop :=
  ∀ (s : State), s.dev.alive = true →
    (∀ (t : BitVec 64) (a : Nat),
      let d := s.dev.advanceTo t.toNat
      d.pair.silentAt = some a → d.mayTake = true → d.flag Fld.PAIR_CFG_AUTO = true → a + d.get Fld.PAIR_CFG_AUTO_MS * 1000000 ≤ d.ns →
      d.pair.fmAt + d.get Fld.PAIR_CFG_AUTO_MS * 1000000 ≤ d.ns →
      exec (.autoTakeover t) s = .next (s.settled (d.takeover ((d.peerEpoch (d.get Fld.PAIR_CFG_TWIN) + 1) % 2 ^ 32))))
    ∧ (∀ (sender node : BitVec 16) (epoch senderEpoch : BitVec 32),
      let d := s.dev.took (.notice node.toNat epoch.toNat) sender.toNat
      (s.dev.hears 8 sender.toNat = true →
        (d.epochOk sender.toNat senderEpoch.toNat = true → d.peerEpoch node.toNat < epoch.toNat →
          exec (.takeoverNotice sender node epoch senderEpoch true) s = .next (s.settled (d.peerPut node.toNat epoch.toNat true)))
        ∧ (d.epochOk sender.toNat senderEpoch.toNat = false ∨ epoch.toNat ≤ d.peerEpoch node.toNat →
          exec (.takeoverNotice sender node epoch senderEpoch true) s = .next (s.settled d))
        ∧ exec (.takeoverNotice sender node epoch senderEpoch false) s = .next (s.settled d))
      ∧ (s.dev.hears 8 sender.toNat = false → ∀ listed : Bool,
          exec (.takeoverNotice sender node epoch senderEpoch listed) s = .next (s.settled (s.dev.bump Fld.FAB_STAT0_NOQP))))
    ∧ (∀ (c : CmdId) (k : RunCmd),
      let d := s.dev
      let e := k.entry
      let i := hIndex (u32 e 16)
      let st := d.checkHandle (u32 e 16) k.tenant k.order
      let xs := (d.usedEntries i).filter (d.inLayers i (u8 e 20) (u8 e 21))
      d.act c opSeqHot = some k →
      (st ≠ stOK → exec (.seqHot c) s = .next (s.settled (d.endCmd k d.pair.next st [])))
      ∧ (st = stOK → d.rLayers i < u8 e 20 + u8 e 21 ∨ 1 < u8 e 22 → exec (.seqHot c) s = .next (s.settled (d.endCmd k d.pair.next stAborted [])))
      ∧ (∀ r, st = stOK → u8 e 20 + u8 e 21 ≤ d.rLayers i → u8 e 22 ≤ 1 → (xs.map (d.entry i)).find? d.staleRef = some r →
          exec (.seqHot c) s = .next (s.settled ((d.tagMismatch mMover r.page r.vtag).endCmd k d.pair.next stAborted [])))
      ∧ (∀ x, st = stOK → u8 e 20 + u8 e 21 ≤ d.rLayers i → u8 e 22 ≤ 1 → xs = [x] → d.staleRef (d.entry i x) = false → (d.entry i x).loc = 1 →
          let d1 := d.touch i
          let p := (d.entry i x).page
          let set := u8 e 22 == 1
          ((d1.page p).hot ≠ set → exec (.seqHot c) s = .next (s.settled ((d1.markHot p set).endCmd k d.pair.next stOK [1])))
          ∧ ((d1.page p).hot = set → exec (.seqHot c) s = .next (s.settled (d1.endCmd k d.pair.next stOK [0]))))
      ∧ (st = stOK → u8 e 20 + u8 e 21 ≤ d.rLayers i → u8 e 22 ≤ 1 → (∀ x ∈ xs, d.staleRef (d.entry i x) = false) → (∀ x ∈ xs, (d.entry i x).loc ≠ 1) →
          exec (.seqHot c) s = .next (s.settled ((d.touch i).endCmd k d.pair.next stOK [0]))))

/-- R342, R343, R344, R345: an admission goes from its test to its load, its load to READY once everything is acknowledged, and at the catch of its stroke to the handover on each
side. -/
def Obligations.Admission : Prop :=
  ∀ (s : State), s.dev.alive = true →
    let d := s.dev
    (d.adm = admTesting →
      exec (.spareTestDone false) s = .next (s.settled (d.setAdm admFailed).logAdm)
      ∧ (d.flag Fld.PAIR_ADMIT_LOADER = true → exec (.spareTestDone true) s = .next (s.settled d.startLoad))
      ∧ (d.flag Fld.PAIR_ADMIT_LOADER = false → exec (.spareTestDone true) s
          = .next (s.settled (({ d with pair := { d.pair.renumber with returned := [] } } : Dev).setAdm admLoading))))
    ∧ (∀ (src : BitVec 16) (ph : BitVec 32) (i : BitVec 15) (ws hs : List Word) (pages : List XferPage) (rows : List Byte),
        let d1 := d.took (.load ph.toNat i.toNat ws hs pages rows) src.toNat
        (d.hears 12 src.toNat = true → d1.spare = true → d1.adm = admLoading →
          exec (.admissionRecordLoad src ph i ws hs pages rows) s = .next (s.settled (d1.placeReturned ph.toNat i.toNat ws hs pages rows)))
        ∧ (d.hears 12 src.toNat = true → d1.spare = false ∨ d1.adm ≠ admLoading →
          exec (.admissionRecordLoad src ph i ws hs pages rows) s = .next (s.settled d1))
        ∧ (d.hears 12 src.toNat = false → exec (.admissionRecordLoad src ph i ws hs pages rows) s = .next (s.settled (d.bump Fld.FAB_STAT0_NOQP))))
    ∧ (d.adm = admLoading → d.flag Fld.PAIR_ADMIT_LOADER = false ∨ (d.pair.syncTo ≤ d.pair.acked ∧ d.pair.short = false) →
        exec .admissionLoadDone s = .next (s.settled (d.setAdm admReady)))
    ∧ (d.adm = admReady → d.handing = true →
      (d.flag Fld.PAIR_ADMIT_LOADER = false → exec .admissionHandover s = .next (s.settled d.takeOver.trafficCatch))
      ∧ (d.flag Fld.PAIR_ADMIT_LOADER = true → d.cmds = [] → exec .admissionHandover s = .next (s.settled d.handOver.trafficCatch)))
    ∧ (d.adm ≠ admLoading → d.handing = false → exec .admissionHandover s = .next (s.settled d))

/-- R348, R349, R351: a record of the logbook written: the oldest event stands as 32 bytes at the place of `NEXT`, `NEXT` has advanced modulo 2^32, the event has left the FIFO,
vector `MSIX` of the PF is raised exactly when `IRQ` is 1 (on a device that has the host itself), and no other byte of the hall, no register, no byte of DRAM and no command has changed. -/
def Obligations.LogRecord : Prop :=
  ∀ (s : State) (e : LogEv) (rest : List LogEv), s.calm →
    let d := s.dev
    let a := d.log.base + 32 * (d.log.next % 8192)
    d.log.fifo = e :: rest →
    (d.cox.proxyNodes = [] →
      ∃ t : State, exec .logRecordWrite s = .next t ∧ t.dev.out = d.out ++ (if d.flag Fld.LOG_CFG_IRQ then [.msix 0 (d.get Fld.LOG_CFG_MSIX)] else []))
    ∧ (d.log.first = none → d.hallOk none a 32 = true → a % 8 = 0 → d.badPart a 32 = [] →
      ∃ t : State, exec .logRecordWrite s = .next t ∧ t.dev.hall.readBytes a 32 = logBytes d.log.next e ∧ Mem.sameBut a 32 d.hall t.dev.hall
        ∧ t.dev.log.fifo = rest ∧ t.dev.log.next = (d.log.next + 1) % 2 ^ 32 ∧ t.dev.regs = d.regs ∧ t.dev.dram = d.dram ∧ t.dev.cmds = d.cmds)

/-- R346, R347, R360, R362, R363: A failed DRAM stack that holds a system region stops every ring and is reported; one that holds no page of a sequence is taken out of use. Both
are logged. Scrubs. A drained boat whose cores are idle begins its scrub; one that ends well leaves the boat's storage zero; a way's leaves its bytes zero. Neither touches any
other byte. -/
def Obligations.StackFailureAndScrubs : Prop :=
  (∀ (s : State) (stack : BitVec 3) (copies : List (BitVec 15 × XferPage)), s.dev.alive = true →
    let st := stack.toNat
    let d := s.dev.logEv evUnitFailed mCox (2 * 256 + st)
    ((d.pinnedRegions ++ d.ringRegions).any (inStack st) = true → exec (.dramStackFailure stack copies) s = .next (s.settled
      (((d.liveRings.filter fun r => d.ringState r == rsRun || d.ringState r == rsWait).foldl Dev.ringStop d).emit (.mgmtReport 2))))
    ∧ ((d.pinnedRegions ++ d.ringRegions).any (inStack st) = false → d.listedPages = [] → d.ownRecs = [] → exec (.dramStackFailure stack copies) s = .next (s.settled
      (({ d with runs := d.runs ++ [(⟨st * stackGrans, stackGrans, none, .table⟩ : Run)] } : Dev).writeTko []))))
  ∧ (∀ (s : State) (boat : BitVec 6), s.dev.alive = true →
    let d := s.dev
    let b := boat.toNat
    ((d.scrubs.any fun x => x.boat == b && x.drain) = true → d.boatIdle b = true → exec (.boatDrained boat) s = .next (s.settled (d.beginScrub b)))
    ∧ (∀ x : BoatScrub, d.scrubs = [x] → x.boat = b → x.drain = false → d.watches = [] → (∀ k < 64, d.partState k ≠ ptReleasing) →
      ∃ t : State, exec (.boatScrubDone boat false) s = .next t ∧ t.dev.scrubs = [] ∧ t.dev.dram = d.dram ∧ t.dev.hall = d.hall
        ∧ (∀ a, a < 8 * slotBytes → t.dev.coreMem.read (8 * b * slotBytes + a) = 0) ∧ Mem.sameBut (8 * b * slotBytes) (8 * slotBytes) d.coreMem t.dev.coreMem
        ∧ (∀ a, a < 4194304 → t.dev.boatBuf.read (4194304 * b + a) = 0) ∧ Mem.sameBut (4194304 * b) 4194304 d.boatBuf t.dev.boatBuf)
    ∧ (∀ (w k : Nat) (rest : List (Nat × Nat)), d.wayScrubs = (w, k) :: rest → d.watches = [] → (∀ k < 64, d.partState k ≠ ptReleasing) →
      ∃ t : State, exec .wayScrubDone s = .next t ∧ t.dev.wayScrubs = rest ∧ t.dev.dram = d.dram
        ∧ (∀ a, a < wayBytes → t.dev.hall.read (w * wayBytes + a) = 0) ∧ Mem.sameBut (w * wayBytes) wayBytes d.hall t.dev.hall))

/-! ## Partitions and attestation (chapter 15) -/

/-- R369, R370, R371, R373: the SPDM responder. A request that fails verification is counted and refused. One that verifies and is of version 1.2 is answered; a key exchange ends
an open session and opens another, its messages are heard, and the session ends by its request or when it is silent too long. The request codes are the model's labels (log entry
15). -/
def Obligations.SpdmAnswers : Prop :=
  ∀ (s : State) (r : SpdmReq) (t : BitVec 64), s.dev.alive = true →
    let d := s.dev
    let dt := d.advanceTo t.toNat
    (r.verifies = false →
      (∀ i code, (i, code) ∈ [(Instr.getVersion r, sqVersion), (.getCapabilities r, sqCapabilities), (.negotiateAlgorithms r, sqAlgorithms), (.getDigests r, sqDigests),
          (.getCertificate r, sqCertificate), (.challenge r, sqChallenge), (.getMeasurements r, sqMeasurements), (.endSession r, sqEndSession)] →
        exec i s = .next (s.withDev ((d.bump Fld.SEC_SPDM_REJECTS).spdmNo code)))
      ∧ (∀ i code, (i, code) ∈ [(Instr.keyExchange r t, sqKeyExchange), (.finish r t, sqFinish), (.heartbeat r t, sqHeartbeat), (.keyUpdate r t, sqKeyUpdate)] →
        exec i s = .next (s.withDev ((dt.bump Fld.SEC_SPDM_REJECTS).spdmNo code))))
    ∧ (r.verifies = true → r.version12 = true →
      exec (.getVersion r) s = .next (s.withDev (d.spdmYes sqVersion r []))
      ∧ exec (.getCapabilities r) s = .next (s.withDev (d.spdmYes sqCapabilities r []))
      ∧ exec (.negotiateAlgorithms r) s = .next (s.withDev (d.spdmYes sqAlgorithms r []))
      ∧ (r.slot = 0 →
        exec (.getDigests r) s = .next (s.withDev (d.spdmYes sqDigests r (toBytes 48 (Config.sha384 (Config.certChain s.fuse.secret)).toNat)))
        ∧ exec (.getCertificate r) s = .next (s.withDev (d.spdmYes sqCertificate r (Config.certChain s.fuse.secret)))
        ∧ exec (.challenge r) s = .next (s.withDev (d.spdmYes sqChallenge r (d.measBytes ++ Config.secSign s.fuse.secret (r.body ++ d.measBytes))))
        ∧ (dt.sec.session = false → ∃ t' : State, exec (.keyExchange r t) s = .next t' ∧ t'.dev.sec.session = true ∧ t'.dev.sec.lastMsg = dt.ns ∧ t'.dev.dram = dt.dram))
      ∧ (r.slot ≠ 0 → ∀ i code, (i, code) ∈ [(Instr.getDigests r, sqDigests), (.getCertificate r, sqCertificate), (.challenge r, sqChallenge)] →
          exec i s = .next (s.withDev (d.spdmNo code)))
      ∧ (d.sec.session = false → exec (.getMeasurements r) s = .next (s.withDev
          (d.spdmYes sqMeasurements r (d.measBytes ++ Config.secSign s.fuse.secret (r.body ++ d.measBytes)))))
      ∧ (dt.sec.session = true →
        exec (.finish r t) s = .next (s.withDev ((({ dt with sec := { dt.sec with finished := true } } : Dev).sessionHeard).spdmYes sqFinish r []))
        ∧ exec (.heartbeat r t) s = .next (s.withDev (dt.sessionHeard.spdmYes sqHeartbeat r []))
        ∧ exec (.keyUpdate r t) s = .next (s.withDev ((({ dt with sec := { dt.sec with keyGen := dt.sec.keyGen + 1 } } : Dev).sessionHeard).spdmYes sqKeyUpdate r [])))
      ∧ (d.sec.session = true → ∃ t' : State, exec (.endSession r) s = .next t' ∧ t'.dev.sec.session = false ∧ t'.dev.dram = d.dram))
    ∧ (dt.sec.session = true → dt.sec.lastMsg + 3 * Config.heartbeatNs ≤ dt.ns →
        ∃ t' : State, exec (.spdmSessionTimeout t) s = .next t' ∧ t'.dev.sec.session = false ∧ t'.dev.dram = dt.dram)

/-! ## Boot, management and the board (chapters 15, 16) -/

/-- R366, R376, R381, R384, R385, R392: the boot phases follow each other, each ended by its row: the ROM's; the firmware's, in phase 2 with the accepted slot or in phase 7 when no
slot is accepted; the DRAM's; the role image's, which is refused as a whole with its cause, or applied. The journal is programmed from what was learned. -/
def Obligations.BootPhases : Prop :=
  ∀ (s : State) (t : BitVec 64), s.dev.alive = true →
    let d := s.dev.advanceTo t.toNat
    let s1 : State := { s with dev := d.measureRole s.roleImage }
    (d.phase = bpRom → ∃ t' : State, exec (.bootRomDone t) s = .next t' ∧ t'.dev.phase = bpFw ∧ Dev.sameRegsBut [Reg.GLB_BOOT.base] d t'.dev ∧ t'.dev.dram = d.dram)
    ∧ (d.phase = bpFw → s.firmware = none → ∃ t' : State, exec (.firmwareVerify t) s = .next t' ∧ t'.dev.phase = bpFailed ∧ t'.dev.get Fld.GLB_BOOT_CAUSE = 1
        ∧ t'.dev.get Fld.SEC_BOOT_RESULT = 2 ∧ Dev.sameRegsBut [Reg.GLB_BOOT.base, Reg.SEC_BOOT.base] d t'.dev)
    ∧ (∀ slot img key, d.phase = bpFw → s.firmware = some (slot, img, key) → slot < 2 → key < 4 → ∃ t' : State, exec (.firmwareVerify t) s = .next t' ∧ t'.dev.phase = bpDram
        ∧ t'.dev.get Fld.SEC_BOOT_RESULT = 1 ∧ t'.dev.get Fld.SEC_BOOT_SLOT = slot ∧ t'.dev.get Fld.SEC_BOOT_KEY = key ∧ t'.dev.sec.meas = s.fuse.measure (some img) key
        ∧ t'.dev.kernels = d.kernelStores (Config.imageKernels img) ∧ Dev.sameRegsBut [Reg.GLB_BOOT.base, Reg.SEC_BOOT.base] d t'.dev)
    ∧ (∀ failed : BitVec 8, d.phase = bpDram → d.clk.halted = none → ∃ t' : State, exec (.dramInitDone t failed) s = .next t' ∧ t'.dev.phase = bpRole ∧ t'.dev.clk.state = .acquire
        ∧ t'.dev.clk.number = 0 ∧ t'.dev.dram = [] ∧ t'.dev.cox.drams = failed.toNat)
    ∧ (∀ cause, d.phase = bpRole → s1.roleCheck = .refused cause → cause ≤ 4 → ∃ t' : State, exec (.roleImageApply t) s = .next t' ∧ t'.dev.phase = bpUnconf
        ∧ t'.dev.get Fld.GLB_BOOT_CAUSE = cause ∧ t'.dev.dram = d.dram ∧ t'.nvm = s.nvm ∧ t'.fuse = s.fuse)
    ∧ (∀ (e : Dev) b ss, d.phase = bpRole → s1.roleCheck = .good e b ss →
        ∃ t' : State, exec (.roleImageApply t) s = .next t' ∧ t'.dev.phase = bpReady ∧ t'.dev.flag Fld.GLB_CFG_LOCK_LOCK = true ∧ t'.nvm = s.nvm ∧ t'.fuse = s.fuse)
    ∧ (∀ x m sec n, directory s.nvm = some x → d.cox.jlast = 0 ∨ d.cox.jlast + 60000000000 ≤ d.ns → d.cox.dirty ≠ [] → d.phase = bpReady → x.placed = true →
        d.flag Fld.GLB_NVM_NVM_WORN = false → x.program d.cox.dirty (s.nvm, d.get Fld.GLB_NVM_SECTOR, d.cox.jnext) = (m, sec, n, false) →
        ∃ t' : State, exec (.journalProgram t) s = .next t' ∧ t'.nvm = m ∧ t'.fuse = s.fuse ∧ t'.dev.cox.dirty = [] ∧ t'.dev.cox.jnext = n ∧ t'.dev.cox.jlast = d.ns ∧ t'.dev.dram = d.dram)

/-- R289, R320, R325, R327, R331, R333, R335, R340, R386, R387: the fault manager's instructions, from an address that Cox accepts and with a sequence number not yet answered. One
whose precondition holds has its effect and is answered `OK`; one whose precondition fails is answered `ABORTED` and changes nothing else but the logbook. -/
def Obligations.ManagerInstructions : Prop :=
  ∀ (s : State) (h : MgmtHdr), s.dev.alive = true → s.dev.accepts h = true → s.dev.answeredAs h = none →
    let d := s.dev
    let ok (e : Dev) (code : Nat) : State := s.settled (e.mgmtDone h code stOK)
    let no (code : Nat) : State := s.settled (d.mgmtDone h code stAborted)
    (∀ epoch : BitVec 32, (epoch ≠ 0 → exec (.setEpoch h epoch) s
        = .next (ok (Dev.sendWaiting (d.takeEpoch epoch.toNat).pair.unsent (d.takeEpoch epoch.toNat)) mcSetEpoch)) ∧ (epoch = 0 → exec (.setEpoch h epoch) s = .next (no mcSetEpoch)))
    ∧ (∀ (node : BitVec 16) (epoch : BitVec 32) (valid : Bool), exec (.peerSet h node epoch valid) s = .next (ok (d.peerPut node.toNat epoch.toNat valid) mcPeerSet))
    ∧ (∀ (p : PartInstr) (e : Dev), (d.part p = (e, true) → exec (.part h p) s = .next (ok e mcPart))
        ∧ (d.part p = (e, false) → exec (.part h p) s = .next (s.settled (e.mgmtDone h mcPart stAborted))))
    ∧ (∀ (ver : BitVec 16) (stroke : BitVec 32) (drain : BitVec 8) (es : List MapEntry),
        (ver.toNat = (d.get Fld.RMA_MAP_CUR_VER + 1) % 65536 → exec (.mapNext h ver stroke drain es) s = .next (ok
          (((((d.fillBank es).put Fld.RMA_MAP_NEXT_VER ver.toNat).put Fld.RMA_MAP_NEXT_STROKE stroke.toNat).put Fld.RMA_MAP_NEXT_DRAIN drain.toNat).put Fld.RMA_MAP_NEXT_PEND 1)
          mcMapNext))
        ∧ (ver.toNat ≠ (d.get Fld.RMA_MAP_CUR_VER + 1) % 65536 → exec (.mapNext h ver stroke drain es) s
            = .next (s.settled ((d.logEv evMapRefused mCox ver.toNat).mgmtDone h mcMapNext stAborted))))
    ∧ (∀ node : BitVec 16, d.pairState = psSolo → d.spare = false → exec (.pairTwin h node) s = .next (ok (d.put Fld.PAIR_CFG_TWIN node.toNat).startSync mcPair))
    ∧ (d.pairState = psPaired → exec (.detach h) s = .next (ok d.detach mcPair)) ∧ (d.pairState ≠ psPaired → exec (.detach h) s = .next (no mcPair))
    ∧ (d.pairState = psDetached → exec (.repair h) s = .next (ok d.startSync mcPair)) ∧ (d.pairState ≠ psDetached → exec (.repair h) s = .next (no mcPair))
    ∧ (∀ epoch : BitVec 32, (d.mayTake = true → exec (.takeover h epoch) s = .next (ok (d.takeover epoch.toNat) mcPair))
        ∧ (d.mayTake = false → exec (.takeover h epoch) s = .next (no mcPair)))
    ∧ (∀ (node spare loader : BitVec 16) (epoch stroke spareEpoch : BitVec 32), spareEpoch ≠ 0 →
        (d.pairState = psServing → exec (.admitSpare h true node epoch stroke spare spareEpoch loader) s
          = .next (ok (d.admitLoader epoch.toNat stroke.toNat spare.toNat spareEpoch.toNat) mcAdmit))
        ∧ (d.pairState = psSolo → exec (.admitSpare h false node epoch stroke spare spareEpoch loader) s
          = .next (ok (d.admitSpare node.toNat epoch.toNat stroke.toNat spare.toNat spareEpoch.toNat loader.toNat) mcAdmit)))
    ∧ (∀ (tenant : BitVec 8) (cls : BitVec 2), (cls ≠ 3 → exec (.mclass h tenant cls) s = .next (ok (d.setClass tenant.toNat cls.toNat) mcMclass))
        ∧ (cls = 3 → exec (.mclass h tenant cls) s = .next (no mcMclass)))
    ∧ (∀ sec : BitVec 40, exec (.taiLoad h sec) s = .next (ok (d.taiLoad sec.toNat) mcTaiLoad))
    ∧ (∀ (maps : List PlaceMap) (table : List (List Byte)) (e : Dev) (st : Nat), d.placeAll maps = (e, st) →
        exec (.place h maps table) s = .next (s.settled ((e.loadTable table).mgmtDone h mcPlace st)))

/-- R201, R366, R375, R386, R387: the instructions that reach beyond the device: fuses blown up to the running image's SVN, the boot memory written, a full reset after the answer;
a heartbeat. A message of a stranger changes nothing, and a sequence number that was answered is answered the same and not executed again. -/
def Obligations.ManagerMemory : Prop :=
  ∀ (s : State) (h : MgmtHdr), s.dev.alive = true →
    let d := s.dev
    (d.accepts h = true → d.answeredAs h = none →
      (let n := max s.fuse.svn (min 64 (d.get Fld.SEC_BOOT_SVN_IMG))
       ∃ t : State, exec (.svnFuse h) s = .next t ∧ t.fuse = { s.fuse with svn := n } ∧ t.nvm = s.nvm ∧ t.dev = ((d.put Fld.SEC_BOOT_SVN_FUSE n).mgmtDone h mcSvnFuse stOK).settle)
      ∧ (∀ (addr : BitVec 32) (data : List Byte), addr.toNat + data.length ≤ nvmSize →
          ∃ t : State, exec (.nvmWrite h addr data) s = .next t ∧ t.nvm = nvmPut s.nvm addr.toNat data ∧ t.fuse = s.fuse ∧ t.dev = (d.mgmtDone h mcNvmWrite stOK).settle)
      ∧ exec (.mgmtReset h) s = .next (s.settled (d.mgmtDone h mcReset stOK)).fullReset)
    ∧ (∀ (node : BitVec 16) (t : BitVec 64),
      let e := d.advanceTo t.toNat
      (e.accepts h = true → e.answeredAs h = none → exec (.mgmtHeartbeat h node t) s = .next (s.settled ((e.mgmtHeard node.toNat).mgmtDone h mcHeartbeat stOK)))
      ∧ (e.accepts h = false → e.cox.mgmtOk = true → exec (.mgmtHeartbeat h node t) s = .next (s.settled (e.mgmtHeard node.toNat))))
    ∧ (∀ i, i ∈ [Instr.detach h, .repair h, .svnFuse h, .mgmtReset h] →
      (d.accepts h = false → exec i s = .next s)
      ∧ (∀ st, d.accepts h = true → d.answeredAs h = some st → exec i s = .next (s.withDev (d.emit (.mgmtAnswer h.seq.toNat st)))))

/-- R375, R411, R413, R415, R419, R420: Power, reset and `SYSREF`. `PERST_N` or `PWRGD` low, a rail too low for more than 10 µs, and `SYSREF` absent for more than 1 µs put the
device into full reset and hold it; with all of them back it is released. The boot memory and the fuses are kept. Temperatures. Reaching the alarm threshold from below raises an
in-band interrupt and does nothing else; at 112 °C `THERMTRIP_N` is asserted and the clocks stop, until with `PWRGD` low the junction is below 95 °C; above 85 °C a stack's refresh
doubles. -/
def Obligations.BoardResetsAndTemperatures : Prop :=
  (∀ (s : State),
    let held (t : State) : Prop := t.dev.elec.held = true ∧ t.nvm = s.nvm ∧ t.fuse = s.fuse ∧ t.pending = s.pending ∧ t.dev.regs = (Dev.reset s.fuse).regs ∧ t.dev.dram = [] ∧ t.dev.hall = []
      ∧ t.dev.cmds = [] ∧ t.dev.host = s.dev.host
    (∃ t, exec .perstAssert s = .next t ∧ held t ∧ t.dev.elec.perstN = false)
    ∧ (∃ t, exec .pwrgdFall s = .next t ∧ held t ∧ t.dev.elec.pwrgd = false)
    ∧ (∃ t, exec (.powerOnReset false true) s = .next t ∧ held t) ∧ (∃ t, exec (.powerOnReset true false) s = .next t ∧ held t)
    ∧ (∀ (rail : BitVec 3) (us : BitVec 16), rail.toNat ≠ railStby → 10 < us.toNat → ∃ t, exec (.railUndervoltage rail us) s = .next t ∧ held t)
    ∧ (∀ ns : BitVec 64, 1000 < ns.toNat → ∃ t, exec (.sysrefLoss ns) s = .next t ∧ held t ∧ t.dev.elec.sysref = false)
    ∧ (s.dev.elec.held = true → s.dev.elec.trip = false →
      (s.dev.elec.sysref = true → exec (.powerOnReset true true) s
        = .next (s.withElec fun e => { e with pwrgd := true, perstN := true, held := false, stopped := false }))
      ∧ (∀ ns : BitVec 64, s.dev.elec.pwrgd = true → s.dev.elec.perstN = true → 1000000 ≤ ns.toNat → exec (.sysrefReturn ns) s
          = .next (s.withElec fun e => { e with sysref := true, held := false, stopped := false }))))
  ∧ (∀ (s : State) (tj th : BitVec 8),
    (let t := s.withElec fun e => { e with tj := tj.toInt, alarm := th.toInt }
     (s.dev.elec.tj < th.toInt → th.toInt ≤ tj.toInt → exec (.tjAlarm tj th) s = .next { t with dev := t.dev.emit (.ibi 0) })
     ∧ (th.toInt ≤ s.dev.elec.tj ∨ tj.toInt < th.toInt → exec (.tjAlarm tj th) s = .next t))
    ∧ (112 ≤ tj.toInt → s.dev.elec.trip = false → ∃ t, exec (.thermtrip tj) s = .next t ∧ t.dev.elec.trip = true ∧ t.dev.alive = false ∧ t.dev.out = s.dev.out ++ [.thermtrip true]
        ∧ t.dev.regs = s.dev.regs ∧ t.dev.dram = s.dev.dram ∧ t.nvm = s.nvm)
    ∧ (tj.toInt < 95 → s.dev.elec.trip = true → s.dev.elec.pwrgd = false → ∃ t, exec (.thermtripRelease tj) s = .next t ∧ t.dev.elec.trip = false
        ∧ t.dev.out = s.dev.out ++ [.thermtrip false] ∧ t.dev.regs = s.dev.regs ∧ t.dev.dram = s.dev.dram ∧ t.nvm = s.nvm)
    ∧ (∀ (stack : BitVec 3), s.dev.alive = true → s.dev.elec.refresh.length = 8 → ∃ t, exec (.dramOvertemp stack tj) s = .next t
        ∧ t.dev.elec.refresh.getD stack.toNat false = decide (85 < tj.toInt) ∧ t.dev.regs = s.dev.regs ∧ t.dev.dram = s.dev.dram ∧ t.nvm = s.nvm))

/-- R382, R388, R418: the I3C target. The straps give its static address, which `SETDASA` must name; 0xA5 performs a full reset; the boot memory is read, programmed and erased
through `NVM_CMD` in phases 6 and 7, and refused in any other. -/
def Obligations.I3cTarget : Prop :=
  ∀ (s : State),
    (∀ straps : BitVec 3, exec (.strapSample straps) s = .next (s.withElec fun e => { e with straps := straps.toNat, dynAddr := none }))
    ∧ (∀ st dy : BitVec 7, (st.toNat = 0x50 + s.dev.elec.straps → exec (.setdasa st dy) s = .next (s.withElec fun e => { e with dynAddr := some dy.toNat }))
        ∧ (st.toNat ≠ 0x50 + s.dev.elec.straps → exec (.setdasa st dy) s = .next s))
    ∧ (s.dev.elec.held = false → exec (.i3cReset 0xA5) s = .next s.fullReset) ∧ (∀ v : BitVec 8, v ≠ 0xA5 → exec (.i3cReset v) s = .next s)
    ∧ (∀ (addr : BitVec 32) (buf : List Byte), addr.toNat + 256 ≤ nvmSize →
      (s.dev.alive = true → s.dev.phase = bpUnconf ∨ s.dev.phase = bpFailed →
        exec (.nvmRead addr) s = .next (s.withElec fun e => { e with nvmAddr := addr.toNat, nvmBuf := nvmBytes s.nvm addr.toNat 256, nvmCmd := 0 })
        ∧ (∃ t, exec (.nvmProgram addr buf) s = .next t ∧ t.nvm = nvmProgram s.nvm addr.toNat (padTo 256 buf) ∧ t.dev.elec.nvmCmd = 0 ∧ t.dev.regs = s.dev.regs
            ∧ t.dev.dram = s.dev.dram ∧ t.fuse = s.fuse)
        ∧ (∃ t, exec (.nvmErase addr) s = .next t ∧ t.nvm = nvmErase s.nvm addr.toNat ∧ t.dev.elec.nvmCmd = 0 ∧ t.dev.regs = s.dev.regs ∧ t.dev.dram = s.dev.dram ∧ t.fuse = s.fuse))
      ∧ (s.dev.phase ≠ bpUnconf → s.dev.phase ≠ bpFailed → ∃ t, exec (.nvmErase addr) s = .next t ∧ t.nvm = s.nvm ∧ t.dev.elec.nvmCmd = 2))

/-! ## The whole block -/

/-- A step runs the command at the front of the queue on the state with the queue's rest. On an empty queue one cycle of the cycle clock passes: local time gains two thirds of a
nanosecond and nothing else but time-driven counts changes (the model's choice, log entry 2). -/
def Obligations.StepRunsFront : Prop :=
  ∀ (s : State), (∀ c rest, s.pending = c :: rest → step s = exec c { s with pending := rest })
    ∧ (s.pending = [] → (s.dev.alive = true → step s = .next (s.withDev (s.dev.advance 2))) ∧ (s.dev.alive = false → step s = .next s)
      ∧ ∃ t, step s = .next t ∧ t.pending = [] ∧ t.fuse = s.fuse ∧ t.nvm = s.nvm ∧ t.dev.dram = s.dev.dram ∧ t.dev.hall = s.dev.hall)

/-- R11, R42, R238, R313, R322, R327, R340, R376: what reset leaves. Every register but the three fused ones reads its table's reset word; the phase is `ROM`, the tracker in
`ACQUIRE`, every ring `OFF`, every port `DOWN`, the pair `SOLO`, the epoch 0, the lock clear; the memories read zero, nothing waits, and the erased boot memory has its canonical
form. -/
def Obligations.ResetValues : Prop :=
  let s := State.reset
  let d := s.dev
  (∀ (f : Fuses) (off w : Nat), off ∉ [0, 8, 16] → w < 2 ^ 64 → (Dev.reset f).word off w = w)
  ∧ d.phase = bpRom ∧ d.clk.state = .acquire ∧ d.strokeLost = false ∧ d.clk.ppsHold = true ∧ d.epoch = 0 ∧ d.pairState = psSolo ∧ d.flag Fld.GLB_CFG_LOCK_LOCK = false
  ∧ (∀ r, d.ringState r = rsOff ∧ d.ringPI r = 0 ∧ d.ringCI r = 0) ∧ (∀ p, d.portState p = poDown)
  ∧ (∀ a, d.dram.read a = 0 ∧ d.hall.read a = 0 ∧ d.coreMem.read a = 0 ∧ d.boatBuf.read a = 0) ∧ d.pool = [] ∧ d.cmds = [] ∧ d.watches = [] ∧ d.xfers = [] ∧ d.out = []
  ∧ s.pending = [] ∧ d.alive = true ∧ s.nvmOk = true

/-- Every command answers a next state, and leaves the commands that wait behind it as they are. -/
def Obligations.ExecTotal : Prop :=
  ∀ (i : Instr) (s : State), ∃ t : State, exec i s = .next t ∧ t.pending = s.pending

/-- R411, R415, R419: while the device is held in reset or its clocks are stopped, only the commands of the board have an effect; any other leaves the whole state as it is. -/
def Obligations.HeldDoesNothing : Prop :=
  ∀ (i : Instr) (s : State), s.dev.alive = false → boardRow i = false → exec i s = .next s

/-- R366, R386: from every state, a step changes no fuse but those of the security version, and that only by `SVN_FUSE`; the version never decreases, and comes to no more than 64
by a step (64 is the model's reading, log entry 57). -/
def Obligations.FusesOnlyBurn : Prop :=
  ∀ (s t : State), step s = .next t → t.fuse = { s.fuse with svn := t.fuse.svn } ∧ s.fuse.svn ≤ t.fuse.svn ∧ t.fuse.svn ≤ max 64 s.fuse.svn
    ∧ (t.fuse ≠ s.fuse → ∃ h rest, s.pending = .svnFuse h :: rest)

/-- R375, R384, R387, R388: from every state whose boot memory has its canonical form, a step leaves it in that form, and changes it only by one of the four commands that write it.
-/
def Obligations.BootMemoryKept : Prop :=
  ∀ (s t : State), s.nvmOk = true → step s = .next t → t.nvmOk = true ∧ (t.nvm ≠ s.nvm → ∃ c rest, s.pending = c :: rest ∧ nvmRow c = true)
end

