-- ==== Sys2Proof/Laws/Mem.lean ====
section
/-! SUPPORT. Laws/Mem.lean: sparse storage: a read after a write, the canonical form that every operation keeps, and the same of byte
memories. -/

namespace Sys2Proof.Machine

/-! ## Reads after writes -/

theorem sget_sdel_same {α : Type} (dflt : α) (k : Nat) (m : List (Nat × α)) : sget dflt k (sdel k m) = dflt := by
  induction m with
  | nil => rfl
  | cons e m ih =>
    obtain ⟨j, v⟩ := e
    by_cases h : k = j <;> simp [sdel, sget, h]
    · exact h ▸ ih
    · exact ih

theorem sget_sdel_other {α : Type} (dflt : α) {k x : Nat} (hx : x ≠ k) (m : List (Nat × α)) : sget dflt x (sdel k m) = sget dflt x m := by
  induction m with
  | nil => rfl
  | cons e m ih =>
    obtain ⟨j, v⟩ := e
    by_cases h : k = j
    · subst h; simp [sdel, sget, hx, ih]
    · simp [sdel, sget, h, ih]

theorem sget_sins_same {α : Type} (dflt : α) (k : Nat) (v : α) (m : List (Nat × α)) : sget dflt k (sins k v m) = v := by
  induction m with
  | nil => simp [sins, sget]
  | cons e m ih =>
    obtain ⟨j, w⟩ := e
    unfold sins
    split
    · simp [sget]
    · split
      · simp [sget]
      · rename_i h; simp [sget, h, ih]

theorem sget_sins_other {α : Type} (dflt : α) {k x : Nat} (hx : x ≠ k) (v : α) (m : List (Nat × α)) :
    sget dflt x (sins k v m) = sget dflt x m := by
  induction m with
  | nil => simp [sins, sget, hx]
  | cons e m ih =>
    obtain ⟨j, w⟩ := e
    unfold sins
    split
    · simp [sget, hx]
    · split
      · rename_i h; subst h; simp [sget, hx]
      · simp [sget, ih]

/-- What a write leaves at its own key. -/
@[simp] theorem sget_sput_same {α : Type} [DecidableEq α] (dflt : α) (k : Nat) (v : α) (m : List (Nat × α)) :
    sget dflt k (sput dflt k v m) = v := by
  unfold sput; split
  · rename_i h; rw [sget_sdel_same, h]
  · exact sget_sins_same dflt k v m

/-- What a write leaves at every other key, whatever default the reader names. -/
theorem sget_sput_other {α : Type} [DecidableEq α] (dflt dflt' : α) {k x : Nat} (hx : x ≠ k) (v : α) (m : List (Nat × α)) :
    sget dflt' x (sput dflt k v m) = sget dflt' x m := by
  unfold sput; split
  · exact sget_sdel_other dflt' hx m
  · exact sget_sins_other dflt' hx v m

/-! ## The canonical form -/

theorem risingFrom_of_le {α : Type} {a b : Nat} (h : a ≤ b) {m : List (Nat × α)} (hm : risingFrom (some b) m = true) :
    risingFrom (some a) m = true := by
  cases m with
  | nil => rfl
  | cons e m => simp [risingFrom] at hm ⊢; exact ⟨by omega, hm.2⟩

theorem risingFrom_none {α : Type} {a : Nat} {m : List (Nat × α)} (hm : risingFrom (some a) m = true) : risingFrom none m = true := by
  cases m with
  | nil => rfl
  | cons e m => simp [risingFrom] at hm ⊢; exact hm.2

theorem risingFrom_sdel {α : Type} (k : Nat) : ∀ (o : Option Nat) (m : List (Nat × α)), risingFrom o m = true → risingFrom o (sdel k m) = true
  | _, [], _ => by simp [sdel, risingFrom]
  | none, (j, v) :: m, h => by
    have ih := risingFrom_sdel k (some j) m (by simpa [risingFrom] using h)
    by_cases hk : k = j
    · simp [sdel, hk]; exact risingFrom_none (hk ▸ ih)
    · simpa [sdel, hk, risingFrom] using ih
  | some lo, (j, v) :: m, h => by
    simp only [risingFrom, Bool.and_eq_true, decide_eq_true_eq] at h
    have ih := risingFrom_sdel k (some j) m h.2
    by_cases hk : k = j
    · subst hk; simp only [sdel, if_true]; exact risingFrom_of_le (by omega) ih
    · simp [sdel, hk, risingFrom, h.1, ih]

theorem risingFrom_sins {α : Type} (k : Nat) (v : α) : ∀ (o : Option Nat) (m : List (Nat × α)), risingFrom o m = true →
    (∀ lo, o = some lo → lo < k) → risingFrom o (sins k v m) = true
  | none, [], _, _ => by simp [sins, risingFrom]
  | some lo, [], _, hk => by simp [sins, risingFrom, hk lo rfl]
  | none, (j, w) :: m, h, _ => by
    simp only [risingFrom] at h
    unfold sins
    split
    · rename_i hj; simp [risingFrom, hj, h]
    · split
      · rename_i hj; subst hj; simpa [risingFrom] using h
      · simp only [risingFrom]; exact risingFrom_sins k v (some j) m h (by intro lo e; cases e; omega)
  | some lo, (j, w) :: m, h, hk => by
    simp only [risingFrom, Bool.and_eq_true, decide_eq_true_eq] at h
    have := hk lo rfl
    unfold sins
    split
    · rename_i hj; simp [risingFrom, hj, h.2, this]
    · split
      · rename_i hj; subst hj; simp [risingFrom, h]
      · simp only [risingFrom, Bool.and_eq_true, decide_eq_true_eq]
        exact ⟨h.1, risingFrom_sins k v (some j) m h.2 (by intro lo e; cases e; omega)⟩

theorem mem_sdel {α : Type} {k : Nat} {e : Nat × α} : ∀ {m : List (Nat × α)}, e ∈ sdel k m → e ∈ m
  | [], h => by simp [sdel] at h
  | (j, v) :: m, h => by
    unfold sdel at h; split at h
    · exact List.mem_cons_of_mem _ (mem_sdel h)
    · rcases List.mem_cons.1 h with h | h
      · exact h ▸ List.mem_cons_self
      · exact List.mem_cons_of_mem _ (mem_sdel h)

theorem mem_sins {α : Type} {k : Nat} {v : α} {e : Nat × α} : ∀ {m : List (Nat × α)}, e ∈ sins k v m → e = (k, v) ∨ e ∈ m
  | [], h => by simpa [sins] using h
  | (j, w) :: m, h => by
    unfold sins at h; split at h
    · simpa using h
    · split at h
      · rcases List.mem_cons.1 h with h | h
        · exact .inl h
        · exact .inr (List.mem_cons_of_mem _ h)
      · rcases List.mem_cons.1 h with h | h
        · exact .inr (h ▸ List.mem_cons_self)
        · rcases mem_sins h with h | h
          · exact .inl h
          · exact .inr (List.mem_cons_of_mem _ h)

/-- A write keeps the canonical form. -/
theorem canonical_sput {α : Type} [DecidableEq α] {dflt : α} (k : Nat) (v : α) {m : List (Nat × α)} (h : canonical dflt m = true) :
    canonical dflt (sput dflt k v m) = true := by
  simp only [canonical, Bool.and_eq_true, List.all_eq_true, Bool.not_eq_true', decide_eq_false_iff_not] at h ⊢
  unfold sput; split
  · exact ⟨risingFrom_sdel k none m h.1, fun e he => h.2 e (mem_sdel he)⟩
  · rename_i hv
    refine ⟨risingFrom_sins k v none m h.1 (by simp), fun e he => ?_⟩
    rcases mem_sins he with rfl | he
    · exact hv
    · exact h.2 e he

theorem risingFrom_filter {α : Type} (p : Nat × α → Bool) : ∀ (o : Option Nat) (m : List (Nat × α)), risingFrom o m = true →
    risingFrom o (m.filter p) = true
  | _, [], _ => by simp [risingFrom]
  | none, (j, v) :: m, h => by
    have ih := risingFrom_filter p (some j) m (by simpa [risingFrom] using h)
    by_cases hp : p (j, v) = true
    · simpa [List.filter, hp, risingFrom] using ih
    · simp only [Bool.not_eq_true] at hp; simp [List.filter, hp]; exact risingFrom_none ih
  | some lo, (j, v) :: m, h => by
    simp only [risingFrom, Bool.and_eq_true, decide_eq_true_eq] at h
    have ih := risingFrom_filter p (some j) m h.2
    by_cases hp : p (j, v) = true
    · simp [List.filter, hp, risingFrom, h.1, ih]
    · simp only [Bool.not_eq_true] at hp; simp only [List.filter, hp]; exact risingFrom_of_le (by omega) ih

/-- Taking entries out keeps the canonical form. -/
theorem canonical_filter {α : Type} [DecidableEq α] {dflt : α} (p : Nat × α → Bool) {m : List (Nat × α)} (h : canonical dflt m = true) :
    canonical dflt (m.filter p) = true := by
  simp only [canonical, Bool.and_eq_true, List.all_eq_true, Bool.not_eq_true', decide_eq_false_iff_not] at h ⊢
  exact ⟨risingFrom_filter p none m h.1, fun e he => h.2 e (List.mem_filter.1 he).1⟩

/-! ## Byte memories -/

@[simp] theorem Mem.read_write_same (m : Mem) (a : Nat) (b : Byte) : (m.write a b).read a = b := sget_sput_same 0 a b m

theorem Mem.read_write_other (m : Mem) {a x : Nat} (h : x ≠ a) (b : Byte) : (m.write a b).read x = m.read x := sget_sput_other 0 0 h b m

theorem Mem.wf_write (m : Mem) (a : Nat) (b : Byte) (h : Mem.wf 0 m = true) : Mem.wf 0 (m.write a b) = true := canonical_sput a b h

theorem Mem.wf_writeBytes (bs : List Byte) : ∀ (m : Mem) (a : Nat), Mem.wf 0 m = true → Mem.wf 0 (m.writeBytes a bs) = true := by
  induction bs with
  | nil => intro m a h; exact h
  | cons b bs ih => intro m a h; exact ih _ _ (Mem.wf_write m a b h)

theorem Mem.wf_writeN (m : Mem) (n a v : Nat) (h : Mem.wf 0 m = true) : Mem.wf 0 (m.writeN n a v) = true := Mem.wf_writeBytes _ m a h

theorem Mem.wf_zero (m : Mem) (a n : Nat) (h : Mem.wf 0 m = true) : Mem.wf 0 (m.zero a n) = true := canonical_filter _ h

/-- A byte outside a run of written bytes reads as before. -/
theorem Mem.read_writeBytes_other (bs : List Byte) : ∀ (m : Mem) (a x : Nat), x < a ∨ a + bs.length ≤ x →
    (m.writeBytes a bs).read x = m.read x := by
  induction bs with
  | nil => intro m a x _; rfl
  | cons b bs ih =>
    intro m a x h
    simp only [List.length_cons] at h
    rw [Mem.writeBytes, ih _ _ _ (by omega), Mem.read_write_other _ (by omega)]

/-- A byte inside a run of written bytes reads as what was written there. -/
theorem Mem.read_writeBytes_at (bs : List Byte) : ∀ (m : Mem) (a k : Nat) (h : k < bs.length), (m.writeBytes a bs).read (a + k) = bs[k] := by
  induction bs with
  | nil => intro m a k h; simp at h
  | cons b bs ih =>
    intro m a k h
    cases k with
    | zero => rw [Mem.writeBytes, Mem.read_writeBytes_other _ _ _ _ (by omega)]; simp
    | succ k => rw [Mem.writeBytes, show a + (k + 1) = (a + 1) + k by omega, ih _ _ _ (by simpa using h)]; simp

/-- A run of bytes read back where it was written. -/
theorem Mem.readBytes_writeBytes (m : Mem) (a : Nat) (bs : List Byte) : (m.writeBytes a bs).readBytes a bs.length = bs := by
  apply List.ext_getElem
  · simp [Mem.readBytes]
  · intro k h1 h2; simp [Mem.readBytes, Mem.read_writeBytes_at bs m a k h2]

end Sys2Proof.Machine
end

