-- ==== Sys2Proof/Laws/Regs.lean ====
section
/-! SUPPORT. Laws/Regs.lean: bit ranges and register fields: a field reads back what was put into it, and a put leaves every other
field and register. -/

namespace Sys2Proof.Machine

/-! ## Bit ranges -/

theorem bits_lt (x hi lo : Nat) : bits x hi lo < 2 ^ (hi + 1 - lo) := Nat.mod_lt _ (by positivity)

/-- `setBits` bit by bit. -/
theorem testBit_setBits {x hi lo v : Nat} (h : lo ≤ hi) (i : Nat) :
    (setBits x hi lo v).testBit i = if lo ≤ i ∧ i ≤ hi then v.testBit (i - lo) else x.testBit i := by
  obtain ⟨n, hn⟩ : ∃ n, hi + 1 - lo = n := ⟨_, rfl⟩
  have hhi : hi + 1 = lo + n := by omega
  have hx : x = 2 ^ (lo + n) * (x >>> (lo + n)) + (2 ^ lo * ((x >>> lo) % 2 ^ n) + x % 2 ^ lo) := by
    have h1 := Nat.div_add_mod x (2 ^ lo)
    have h2 := Nat.div_add_mod (x / 2 ^ lo) (2 ^ n)
    rw [Nat.shiftRight_eq_div_pow, Nat.shiftRight_eq_div_pow, pow_add, ← Nat.div_div_eq_div_mul]
    conv_lhs => rw [← h1, ← h2]
    ring
  have hs : setBits x hi lo v = 2 ^ (lo + n) * (x >>> (lo + n)) + (2 ^ lo * (v % 2 ^ n) + x % 2 ^ lo) := by
    simp only [setBits, hn, Nat.shiftLeft_eq]
    conv_lhs => rw [show x - x >>> lo % 2 ^ n * 2 ^ lo = 2 ^ (lo + n) * (x >>> (lo + n)) + x % 2 ^ lo by
      conv_lhs => lhs; rw [hx]
      rw [Nat.mul_comm (2 ^ lo) (x >>> lo % 2 ^ n)]; omega]
    ring
  have hc : x % 2 ^ lo < 2 ^ lo := Nat.mod_lt _ (by positivity)
  have hm : 2 ^ lo * (v % 2 ^ n) + x % 2 ^ lo < 2 ^ (lo + n) := by
    have := Nat.mod_lt v (show 0 < 2 ^ n by positivity)
    calc 2 ^ lo * (v % 2 ^ n) + x % 2 ^ lo < 2 ^ lo * (v % 2 ^ n) + 2 ^ lo := by omega
      _ = 2 ^ lo * (v % 2 ^ n + 1) := by ring
      _ ≤ 2 ^ lo * 2 ^ n := Nat.mul_le_mul_left _ this
      _ = 2 ^ (lo + n) := (pow_add _ _ _).symm
  rw [hs, Nat.testBit_two_pow_mul_add _ hm, Nat.testBit_two_pow_mul_add _ hc]
  simp only [Nat.testBit_mod_two_pow, Nat.testBit_shiftRight]
  by_cases h1 : i < lo
  · have : ¬ (lo ≤ i ∧ i ≤ hi) := by omega
    simp [show i < lo + n by omega, h1, this]
  · by_cases h2 : i < lo + n
    · have : lo ≤ i ∧ i ≤ hi := by omega
      simp [h1, h2, this, show i - lo < n by omega]
    · have : ¬ (lo ≤ i ∧ i ≤ hi) := by omega
      simp [h2, this, show lo + n + (i - (lo + n)) = i by omega]

theorem testBit_bits (x hi lo i : Nat) : (bits x hi lo).testBit i = (decide (i < hi + 1 - lo) && x.testBit (lo + i)) := by
  simp [bits, Nat.testBit_mod_two_pow, Nat.testBit_shiftRight]

/-- A range reads back what was set. -/
theorem bits_setBits_same {hi lo : Nat} (h : lo ≤ hi) (x v : Nat) : bits (setBits x hi lo v) hi lo = v % 2 ^ (hi + 1 - lo) := by
  apply Nat.eq_of_testBit_eq; intro i
  rw [testBit_bits, testBit_setBits h, Nat.testBit_mod_two_pow]
  by_cases hi' : i < hi + 1 - lo
  · simp [hi', show lo ≤ lo + i ∧ lo + i ≤ hi by omega]
  · simp [hi']

/-- A range apart from the one set reads as before. -/
theorem bits_setBits_other {hi lo hi' lo' : Nat} (h : lo ≤ hi) (hd : hi' < lo ∨ hi < lo') (x v : Nat) :
    bits (setBits x hi lo v) hi' lo' = bits x hi' lo' := by
  apply Nat.eq_of_testBit_eq; intro i
  rw [testBit_bits, testBit_bits, testBit_setBits h]
  by_cases hi'' : i < hi' + 1 - lo'
  · simp [hi'', show ¬ (lo ≤ lo' + i ∧ lo' + i ≤ hi) by omega]
  · simp [hi'']

theorem setBits_lt {x hi lo v n : Nat} (h : lo ≤ hi) (hn : hi < n) (hx : x < 2 ^ n) : setBits x hi lo v < 2 ^ n := by
  apply Nat.lt_pow_two_of_testBit; intro i hi'
  rw [testBit_setBits h, if_neg (by omega)]
  exact Nat.testBit_lt_two_pow (lt_of_lt_of_le hx (Nat.pow_le_pow_right (by omega) hi'))

/-! ## Registers -/

theorem Dev.word_lt (d : Dev) (off w : Nat) : d.word off w < 2 ^ 64 := BitVec.isLt _

theorem Dev.word_setWord_same (d : Dev) (off w : Nat) {v : Nat} (h : v < 2 ^ 64) : (d.setWord off w v).word off w = v := by
  simpa [Dev.word, Dev.setWord] using h

theorem Dev.word_setWord_other (d : Dev) {off x : Nat} (h : x ≠ off) (w w' v : Nat) : (d.setWord off w v).word x w' = d.word x w' := by
  simp only [Dev.word, Dev.setWord]; rw [sget_sput_other _ _ h]

theorem Dev.word_put_same (d : Dev) (f : Fld) (v i j : Nat) (h : f.lo ≤ f.hi) (h' : f.hi < 64) :
    (d.put f v i j).word (f.off i j) f.wreset = setBits (d.word (f.off i j) f.wreset) f.hi f.lo v :=
  d.word_setWord_same _ _ (setBits_lt h h' (d.word_lt _ _))

theorem Dev.word_put_other (d : Dev) (f : Fld) (v i j : Nat) {x : Nat} (h : x ≠ f.off i j) (w : Nat) : (d.put f v i j).word x w = d.word x w :=
  d.word_setWord_other h _ _ _

/-- A field reads back what was put into it, cut to its width. -/
theorem Dev.get_put_same (d : Dev) (f : Fld) (v i j : Nat) (h : f.lo ≤ f.hi) (h' : f.hi < 64) :
    (d.put f v i j).get f i j = v % 2 ^ (f.hi + 1 - f.lo) := by
  rw [Dev.get, d.word_put_same f v i j h h', bits_setBits_same h]

/-- A put leaves every field of another register. -/
theorem Dev.get_put_other (d : Dev) (f g : Fld) (v i j i' j' : Nat) (h : g.off i' j' ≠ f.off i j) : (d.put f v i j).get g i' j' = d.get g i' j' := by
  rw [Dev.get, Dev.get, d.word_put_other f v i j h]

/-- A put leaves the other fields of its register. -/
theorem Dev.get_put_field (d : Dev) (f g : Fld) (v i j i' j' : Nat) (ho : g.off i' j' = f.off i j) (hw : g.wreset = f.wreset)
    (hd : g.hi < f.lo ∨ f.hi < g.lo) (h : f.lo ≤ f.hi) (h' : f.hi < 64) :
    (d.put f v i j).get g i' j' = d.get g i' j' := by
  rw [Dev.get, Dev.get, ho, hw, d.word_put_same f v i j h h', bits_setBits_other h hd]

/-- A one-bit field set reads 1. -/
theorem Dev.flag_put_one (d : Dev) (f : Fld) (i j : Nat) (h : f.lo ≤ f.hi) (h' : f.hi < 64) :
    (d.put f 1 i j).flag f i j = true := by
  rw [Dev.flag, d.get_put_same f 1 i j h h', Nat.mod_eq_of_lt]; rfl
  exact Nat.one_lt_two_pow (by omega)

theorem Dev.get_le_max (d : Dev) (f : Fld) (i j : Nat) : d.get f i j ≤ f.max := Nat.le_sub_one_of_lt (bits_lt _ _ _)

/-- A counter that does not wrap (R143, R162 and their like). -/
theorem Dev.get_bump_same (d : Dev) (f : Fld) (n i j : Nat) (h : f.lo ≤ f.hi) (h' : f.hi < 64) :
    (d.bump f n i j).get f i j = min f.max (d.get f i j + n) := by
  rw [Dev.bump, d.get_put_same f _ i j h h', Nat.mod_eq_of_lt]
  have : 0 < 2 ^ (f.hi + 1 - f.lo) := by positivity
  exact lt_of_le_of_lt (min_le_left _ _) (by simp only [Fld.max]; omega)

/-- Writing a register keeps the register file in its order. -/
theorem Dev.rising_setWord (d : Dev) (off w v : Nat) (h : risingFrom none d.regs = true) : risingFrom none (d.setWord off w v).regs = true := by
  simp only [Dev.setWord, sput]; split
  · exact risingFrom_sdel _ _ _ h
  · exact risingFrom_sins _ _ _ _ h (by simp)

end Sys2Proof.Machine
end

