-- ==== Sys2Proof/Laws/State.lean ====
section
/-! SUPPORT. Laws/State.lean: what the plain updates of the device leave as it was: one lemma per field and update. -/

namespace Sys2Proof.Machine

/-! ## `put` changes only `regs` -/

@[simp] theorem Dev.put_clk (d : Dev) (f : Fld) (v i j : Nat) : (d.put f v i j).clk = d.clk := rfl
@[simp] theorem Dev.put_latch (d : Dev) (f : Fld) (v i j : Nat) : (d.put f v i j).latch = d.latch := rfl
@[simp] theorem Dev.put_dram (d : Dev) (f : Fld) (v i j : Nat) : (d.put f v i j).dram = d.dram := rfl
@[simp] theorem Dev.put_hall (d : Dev) (f : Fld) (v i j : Nat) : (d.put f v i j).hall = d.hall := rfl
@[simp] theorem Dev.put_hallBad (d : Dev) (f : Fld) (v i j : Nat) : (d.put f v i j).hallBad = d.hallBad := rfl
@[simp] theorem Dev.put_stalled (d : Dev) (f : Fld) (v i j : Nat) : (d.put f v i j).stalled = d.stalled := rfl
@[simp] theorem Dev.put_hallLost (d : Dev) (f : Fld) (v i j : Nat) : (d.put f v i j).hallLost = d.hallLost := rfl
@[simp] theorem Dev.put_host (d : Dev) (f : Fld) (v i j : Nat) : (d.put f v i j).host = d.host := rfl
@[simp] theorem Dev.put_coreMem (d : Dev) (f : Fld) (v i j : Nat) : (d.put f v i j).coreMem = d.coreMem := rfl
@[simp] theorem Dev.put_boatBuf (d : Dev) (f : Fld) (v i j : Nat) : (d.put f v i j).boatBuf = d.boatBuf := rfl
@[simp] theorem Dev.put_kernels (d : Dev) (f : Fld) (v i j : Nat) : (d.put f v i j).kernels = d.kernels := rfl
@[simp] theorem Dev.put_runs (d : Dev) (f : Fld) (v i j : Nat) : (d.put f v i j).runs = d.runs := rfl
@[simp] theorem Dev.put_zeroing (d : Dev) (f : Fld) (v i j : Nat) : (d.put f v i j).zeroing = d.zeroing := rfl
@[simp] theorem Dev.put_rotation (d : Dev) (f : Fld) (v i j : Nat) : (d.put f v i j).rotation = d.rotation := rfl
@[simp] theorem Dev.put_freeCtr (d : Dev) (f : Fld) (v i j : Nat) : (d.put f v i j).freeCtr = d.freeCtr := rfl
@[simp] theorem Dev.put_cmds (d : Dev) (f : Fld) (v i j : Nat) : (d.put f v i j).cmds = d.cmds := rfl
@[simp] theorem Dev.put_orders (d : Dev) (f : Fld) (v i j : Nat) : (d.put f v i j).orders = d.orders := rfl
@[simp] theorem Dev.put_places (d : Dev) (f : Fld) (v i j : Nat) : (d.put f v i j).places = d.places := rfl
@[simp] theorem Dev.put_watches (d : Dev) (f : Fld) (v i j : Nat) : (d.put f v i j).watches = d.watches := rfl
@[simp] theorem Dev.put_aborting (d : Dev) (f : Fld) (v i j : Nat) : (d.put f v i j).aborting = d.aborting := rfl
@[simp] theorem Dev.put_held (d : Dev) (f : Fld) (v i j : Nat) : (d.put f v i j).held = d.held := rfl
@[simp] theorem Dev.put_rr (d : Dev) (f : Fld) (v i j : Nat) : (d.put f v i j).rr = d.rr := rfl
@[simp] theorem Dev.put_muted (d : Dev) (f : Fld) (v i j : Nat) : (d.put f v i j).muted = d.muted := rfl
@[simp] theorem Dev.put_lcWait (d : Dev) (f : Fld) (v i j : Nat) : (d.put f v i j).lcWait = d.lcWait := rfl
@[simp] theorem Dev.put_slots (d : Dev) (f : Fld) (v i j : Nat) : (d.put f v i j).slots = d.slots := rfl
@[simp] theorem Dev.put_pool (d : Dev) (f : Fld) (v i j : Nat) : (d.put f v i j).pool = d.pool := rfl
@[simp] theorem Dev.put_xfers (d : Dev) (f : Fld) (v i j : Nat) : (d.put f v i j).xfers = d.xfers := rfl
@[simp] theorem Dev.put_nextXid (d : Dev) (f : Fld) (v i j : Nat) : (d.put f v i j).nextXid = d.nextXid := rfl
@[simp] theorem Dev.put_rsvs (d : Dev) (f : Fld) (v i j : Nat) : (d.put f v i j).rsvs = d.rsvs := rfl
@[simp] theorem Dev.put_committed (d : Dev) (f : Fld) (v i j : Nat) : (d.put f v i j).committed = d.committed := rfl
@[simp] theorem Dev.put_keys (d : Dev) (f : Fld) (v i j : Nat) : (d.put f v i j).keys = d.keys := rfl
@[simp] theorem Dev.put_scans (d : Dev) (f : Fld) (v i j : Nat) : (d.put f v i j).scans = d.scans := rfl
@[simp] theorem Dev.put_ptParent (d : Dev) (f : Fld) (v i j : Nat) : (d.put f v i j).ptParent = d.ptParent := rfl
@[simp] theorem Dev.put_retr (d : Dev) (f : Fld) (v i j : Nat) : (d.put f v i j).retr = d.retr := rfl
@[simp] theorem Dev.put_groups (d : Dev) (f : Fld) (v i j : Nat) : (d.put f v i j).groups = d.groups := rfl
@[simp] theorem Dev.put_faults (d : Dev) (f : Fld) (v i j : Nat) : (d.put f v i j).faults = d.faults := rfl
@[simp] theorem Dev.put_nextId (d : Dev) (f : Fld) (v i j : Nat) : (d.put f v i j).nextId = d.nextId := rfl
@[simp] theorem Dev.put_pfs (d : Dev) (f : Fld) (v i j : Nat) : (d.put f v i j).pfs = d.pfs := rfl
@[simp] theorem Dev.put_dems (d : Dev) (f : Fld) (v i j : Nat) : (d.put f v i j).dems = d.dems := rfl
@[simp] theorem Dev.put_pfOnTime (d : Dev) (f : Fld) (v i j : Nat) : (d.put f v i j).pfOnTime = d.pfOnTime := rfl
@[simp] theorem Dev.put_reclaimed (d : Dev) (f : Fld) (v i j : Nat) : (d.put f v i j).reclaimed = d.reclaimed := rfl
@[simp] theorem Dev.put_ops (d : Dev) (f : Fld) (v i j : Nat) : (d.put f v i j).ops = d.ops := rfl
@[simp] theorem Dev.put_qpts (d : Dev) (f : Fld) (v i j : Nat) : (d.put f v i j).qpts = d.qpts := rfl
@[simp] theorem Dev.put_ctx (d : Dev) (f : Fld) (v i j : Nat) : (d.put f v i j).ctx = d.ctx := rfl
@[simp] theorem Dev.put_txq (d : Dev) (f : Fld) (v i j : Nat) : (d.put f v i j).txq = d.txq := rfl
@[simp] theorem Dev.put_spray (d : Dev) (f : Fld) (v i j : Nat) : (d.put f v i j).spray = d.spray := rfl
@[simp] theorem Dev.put_lastPort (d : Dev) (f : Fld) (v i j : Nat) : (d.put f v i j).lastPort = d.lastPort := rfl
@[simp] theorem Dev.put_ports (d : Dev) (f : Fld) (v i j : Nat) : (d.put f v i j).ports = d.ports := rfl
@[simp] theorem Dev.put_flows (d : Dev) (f : Fld) (v i j : Nat) : (d.put f v i j).flows = d.flows := rfl
@[simp] theorem Dev.put_vtime (d : Dev) (f : Fld) (v i j : Nat) : (d.put f v i j).vtime = d.vtime := rfl
@[simp] theorem Dev.put_shapers (d : Dev) (f : Fld) (v i j : Nat) : (d.put f v i j).shapers = d.shapers := rfl
@[simp] theorem Dev.put_meters (d : Dev) (f : Fld) (v i j : Nat) : (d.put f v i j).meters = d.meters := rfl
@[simp] theorem Dev.put_gates (d : Dev) (f : Fld) (v i j : Nat) : (d.put f v i j).gates = d.gates := rfl
@[simp] theorem Dev.put_binds (d : Dev) (f : Fld) (v i j : Nat) : (d.put f v i j).binds = d.binds := rfl
@[simp] theorem Dev.put_flights (d : Dev) (f : Fld) (v i j : Nat) : (d.put f v i j).flights = d.flights := rfl
@[simp] theorem Dev.put_revokes (d : Dev) (f : Fld) (v i j : Nat) : (d.put f v i j).revokes = d.revokes := rfl
@[simp] theorem Dev.put_pins (d : Dev) (f : Fld) (v i j : Nat) : (d.put f v i j).pins = d.pins := rfl
@[simp] theorem Dev.put_lines (d : Dev) (f : Fld) (v i j : Nat) : (d.put f v i j).lines = d.lines := rfl
@[simp] theorem Dev.put_gw (d : Dev) (f : Fld) (v i j : Nat) : (d.put f v i j).gw = d.gw := rfl
@[simp] theorem Dev.put_gwLost (d : Dev) (f : Fld) (v i j : Nat) : (d.put f v i j).gwLost = d.gwLost := rfl
@[simp] theorem Dev.put_patches (d : Dev) (f : Fld) (v i j : Nat) : (d.put f v i j).patches = d.patches := rfl
@[simp] theorem Dev.put_mapBank (d : Dev) (f : Fld) (v i j : Nat) : (d.put f v i j).mapBank = d.mapBank := rfl
@[simp] theorem Dev.put_changed (d : Dev) (f : Fld) (v i j : Nat) : (d.put f v i j).changed = d.changed := rfl
@[simp] theorem Dev.put_drainTo (d : Dev) (f : Fld) (v i j : Nat) : (d.put f v i j).drainTo = d.drainTo := rfl
@[simp] theorem Dev.put_pair (d : Dev) (f : Fld) (v i j : Nat) : (d.put f v i j).pair = d.pair := rfl
@[simp] theorem Dev.put_mirRings (d : Dev) (f : Fld) (v i j : Nat) : (d.put f v i j).mirRings = d.mirRings := rfl
@[simp] theorem Dev.put_mirLand (d : Dev) (f : Fld) (v i j : Nat) : (d.put f v i j).mirLand = d.mirLand := rfl
@[simp] theorem Dev.put_log (d : Dev) (f : Fld) (v i j : Nat) : (d.put f v i j).log = d.log := rfl
@[simp] theorem Dev.put_sec (d : Dev) (f : Fld) (v i j : Nat) : (d.put f v i j).sec = d.sec := rfl
@[simp] theorem Dev.put_cox (d : Dev) (f : Fld) (v i j : Nat) : (d.put f v i j).cox = d.cox := rfl
@[simp] theorem Dev.put_cellarHeld (d : Dev) (f : Fld) (v i j : Nat) : (d.put f v i j).cellarHeld = d.cellarHeld := rfl
@[simp] theorem Dev.put_scrubs (d : Dev) (f : Fld) (v i j : Nat) : (d.put f v i j).scrubs = d.scrubs := rfl
@[simp] theorem Dev.put_wayScrubs (d : Dev) (f : Fld) (v i j : Nat) : (d.put f v i j).wayScrubs = d.wayScrubs := rfl
@[simp] theorem Dev.put_proxy (d : Dev) (f : Fld) (v i j : Nat) : (d.put f v i j).proxy = d.proxy := rfl
@[simp] theorem Dev.put_elec (d : Dev) (f : Fld) (v i j : Nat) : (d.put f v i j).elec = d.elec := rfl
@[simp] theorem Dev.put_msixTab (d : Dev) (f : Fld) (v i j : Nat) : (d.put f v i j).msixTab = d.msixTab := rfl
@[simp] theorem Dev.put_out (d : Dev) (f : Fld) (v i j : Nat) : (d.put f v i j).out = d.out := rfl

/-! ## `bump` changes only `regs` -/

@[simp] theorem Dev.bump_clk (d : Dev) (f : Fld) (n i j : Nat) : (d.bump f n i j).clk = d.clk := rfl
@[simp] theorem Dev.bump_latch (d : Dev) (f : Fld) (n i j : Nat) : (d.bump f n i j).latch = d.latch := rfl
@[simp] theorem Dev.bump_dram (d : Dev) (f : Fld) (n i j : Nat) : (d.bump f n i j).dram = d.dram := rfl
@[simp] theorem Dev.bump_hall (d : Dev) (f : Fld) (n i j : Nat) : (d.bump f n i j).hall = d.hall := rfl
@[simp] theorem Dev.bump_hallBad (d : Dev) (f : Fld) (n i j : Nat) : (d.bump f n i j).hallBad = d.hallBad := rfl
@[simp] theorem Dev.bump_stalled (d : Dev) (f : Fld) (n i j : Nat) : (d.bump f n i j).stalled = d.stalled := rfl
@[simp] theorem Dev.bump_hallLost (d : Dev) (f : Fld) (n i j : Nat) : (d.bump f n i j).hallLost = d.hallLost := rfl
@[simp] theorem Dev.bump_host (d : Dev) (f : Fld) (n i j : Nat) : (d.bump f n i j).host = d.host := rfl
@[simp] theorem Dev.bump_coreMem (d : Dev) (f : Fld) (n i j : Nat) : (d.bump f n i j).coreMem = d.coreMem := rfl
@[simp] theorem Dev.bump_boatBuf (d : Dev) (f : Fld) (n i j : Nat) : (d.bump f n i j).boatBuf = d.boatBuf := rfl
@[simp] theorem Dev.bump_kernels (d : Dev) (f : Fld) (n i j : Nat) : (d.bump f n i j).kernels = d.kernels := rfl
@[simp] theorem Dev.bump_runs (d : Dev) (f : Fld) (n i j : Nat) : (d.bump f n i j).runs = d.runs := rfl
@[simp] theorem Dev.bump_zeroing (d : Dev) (f : Fld) (n i j : Nat) : (d.bump f n i j).zeroing = d.zeroing := rfl
@[simp] theorem Dev.bump_rotation (d : Dev) (f : Fld) (n i j : Nat) : (d.bump f n i j).rotation = d.rotation := rfl
@[simp] theorem Dev.bump_freeCtr (d : Dev) (f : Fld) (n i j : Nat) : (d.bump f n i j).freeCtr = d.freeCtr := rfl
@[simp] theorem Dev.bump_cmds (d : Dev) (f : Fld) (n i j : Nat) : (d.bump f n i j).cmds = d.cmds := rfl
@[simp] theorem Dev.bump_orders (d : Dev) (f : Fld) (n i j : Nat) : (d.bump f n i j).orders = d.orders := rfl
@[simp] theorem Dev.bump_places (d : Dev) (f : Fld) (n i j : Nat) : (d.bump f n i j).places = d.places := rfl
@[simp] theorem Dev.bump_watches (d : Dev) (f : Fld) (n i j : Nat) : (d.bump f n i j).watches = d.watches := rfl
@[simp] theorem Dev.bump_aborting (d : Dev) (f : Fld) (n i j : Nat) : (d.bump f n i j).aborting = d.aborting := rfl
@[simp] theorem Dev.bump_held (d : Dev) (f : Fld) (n i j : Nat) : (d.bump f n i j).held = d.held := rfl
@[simp] theorem Dev.bump_rr (d : Dev) (f : Fld) (n i j : Nat) : (d.bump f n i j).rr = d.rr := rfl
@[simp] theorem Dev.bump_muted (d : Dev) (f : Fld) (n i j : Nat) : (d.bump f n i j).muted = d.muted := rfl
@[simp] theorem Dev.bump_lcWait (d : Dev) (f : Fld) (n i j : Nat) : (d.bump f n i j).lcWait = d.lcWait := rfl
@[simp] theorem Dev.bump_slots (d : Dev) (f : Fld) (n i j : Nat) : (d.bump f n i j).slots = d.slots := rfl
@[simp] theorem Dev.bump_pool (d : Dev) (f : Fld) (n i j : Nat) : (d.bump f n i j).pool = d.pool := rfl
@[simp] theorem Dev.bump_xfers (d : Dev) (f : Fld) (n i j : Nat) : (d.bump f n i j).xfers = d.xfers := rfl
@[simp] theorem Dev.bump_nextXid (d : Dev) (f : Fld) (n i j : Nat) : (d.bump f n i j).nextXid = d.nextXid := rfl
@[simp] theorem Dev.bump_rsvs (d : Dev) (f : Fld) (n i j : Nat) : (d.bump f n i j).rsvs = d.rsvs := rfl
@[simp] theorem Dev.bump_committed (d : Dev) (f : Fld) (n i j : Nat) : (d.bump f n i j).committed = d.committed := rfl
@[simp] theorem Dev.bump_keys (d : Dev) (f : Fld) (n i j : Nat) : (d.bump f n i j).keys = d.keys := rfl
@[simp] theorem Dev.bump_scans (d : Dev) (f : Fld) (n i j : Nat) : (d.bump f n i j).scans = d.scans := rfl
@[simp] theorem Dev.bump_ptParent (d : Dev) (f : Fld) (n i j : Nat) : (d.bump f n i j).ptParent = d.ptParent := rfl
@[simp] theorem Dev.bump_retr (d : Dev) (f : Fld) (n i j : Nat) : (d.bump f n i j).retr = d.retr := rfl
@[simp] theorem Dev.bump_groups (d : Dev) (f : Fld) (n i j : Nat) : (d.bump f n i j).groups = d.groups := rfl
@[simp] theorem Dev.bump_faults (d : Dev) (f : Fld) (n i j : Nat) : (d.bump f n i j).faults = d.faults := rfl
@[simp] theorem Dev.bump_nextId (d : Dev) (f : Fld) (n i j : Nat) : (d.bump f n i j).nextId = d.nextId := rfl
@[simp] theorem Dev.bump_pfs (d : Dev) (f : Fld) (n i j : Nat) : (d.bump f n i j).pfs = d.pfs := rfl
@[simp] theorem Dev.bump_dems (d : Dev) (f : Fld) (n i j : Nat) : (d.bump f n i j).dems = d.dems := rfl
@[simp] theorem Dev.bump_pfOnTime (d : Dev) (f : Fld) (n i j : Nat) : (d.bump f n i j).pfOnTime = d.pfOnTime := rfl
@[simp] theorem Dev.bump_reclaimed (d : Dev) (f : Fld) (n i j : Nat) : (d.bump f n i j).reclaimed = d.reclaimed := rfl
@[simp] theorem Dev.bump_ops (d : Dev) (f : Fld) (n i j : Nat) : (d.bump f n i j).ops = d.ops := rfl
@[simp] theorem Dev.bump_qpts (d : Dev) (f : Fld) (n i j : Nat) : (d.bump f n i j).qpts = d.qpts := rfl
@[simp] theorem Dev.bump_ctx (d : Dev) (f : Fld) (n i j : Nat) : (d.bump f n i j).ctx = d.ctx := rfl
@[simp] theorem Dev.bump_txq (d : Dev) (f : Fld) (n i j : Nat) : (d.bump f n i j).txq = d.txq := rfl
@[simp] theorem Dev.bump_spray (d : Dev) (f : Fld) (n i j : Nat) : (d.bump f n i j).spray = d.spray := rfl
@[simp] theorem Dev.bump_lastPort (d : Dev) (f : Fld) (n i j : Nat) : (d.bump f n i j).lastPort = d.lastPort := rfl
@[simp] theorem Dev.bump_ports (d : Dev) (f : Fld) (n i j : Nat) : (d.bump f n i j).ports = d.ports := rfl
@[simp] theorem Dev.bump_flows (d : Dev) (f : Fld) (n i j : Nat) : (d.bump f n i j).flows = d.flows := rfl
@[simp] theorem Dev.bump_vtime (d : Dev) (f : Fld) (n i j : Nat) : (d.bump f n i j).vtime = d.vtime := rfl
@[simp] theorem Dev.bump_shapers (d : Dev) (f : Fld) (n i j : Nat) : (d.bump f n i j).shapers = d.shapers := rfl
@[simp] theorem Dev.bump_meters (d : Dev) (f : Fld) (n i j : Nat) : (d.bump f n i j).meters = d.meters := rfl
@[simp] theorem Dev.bump_gates (d : Dev) (f : Fld) (n i j : Nat) : (d.bump f n i j).gates = d.gates := rfl
@[simp] theorem Dev.bump_binds (d : Dev) (f : Fld) (n i j : Nat) : (d.bump f n i j).binds = d.binds := rfl
@[simp] theorem Dev.bump_flights (d : Dev) (f : Fld) (n i j : Nat) : (d.bump f n i j).flights = d.flights := rfl
@[simp] theorem Dev.bump_revokes (d : Dev) (f : Fld) (n i j : Nat) : (d.bump f n i j).revokes = d.revokes := rfl
@[simp] theorem Dev.bump_pins (d : Dev) (f : Fld) (n i j : Nat) : (d.bump f n i j).pins = d.pins := rfl
@[simp] theorem Dev.bump_lines (d : Dev) (f : Fld) (n i j : Nat) : (d.bump f n i j).lines = d.lines := rfl
@[simp] theorem Dev.bump_gw (d : Dev) (f : Fld) (n i j : Nat) : (d.bump f n i j).gw = d.gw := rfl
@[simp] theorem Dev.bump_gwLost (d : Dev) (f : Fld) (n i j : Nat) : (d.bump f n i j).gwLost = d.gwLost := rfl
@[simp] theorem Dev.bump_patches (d : Dev) (f : Fld) (n i j : Nat) : (d.bump f n i j).patches = d.patches := rfl
@[simp] theorem Dev.bump_mapBank (d : Dev) (f : Fld) (n i j : Nat) : (d.bump f n i j).mapBank = d.mapBank := rfl
@[simp] theorem Dev.bump_changed (d : Dev) (f : Fld) (n i j : Nat) : (d.bump f n i j).changed = d.changed := rfl
@[simp] theorem Dev.bump_drainTo (d : Dev) (f : Fld) (n i j : Nat) : (d.bump f n i j).drainTo = d.drainTo := rfl
@[simp] theorem Dev.bump_pair (d : Dev) (f : Fld) (n i j : Nat) : (d.bump f n i j).pair = d.pair := rfl
@[simp] theorem Dev.bump_mirRings (d : Dev) (f : Fld) (n i j : Nat) : (d.bump f n i j).mirRings = d.mirRings := rfl
@[simp] theorem Dev.bump_mirLand (d : Dev) (f : Fld) (n i j : Nat) : (d.bump f n i j).mirLand = d.mirLand := rfl
@[simp] theorem Dev.bump_log (d : Dev) (f : Fld) (n i j : Nat) : (d.bump f n i j).log = d.log := rfl
@[simp] theorem Dev.bump_sec (d : Dev) (f : Fld) (n i j : Nat) : (d.bump f n i j).sec = d.sec := rfl
@[simp] theorem Dev.bump_cox (d : Dev) (f : Fld) (n i j : Nat) : (d.bump f n i j).cox = d.cox := rfl
@[simp] theorem Dev.bump_cellarHeld (d : Dev) (f : Fld) (n i j : Nat) : (d.bump f n i j).cellarHeld = d.cellarHeld := rfl
@[simp] theorem Dev.bump_scrubs (d : Dev) (f : Fld) (n i j : Nat) : (d.bump f n i j).scrubs = d.scrubs := rfl
@[simp] theorem Dev.bump_wayScrubs (d : Dev) (f : Fld) (n i j : Nat) : (d.bump f n i j).wayScrubs = d.wayScrubs := rfl
@[simp] theorem Dev.bump_proxy (d : Dev) (f : Fld) (n i j : Nat) : (d.bump f n i j).proxy = d.proxy := rfl
@[simp] theorem Dev.bump_elec (d : Dev) (f : Fld) (n i j : Nat) : (d.bump f n i j).elec = d.elec := rfl
@[simp] theorem Dev.bump_msixTab (d : Dev) (f : Fld) (n i j : Nat) : (d.bump f n i j).msixTab = d.msixTab := rfl
@[simp] theorem Dev.bump_out (d : Dev) (f : Fld) (n i j : Nat) : (d.bump f n i j).out = d.out := rfl

/-! ## `emit` changes only `out` -/

@[simp] theorem Dev.emit_clk (d : Dev) (o : Output) : (d.emit o).clk = d.clk := rfl
@[simp] theorem Dev.emit_regs (d : Dev) (o : Output) : (d.emit o).regs = d.regs := rfl
@[simp] theorem Dev.emit_latch (d : Dev) (o : Output) : (d.emit o).latch = d.latch := rfl
@[simp] theorem Dev.emit_dram (d : Dev) (o : Output) : (d.emit o).dram = d.dram := rfl
@[simp] theorem Dev.emit_hall (d : Dev) (o : Output) : (d.emit o).hall = d.hall := rfl
@[simp] theorem Dev.emit_hallBad (d : Dev) (o : Output) : (d.emit o).hallBad = d.hallBad := rfl
@[simp] theorem Dev.emit_stalled (d : Dev) (o : Output) : (d.emit o).stalled = d.stalled := rfl
@[simp] theorem Dev.emit_hallLost (d : Dev) (o : Output) : (d.emit o).hallLost = d.hallLost := rfl
@[simp] theorem Dev.emit_host (d : Dev) (o : Output) : (d.emit o).host = d.host := rfl
@[simp] theorem Dev.emit_coreMem (d : Dev) (o : Output) : (d.emit o).coreMem = d.coreMem := rfl
@[simp] theorem Dev.emit_boatBuf (d : Dev) (o : Output) : (d.emit o).boatBuf = d.boatBuf := rfl
@[simp] theorem Dev.emit_kernels (d : Dev) (o : Output) : (d.emit o).kernels = d.kernels := rfl
@[simp] theorem Dev.emit_runs (d : Dev) (o : Output) : (d.emit o).runs = d.runs := rfl
@[simp] theorem Dev.emit_zeroing (d : Dev) (o : Output) : (d.emit o).zeroing = d.zeroing := rfl
@[simp] theorem Dev.emit_rotation (d : Dev) (o : Output) : (d.emit o).rotation = d.rotation := rfl
@[simp] theorem Dev.emit_freeCtr (d : Dev) (o : Output) : (d.emit o).freeCtr = d.freeCtr := rfl
@[simp] theorem Dev.emit_cmds (d : Dev) (o : Output) : (d.emit o).cmds = d.cmds := rfl
@[simp] theorem Dev.emit_orders (d : Dev) (o : Output) : (d.emit o).orders = d.orders := rfl
@[simp] theorem Dev.emit_places (d : Dev) (o : Output) : (d.emit o).places = d.places := rfl
@[simp] theorem Dev.emit_watches (d : Dev) (o : Output) : (d.emit o).watches = d.watches := rfl
@[simp] theorem Dev.emit_aborting (d : Dev) (o : Output) : (d.emit o).aborting = d.aborting := rfl
@[simp] theorem Dev.emit_held (d : Dev) (o : Output) : (d.emit o).held = d.held := rfl
@[simp] theorem Dev.emit_rr (d : Dev) (o : Output) : (d.emit o).rr = d.rr := rfl
@[simp] theorem Dev.emit_muted (d : Dev) (o : Output) : (d.emit o).muted = d.muted := rfl
@[simp] theorem Dev.emit_lcWait (d : Dev) (o : Output) : (d.emit o).lcWait = d.lcWait := rfl
@[simp] theorem Dev.emit_slots (d : Dev) (o : Output) : (d.emit o).slots = d.slots := rfl
@[simp] theorem Dev.emit_pool (d : Dev) (o : Output) : (d.emit o).pool = d.pool := rfl
@[simp] theorem Dev.emit_xfers (d : Dev) (o : Output) : (d.emit o).xfers = d.xfers := rfl
@[simp] theorem Dev.emit_nextXid (d : Dev) (o : Output) : (d.emit o).nextXid = d.nextXid := rfl
@[simp] theorem Dev.emit_rsvs (d : Dev) (o : Output) : (d.emit o).rsvs = d.rsvs := rfl
@[simp] theorem Dev.emit_committed (d : Dev) (o : Output) : (d.emit o).committed = d.committed := rfl
@[simp] theorem Dev.emit_keys (d : Dev) (o : Output) : (d.emit o).keys = d.keys := rfl
@[simp] theorem Dev.emit_scans (d : Dev) (o : Output) : (d.emit o).scans = d.scans := rfl
@[simp] theorem Dev.emit_ptParent (d : Dev) (o : Output) : (d.emit o).ptParent = d.ptParent := rfl
@[simp] theorem Dev.emit_retr (d : Dev) (o : Output) : (d.emit o).retr = d.retr := rfl
@[simp] theorem Dev.emit_groups (d : Dev) (o : Output) : (d.emit o).groups = d.groups := rfl
@[simp] theorem Dev.emit_faults (d : Dev) (o : Output) : (d.emit o).faults = d.faults := rfl
@[simp] theorem Dev.emit_nextId (d : Dev) (o : Output) : (d.emit o).nextId = d.nextId := rfl
@[simp] theorem Dev.emit_pfs (d : Dev) (o : Output) : (d.emit o).pfs = d.pfs := rfl
@[simp] theorem Dev.emit_dems (d : Dev) (o : Output) : (d.emit o).dems = d.dems := rfl
@[simp] theorem Dev.emit_pfOnTime (d : Dev) (o : Output) : (d.emit o).pfOnTime = d.pfOnTime := rfl
@[simp] theorem Dev.emit_reclaimed (d : Dev) (o : Output) : (d.emit o).reclaimed = d.reclaimed := rfl
@[simp] theorem Dev.emit_ops (d : Dev) (o : Output) : (d.emit o).ops = d.ops := rfl
@[simp] theorem Dev.emit_qpts (d : Dev) (o : Output) : (d.emit o).qpts = d.qpts := rfl
@[simp] theorem Dev.emit_ctx (d : Dev) (o : Output) : (d.emit o).ctx = d.ctx := rfl
@[simp] theorem Dev.emit_txq (d : Dev) (o : Output) : (d.emit o).txq = d.txq := rfl
@[simp] theorem Dev.emit_spray (d : Dev) (o : Output) : (d.emit o).spray = d.spray := rfl
@[simp] theorem Dev.emit_lastPort (d : Dev) (o : Output) : (d.emit o).lastPort = d.lastPort := rfl
@[simp] theorem Dev.emit_ports (d : Dev) (o : Output) : (d.emit o).ports = d.ports := rfl
@[simp] theorem Dev.emit_flows (d : Dev) (o : Output) : (d.emit o).flows = d.flows := rfl
@[simp] theorem Dev.emit_vtime (d : Dev) (o : Output) : (d.emit o).vtime = d.vtime := rfl
@[simp] theorem Dev.emit_shapers (d : Dev) (o : Output) : (d.emit o).shapers = d.shapers := rfl
@[simp] theorem Dev.emit_meters (d : Dev) (o : Output) : (d.emit o).meters = d.meters := rfl
@[simp] theorem Dev.emit_gates (d : Dev) (o : Output) : (d.emit o).gates = d.gates := rfl
@[simp] theorem Dev.emit_binds (d : Dev) (o : Output) : (d.emit o).binds = d.binds := rfl
@[simp] theorem Dev.emit_flights (d : Dev) (o : Output) : (d.emit o).flights = d.flights := rfl
@[simp] theorem Dev.emit_revokes (d : Dev) (o : Output) : (d.emit o).revokes = d.revokes := rfl
@[simp] theorem Dev.emit_pins (d : Dev) (o : Output) : (d.emit o).pins = d.pins := rfl
@[simp] theorem Dev.emit_lines (d : Dev) (o : Output) : (d.emit o).lines = d.lines := rfl
@[simp] theorem Dev.emit_gw (d : Dev) (o : Output) : (d.emit o).gw = d.gw := rfl
@[simp] theorem Dev.emit_gwLost (d : Dev) (o : Output) : (d.emit o).gwLost = d.gwLost := rfl
@[simp] theorem Dev.emit_patches (d : Dev) (o : Output) : (d.emit o).patches = d.patches := rfl
@[simp] theorem Dev.emit_mapBank (d : Dev) (o : Output) : (d.emit o).mapBank = d.mapBank := rfl
@[simp] theorem Dev.emit_changed (d : Dev) (o : Output) : (d.emit o).changed = d.changed := rfl
@[simp] theorem Dev.emit_drainTo (d : Dev) (o : Output) : (d.emit o).drainTo = d.drainTo := rfl
@[simp] theorem Dev.emit_pair (d : Dev) (o : Output) : (d.emit o).pair = d.pair := rfl
@[simp] theorem Dev.emit_mirRings (d : Dev) (o : Output) : (d.emit o).mirRings = d.mirRings := rfl
@[simp] theorem Dev.emit_mirLand (d : Dev) (o : Output) : (d.emit o).mirLand = d.mirLand := rfl
@[simp] theorem Dev.emit_log (d : Dev) (o : Output) : (d.emit o).log = d.log := rfl
@[simp] theorem Dev.emit_sec (d : Dev) (o : Output) : (d.emit o).sec = d.sec := rfl
@[simp] theorem Dev.emit_cox (d : Dev) (o : Output) : (d.emit o).cox = d.cox := rfl
@[simp] theorem Dev.emit_cellarHeld (d : Dev) (o : Output) : (d.emit o).cellarHeld = d.cellarHeld := rfl
@[simp] theorem Dev.emit_scrubs (d : Dev) (o : Output) : (d.emit o).scrubs = d.scrubs := rfl
@[simp] theorem Dev.emit_wayScrubs (d : Dev) (o : Output) : (d.emit o).wayScrubs = d.wayScrubs := rfl
@[simp] theorem Dev.emit_proxy (d : Dev) (o : Output) : (d.emit o).proxy = d.proxy := rfl
@[simp] theorem Dev.emit_elec (d : Dev) (o : Output) : (d.emit o).elec = d.elec := rfl
@[simp] theorem Dev.emit_msixTab (d : Dev) (o : Output) : (d.emit o).msixTab = d.msixTab := rfl

/-! ## `dramPut` changes only `dram` -/

@[simp] theorem Dev.dramPut_clk (d : Dev) (a : Nat) (bs : List Byte) : (d.dramPut a bs).clk = d.clk := rfl
@[simp] theorem Dev.dramPut_regs (d : Dev) (a : Nat) (bs : List Byte) : (d.dramPut a bs).regs = d.regs := rfl
@[simp] theorem Dev.dramPut_latch (d : Dev) (a : Nat) (bs : List Byte) : (d.dramPut a bs).latch = d.latch := rfl
@[simp] theorem Dev.dramPut_hall (d : Dev) (a : Nat) (bs : List Byte) : (d.dramPut a bs).hall = d.hall := rfl
@[simp] theorem Dev.dramPut_hallBad (d : Dev) (a : Nat) (bs : List Byte) : (d.dramPut a bs).hallBad = d.hallBad := rfl
@[simp] theorem Dev.dramPut_stalled (d : Dev) (a : Nat) (bs : List Byte) : (d.dramPut a bs).stalled = d.stalled := rfl
@[simp] theorem Dev.dramPut_hallLost (d : Dev) (a : Nat) (bs : List Byte) : (d.dramPut a bs).hallLost = d.hallLost := rfl
@[simp] theorem Dev.dramPut_host (d : Dev) (a : Nat) (bs : List Byte) : (d.dramPut a bs).host = d.host := rfl
@[simp] theorem Dev.dramPut_coreMem (d : Dev) (a : Nat) (bs : List Byte) : (d.dramPut a bs).coreMem = d.coreMem := rfl
@[simp] theorem Dev.dramPut_boatBuf (d : Dev) (a : Nat) (bs : List Byte) : (d.dramPut a bs).boatBuf = d.boatBuf := rfl
@[simp] theorem Dev.dramPut_kernels (d : Dev) (a : Nat) (bs : List Byte) : (d.dramPut a bs).kernels = d.kernels := rfl
@[simp] theorem Dev.dramPut_runs (d : Dev) (a : Nat) (bs : List Byte) : (d.dramPut a bs).runs = d.runs := rfl
@[simp] theorem Dev.dramPut_zeroing (d : Dev) (a : Nat) (bs : List Byte) : (d.dramPut a bs).zeroing = d.zeroing := rfl
@[simp] theorem Dev.dramPut_rotation (d : Dev) (a : Nat) (bs : List Byte) : (d.dramPut a bs).rotation = d.rotation := rfl
@[simp] theorem Dev.dramPut_freeCtr (d : Dev) (a : Nat) (bs : List Byte) : (d.dramPut a bs).freeCtr = d.freeCtr := rfl
@[simp] theorem Dev.dramPut_cmds (d : Dev) (a : Nat) (bs : List Byte) : (d.dramPut a bs).cmds = d.cmds := rfl
@[simp] theorem Dev.dramPut_orders (d : Dev) (a : Nat) (bs : List Byte) : (d.dramPut a bs).orders = d.orders := rfl
@[simp] theorem Dev.dramPut_places (d : Dev) (a : Nat) (bs : List Byte) : (d.dramPut a bs).places = d.places := rfl
@[simp] theorem Dev.dramPut_watches (d : Dev) (a : Nat) (bs : List Byte) : (d.dramPut a bs).watches = d.watches := rfl
@[simp] theorem Dev.dramPut_aborting (d : Dev) (a : Nat) (bs : List Byte) : (d.dramPut a bs).aborting = d.aborting := rfl
@[simp] theorem Dev.dramPut_held (d : Dev) (a : Nat) (bs : List Byte) : (d.dramPut a bs).held = d.held := rfl
@[simp] theorem Dev.dramPut_rr (d : Dev) (a : Nat) (bs : List Byte) : (d.dramPut a bs).rr = d.rr := rfl
@[simp] theorem Dev.dramPut_muted (d : Dev) (a : Nat) (bs : List Byte) : (d.dramPut a bs).muted = d.muted := rfl
@[simp] theorem Dev.dramPut_lcWait (d : Dev) (a : Nat) (bs : List Byte) : (d.dramPut a bs).lcWait = d.lcWait := rfl
@[simp] theorem Dev.dramPut_slots (d : Dev) (a : Nat) (bs : List Byte) : (d.dramPut a bs).slots = d.slots := rfl
@[simp] theorem Dev.dramPut_pool (d : Dev) (a : Nat) (bs : List Byte) : (d.dramPut a bs).pool = d.pool := rfl
@[simp] theorem Dev.dramPut_xfers (d : Dev) (a : Nat) (bs : List Byte) : (d.dramPut a bs).xfers = d.xfers := rfl
@[simp] theorem Dev.dramPut_nextXid (d : Dev) (a : Nat) (bs : List Byte) : (d.dramPut a bs).nextXid = d.nextXid := rfl
@[simp] theorem Dev.dramPut_rsvs (d : Dev) (a : Nat) (bs : List Byte) : (d.dramPut a bs).rsvs = d.rsvs := rfl
@[simp] theorem Dev.dramPut_committed (d : Dev) (a : Nat) (bs : List Byte) : (d.dramPut a bs).committed = d.committed := rfl
@[simp] theorem Dev.dramPut_keys (d : Dev) (a : Nat) (bs : List Byte) : (d.dramPut a bs).keys = d.keys := rfl
@[simp] theorem Dev.dramPut_scans (d : Dev) (a : Nat) (bs : List Byte) : (d.dramPut a bs).scans = d.scans := rfl
@[simp] theorem Dev.dramPut_ptParent (d : Dev) (a : Nat) (bs : List Byte) : (d.dramPut a bs).ptParent = d.ptParent := rfl
@[simp] theorem Dev.dramPut_retr (d : Dev) (a : Nat) (bs : List Byte) : (d.dramPut a bs).retr = d.retr := rfl
@[simp] theorem Dev.dramPut_groups (d : Dev) (a : Nat) (bs : List Byte) : (d.dramPut a bs).groups = d.groups := rfl
@[simp] theorem Dev.dramPut_faults (d : Dev) (a : Nat) (bs : List Byte) : (d.dramPut a bs).faults = d.faults := rfl
@[simp] theorem Dev.dramPut_nextId (d : Dev) (a : Nat) (bs : List Byte) : (d.dramPut a bs).nextId = d.nextId := rfl
@[simp] theorem Dev.dramPut_pfs (d : Dev) (a : Nat) (bs : List Byte) : (d.dramPut a bs).pfs = d.pfs := rfl
@[simp] theorem Dev.dramPut_dems (d : Dev) (a : Nat) (bs : List Byte) : (d.dramPut a bs).dems = d.dems := rfl
@[simp] theorem Dev.dramPut_pfOnTime (d : Dev) (a : Nat) (bs : List Byte) : (d.dramPut a bs).pfOnTime = d.pfOnTime := rfl
@[simp] theorem Dev.dramPut_reclaimed (d : Dev) (a : Nat) (bs : List Byte) : (d.dramPut a bs).reclaimed = d.reclaimed := rfl
@[simp] theorem Dev.dramPut_ops (d : Dev) (a : Nat) (bs : List Byte) : (d.dramPut a bs).ops = d.ops := rfl
@[simp] theorem Dev.dramPut_qpts (d : Dev) (a : Nat) (bs : List Byte) : (d.dramPut a bs).qpts = d.qpts := rfl
@[simp] theorem Dev.dramPut_ctx (d : Dev) (a : Nat) (bs : List Byte) : (d.dramPut a bs).ctx = d.ctx := rfl
@[simp] theorem Dev.dramPut_txq (d : Dev) (a : Nat) (bs : List Byte) : (d.dramPut a bs).txq = d.txq := rfl
@[simp] theorem Dev.dramPut_spray (d : Dev) (a : Nat) (bs : List Byte) : (d.dramPut a bs).spray = d.spray := rfl
@[simp] theorem Dev.dramPut_lastPort (d : Dev) (a : Nat) (bs : List Byte) : (d.dramPut a bs).lastPort = d.lastPort := rfl
@[simp] theorem Dev.dramPut_ports (d : Dev) (a : Nat) (bs : List Byte) : (d.dramPut a bs).ports = d.ports := rfl
@[simp] theorem Dev.dramPut_flows (d : Dev) (a : Nat) (bs : List Byte) : (d.dramPut a bs).flows = d.flows := rfl
@[simp] theorem Dev.dramPut_vtime (d : Dev) (a : Nat) (bs : List Byte) : (d.dramPut a bs).vtime = d.vtime := rfl
@[simp] theorem Dev.dramPut_shapers (d : Dev) (a : Nat) (bs : List Byte) : (d.dramPut a bs).shapers = d.shapers := rfl
@[simp] theorem Dev.dramPut_meters (d : Dev) (a : Nat) (bs : List Byte) : (d.dramPut a bs).meters = d.meters := rfl
@[simp] theorem Dev.dramPut_gates (d : Dev) (a : Nat) (bs : List Byte) : (d.dramPut a bs).gates = d.gates := rfl
@[simp] theorem Dev.dramPut_binds (d : Dev) (a : Nat) (bs : List Byte) : (d.dramPut a bs).binds = d.binds := rfl
@[simp] theorem Dev.dramPut_flights (d : Dev) (a : Nat) (bs : List Byte) : (d.dramPut a bs).flights = d.flights := rfl
@[simp] theorem Dev.dramPut_revokes (d : Dev) (a : Nat) (bs : List Byte) : (d.dramPut a bs).revokes = d.revokes := rfl
@[simp] theorem Dev.dramPut_pins (d : Dev) (a : Nat) (bs : List Byte) : (d.dramPut a bs).pins = d.pins := rfl
@[simp] theorem Dev.dramPut_lines (d : Dev) (a : Nat) (bs : List Byte) : (d.dramPut a bs).lines = d.lines := rfl
@[simp] theorem Dev.dramPut_gw (d : Dev) (a : Nat) (bs : List Byte) : (d.dramPut a bs).gw = d.gw := rfl
@[simp] theorem Dev.dramPut_gwLost (d : Dev) (a : Nat) (bs : List Byte) : (d.dramPut a bs).gwLost = d.gwLost := rfl
@[simp] theorem Dev.dramPut_patches (d : Dev) (a : Nat) (bs : List Byte) : (d.dramPut a bs).patches = d.patches := rfl
@[simp] theorem Dev.dramPut_mapBank (d : Dev) (a : Nat) (bs : List Byte) : (d.dramPut a bs).mapBank = d.mapBank := rfl
@[simp] theorem Dev.dramPut_changed (d : Dev) (a : Nat) (bs : List Byte) : (d.dramPut a bs).changed = d.changed := rfl
@[simp] theorem Dev.dramPut_drainTo (d : Dev) (a : Nat) (bs : List Byte) : (d.dramPut a bs).drainTo = d.drainTo := rfl
@[simp] theorem Dev.dramPut_pair (d : Dev) (a : Nat) (bs : List Byte) : (d.dramPut a bs).pair = d.pair := rfl
@[simp] theorem Dev.dramPut_mirRings (d : Dev) (a : Nat) (bs : List Byte) : (d.dramPut a bs).mirRings = d.mirRings := rfl
@[simp] theorem Dev.dramPut_mirLand (d : Dev) (a : Nat) (bs : List Byte) : (d.dramPut a bs).mirLand = d.mirLand := rfl
@[simp] theorem Dev.dramPut_log (d : Dev) (a : Nat) (bs : List Byte) : (d.dramPut a bs).log = d.log := rfl
@[simp] theorem Dev.dramPut_sec (d : Dev) (a : Nat) (bs : List Byte) : (d.dramPut a bs).sec = d.sec := rfl
@[simp] theorem Dev.dramPut_cox (d : Dev) (a : Nat) (bs : List Byte) : (d.dramPut a bs).cox = d.cox := rfl
@[simp] theorem Dev.dramPut_cellarHeld (d : Dev) (a : Nat) (bs : List Byte) : (d.dramPut a bs).cellarHeld = d.cellarHeld := rfl
@[simp] theorem Dev.dramPut_scrubs (d : Dev) (a : Nat) (bs : List Byte) : (d.dramPut a bs).scrubs = d.scrubs := rfl
@[simp] theorem Dev.dramPut_wayScrubs (d : Dev) (a : Nat) (bs : List Byte) : (d.dramPut a bs).wayScrubs = d.wayScrubs := rfl
@[simp] theorem Dev.dramPut_proxy (d : Dev) (a : Nat) (bs : List Byte) : (d.dramPut a bs).proxy = d.proxy := rfl
@[simp] theorem Dev.dramPut_elec (d : Dev) (a : Nat) (bs : List Byte) : (d.dramPut a bs).elec = d.elec := rfl
@[simp] theorem Dev.dramPut_msixTab (d : Dev) (a : Nat) (bs : List Byte) : (d.dramPut a bs).msixTab = d.msixTab := rfl
@[simp] theorem Dev.dramPut_out (d : Dev) (a : Nat) (bs : List Byte) : (d.dramPut a bs).out = d.out := rfl

/-! ## `dramPutN` changes only `dram` -/

@[simp] theorem Dev.dramPutN_clk (d : Dev) (n a v : Nat) : (d.dramPutN n a v).clk = d.clk := rfl
@[simp] theorem Dev.dramPutN_regs (d : Dev) (n a v : Nat) : (d.dramPutN n a v).regs = d.regs := rfl
@[simp] theorem Dev.dramPutN_latch (d : Dev) (n a v : Nat) : (d.dramPutN n a v).latch = d.latch := rfl
@[simp] theorem Dev.dramPutN_hall (d : Dev) (n a v : Nat) : (d.dramPutN n a v).hall = d.hall := rfl
@[simp] theorem Dev.dramPutN_hallBad (d : Dev) (n a v : Nat) : (d.dramPutN n a v).hallBad = d.hallBad := rfl
@[simp] theorem Dev.dramPutN_stalled (d : Dev) (n a v : Nat) : (d.dramPutN n a v).stalled = d.stalled := rfl
@[simp] theorem Dev.dramPutN_hallLost (d : Dev) (n a v : Nat) : (d.dramPutN n a v).hallLost = d.hallLost := rfl
@[simp] theorem Dev.dramPutN_host (d : Dev) (n a v : Nat) : (d.dramPutN n a v).host = d.host := rfl
@[simp] theorem Dev.dramPutN_coreMem (d : Dev) (n a v : Nat) : (d.dramPutN n a v).coreMem = d.coreMem := rfl
@[simp] theorem Dev.dramPutN_boatBuf (d : Dev) (n a v : Nat) : (d.dramPutN n a v).boatBuf = d.boatBuf := rfl
@[simp] theorem Dev.dramPutN_kernels (d : Dev) (n a v : Nat) : (d.dramPutN n a v).kernels = d.kernels := rfl
@[simp] theorem Dev.dramPutN_runs (d : Dev) (n a v : Nat) : (d.dramPutN n a v).runs = d.runs := rfl
@[simp] theorem Dev.dramPutN_zeroing (d : Dev) (n a v : Nat) : (d.dramPutN n a v).zeroing = d.zeroing := rfl
@[simp] theorem Dev.dramPutN_rotation (d : Dev) (n a v : Nat) : (d.dramPutN n a v).rotation = d.rotation := rfl
@[simp] theorem Dev.dramPutN_freeCtr (d : Dev) (n a v : Nat) : (d.dramPutN n a v).freeCtr = d.freeCtr := rfl
@[simp] theorem Dev.dramPutN_cmds (d : Dev) (n a v : Nat) : (d.dramPutN n a v).cmds = d.cmds := rfl
@[simp] theorem Dev.dramPutN_orders (d : Dev) (n a v : Nat) : (d.dramPutN n a v).orders = d.orders := rfl
@[simp] theorem Dev.dramPutN_places (d : Dev) (n a v : Nat) : (d.dramPutN n a v).places = d.places := rfl
@[simp] theorem Dev.dramPutN_watches (d : Dev) (n a v : Nat) : (d.dramPutN n a v).watches = d.watches := rfl
@[simp] theorem Dev.dramPutN_aborting (d : Dev) (n a v : Nat) : (d.dramPutN n a v).aborting = d.aborting := rfl
@[simp] theorem Dev.dramPutN_held (d : Dev) (n a v : Nat) : (d.dramPutN n a v).held = d.held := rfl
@[simp] theorem Dev.dramPutN_rr (d : Dev) (n a v : Nat) : (d.dramPutN n a v).rr = d.rr := rfl
@[simp] theorem Dev.dramPutN_muted (d : Dev) (n a v : Nat) : (d.dramPutN n a v).muted = d.muted := rfl
@[simp] theorem Dev.dramPutN_lcWait (d : Dev) (n a v : Nat) : (d.dramPutN n a v).lcWait = d.lcWait := rfl
@[simp] theorem Dev.dramPutN_slots (d : Dev) (n a v : Nat) : (d.dramPutN n a v).slots = d.slots := rfl
@[simp] theorem Dev.dramPutN_pool (d : Dev) (n a v : Nat) : (d.dramPutN n a v).pool = d.pool := rfl
@[simp] theorem Dev.dramPutN_xfers (d : Dev) (n a v : Nat) : (d.dramPutN n a v).xfers = d.xfers := rfl
@[simp] theorem Dev.dramPutN_nextXid (d : Dev) (n a v : Nat) : (d.dramPutN n a v).nextXid = d.nextXid := rfl
@[simp] theorem Dev.dramPutN_rsvs (d : Dev) (n a v : Nat) : (d.dramPutN n a v).rsvs = d.rsvs := rfl
@[simp] theorem Dev.dramPutN_committed (d : Dev) (n a v : Nat) : (d.dramPutN n a v).committed = d.committed := rfl
@[simp] theorem Dev.dramPutN_keys (d : Dev) (n a v : Nat) : (d.dramPutN n a v).keys = d.keys := rfl
@[simp] theorem Dev.dramPutN_scans (d : Dev) (n a v : Nat) : (d.dramPutN n a v).scans = d.scans := rfl
@[simp] theorem Dev.dramPutN_ptParent (d : Dev) (n a v : Nat) : (d.dramPutN n a v).ptParent = d.ptParent := rfl
@[simp] theorem Dev.dramPutN_retr (d : Dev) (n a v : Nat) : (d.dramPutN n a v).retr = d.retr := rfl
@[simp] theorem Dev.dramPutN_groups (d : Dev) (n a v : Nat) : (d.dramPutN n a v).groups = d.groups := rfl
@[simp] theorem Dev.dramPutN_faults (d : Dev) (n a v : Nat) : (d.dramPutN n a v).faults = d.faults := rfl
@[simp] theorem Dev.dramPutN_nextId (d : Dev) (n a v : Nat) : (d.dramPutN n a v).nextId = d.nextId := rfl
@[simp] theorem Dev.dramPutN_pfs (d : Dev) (n a v : Nat) : (d.dramPutN n a v).pfs = d.pfs := rfl
@[simp] theorem Dev.dramPutN_dems (d : Dev) (n a v : Nat) : (d.dramPutN n a v).dems = d.dems := rfl
@[simp] theorem Dev.dramPutN_pfOnTime (d : Dev) (n a v : Nat) : (d.dramPutN n a v).pfOnTime = d.pfOnTime := rfl
@[simp] theorem Dev.dramPutN_reclaimed (d : Dev) (n a v : Nat) : (d.dramPutN n a v).reclaimed = d.reclaimed := rfl
@[simp] theorem Dev.dramPutN_ops (d : Dev) (n a v : Nat) : (d.dramPutN n a v).ops = d.ops := rfl
@[simp] theorem Dev.dramPutN_qpts (d : Dev) (n a v : Nat) : (d.dramPutN n a v).qpts = d.qpts := rfl
@[simp] theorem Dev.dramPutN_ctx (d : Dev) (n a v : Nat) : (d.dramPutN n a v).ctx = d.ctx := rfl
@[simp] theorem Dev.dramPutN_txq (d : Dev) (n a v : Nat) : (d.dramPutN n a v).txq = d.txq := rfl
@[simp] theorem Dev.dramPutN_spray (d : Dev) (n a v : Nat) : (d.dramPutN n a v).spray = d.spray := rfl
@[simp] theorem Dev.dramPutN_lastPort (d : Dev) (n a v : Nat) : (d.dramPutN n a v).lastPort = d.lastPort := rfl
@[simp] theorem Dev.dramPutN_ports (d : Dev) (n a v : Nat) : (d.dramPutN n a v).ports = d.ports := rfl
@[simp] theorem Dev.dramPutN_flows (d : Dev) (n a v : Nat) : (d.dramPutN n a v).flows = d.flows := rfl
@[simp] theorem Dev.dramPutN_vtime (d : Dev) (n a v : Nat) : (d.dramPutN n a v).vtime = d.vtime := rfl
@[simp] theorem Dev.dramPutN_shapers (d : Dev) (n a v : Nat) : (d.dramPutN n a v).shapers = d.shapers := rfl
@[simp] theorem Dev.dramPutN_meters (d : Dev) (n a v : Nat) : (d.dramPutN n a v).meters = d.meters := rfl
@[simp] theorem Dev.dramPutN_gates (d : Dev) (n a v : Nat) : (d.dramPutN n a v).gates = d.gates := rfl
@[simp] theorem Dev.dramPutN_binds (d : Dev) (n a v : Nat) : (d.dramPutN n a v).binds = d.binds := rfl
@[simp] theorem Dev.dramPutN_flights (d : Dev) (n a v : Nat) : (d.dramPutN n a v).flights = d.flights := rfl
@[simp] theorem Dev.dramPutN_revokes (d : Dev) (n a v : Nat) : (d.dramPutN n a v).revokes = d.revokes := rfl
@[simp] theorem Dev.dramPutN_pins (d : Dev) (n a v : Nat) : (d.dramPutN n a v).pins = d.pins := rfl
@[simp] theorem Dev.dramPutN_lines (d : Dev) (n a v : Nat) : (d.dramPutN n a v).lines = d.lines := rfl
@[simp] theorem Dev.dramPutN_gw (d : Dev) (n a v : Nat) : (d.dramPutN n a v).gw = d.gw := rfl
@[simp] theorem Dev.dramPutN_gwLost (d : Dev) (n a v : Nat) : (d.dramPutN n a v).gwLost = d.gwLost := rfl
@[simp] theorem Dev.dramPutN_patches (d : Dev) (n a v : Nat) : (d.dramPutN n a v).patches = d.patches := rfl
@[simp] theorem Dev.dramPutN_mapBank (d : Dev) (n a v : Nat) : (d.dramPutN n a v).mapBank = d.mapBank := rfl
@[simp] theorem Dev.dramPutN_changed (d : Dev) (n a v : Nat) : (d.dramPutN n a v).changed = d.changed := rfl
@[simp] theorem Dev.dramPutN_drainTo (d : Dev) (n a v : Nat) : (d.dramPutN n a v).drainTo = d.drainTo := rfl
@[simp] theorem Dev.dramPutN_pair (d : Dev) (n a v : Nat) : (d.dramPutN n a v).pair = d.pair := rfl
@[simp] theorem Dev.dramPutN_mirRings (d : Dev) (n a v : Nat) : (d.dramPutN n a v).mirRings = d.mirRings := rfl
@[simp] theorem Dev.dramPutN_mirLand (d : Dev) (n a v : Nat) : (d.dramPutN n a v).mirLand = d.mirLand := rfl
@[simp] theorem Dev.dramPutN_log (d : Dev) (n a v : Nat) : (d.dramPutN n a v).log = d.log := rfl
@[simp] theorem Dev.dramPutN_sec (d : Dev) (n a v : Nat) : (d.dramPutN n a v).sec = d.sec := rfl
@[simp] theorem Dev.dramPutN_cox (d : Dev) (n a v : Nat) : (d.dramPutN n a v).cox = d.cox := rfl
@[simp] theorem Dev.dramPutN_cellarHeld (d : Dev) (n a v : Nat) : (d.dramPutN n a v).cellarHeld = d.cellarHeld := rfl
@[simp] theorem Dev.dramPutN_scrubs (d : Dev) (n a v : Nat) : (d.dramPutN n a v).scrubs = d.scrubs := rfl
@[simp] theorem Dev.dramPutN_wayScrubs (d : Dev) (n a v : Nat) : (d.dramPutN n a v).wayScrubs = d.wayScrubs := rfl
@[simp] theorem Dev.dramPutN_proxy (d : Dev) (n a v : Nat) : (d.dramPutN n a v).proxy = d.proxy := rfl
@[simp] theorem Dev.dramPutN_elec (d : Dev) (n a v : Nat) : (d.dramPutN n a v).elec = d.elec := rfl
@[simp] theorem Dev.dramPutN_msixTab (d : Dev) (n a v : Nat) : (d.dramPutN n a v).msixTab = d.msixTab := rfl
@[simp] theorem Dev.dramPutN_out (d : Dev) (n a v : Nat) : (d.dramPutN n a v).out = d.out := rfl

/-! ## `setCmd` changes only `cmds` -/

@[simp] theorem Dev.setCmd_clk (d : Dev) (k : RunCmd) : (d.setCmd k).clk = d.clk := rfl
@[simp] theorem Dev.setCmd_regs (d : Dev) (k : RunCmd) : (d.setCmd k).regs = d.regs := rfl
@[simp] theorem Dev.setCmd_latch (d : Dev) (k : RunCmd) : (d.setCmd k).latch = d.latch := rfl
@[simp] theorem Dev.setCmd_dram (d : Dev) (k : RunCmd) : (d.setCmd k).dram = d.dram := rfl
@[simp] theorem Dev.setCmd_hall (d : Dev) (k : RunCmd) : (d.setCmd k).hall = d.hall := rfl
@[simp] theorem Dev.setCmd_hallBad (d : Dev) (k : RunCmd) : (d.setCmd k).hallBad = d.hallBad := rfl
@[simp] theorem Dev.setCmd_stalled (d : Dev) (k : RunCmd) : (d.setCmd k).stalled = d.stalled := rfl
@[simp] theorem Dev.setCmd_hallLost (d : Dev) (k : RunCmd) : (d.setCmd k).hallLost = d.hallLost := rfl
@[simp] theorem Dev.setCmd_host (d : Dev) (k : RunCmd) : (d.setCmd k).host = d.host := rfl
@[simp] theorem Dev.setCmd_coreMem (d : Dev) (k : RunCmd) : (d.setCmd k).coreMem = d.coreMem := rfl
@[simp] theorem Dev.setCmd_boatBuf (d : Dev) (k : RunCmd) : (d.setCmd k).boatBuf = d.boatBuf := rfl
@[simp] theorem Dev.setCmd_kernels (d : Dev) (k : RunCmd) : (d.setCmd k).kernels = d.kernels := rfl
@[simp] theorem Dev.setCmd_runs (d : Dev) (k : RunCmd) : (d.setCmd k).runs = d.runs := rfl
@[simp] theorem Dev.setCmd_zeroing (d : Dev) (k : RunCmd) : (d.setCmd k).zeroing = d.zeroing := rfl
@[simp] theorem Dev.setCmd_rotation (d : Dev) (k : RunCmd) : (d.setCmd k).rotation = d.rotation := rfl
@[simp] theorem Dev.setCmd_freeCtr (d : Dev) (k : RunCmd) : (d.setCmd k).freeCtr = d.freeCtr := rfl
@[simp] theorem Dev.setCmd_orders (d : Dev) (k : RunCmd) : (d.setCmd k).orders = d.orders := rfl
@[simp] theorem Dev.setCmd_places (d : Dev) (k : RunCmd) : (d.setCmd k).places = d.places := rfl
@[simp] theorem Dev.setCmd_watches (d : Dev) (k : RunCmd) : (d.setCmd k).watches = d.watches := rfl
@[simp] theorem Dev.setCmd_aborting (d : Dev) (k : RunCmd) : (d.setCmd k).aborting = d.aborting := rfl
@[simp] theorem Dev.setCmd_held (d : Dev) (k : RunCmd) : (d.setCmd k).held = d.held := rfl
@[simp] theorem Dev.setCmd_rr (d : Dev) (k : RunCmd) : (d.setCmd k).rr = d.rr := rfl
@[simp] theorem Dev.setCmd_muted (d : Dev) (k : RunCmd) : (d.setCmd k).muted = d.muted := rfl
@[simp] theorem Dev.setCmd_lcWait (d : Dev) (k : RunCmd) : (d.setCmd k).lcWait = d.lcWait := rfl
@[simp] theorem Dev.setCmd_slots (d : Dev) (k : RunCmd) : (d.setCmd k).slots = d.slots := rfl
@[simp] theorem Dev.setCmd_pool (d : Dev) (k : RunCmd) : (d.setCmd k).pool = d.pool := rfl
@[simp] theorem Dev.setCmd_xfers (d : Dev) (k : RunCmd) : (d.setCmd k).xfers = d.xfers := rfl
@[simp] theorem Dev.setCmd_nextXid (d : Dev) (k : RunCmd) : (d.setCmd k).nextXid = d.nextXid := rfl
@[simp] theorem Dev.setCmd_rsvs (d : Dev) (k : RunCmd) : (d.setCmd k).rsvs = d.rsvs := rfl
@[simp] theorem Dev.setCmd_committed (d : Dev) (k : RunCmd) : (d.setCmd k).committed = d.committed := rfl
@[simp] theorem Dev.setCmd_keys (d : Dev) (k : RunCmd) : (d.setCmd k).keys = d.keys := rfl
@[simp] theorem Dev.setCmd_scans (d : Dev) (k : RunCmd) : (d.setCmd k).scans = d.scans := rfl
@[simp] theorem Dev.setCmd_ptParent (d : Dev) (k : RunCmd) : (d.setCmd k).ptParent = d.ptParent := rfl
@[simp] theorem Dev.setCmd_retr (d : Dev) (k : RunCmd) : (d.setCmd k).retr = d.retr := rfl
@[simp] theorem Dev.setCmd_groups (d : Dev) (k : RunCmd) : (d.setCmd k).groups = d.groups := rfl
@[simp] theorem Dev.setCmd_faults (d : Dev) (k : RunCmd) : (d.setCmd k).faults = d.faults := rfl
@[simp] theorem Dev.setCmd_nextId (d : Dev) (k : RunCmd) : (d.setCmd k).nextId = d.nextId := rfl
@[simp] theorem Dev.setCmd_pfs (d : Dev) (k : RunCmd) : (d.setCmd k).pfs = d.pfs := rfl
@[simp] theorem Dev.setCmd_dems (d : Dev) (k : RunCmd) : (d.setCmd k).dems = d.dems := rfl
@[simp] theorem Dev.setCmd_pfOnTime (d : Dev) (k : RunCmd) : (d.setCmd k).pfOnTime = d.pfOnTime := rfl
@[simp] theorem Dev.setCmd_reclaimed (d : Dev) (k : RunCmd) : (d.setCmd k).reclaimed = d.reclaimed := rfl
@[simp] theorem Dev.setCmd_ops (d : Dev) (k : RunCmd) : (d.setCmd k).ops = d.ops := rfl
@[simp] theorem Dev.setCmd_qpts (d : Dev) (k : RunCmd) : (d.setCmd k).qpts = d.qpts := rfl
@[simp] theorem Dev.setCmd_ctx (d : Dev) (k : RunCmd) : (d.setCmd k).ctx = d.ctx := rfl
@[simp] theorem Dev.setCmd_txq (d : Dev) (k : RunCmd) : (d.setCmd k).txq = d.txq := rfl
@[simp] theorem Dev.setCmd_spray (d : Dev) (k : RunCmd) : (d.setCmd k).spray = d.spray := rfl
@[simp] theorem Dev.setCmd_lastPort (d : Dev) (k : RunCmd) : (d.setCmd k).lastPort = d.lastPort := rfl
@[simp] theorem Dev.setCmd_ports (d : Dev) (k : RunCmd) : (d.setCmd k).ports = d.ports := rfl
@[simp] theorem Dev.setCmd_flows (d : Dev) (k : RunCmd) : (d.setCmd k).flows = d.flows := rfl
@[simp] theorem Dev.setCmd_vtime (d : Dev) (k : RunCmd) : (d.setCmd k).vtime = d.vtime := rfl
@[simp] theorem Dev.setCmd_shapers (d : Dev) (k : RunCmd) : (d.setCmd k).shapers = d.shapers := rfl
@[simp] theorem Dev.setCmd_meters (d : Dev) (k : RunCmd) : (d.setCmd k).meters = d.meters := rfl
@[simp] theorem Dev.setCmd_gates (d : Dev) (k : RunCmd) : (d.setCmd k).gates = d.gates := rfl
@[simp] theorem Dev.setCmd_binds (d : Dev) (k : RunCmd) : (d.setCmd k).binds = d.binds := rfl
@[simp] theorem Dev.setCmd_flights (d : Dev) (k : RunCmd) : (d.setCmd k).flights = d.flights := rfl
@[simp] theorem Dev.setCmd_revokes (d : Dev) (k : RunCmd) : (d.setCmd k).revokes = d.revokes := rfl
@[simp] theorem Dev.setCmd_pins (d : Dev) (k : RunCmd) : (d.setCmd k).pins = d.pins := rfl
@[simp] theorem Dev.setCmd_lines (d : Dev) (k : RunCmd) : (d.setCmd k).lines = d.lines := rfl
@[simp] theorem Dev.setCmd_gw (d : Dev) (k : RunCmd) : (d.setCmd k).gw = d.gw := rfl
@[simp] theorem Dev.setCmd_gwLost (d : Dev) (k : RunCmd) : (d.setCmd k).gwLost = d.gwLost := rfl
@[simp] theorem Dev.setCmd_patches (d : Dev) (k : RunCmd) : (d.setCmd k).patches = d.patches := rfl
@[simp] theorem Dev.setCmd_mapBank (d : Dev) (k : RunCmd) : (d.setCmd k).mapBank = d.mapBank := rfl
@[simp] theorem Dev.setCmd_changed (d : Dev) (k : RunCmd) : (d.setCmd k).changed = d.changed := rfl
@[simp] theorem Dev.setCmd_drainTo (d : Dev) (k : RunCmd) : (d.setCmd k).drainTo = d.drainTo := rfl
@[simp] theorem Dev.setCmd_pair (d : Dev) (k : RunCmd) : (d.setCmd k).pair = d.pair := rfl
@[simp] theorem Dev.setCmd_mirRings (d : Dev) (k : RunCmd) : (d.setCmd k).mirRings = d.mirRings := rfl
@[simp] theorem Dev.setCmd_mirLand (d : Dev) (k : RunCmd) : (d.setCmd k).mirLand = d.mirLand := rfl
@[simp] theorem Dev.setCmd_log (d : Dev) (k : RunCmd) : (d.setCmd k).log = d.log := rfl
@[simp] theorem Dev.setCmd_sec (d : Dev) (k : RunCmd) : (d.setCmd k).sec = d.sec := rfl
@[simp] theorem Dev.setCmd_cox (d : Dev) (k : RunCmd) : (d.setCmd k).cox = d.cox := rfl
@[simp] theorem Dev.setCmd_cellarHeld (d : Dev) (k : RunCmd) : (d.setCmd k).cellarHeld = d.cellarHeld := rfl
@[simp] theorem Dev.setCmd_scrubs (d : Dev) (k : RunCmd) : (d.setCmd k).scrubs = d.scrubs := rfl
@[simp] theorem Dev.setCmd_wayScrubs (d : Dev) (k : RunCmd) : (d.setCmd k).wayScrubs = d.wayScrubs := rfl
@[simp] theorem Dev.setCmd_proxy (d : Dev) (k : RunCmd) : (d.setCmd k).proxy = d.proxy := rfl
@[simp] theorem Dev.setCmd_elec (d : Dev) (k : RunCmd) : (d.setCmd k).elec = d.elec := rfl
@[simp] theorem Dev.setCmd_msixTab (d : Dev) (k : RunCmd) : (d.setCmd k).msixTab = d.msixTab := rfl
@[simp] theorem Dev.setCmd_out (d : Dev) (k : RunCmd) : (d.setCmd k).out = d.out := rfl

/-! ## `dropCmd` changes only `cmds` -/

@[simp] theorem Dev.dropCmd_clk (d : Dev) (k : RunCmd) : (d.dropCmd k).clk = d.clk := rfl
@[simp] theorem Dev.dropCmd_regs (d : Dev) (k : RunCmd) : (d.dropCmd k).regs = d.regs := rfl
@[simp] theorem Dev.dropCmd_latch (d : Dev) (k : RunCmd) : (d.dropCmd k).latch = d.latch := rfl
@[simp] theorem Dev.dropCmd_dram (d : Dev) (k : RunCmd) : (d.dropCmd k).dram = d.dram := rfl
@[simp] theorem Dev.dropCmd_hall (d : Dev) (k : RunCmd) : (d.dropCmd k).hall = d.hall := rfl
@[simp] theorem Dev.dropCmd_hallBad (d : Dev) (k : RunCmd) : (d.dropCmd k).hallBad = d.hallBad := rfl
@[simp] theorem Dev.dropCmd_stalled (d : Dev) (k : RunCmd) : (d.dropCmd k).stalled = d.stalled := rfl
@[simp] theorem Dev.dropCmd_hallLost (d : Dev) (k : RunCmd) : (d.dropCmd k).hallLost = d.hallLost := rfl
@[simp] theorem Dev.dropCmd_host (d : Dev) (k : RunCmd) : (d.dropCmd k).host = d.host := rfl
@[simp] theorem Dev.dropCmd_coreMem (d : Dev) (k : RunCmd) : (d.dropCmd k).coreMem = d.coreMem := rfl
@[simp] theorem Dev.dropCmd_boatBuf (d : Dev) (k : RunCmd) : (d.dropCmd k).boatBuf = d.boatBuf := rfl
@[simp] theorem Dev.dropCmd_kernels (d : Dev) (k : RunCmd) : (d.dropCmd k).kernels = d.kernels := rfl
@[simp] theorem Dev.dropCmd_runs (d : Dev) (k : RunCmd) : (d.dropCmd k).runs = d.runs := rfl
@[simp] theorem Dev.dropCmd_zeroing (d : Dev) (k : RunCmd) : (d.dropCmd k).zeroing = d.zeroing := rfl
@[simp] theorem Dev.dropCmd_rotation (d : Dev) (k : RunCmd) : (d.dropCmd k).rotation = d.rotation := rfl
@[simp] theorem Dev.dropCmd_freeCtr (d : Dev) (k : RunCmd) : (d.dropCmd k).freeCtr = d.freeCtr := rfl
@[simp] theorem Dev.dropCmd_orders (d : Dev) (k : RunCmd) : (d.dropCmd k).orders = d.orders := rfl
@[simp] theorem Dev.dropCmd_places (d : Dev) (k : RunCmd) : (d.dropCmd k).places = d.places := rfl
@[simp] theorem Dev.dropCmd_watches (d : Dev) (k : RunCmd) : (d.dropCmd k).watches = d.watches := rfl
@[simp] theorem Dev.dropCmd_aborting (d : Dev) (k : RunCmd) : (d.dropCmd k).aborting = d.aborting := rfl
@[simp] theorem Dev.dropCmd_held (d : Dev) (k : RunCmd) : (d.dropCmd k).held = d.held := rfl
@[simp] theorem Dev.dropCmd_rr (d : Dev) (k : RunCmd) : (d.dropCmd k).rr = d.rr := rfl
@[simp] theorem Dev.dropCmd_muted (d : Dev) (k : RunCmd) : (d.dropCmd k).muted = d.muted := rfl
@[simp] theorem Dev.dropCmd_lcWait (d : Dev) (k : RunCmd) : (d.dropCmd k).lcWait = d.lcWait := rfl
@[simp] theorem Dev.dropCmd_slots (d : Dev) (k : RunCmd) : (d.dropCmd k).slots = d.slots := rfl
@[simp] theorem Dev.dropCmd_pool (d : Dev) (k : RunCmd) : (d.dropCmd k).pool = d.pool := rfl
@[simp] theorem Dev.dropCmd_xfers (d : Dev) (k : RunCmd) : (d.dropCmd k).xfers = d.xfers := rfl
@[simp] theorem Dev.dropCmd_nextXid (d : Dev) (k : RunCmd) : (d.dropCmd k).nextXid = d.nextXid := rfl
@[simp] theorem Dev.dropCmd_rsvs (d : Dev) (k : RunCmd) : (d.dropCmd k).rsvs = d.rsvs := rfl
@[simp] theorem Dev.dropCmd_committed (d : Dev) (k : RunCmd) : (d.dropCmd k).committed = d.committed := rfl
@[simp] theorem Dev.dropCmd_keys (d : Dev) (k : RunCmd) : (d.dropCmd k).keys = d.keys := rfl
@[simp] theorem Dev.dropCmd_scans (d : Dev) (k : RunCmd) : (d.dropCmd k).scans = d.scans := rfl
@[simp] theorem Dev.dropCmd_ptParent (d : Dev) (k : RunCmd) : (d.dropCmd k).ptParent = d.ptParent := rfl
@[simp] theorem Dev.dropCmd_retr (d : Dev) (k : RunCmd) : (d.dropCmd k).retr = d.retr := rfl
@[simp] theorem Dev.dropCmd_groups (d : Dev) (k : RunCmd) : (d.dropCmd k).groups = d.groups := rfl
@[simp] theorem Dev.dropCmd_faults (d : Dev) (k : RunCmd) : (d.dropCmd k).faults = d.faults := rfl
@[simp] theorem Dev.dropCmd_nextId (d : Dev) (k : RunCmd) : (d.dropCmd k).nextId = d.nextId := rfl
@[simp] theorem Dev.dropCmd_pfs (d : Dev) (k : RunCmd) : (d.dropCmd k).pfs = d.pfs := rfl
@[simp] theorem Dev.dropCmd_dems (d : Dev) (k : RunCmd) : (d.dropCmd k).dems = d.dems := rfl
@[simp] theorem Dev.dropCmd_pfOnTime (d : Dev) (k : RunCmd) : (d.dropCmd k).pfOnTime = d.pfOnTime := rfl
@[simp] theorem Dev.dropCmd_reclaimed (d : Dev) (k : RunCmd) : (d.dropCmd k).reclaimed = d.reclaimed := rfl
@[simp] theorem Dev.dropCmd_ops (d : Dev) (k : RunCmd) : (d.dropCmd k).ops = d.ops := rfl
@[simp] theorem Dev.dropCmd_qpts (d : Dev) (k : RunCmd) : (d.dropCmd k).qpts = d.qpts := rfl
@[simp] theorem Dev.dropCmd_ctx (d : Dev) (k : RunCmd) : (d.dropCmd k).ctx = d.ctx := rfl
@[simp] theorem Dev.dropCmd_txq (d : Dev) (k : RunCmd) : (d.dropCmd k).txq = d.txq := rfl
@[simp] theorem Dev.dropCmd_spray (d : Dev) (k : RunCmd) : (d.dropCmd k).spray = d.spray := rfl
@[simp] theorem Dev.dropCmd_lastPort (d : Dev) (k : RunCmd) : (d.dropCmd k).lastPort = d.lastPort := rfl
@[simp] theorem Dev.dropCmd_ports (d : Dev) (k : RunCmd) : (d.dropCmd k).ports = d.ports := rfl
@[simp] theorem Dev.dropCmd_flows (d : Dev) (k : RunCmd) : (d.dropCmd k).flows = d.flows := rfl
@[simp] theorem Dev.dropCmd_vtime (d : Dev) (k : RunCmd) : (d.dropCmd k).vtime = d.vtime := rfl
@[simp] theorem Dev.dropCmd_shapers (d : Dev) (k : RunCmd) : (d.dropCmd k).shapers = d.shapers := rfl
@[simp] theorem Dev.dropCmd_meters (d : Dev) (k : RunCmd) : (d.dropCmd k).meters = d.meters := rfl
@[simp] theorem Dev.dropCmd_gates (d : Dev) (k : RunCmd) : (d.dropCmd k).gates = d.gates := rfl
@[simp] theorem Dev.dropCmd_binds (d : Dev) (k : RunCmd) : (d.dropCmd k).binds = d.binds := rfl
@[simp] theorem Dev.dropCmd_flights (d : Dev) (k : RunCmd) : (d.dropCmd k).flights = d.flights := rfl
@[simp] theorem Dev.dropCmd_revokes (d : Dev) (k : RunCmd) : (d.dropCmd k).revokes = d.revokes := rfl
@[simp] theorem Dev.dropCmd_pins (d : Dev) (k : RunCmd) : (d.dropCmd k).pins = d.pins := rfl
@[simp] theorem Dev.dropCmd_lines (d : Dev) (k : RunCmd) : (d.dropCmd k).lines = d.lines := rfl
@[simp] theorem Dev.dropCmd_gw (d : Dev) (k : RunCmd) : (d.dropCmd k).gw = d.gw := rfl
@[simp] theorem Dev.dropCmd_gwLost (d : Dev) (k : RunCmd) : (d.dropCmd k).gwLost = d.gwLost := rfl
@[simp] theorem Dev.dropCmd_patches (d : Dev) (k : RunCmd) : (d.dropCmd k).patches = d.patches := rfl
@[simp] theorem Dev.dropCmd_mapBank (d : Dev) (k : RunCmd) : (d.dropCmd k).mapBank = d.mapBank := rfl
@[simp] theorem Dev.dropCmd_changed (d : Dev) (k : RunCmd) : (d.dropCmd k).changed = d.changed := rfl
@[simp] theorem Dev.dropCmd_drainTo (d : Dev) (k : RunCmd) : (d.dropCmd k).drainTo = d.drainTo := rfl
@[simp] theorem Dev.dropCmd_pair (d : Dev) (k : RunCmd) : (d.dropCmd k).pair = d.pair := rfl
@[simp] theorem Dev.dropCmd_mirRings (d : Dev) (k : RunCmd) : (d.dropCmd k).mirRings = d.mirRings := rfl
@[simp] theorem Dev.dropCmd_mirLand (d : Dev) (k : RunCmd) : (d.dropCmd k).mirLand = d.mirLand := rfl
@[simp] theorem Dev.dropCmd_log (d : Dev) (k : RunCmd) : (d.dropCmd k).log = d.log := rfl
@[simp] theorem Dev.dropCmd_sec (d : Dev) (k : RunCmd) : (d.dropCmd k).sec = d.sec := rfl
@[simp] theorem Dev.dropCmd_cox (d : Dev) (k : RunCmd) : (d.dropCmd k).cox = d.cox := rfl
@[simp] theorem Dev.dropCmd_cellarHeld (d : Dev) (k : RunCmd) : (d.dropCmd k).cellarHeld = d.cellarHeld := rfl
@[simp] theorem Dev.dropCmd_scrubs (d : Dev) (k : RunCmd) : (d.dropCmd k).scrubs = d.scrubs := rfl
@[simp] theorem Dev.dropCmd_wayScrubs (d : Dev) (k : RunCmd) : (d.dropCmd k).wayScrubs = d.wayScrubs := rfl
@[simp] theorem Dev.dropCmd_proxy (d : Dev) (k : RunCmd) : (d.dropCmd k).proxy = d.proxy := rfl
@[simp] theorem Dev.dropCmd_elec (d : Dev) (k : RunCmd) : (d.dropCmd k).elec = d.elec := rfl
@[simp] theorem Dev.dropCmd_msixTab (d : Dev) (k : RunCmd) : (d.dropCmd k).msixTab = d.msixTab := rfl
@[simp] theorem Dev.dropCmd_out (d : Dev) (k : RunCmd) : (d.dropCmd k).out = d.out := rfl

/-! ## `unwatch` changes only `watches` -/

@[simp] theorem Dev.unwatch_clk (d : Dev) (r : Nat) : (d.unwatch r).clk = d.clk := rfl
@[simp] theorem Dev.unwatch_regs (d : Dev) (r : Nat) : (d.unwatch r).regs = d.regs := rfl
@[simp] theorem Dev.unwatch_latch (d : Dev) (r : Nat) : (d.unwatch r).latch = d.latch := rfl
@[simp] theorem Dev.unwatch_dram (d : Dev) (r : Nat) : (d.unwatch r).dram = d.dram := rfl
@[simp] theorem Dev.unwatch_hall (d : Dev) (r : Nat) : (d.unwatch r).hall = d.hall := rfl
@[simp] theorem Dev.unwatch_hallBad (d : Dev) (r : Nat) : (d.unwatch r).hallBad = d.hallBad := rfl
@[simp] theorem Dev.unwatch_stalled (d : Dev) (r : Nat) : (d.unwatch r).stalled = d.stalled := rfl
@[simp] theorem Dev.unwatch_hallLost (d : Dev) (r : Nat) : (d.unwatch r).hallLost = d.hallLost := rfl
@[simp] theorem Dev.unwatch_host (d : Dev) (r : Nat) : (d.unwatch r).host = d.host := rfl
@[simp] theorem Dev.unwatch_coreMem (d : Dev) (r : Nat) : (d.unwatch r).coreMem = d.coreMem := rfl
@[simp] theorem Dev.unwatch_boatBuf (d : Dev) (r : Nat) : (d.unwatch r).boatBuf = d.boatBuf := rfl
@[simp] theorem Dev.unwatch_kernels (d : Dev) (r : Nat) : (d.unwatch r).kernels = d.kernels := rfl
@[simp] theorem Dev.unwatch_runs (d : Dev) (r : Nat) : (d.unwatch r).runs = d.runs := rfl
@[simp] theorem Dev.unwatch_zeroing (d : Dev) (r : Nat) : (d.unwatch r).zeroing = d.zeroing := rfl
@[simp] theorem Dev.unwatch_rotation (d : Dev) (r : Nat) : (d.unwatch r).rotation = d.rotation := rfl
@[simp] theorem Dev.unwatch_freeCtr (d : Dev) (r : Nat) : (d.unwatch r).freeCtr = d.freeCtr := rfl
@[simp] theorem Dev.unwatch_cmds (d : Dev) (r : Nat) : (d.unwatch r).cmds = d.cmds := rfl
@[simp] theorem Dev.unwatch_orders (d : Dev) (r : Nat) : (d.unwatch r).orders = d.orders := rfl
@[simp] theorem Dev.unwatch_places (d : Dev) (r : Nat) : (d.unwatch r).places = d.places := rfl
@[simp] theorem Dev.unwatch_aborting (d : Dev) (r : Nat) : (d.unwatch r).aborting = d.aborting := rfl
@[simp] theorem Dev.unwatch_held (d : Dev) (r : Nat) : (d.unwatch r).held = d.held := rfl
@[simp] theorem Dev.unwatch_rr (d : Dev) (r : Nat) : (d.unwatch r).rr = d.rr := rfl
@[simp] theorem Dev.unwatch_muted (d : Dev) (r : Nat) : (d.unwatch r).muted = d.muted := rfl
@[simp] theorem Dev.unwatch_lcWait (d : Dev) (r : Nat) : (d.unwatch r).lcWait = d.lcWait := rfl
@[simp] theorem Dev.unwatch_slots (d : Dev) (r : Nat) : (d.unwatch r).slots = d.slots := rfl
@[simp] theorem Dev.unwatch_pool (d : Dev) (r : Nat) : (d.unwatch r).pool = d.pool := rfl
@[simp] theorem Dev.unwatch_xfers (d : Dev) (r : Nat) : (d.unwatch r).xfers = d.xfers := rfl
@[simp] theorem Dev.unwatch_nextXid (d : Dev) (r : Nat) : (d.unwatch r).nextXid = d.nextXid := rfl
@[simp] theorem Dev.unwatch_rsvs (d : Dev) (r : Nat) : (d.unwatch r).rsvs = d.rsvs := rfl
@[simp] theorem Dev.unwatch_committed (d : Dev) (r : Nat) : (d.unwatch r).committed = d.committed := rfl
@[simp] theorem Dev.unwatch_keys (d : Dev) (r : Nat) : (d.unwatch r).keys = d.keys := rfl
@[simp] theorem Dev.unwatch_scans (d : Dev) (r : Nat) : (d.unwatch r).scans = d.scans := rfl
@[simp] theorem Dev.unwatch_ptParent (d : Dev) (r : Nat) : (d.unwatch r).ptParent = d.ptParent := rfl
@[simp] theorem Dev.unwatch_retr (d : Dev) (r : Nat) : (d.unwatch r).retr = d.retr := rfl
@[simp] theorem Dev.unwatch_groups (d : Dev) (r : Nat) : (d.unwatch r).groups = d.groups := rfl
@[simp] theorem Dev.unwatch_faults (d : Dev) (r : Nat) : (d.unwatch r).faults = d.faults := rfl
@[simp] theorem Dev.unwatch_nextId (d : Dev) (r : Nat) : (d.unwatch r).nextId = d.nextId := rfl
@[simp] theorem Dev.unwatch_pfs (d : Dev) (r : Nat) : (d.unwatch r).pfs = d.pfs := rfl
@[simp] theorem Dev.unwatch_dems (d : Dev) (r : Nat) : (d.unwatch r).dems = d.dems := rfl
@[simp] theorem Dev.unwatch_pfOnTime (d : Dev) (r : Nat) : (d.unwatch r).pfOnTime = d.pfOnTime := rfl
@[simp] theorem Dev.unwatch_reclaimed (d : Dev) (r : Nat) : (d.unwatch r).reclaimed = d.reclaimed := rfl
@[simp] theorem Dev.unwatch_ops (d : Dev) (r : Nat) : (d.unwatch r).ops = d.ops := rfl
@[simp] theorem Dev.unwatch_qpts (d : Dev) (r : Nat) : (d.unwatch r).qpts = d.qpts := rfl
@[simp] theorem Dev.unwatch_ctx (d : Dev) (r : Nat) : (d.unwatch r).ctx = d.ctx := rfl
@[simp] theorem Dev.unwatch_txq (d : Dev) (r : Nat) : (d.unwatch r).txq = d.txq := rfl
@[simp] theorem Dev.unwatch_spray (d : Dev) (r : Nat) : (d.unwatch r).spray = d.spray := rfl
@[simp] theorem Dev.unwatch_lastPort (d : Dev) (r : Nat) : (d.unwatch r).lastPort = d.lastPort := rfl
@[simp] theorem Dev.unwatch_ports (d : Dev) (r : Nat) : (d.unwatch r).ports = d.ports := rfl
@[simp] theorem Dev.unwatch_flows (d : Dev) (r : Nat) : (d.unwatch r).flows = d.flows := rfl
@[simp] theorem Dev.unwatch_vtime (d : Dev) (r : Nat) : (d.unwatch r).vtime = d.vtime := rfl
@[simp] theorem Dev.unwatch_shapers (d : Dev) (r : Nat) : (d.unwatch r).shapers = d.shapers := rfl
@[simp] theorem Dev.unwatch_meters (d : Dev) (r : Nat) : (d.unwatch r).meters = d.meters := rfl
@[simp] theorem Dev.unwatch_gates (d : Dev) (r : Nat) : (d.unwatch r).gates = d.gates := rfl
@[simp] theorem Dev.unwatch_binds (d : Dev) (r : Nat) : (d.unwatch r).binds = d.binds := rfl
@[simp] theorem Dev.unwatch_flights (d : Dev) (r : Nat) : (d.unwatch r).flights = d.flights := rfl
@[simp] theorem Dev.unwatch_revokes (d : Dev) (r : Nat) : (d.unwatch r).revokes = d.revokes := rfl
@[simp] theorem Dev.unwatch_pins (d : Dev) (r : Nat) : (d.unwatch r).pins = d.pins := rfl
@[simp] theorem Dev.unwatch_lines (d : Dev) (r : Nat) : (d.unwatch r).lines = d.lines := rfl
@[simp] theorem Dev.unwatch_gw (d : Dev) (r : Nat) : (d.unwatch r).gw = d.gw := rfl
@[simp] theorem Dev.unwatch_gwLost (d : Dev) (r : Nat) : (d.unwatch r).gwLost = d.gwLost := rfl
@[simp] theorem Dev.unwatch_patches (d : Dev) (r : Nat) : (d.unwatch r).patches = d.patches := rfl
@[simp] theorem Dev.unwatch_mapBank (d : Dev) (r : Nat) : (d.unwatch r).mapBank = d.mapBank := rfl
@[simp] theorem Dev.unwatch_changed (d : Dev) (r : Nat) : (d.unwatch r).changed = d.changed := rfl
@[simp] theorem Dev.unwatch_drainTo (d : Dev) (r : Nat) : (d.unwatch r).drainTo = d.drainTo := rfl
@[simp] theorem Dev.unwatch_pair (d : Dev) (r : Nat) : (d.unwatch r).pair = d.pair := rfl
@[simp] theorem Dev.unwatch_mirRings (d : Dev) (r : Nat) : (d.unwatch r).mirRings = d.mirRings := rfl
@[simp] theorem Dev.unwatch_mirLand (d : Dev) (r : Nat) : (d.unwatch r).mirLand = d.mirLand := rfl
@[simp] theorem Dev.unwatch_log (d : Dev) (r : Nat) : (d.unwatch r).log = d.log := rfl
@[simp] theorem Dev.unwatch_sec (d : Dev) (r : Nat) : (d.unwatch r).sec = d.sec := rfl
@[simp] theorem Dev.unwatch_cox (d : Dev) (r : Nat) : (d.unwatch r).cox = d.cox := rfl
@[simp] theorem Dev.unwatch_cellarHeld (d : Dev) (r : Nat) : (d.unwatch r).cellarHeld = d.cellarHeld := rfl
@[simp] theorem Dev.unwatch_scrubs (d : Dev) (r : Nat) : (d.unwatch r).scrubs = d.scrubs := rfl
@[simp] theorem Dev.unwatch_wayScrubs (d : Dev) (r : Nat) : (d.unwatch r).wayScrubs = d.wayScrubs := rfl
@[simp] theorem Dev.unwatch_proxy (d : Dev) (r : Nat) : (d.unwatch r).proxy = d.proxy := rfl
@[simp] theorem Dev.unwatch_elec (d : Dev) (r : Nat) : (d.unwatch r).elec = d.elec := rfl
@[simp] theorem Dev.unwatch_msixTab (d : Dev) (r : Nat) : (d.unwatch r).msixTab = d.msixTab := rfl
@[simp] theorem Dev.unwatch_out (d : Dev) (r : Nat) : (d.unwatch r).out = d.out := rfl

/-! ## `setSlot` changes only `slots` -/

@[simp] theorem Dev.setSlot_clk (d : Dev) (core s : Nat) : (d.setSlot core s).clk = d.clk := rfl
@[simp] theorem Dev.setSlot_regs (d : Dev) (core s : Nat) : (d.setSlot core s).regs = d.regs := rfl
@[simp] theorem Dev.setSlot_latch (d : Dev) (core s : Nat) : (d.setSlot core s).latch = d.latch := rfl
@[simp] theorem Dev.setSlot_dram (d : Dev) (core s : Nat) : (d.setSlot core s).dram = d.dram := rfl
@[simp] theorem Dev.setSlot_hall (d : Dev) (core s : Nat) : (d.setSlot core s).hall = d.hall := rfl
@[simp] theorem Dev.setSlot_hallBad (d : Dev) (core s : Nat) : (d.setSlot core s).hallBad = d.hallBad := rfl
@[simp] theorem Dev.setSlot_stalled (d : Dev) (core s : Nat) : (d.setSlot core s).stalled = d.stalled := rfl
@[simp] theorem Dev.setSlot_hallLost (d : Dev) (core s : Nat) : (d.setSlot core s).hallLost = d.hallLost := rfl
@[simp] theorem Dev.setSlot_host (d : Dev) (core s : Nat) : (d.setSlot core s).host = d.host := rfl
@[simp] theorem Dev.setSlot_coreMem (d : Dev) (core s : Nat) : (d.setSlot core s).coreMem = d.coreMem := rfl
@[simp] theorem Dev.setSlot_boatBuf (d : Dev) (core s : Nat) : (d.setSlot core s).boatBuf = d.boatBuf := rfl
@[simp] theorem Dev.setSlot_kernels (d : Dev) (core s : Nat) : (d.setSlot core s).kernels = d.kernels := rfl
@[simp] theorem Dev.setSlot_runs (d : Dev) (core s : Nat) : (d.setSlot core s).runs = d.runs := rfl
@[simp] theorem Dev.setSlot_zeroing (d : Dev) (core s : Nat) : (d.setSlot core s).zeroing = d.zeroing := rfl
@[simp] theorem Dev.setSlot_rotation (d : Dev) (core s : Nat) : (d.setSlot core s).rotation = d.rotation := rfl
@[simp] theorem Dev.setSlot_freeCtr (d : Dev) (core s : Nat) : (d.setSlot core s).freeCtr = d.freeCtr := rfl
@[simp] theorem Dev.setSlot_cmds (d : Dev) (core s : Nat) : (d.setSlot core s).cmds = d.cmds := rfl
@[simp] theorem Dev.setSlot_orders (d : Dev) (core s : Nat) : (d.setSlot core s).orders = d.orders := rfl
@[simp] theorem Dev.setSlot_places (d : Dev) (core s : Nat) : (d.setSlot core s).places = d.places := rfl
@[simp] theorem Dev.setSlot_watches (d : Dev) (core s : Nat) : (d.setSlot core s).watches = d.watches := rfl
@[simp] theorem Dev.setSlot_aborting (d : Dev) (core s : Nat) : (d.setSlot core s).aborting = d.aborting := rfl
@[simp] theorem Dev.setSlot_held (d : Dev) (core s : Nat) : (d.setSlot core s).held = d.held := rfl
@[simp] theorem Dev.setSlot_rr (d : Dev) (core s : Nat) : (d.setSlot core s).rr = d.rr := rfl
@[simp] theorem Dev.setSlot_muted (d : Dev) (core s : Nat) : (d.setSlot core s).muted = d.muted := rfl
@[simp] theorem Dev.setSlot_lcWait (d : Dev) (core s : Nat) : (d.setSlot core s).lcWait = d.lcWait := rfl
@[simp] theorem Dev.setSlot_pool (d : Dev) (core s : Nat) : (d.setSlot core s).pool = d.pool := rfl
@[simp] theorem Dev.setSlot_xfers (d : Dev) (core s : Nat) : (d.setSlot core s).xfers = d.xfers := rfl
@[simp] theorem Dev.setSlot_nextXid (d : Dev) (core s : Nat) : (d.setSlot core s).nextXid = d.nextXid := rfl
@[simp] theorem Dev.setSlot_rsvs (d : Dev) (core s : Nat) : (d.setSlot core s).rsvs = d.rsvs := rfl
@[simp] theorem Dev.setSlot_committed (d : Dev) (core s : Nat) : (d.setSlot core s).committed = d.committed := rfl
@[simp] theorem Dev.setSlot_keys (d : Dev) (core s : Nat) : (d.setSlot core s).keys = d.keys := rfl
@[simp] theorem Dev.setSlot_scans (d : Dev) (core s : Nat) : (d.setSlot core s).scans = d.scans := rfl
@[simp] theorem Dev.setSlot_ptParent (d : Dev) (core s : Nat) : (d.setSlot core s).ptParent = d.ptParent := rfl
@[simp] theorem Dev.setSlot_retr (d : Dev) (core s : Nat) : (d.setSlot core s).retr = d.retr := rfl
@[simp] theorem Dev.setSlot_groups (d : Dev) (core s : Nat) : (d.setSlot core s).groups = d.groups := rfl
@[simp] theorem Dev.setSlot_faults (d : Dev) (core s : Nat) : (d.setSlot core s).faults = d.faults := rfl
@[simp] theorem Dev.setSlot_nextId (d : Dev) (core s : Nat) : (d.setSlot core s).nextId = d.nextId := rfl
@[simp] theorem Dev.setSlot_pfs (d : Dev) (core s : Nat) : (d.setSlot core s).pfs = d.pfs := rfl
@[simp] theorem Dev.setSlot_dems (d : Dev) (core s : Nat) : (d.setSlot core s).dems = d.dems := rfl
@[simp] theorem Dev.setSlot_pfOnTime (d : Dev) (core s : Nat) : (d.setSlot core s).pfOnTime = d.pfOnTime := rfl
@[simp] theorem Dev.setSlot_reclaimed (d : Dev) (core s : Nat) : (d.setSlot core s).reclaimed = d.reclaimed := rfl
@[simp] theorem Dev.setSlot_ops (d : Dev) (core s : Nat) : (d.setSlot core s).ops = d.ops := rfl
@[simp] theorem Dev.setSlot_qpts (d : Dev) (core s : Nat) : (d.setSlot core s).qpts = d.qpts := rfl
@[simp] theorem Dev.setSlot_ctx (d : Dev) (core s : Nat) : (d.setSlot core s).ctx = d.ctx := rfl
@[simp] theorem Dev.setSlot_txq (d : Dev) (core s : Nat) : (d.setSlot core s).txq = d.txq := rfl
@[simp] theorem Dev.setSlot_spray (d : Dev) (core s : Nat) : (d.setSlot core s).spray = d.spray := rfl
@[simp] theorem Dev.setSlot_lastPort (d : Dev) (core s : Nat) : (d.setSlot core s).lastPort = d.lastPort := rfl
@[simp] theorem Dev.setSlot_ports (d : Dev) (core s : Nat) : (d.setSlot core s).ports = d.ports := rfl
@[simp] theorem Dev.setSlot_flows (d : Dev) (core s : Nat) : (d.setSlot core s).flows = d.flows := rfl
@[simp] theorem Dev.setSlot_vtime (d : Dev) (core s : Nat) : (d.setSlot core s).vtime = d.vtime := rfl
@[simp] theorem Dev.setSlot_shapers (d : Dev) (core s : Nat) : (d.setSlot core s).shapers = d.shapers := rfl
@[simp] theorem Dev.setSlot_meters (d : Dev) (core s : Nat) : (d.setSlot core s).meters = d.meters := rfl
@[simp] theorem Dev.setSlot_gates (d : Dev) (core s : Nat) : (d.setSlot core s).gates = d.gates := rfl
@[simp] theorem Dev.setSlot_binds (d : Dev) (core s : Nat) : (d.setSlot core s).binds = d.binds := rfl
@[simp] theorem Dev.setSlot_flights (d : Dev) (core s : Nat) : (d.setSlot core s).flights = d.flights := rfl
@[simp] theorem Dev.setSlot_revokes (d : Dev) (core s : Nat) : (d.setSlot core s).revokes = d.revokes := rfl
@[simp] theorem Dev.setSlot_pins (d : Dev) (core s : Nat) : (d.setSlot core s).pins = d.pins := rfl
@[simp] theorem Dev.setSlot_lines (d : Dev) (core s : Nat) : (d.setSlot core s).lines = d.lines := rfl
@[simp] theorem Dev.setSlot_gw (d : Dev) (core s : Nat) : (d.setSlot core s).gw = d.gw := rfl
@[simp] theorem Dev.setSlot_gwLost (d : Dev) (core s : Nat) : (d.setSlot core s).gwLost = d.gwLost := rfl
@[simp] theorem Dev.setSlot_patches (d : Dev) (core s : Nat) : (d.setSlot core s).patches = d.patches := rfl
@[simp] theorem Dev.setSlot_mapBank (d : Dev) (core s : Nat) : (d.setSlot core s).mapBank = d.mapBank := rfl
@[simp] theorem Dev.setSlot_changed (d : Dev) (core s : Nat) : (d.setSlot core s).changed = d.changed := rfl
@[simp] theorem Dev.setSlot_drainTo (d : Dev) (core s : Nat) : (d.setSlot core s).drainTo = d.drainTo := rfl
@[simp] theorem Dev.setSlot_pair (d : Dev) (core s : Nat) : (d.setSlot core s).pair = d.pair := rfl
@[simp] theorem Dev.setSlot_mirRings (d : Dev) (core s : Nat) : (d.setSlot core s).mirRings = d.mirRings := rfl
@[simp] theorem Dev.setSlot_mirLand (d : Dev) (core s : Nat) : (d.setSlot core s).mirLand = d.mirLand := rfl
@[simp] theorem Dev.setSlot_log (d : Dev) (core s : Nat) : (d.setSlot core s).log = d.log := rfl
@[simp] theorem Dev.setSlot_sec (d : Dev) (core s : Nat) : (d.setSlot core s).sec = d.sec := rfl
@[simp] theorem Dev.setSlot_cox (d : Dev) (core s : Nat) : (d.setSlot core s).cox = d.cox := rfl
@[simp] theorem Dev.setSlot_cellarHeld (d : Dev) (core s : Nat) : (d.setSlot core s).cellarHeld = d.cellarHeld := rfl
@[simp] theorem Dev.setSlot_scrubs (d : Dev) (core s : Nat) : (d.setSlot core s).scrubs = d.scrubs := rfl
@[simp] theorem Dev.setSlot_wayScrubs (d : Dev) (core s : Nat) : (d.setSlot core s).wayScrubs = d.wayScrubs := rfl
@[simp] theorem Dev.setSlot_proxy (d : Dev) (core s : Nat) : (d.setSlot core s).proxy = d.proxy := rfl
@[simp] theorem Dev.setSlot_elec (d : Dev) (core s : Nat) : (d.setSlot core s).elec = d.elec := rfl
@[simp] theorem Dev.setSlot_msixTab (d : Dev) (core s : Nat) : (d.setSlot core s).msixTab = d.msixTab := rfl
@[simp] theorem Dev.setSlot_out (d : Dev) (core s : Nat) : (d.setSlot core s).out = d.out := rfl

/-! ## What they change -/

@[simp] theorem Dev.emit_out (d : Dev) (o : Output) : (d.emit o).out = d.out ++ [o] := rfl
@[simp] theorem Dev.dramPut_dram (d : Dev) (a : Nat) (bs : List Byte) : (d.dramPut a bs).dram = d.dram.writeBytes a bs := rfl
@[simp] theorem Dev.dramPutN_dram (d : Dev) (n a v : Nat) : (d.dramPutN n a v).dram = d.dram.writeN n a v := rfl
@[simp] theorem Dev.unwatch_watches (d : Dev) (r : Nat) : (d.unwatch r).watches = d.watches.filter (·.ring ≠ r) := rfl

/-! ## Registers are read from the register file alone -/

@[simp] theorem Dev.emit_get (d : Dev) (o : Output) (f : Fld) (i j : Nat) : (d.emit o).get f i j = d.get f i j := rfl
@[simp] theorem Dev.dramPut_get (d : Dev) (a : Nat) (bs : List Byte) (f : Fld) (i j : Nat) : (d.dramPut a bs).get f i j = d.get f i j := rfl
@[simp] theorem Dev.dramPutN_get (d : Dev) (n a v : Nat) (f : Fld) (i j : Nat) : (d.dramPutN n a v).get f i j = d.get f i j := rfl
@[simp] theorem Dev.setCmd_get (d : Dev) (k : RunCmd) (f : Fld) (i j : Nat) : (d.setCmd k).get f i j = d.get f i j := rfl

/-! ## The lifting of device effects -/

/-- A running device takes the effect. -/
theorem onDev_alive {f : Dev → Dev} {s : State} (h : s.dev.alive = true) : onDev f s = .next { s with dev := f s.dev } := by
  simp [onDev, h]

/-- A device held in reset, or whose clocks stand still, does nothing (R411, R413, R415, R419). -/
theorem onDev_held {f : Dev → Dev} {s : State} (h : s.dev.alive = false) : onDev f s = .next s := by simp [onDev, h]

/-- The monitor has nothing to look at where no wait is armed (R225). -/
theorem Dev.settle_calm {d : Dev} (h : d.watches = []) : d.settle = d := by simp [Dev.settle, h, Dev.settleN]

/-- A running device takes the effect, and the monitor looks at its watches afterwards (R225). -/
theorem onHall_alive {f : Dev → Dev} {s : State} (h : s.dev.alive = true) : onHall f s = .next { s with dev := (f s.dev).settle } := onDev_alive h

theorem onHall_held {f : Dev → Dev} {s : State} (h : s.dev.alive = false) : onHall f s = .next s := onDev_held h

/-- An effect on the device always answers a next state, with the queue, the fuses and the boot memory as they were. -/
theorem onDev_next (f : Dev → Dev) (s : State) :
    ∃ t : State, onDev f s = .next t ∧ t.pending = s.pending ∧ t.fuse = s.fuse ∧ t.nvm = s.nvm := by
  unfold onDev; split <;> exact ⟨_, rfl, rfl, rfl, rfl⟩

end Sys2Proof.Machine
end

