-- ==== Sys2Proof/WellFormed.lean ====
section
/-! DEFINITION. WellFormed.lean: which terms of the syntax spell a command that can reach the device: operands within the
ranges that the units they name have (24 ports R241, 512 cores R93, 5 engines R239, 80 hall masters R110),
lists of the length their object has, and payloads of the length their header states (R254). -/

namespace Sys2Proof

/-- A packet whose payload is as long as `LEN` says, at most 4,096 bytes and whole words (R254). -/
def Packet.ok (p : Packet) : Bool := p.payload.length == p.len.toNat && decide (p.len.toNat ≤ 4096) && decide (p.len.toNat % 8 = 0)

/-- The bytes of a transferred page: whole granules of payload for its mode, a 512-byte scale plane, a summary or none (R35). -/
def XferPage.ok (m : XferPage) : Bool :=
  m.payload.length == (if m.mode = 1 then 16384 else if m.mode = 2 then 12288 else 8192) && m.scale.length == 512
    && (m.summary.isEmpty || m.summary.length == 528) && !(m.mode == 0)

/-- An operand check of every command; `true` where the operands' own widths say everything. -/
def Instr.wellFormed : Instr → Bool
  | .hallBankGrant _ reqs _ => reqs.all fun r => decide (r.master.toNat < 80)
  | .syncWordAccess _ _ _ width _ _ => width == 4 || width == 8
  | .engineDispatch e _ => decide (e.toNat < 5)
  | .portEnWrite p _ | .portTuneDone p _ _ | .ringLockLost p | .linkctl p _ _ _ _ _ _ | .linkctlSend p | .linkctlTimeout p _
  | .trainingTimeout p _ | .berCheck p _ _ | .relearnDone p | .uncorrectableCodeword p _ => decide (p.toNat < 24)
  | .write a p | .readReq a p | .readResp a p | .atomic a p | .atomicResp a p | .reduce a p | .mcastWrite a p | .inval a p | .ack a p | .nak a p =>
    decide (a.port.toNat < 24) && p.ok
  | .xferPage m => m.ok
  | .commit m => m.words.length == 16
  | .admissionRecordLoad _ _ _ words _ pages _ => words.length == 16 && pages.all XferPage.ok
  | .dramStackFailure _ copies => copies.all fun c => c.2.ok
  | .place _ _ table => table.all fun e => e.length == 32
  | .proxyAccess _ width _ _ _ => width == 4 || width == 8
  | .nvmProgram _ buf => buf.length == 256
  | _ => true

end Sys2Proof
end

