-- ==== Sys2Proof/Tests/Slice0.lean ====
section
/-! SUPPORT. Tests/Slice0.lean: the model's own tests: the refusals of WellFormed, and for every statement of Obligations.lean with
hypotheses a concrete state and operands that meet them together. -/

namespace Sys2Proof.Tests

/-! One theorem is checked after another: each evaluates much, and together they would need more memory than a run has. -/
set_option Elab.async false

open Sys2Proof.Machine

/-! ## Small states -/

/-- The block with a device. -/
def on (d : Dev) : State := { State.reset with dev := d }

theorem calm_on {d : Dev} (h : d.alive = true ∧ d.watches = []) : (on d).calm := h

/-- A device in phase READY (R376); way 0 of the hall is tenant 1's. -/
def ready : Dev := (((Dev.reset Fuses.fitted).put Fld.GLB_BOOT_PHASE 5).put Fld.HAL_WAY_TEN 1).put Fld.HAL_WAY_TENANT 1

/-- A command entry: the opcode, and fields as (offset, bytes, value) (R219). -/
def entry (op : Nat) (fs : List (Nat × Nat × Nat)) : Entry :=
  fs.foldl (fun e f => e.take f.1 ++ toBytes f.2.1 f.2.2 ++ e.drop (f.1 + f.2.1)) (toBytes 1 op ++ zeros 63)

/-- Ring 0 in RUN, of 64 entries, of tenant 1 and engine `eng`. -/
def ring (eng : Nat) (d : Dev) : Dev :=
  ((((d.put Fld.QUE_STAT_STATE rsRun).put Fld.QUE_SETUP_TENANT 1).put Fld.QUE_SETUP_SIZE_LOG2 6).put Fld.QUE_SETUP_ENGINE eng).put Fld.QUE_BODY_GRAN 500

/-- An entry at the head of ring 0. -/
def headed (eng : Nat) (e : Entry) : Dev := (ring eng ready).pushOne 0 e

/-- A command of tenant 1 that runs, and the row that names it. -/
def cmdOf (e : Entry) : RunCmd :=
  { ring := 0, index := 0, entry := e, engine := 0, tenant := 1, lc := false, order := 0, placed := 0, core := none, slot := none, phase := .run,
    faults := 0, pos := 0, status := stOK, ops := [], res := [], since := 0, note := 0, need := 0, strokes := 0, lostT := 0, waits := false, after := 0,
    acks := false, lost := false, stage := 0, holds := false, stalled := none, sent := [], loads := [], missed := 0 }
def c0 : CmdId := ⟨0, 0⟩

/-- A device that runs one command. -/
def running (k : RunCmd) (d : Dev) : Dev := { d with cmds := [k] }

/-- The regions of chapter 2 apart from each other, a partition of tenant 1 with two pseudo-channels, and quota. -/
def laid : Dev :=
  ((((((((ready.put Fld.MEM_SEQ_BASE_GRAN 1000).put Fld.MEM_PD_BASE_GRAN 3000).put Fld.MEM_PD_PAGES_PAGES 16).put Fld.MEM_TOUCH_BASE_GRAN 4000).put
    Fld.MEM_SCALE_BASE_GRAN 3500).put Fld.MEM_QUOTA_LIMIT 100000 1).put Fld.SEC_PART0_STATE ptActive).put Fld.SEC_PART0_TENANT 1).put Fld.SEC_PART2_PCS 3

/-- Record 0 in a state: tenant 1's, one layer, one head, four slots; its handle. -/
def seqIn (st : Nat) : Dev := (laid.rset 0 0 (word0 1 st 1 1 1 0 1 4)).rset 0 3 (2100 * 2 ^ 27 + 2000)
def seq : Dev := seqIn recActive
def h0 : Nat := mkHandle 0 1

/-- An allocation with one place to choose from. -/
theorem allocRun_one {d : Dev} {t n p : Nat} {kind : RunKind} {units : List (Nat × Nat)}
    (h : d.pcFor 0 n 1 (rotate (d.tenantPcs t) (if (d.rotation.map (·.1)).contains t then some (sget 0 t d.rotation) else none)) = some (p, units))
    (h1 : countPlaces (ceilDiv n 1) units = 1) :
    d.allocRun (some t) n 1 kind = some (placeAt (ceilDiv n 1) 0 units * 1,
      ({ d with freeCtr := d.freeCtr + 1, runs := d.runs ++ [⟨placeAt (ceilDiv n 1) 0 units * 1, n, some t, kind⟩], rotation := sins t p d.rotation } : Dev).put
        Fld.MEM_QUOTA_USE (d.get Fld.MEM_QUOTA_USE t t1 + n) t t1) := by
  simp only [Dev.allocRun, Option.isNone, Bool.false_eq_true, if_false, h, h1, Dev.choose, Nat.mod_one]; rfl

/-- A step table at hall offset 0 (R125): one segment, of handle `h`, and one entry of it at position `pos`; one query head. -/
def tabled (h pos : Nat) (d : Dev) : Dev :=
  (((d.hallPut 0 (toBytes 8 (2 ^ 32 + 2 ^ 16 + 1))).hallPut 64 (toBytes 4 h)).hallPut 84 (toBytes 4 pos))

/-- Virtual addresses of tenant 1 below 2 MiB mapped on one big leaf in DRAM (R185). -/
def mapped (d : Dev) : Dev :=
  (((d.put Fld.MEM_TT_ROOT_GRAN 10 1).dramPutN 8 (10 * granBytes) (lfTable * 2 ^ 61 + 11 * 4096)).dramPutN 8 (11 * granBytes) (lfTable * 2 ^ 61 + 12 * 4096)).dramPutN
    8 (12 * granBytes) (lfLocal * 2 ^ 61 + 2 ^ 58 + 2 ^ 57 + 51200 * 4096)

/-- An access that succeeds, with what is asked of its result. -/
def okAnd {α : Type} (r : Res α) (f : α → Dev → Bool) : Bool :=
  match r with
  | .ok a d => f a d
  | _ => false

/-- A larder of 64 granules with adapter 3 VALID: class L, one target of 32 by 32, rank 1, plain BF16. -/
def lardered (d : Dev) : Dev :=
  let d := (d.put Fld.ADP_LARDER_BASE_GRAN 8000).put Fld.ADP_LARDER_SIZE_GRANS 64
  (d.setAdp 3 ⟨1, adValid, 1, 0, 1, 32, 0x3F800000, 1, 0, 0⟩).dramPut (8032 * granBytes) ([1, 1] ++ zeros 6 ++ toBytes 4 32 ++ toBytes 4 32)

/-- An ACTIVE queue pair 64 of tenant 1 towards node 2. -/
def paired (d : Dev) : Dev := (((d.put Fld.FAB_QP_BASE_GRAN 9000).put Fld.FAB_EPOCH_EPOCH 1).dramPutN 8 (9000 * granBytes + 64 * 128) (2 ^ 48 + 2 * 2 ^ 32 + 64 * 2 ^ 16)).qput 64 0 63 61 qsActive

/-- A peer 2 with epoch 5. -/
def peered (d : Dev) : Dev := (d.put Fld.FAB_PEER_BASE_GRAN 6000).peerPut 2 5 true

/-- A reserved pair in ACTIVE, so that messages are heard on it (R258). -/
def opened (q : Nat) (d : Dev) : Dev := (d.put Fld.FAB_QP_BASE_GRAN 9000).qput q 0 63 61 qsActive

/-- A device on which a message of a node counts as received, and one that has also sent its ACK: which of them `took` gives depends on the
number of packets of the message, which is left open (log entry 16). -/
def tookNo (d : Dev) (m : Ctrl) (node : Nat) : Dev :=
  let d := d.useCtx (pairOf m)
  let t := d.qpt (pairOf m) node
  let n := t.fresh + ctrlPkts m
  d.setQpt { t with rpsn := (t.rpsn + ctrlPkts m) % 2 ^ 32, fresh := n, firstAt := if t.fresh = 0 then d.ns else t.firstAt }
def tookAck (d : Dev) (m : Ctrl) (node : Nat) : Dev := (tookNo d m node).sendAck (pairOf m) node

theorem ite_or {c : Prop} [Decidable c] (a b : Dev) : (if c then a else b) = b ∨ (if c then a else b) = a := by
  by_cases h : c
  · exact .inr (if_pos h)
  · exact .inl (if_neg h)

theorem took_both {P : Dev → Prop} {d : Dev} {m : Ctrl} {node : Nat} (h1 : P (tookNo d m node)) (h2 : P (tookAck d m node)) : P (d.took m node) := by
  have h : d.took m node = tookNo d m node ∨ d.took m node = tookAck d m node := ite_or _ _
  rcases h with h | h <;> rw [h]
  · exact h1
  · exact h2

/-- Where packets come in: port 3, to an empty placement queue. -/
def ar0 : Arrival := ⟨3, 0⟩

/-- A management header, and a device that accepts it and has not answered it. -/
def hdrM : MgmtHdr := ⟨9, 5⟩
def managed (d : Dev) : Dev := { d with cox := { d.cox with managers := [5], mgmtOk := true } }

/-- A number worked out before it is passed on. -/
def forced (n : Nat) (f : Nat → Nat) : Nat :=
  match n with
  | 0 => f 0
  | m + 1 => f (m + 1)

theorem forced_eq (n : Nat) (f : Nat → Nat) : forced n f = f n := by cases n <;> rfl

/-- The steps of CRC-32C, each worked out before the next. -/
def crcSteps (c : Nat) : List Byte → Nat
  | [] => c
  | b :: bs => forced (crcByte c b) fun c => crcSteps c bs

theorem foldl_crc (bs : List Byte) : ∀ c, bs.foldl crcByte c = crcSteps c bs := by
  induction bs with
  | nil => exact fun _ => rfl
  | cons b bs ih => exact fun c => (ih (crcByte c b)).trans (forced_eq (crcByte c b) fun c => crcSteps c bs).symm

theorem crc32c_eq_steps (bs : List Byte) : crc32c bs = crcSteps 0xFFFFFFFF bs ^^^ 0xFFFFFFFF := congrArg (· ^^^ 0xFFFFFFFF) (foldl_crc bs 0xFFFFFFFF)

/-! ## Ill-formed terms, one for each check of WellFormed -/

/-- A page of a transfer with every part of its length, in mode 2 (R35). -/
def pageOk : XferPage := ⟨⟨1, 2, 0, 5⟩, 0, 2, 64, false, zeros 12288, zeros 512, [], 0⟩

/-- R254: a payload shorter than `LEN`; one above 4,096 bytes; one that is no whole number of words; each kind of packet. -/
theorem test_wf_packet : (Instr.write ar0 { pktBlank with len := 16 }).wellFormed = false ∧ ({ pktBlank with len := 4104, payload := zeros 4104 } : Packet).ok = false
    ∧ ({ pktBlank with len := 4, payload := zeros 4 } : Packet).ok = false ∧ ({ pktBlank with len := 8, payload := zeros 8 } : Packet).ok = true := by decide +kernel

theorem test_wf_packet_rows : ∀ i ∈ [Instr.write, .readReq, .readResp, .atomic, .atomicResp, .reduce, .mcastWrite, .inval, .ack, .nak],
    (i ar0 { pktBlank with len := 16 }).wellFormed = false ∧ (i ⟨24, 0⟩ pktBlank).wellFormed = false ∧ (i ar0 pktBlank).wellFormed = true := by decide +kernel

/-- R110, R229, R239: a hall master, a width of a sync word, and an engine that do not exist. -/
theorem test_wf_units : (Instr.hallBankGrant 0 [⟨80, .unit, 0, .read, 0, 0, 0, none⟩] []).wellFormed = false ∧ (Instr.syncWordAccess 0 0 0 2 .read 0).wellFormed = false
    ∧ (Instr.engineDispatch 5 none).wellFormed = false ∧ (Instr.engineDispatch 4 none).wellFormed = true := by decide

/-- R241: port 24, in every row of a port. -/
theorem test_wf_ports : ∀ i ∈ ([(Instr.portEnWrite · true), (.portTuneDone · true []), .ringLockLost, (.linkctl · [] 0 0 false 0 0), .linkctlSend, (.linkctlTimeout · 0), (.trainingTimeout · 0), (.berCheck · [] 0),
    
    .relearnDone, (.uncorrectableCodeword · [])] : List (BitVec 5 → Instr)), (i 24).wellFormed = false ∧ (i 23).wellFormed = true := by decide

/-- R35: a page whose payload, scale plane or summary has another length, and one of mode 0. -/
theorem test_wf_page : pageOk.ok = true ∧ (Instr.xferPage { pageOk with mode := 1 }).wellFormed = false ∧ (Instr.xferPage { pageOk with scale := [] }).wellFormed = false
    ∧ (Instr.xferPage { pageOk with summary := [0] }).wellFormed = false ∧ ({ pageOk with mode := 0, payload := zeros 8192 } : XferPage).ok = false
    ∧ (Instr.dramStackFailure 0 [(0, { pageOk with scale := [] })]).wellFormed = false ∧ (Instr.admissionRecordLoad 0 0 0 (List.replicate 16 0) [] [{ pageOk with scale := [] }] []).wellFormed = false := by
  decide +kernel

/-- R63, R344, R202, R388, R395: a record of 15 words, a table entry of 31 bytes, a buffer of 255 bytes, a proxy access of 2 bytes. -/
theorem test_wf_lengths : (∀ n ∈ [15, 16], (Instr.admissionRecordLoad 0 0 0 (List.replicate n 0) [] [] []).wellFormed = (n == 16))
    ∧ (∀ n ∈ [15, 16], (Instr.commit ⟨⟨1, 2, 0, 5⟩, List.replicate n 0, []⟩).wellFormed = (n == 16))
    ∧ (∀ n ∈ [31, 32], (Instr.place ⟨0, 0⟩ [] [zeros n]).wellFormed = (n == 32)) ∧ (∀ n ∈ [255, 256], (Instr.nvmProgram 0 (zeros n)).wellFormed = (n == 256))
    ∧ (∀ w ∈ [2, 4, 8], (Instr.proxyAccess 0 (BitVec.ofNat 8 w) .read [] none).wellFormed = (w != 2)) := by decide +kernel

/-! ## Rings (chapter 9) -/

theorem wit_PushOneEntry : let d := ring 0 ready
    (on d).calm ∧ d.open' = true ∧ d.assigned 0 0 = true ∧ d.ringState 0 = rsRun ∧ 0 ∉ d.aborting ∧ (zeros 64).length = 64
      ∧ d.depth 0 < d.ringSize 0 ∧ d.flag Fld.QUE_SETUP_IRQ_FULL 0 = false := ⟨calm_on (by decide +kernel), by decide +kernel⟩

/-- Not a whole number of entries; and two entries for a ring of one. -/
theorem wit_PushRefused : let d := ((ring 0 ready).put Fld.QUE_SETUP_SIZE_LOG2 0).put Fld.QUE_SETUP_IRQ_ERR 0
    (on d).calm ∧ d.flag Fld.QUE_SETUP_IRQ_ERR 0 = false ∧ (zeros 65).length % 64 ≠ 0
      ∧ (zeros 128).length = 64 * 2 ∧ d.open' = true ∧ d.assigned 0 0 = true ∧ d.ringState 0 ≠ rsOff ∧ d.ringSize 0 < d.depth 0 + 2 :=
  ⟨calm_on (by decide +kernel), by decide +kernel⟩

/-- A ring in each of the states that the five operations start from. -/
theorem wit_RingControl_permitted : (∀ v ∈ [rsOff, rsRun, rsStopped], let d := (ring 0 ready).put Fld.QUE_STAT_STATE v
    ((d.alive = true ∧ d.watches = []) ∧ d.open' = true ∧ d.cmds = [] ∧ d.aborting = []) ∧ d.ringState 0 = v ∧ d.depth 0 = 0) := by decide +kernel

/-- An OFF ring for `STOP`, `RESUME` and `FLUSH`; a running one for `ENABLE` and `RESET`. -/
theorem wit_RingControl_refused :
    (let d := ready.put Fld.QUE_SETUP_IRQ_ERR 0
     (d.alive = true ∧ d.watches = []) ∧ d.open' = true ∧ d.flag Fld.QUE_SETUP_IRQ_ERR 0 = false ∧ d.ringState 0 ≠ rsRun ∧ d.ringState 0 ≠ rsWait ∧ d.ringState 0 ≠ rsStopped)
    ∧ (let d := (ring 0 ready).put Fld.QUE_SETUP_IRQ_ERR 0
       (d.alive = true ∧ d.watches = []) ∧ d.open' = true ∧ d.flag Fld.QUE_SETUP_IRQ_ERR 0 = false ∧ d.ringState 0 ≠ rsOff) := by decide +kernel

theorem wit_QueueCommands_nop : let d := headed 8 (entry opNop [])
    d.alive = true ∧ d.ready 0 = true ∧ opOf (d.head 0) = opNop := by decide +kernel

/-- `COND` 0 against the word's 0: with the value 1 the wait blocks, with 0 it ends. -/
theorem wit_QueueCommands_wait : ∀ v ∈ [0, 1], let d := headed 8 (entry opWait [(24, 8, v)])
    d.alive = true ∧ d.ready 0 = true ∧ opOf (d.head 0) = opWait ∧ u32 (d.head 0) 16 % 8 = 0 ∧ d.hallOk (some (d.ringTenant 0)) (u32 (d.head 0) 16) 8 = true
      ∧ d.badWords (u32 (d.head 0) 16) 8 = [] ∧ d.armed < 16384 ∧ waitHolds (d.head 0) (d.hallWord (u32 (d.head 0) 16)) = some (v == 0) := by decide +kernel

/-- With `AFTER`; of host space; and of hall space with each operation, over a word that is correctable and one that is not. -/
theorem wit_QueueCommands_signal :
    (let d := headed 8 (entry opSignal [(26, 1, 1)])
     d.alive = true ∧ d.ready 0 = true ∧ opOf (d.head 0) = opSignal ∧ bit (u8 (d.head 0) 26) 0 = true)
    ∧ (let d := headed 8 (entry opSignal [(25, 1, 1)])
       d.ready 0 = true ∧ opOf (d.head 0) = opSignal ∧ bit (u8 (d.head 0) 26) 0 = false ∧ u8 (d.head 0) 25 = 1 ∧ u8 (d.head 0) 24 = 0)
    ∧ (∀ op ∈ [0, 1, 2], ∀ bad ∈ [[], [524280]], let d : Dev := { headed 8 (entry opSignal [(16, 8, 524280), (24, 1, op), (32, 8, 5)]) with hallBad := bad }
       d.ready 0 = true ∧ opOf (d.head 0) = opSignal ∧ bit (u8 (d.head 0) 26) 0 = false ∧ u8 (d.head 0) 25 = 0 ∧ u64 (d.head 0) 16 % 8 = 0
         ∧ d.hallOk (some (d.ringTenant 0)) (u64 (d.head 0) 16) 8 = true ∧ d.badWords (u64 (d.head 0) 16) 8 = bad ∧ u8 (d.head 0) 24 = op) := by decide +kernel

/-- The first and the last sync word of a doorbell page. -/
theorem wit_DoorbellsWaitsEngines_doorbell : let d := ring 0 ready
    d.alive = true ∧ d.assigned 0 0 = true ∧ ∀ off ∈ [0x800, 0xFF8], 0x800 ≤ off ∧ off % 8 = 0
      ∧ d.hallOk (some (d.ringTenant 0)) (d.get Fld.QUE_SYNC_OFF 0 + off - 0x800) 8 = true
      ∧ d.badWords (d.get Fld.QUE_SYNC_OFF 0 + off - 0x800) 8 = [] := by decide +kernel

/-- A polled wait whose word holds, at `POLL` cycles; and an expired one. -/
theorem wit_DoorbellsWaitsEngines_waits :
    (let w : Watch := ⟨0, 0, true, 0, 0, 0⟩
     let d := ({ headed 8 (entry opWait []) with watches := [w] } : Dev).advance 2000
     d.alive = true ∧ d.watches = [w] ∧ w.ring = 0 ∧ w.polled = true ∧ w.polledAt + 2 * atLeast1 (d.get Fld.HAL_QCFG_POLL) ≤ d.clk.now
       ∧ waitHolds (d.head 0) (d.hallWord w.addr) = some true)
    ∧ (let w : Watch := ⟨0, 0, false, 0, 7, 0⟩
       let d : Dev := { headed 8 (entry opWait [(21, 1, 7), (24, 8, 1)]) with watches := [w] }
       d.alive = true ∧ d.watches = [w] ∧ w.ring = 0 ∧ d.cmds = [] ∧ d.clk.now = 3 * 0
         ∧ d.expired (u8 (d.head 0) 21) (u16 (d.head 0) 22) 0 w.strokes w.lostT = true ∧ d.clk.frac < 3000000000 ∧ d.clk.cnt < 2 ^ 64 ∧ d.clk.lost = false) := by
  decide +kernel

theorem wit_DoorbellsWaitsEngines_after : let k := { cmdOf (entry opSignal [(26, 1, 1)]) with phase := .held, engine := 8 }
    let d := running k (ring 0 ready)
    d.alive = true ∧ d.cmds = [k] ∧ d.cmdAs c0 opSignal .held = some k ∧ u8 k.entry 25 = 0 ∧ u8 k.entry 24 = 0
      ∧ d.hallOk (some (d.ringTenant k.ring)) (u64 k.entry 16) 8 = true := by decide +kernel

/-- The mover's head; and the attention engine's with core 0 of the tenant's partition free. -/
theorem wit_DoorbellsWaitsEngines_dispatch :
    (let d := headed engMover (entry opSeqCreate [])
     d.alive = true ∧ d.cmds = [] ∧ d.heads engMover true = [] ∧ d.heads engMover false = [0] ∧ engineOf (opOf (d.head 0)) = some engMover
       ∧ d.unserved engMover (d.head 0) = false ∧ d.handing = false)
    ∧ (let d := ((((headed engAttn (entry opAttnStep [])).put Fld.SEC_PART0_STATE ptActive).put Fld.SEC_PART0_TENANT 1).put Fld.SEC_PART1_BOATS 1).put
          Fld.ATT_CORE_STAT_STATE csIdle |>.put Fld.ATT_CORE_CTL_EN 1
       d.alive = true ∧ d.cmds = [] ∧ d.heads engAttn true = [] ∧ d.heads engAttn false = [0] ∧ engineOf (opOf (d.head 0)) = some engAttn
         ∧ d.unserved engAttn (d.head 0) = false ∧ d.handing = false ∧ d.freeCore (d.ringTenant 0) = some 0) := by decide +kernel

theorem wit_DoorbellsWaitsEngines_saved : ∀ ph ∈ [Phase.saving, .restoring],
    let k := { cmdOf (entry opAttnStep []) with engine := engAttn, core := some 0, slot := some 512, phase := ph, after := afterPark }
    let d := running k ready
    d.alive = true ∧ d.cmds = [k] ∧ k.core = some (0 : BitVec 9).toNat ∧ k.slot = some 512 ∧ k.phase = ph ∧ k.after = afterPark ∧ d.faults = []
      ∧ ((d.writeSlot k 0 512).coreFree 0).ringState k.ring ≠ rsStopped := by decide +kernel

/-! ## Sequences (chapter 2) -/

/-- A `SEQ_CREATE` that runs while all of pseudo-channel 0 is taken but its last two granules, alone and in a pair. -/
def createE : Entry := entry opSeqCreate [(16, 1, 1), (17, 1, 1), (19, 1, 1), (20, 2, 4)]
def tight : Dev := running (cmdOf createE) { laid with runs := [⟨0, 524286, none, .table⟩] }
def tightIn (st : Nat) : Dev := tight.put Fld.PAIR_STAT_STATE st

/-- Both bodies of record 0 allocated where each has one place. -/
theorem bodies_of {d : Dev} (h1 : d.pcFor 0 (pmapGrans 4 1 1) 1 (rotate (d.tenantPcs 1) (if (d.rotation.map (·.1)).contains 1 then some (sget 0 1 d.rotation) else none))
      = some (0, [(524286, 2)]))
    (h2 : ((({ d with freeCtr := d.freeCtr + 1, runs := d.runs ++ [⟨placeAt (ceilDiv (pmapGrans 4 1 1) 1) 0 [(524286, 2)] * 1, pmapGrans 4 1 1, some 1, .pageMap 0⟩],
                      rotation := sins 1 0 d.rotation } : Dev).put Fld.MEM_QUOTA_USE (d.get Fld.MEM_QUOTA_USE 1 t1 + pmapGrans 4 1 1) 1 t1).allocRun
        (some 1) (landGrans 1 1) 1 (.landing 0)).isSome = true) :
    ∃ pm la d', d.allocBodies 0 1 1 1 4 = some (pm, la, d') := by
  have h3 := allocRun_one (kind := .pageMap 0) h1 (by decide)
  have h4 : (d.allocBodies 0 1 1 1 4).isSome = true := by
    simp only [Dev.allocBodies, h3, Option.bind, Option.isSome_map]; exact h2
  obtain ⟨⟨pm, la, d'⟩, h⟩ := Option.isSome_iff_exists.mp h4
  exact ⟨pm, la, d', h⟩

theorem wit_SeqCreateCompletes (st : Nat) (hst : st ∈ [psSolo, psPaired]) : let d := tightIn st
    d.alive = true ∧ d.act c0 opSeqCreate = some (cmdOf createE) ∧ seqFieldsOk createE = true ∧ d.freeRec = some 0
      ∧ d.admits 1 t1 (bodyGrans (u8 createE 16) (u8 createE 17) (u16 createE 20)) = true ∧ d.mirrors = (st == psPaired)
      ∧ ∃ pm la d', d.allocBodies 0 1 (u8 createE 16) (u8 createE 17) (u16 createE 20) = some (pm, la, d') := by
  simp only [List.mem_cons, List.not_mem_nil, or_false] at hst
  rcases hst with rfl | rfl <;>
    exact ⟨by decide +kernel, by decide +kernel, by decide +kernel, by decide +kernel, by decide +kernel, by decide +kernel,
      bodies_of (by decide +kernel) (by decide +kernel)⟩

/-- A record with one OWNED page 5 in slot 0, and with a page whose tag differs from the reference's. -/
def owningWith (tag : Nat) (d : Dev) : Dev :=
  (d.setPage 5 ⟨0, 1, 1, 64, tag, 5000, 1, pgOwned, 0, false, false, false⟩).dramPutN 8 (2001 * granBytes) (packEntry ⟨7, 5, 1⟩)

/-- Release and transfer, each of a handle that passes R32 and of one that does not, over a map with and without a stale reference; a transfer whose `RECOMP` is
above 3, and one whose bitmap is still to be written. -/
theorem wit_ReleaseAndTransferAccepted : (∀ op ∈ [opSeqRelease, opKvTransfer], ∀ n ∈ [3, 4],
    (let k := cmdOf (entry op [(16, 4, h0), (22, 1, n)])
     let d := running k seq
     d.alive = true ∧ d.act c0 op = some k ∧ k.stage ≠ stageBitmap ∧ d.xfers = [] ∧ d.checkHandle (u32 k.entry 16) k.tenant k.order = stOK
       ∧ d.checkHandle (u32 k.entry 16) k.tenant d.orders = stOK ∧ d.staleOf 0 = none ∧ u8 k.entry 22 = n)
    ∧ (let k := cmdOf (entry op [(16, 4, h0 + 32768)])
       let d := running k seq
       d.alive = true ∧ d.act c0 op = some k ∧ d.checkHandle (u32 k.entry 16) k.tenant k.order ≠ stOK ∧ d.checkHandle (u32 k.entry 16) k.tenant d.orders ≠ stOK))
    ∧ (owningWith 8 seq).staleOf 0 = some (5, 7)
    ∧ (let k := { cmdOf (entry opKvTransfer [(16, 4, h0)]) with stage := stageBitmap }
       (running k seq).act c0 opKvTransfer = some k ∧ k.stage = stageBitmap) := by decide +kernel

/-- A transfer of record 0 that stands at a phase. -/
def xferAt (ph : XPhase) : Xfer :=
  { xid := 1, idx := 0, ring := 0, index := 0, dest := 2, recomp := 0, retryMax := 3, bitmap := 0, phase := ph, order := 0, entries := [0, 1], acked := [], moved := 0,
    copied := 0, retries := 0, waitFor := 0, lastTry := 0, parked := false, tried := false }
def sending (x : Xfer) : Dev := { (opened 0 (seqIn recLeaving)).rset 0 4 1 with xfers := [x] }

theorem wit_TransferAtSource_waiting : let x := xferAt .waiting
    let d := sending x
    d.alive = true ∧ d.xfer (1 : BitVec 32).toNat = some x ∧ x.phase = .waiting ∧ x.waitFor = 0 ∧ d.earlierNaming x.idx x.order = false
      ∧ d.rState x.idx = recLeaving ∧ d.rXfer x.idx = x.xid ∧ (d.flushSeq x.idx).1 = true := by decide +kernel

/-- With retries left, with none left, asking, and committing with `COMMIT_RETRY` over. -/
theorem wit_TransferAtSource_asking :
    (∀ n ∈ [2, 3], let x := { xferAt .retry with retries := n }
      (sending x).xfer (1 : BitVec 32).toNat = some x ∧ x.phase = .retry ∧ x.waitFor = 0 ∧ (n = 2 → x.retries < x.retryMax) ∧ (n = 3 → x.retryMax ≤ x.retries))
    ∧ (∀ ph ∈ [XPhase.reserving, .moving, .committing], let x := xferAt ph
      (sending x).xfer (1 : BitVec 32).toNat = some x ∧ x.phase = ph ∧ (sending x).hears 0 x.dest = true)
    ∧ (let x := xferAt .committing
       let d := (sending x).advanceTo (1000000000 : BitVec 64).toNat
       d.alive = true ∧ x.phase = .committing ∧ d.xfer (1 : BitVec 32).toNat = some x ∧ x.lastTry + 1000 * atLeast1 (d.get Fld.MOV_XFER_CFG_COMMIT_RETRY) ≤ d.ns) := by
  decide +kernel

/-- The device that asks is the lower node of the two. -/
theorem wit_TransferAtSource_cross (why : NakReason) : ((sending (xferAt .reserving)).took (.rsvNak 1 why true) 2).node < (xferAt .reserving).dest :=
  took_both (P := fun d => d.node < 2) (by cases why <;> decide +kernel) (by cases why <;> decide +kernel)

/-- The first page acknowledged, and the last; a commit answered to this node. -/
theorem wit_TransferAtSource_moving :
    (let x := xferAt .moving
     (sending x).alive = true ∧ (sending x).xfer (1 : BitVec 32).toNat = some x ∧ x.phase = .moving ∧ (0 : BitVec 32).toNat ∈ x.entries ∧ (0 : BitVec 32).toNat ∉ x.acked
       ∧ x.acked.length + 1 < x.entries.length)
    ∧ (let x := { xferAt .moving with acked := [0] }
       (sending x).alive = true ∧ (sending x).xfer (1 : BitVec 32).toNat = some x ∧ x.phase = .moving ∧ (1 : BitVec 32).toNat ∈ x.entries ∧ (1 : BitVec 32).toNat ∉ x.acked
         ∧ x.acked.length + 1 = x.entries.length)
    ∧ (let x := xferAt .committing
       (sending x).alive = true ∧ (sending x).xfer (1 : BitVec 32).toNat = some x ∧ x.phase = .committing
         ∧ (sending x).inDoubt (1 : BitVec 32).toNat (sending x).node = none ∧ (sending x).answersTo x (sending x).node = true ∧ (sending x).node < 65536) := by
  decide +kernel

/-- The header of transfer 7 of peer 2. -/
def hdr : XferHdr := ⟨7, 2, 0, 5⟩
def held (d : Dev) (r : Rsv) : Dev := { opened 0 (peered d) with rsvs := [r] }
def rsv0 : Rsv := ⟨2, 7, 0, 5, 0, [(1, 3)], [(4, 9)], 0⟩
def rsvReq : RsvReq := ⟨hdr, 1, 1, 1, 0, 1, 4, 0, 0, 0⟩
def asked (st : Nat) : Dev := opened 0 (peered (tightIn st))

theorem reserve_of {d : Dev} (h : ∃ pm la d', d.allocBodies 0 1 1 1 4 = some (pm, la, d')) : ∃ d', d.reserve rsvReq 0 = .ok d' := by
  obtain ⟨pm, la, d', h⟩ := h
  have h4 : d.allocBodies 0 rsvReq.tenant.toNat rsvReq.layers.toNat rsvReq.kvheads.toNat rsvReq.maxslots.toNat = some (pm, la, d') := h
  simp only [Dev.reserve, h4]
  exact ⟨_, rfl⟩

/-- A request that everything admits, on a device alone and in a pair, where a twin's record is asked. -/
theorem wit_TransferDestination_request (st : Nat) (hst : st ∈ [psSolo, psPaired]) : (asked st).alive = true ∧ (asked st).hears 0 2 = true ∧ rsvReq.hdr = hdr
    ∧ (let d := (asked st).took (.rsvReq rsvReq) 2
       let d1 := d.askTwin 0 (word0 (genIssued (d.rGen 0)) recArriving 1 1 1 0 1 4)
       (d.epochOk 2 5 = true ∧ d.rsv 2 7 = none ∧ d.hasPart rsvReq.tenant.toNat = true ∧ d.admits rsvReq.tenant.toNat t1 (rsvGrans rsvReq) = true ∧ d.freeRec = some 0
         ∧ d1.mirrors = (st == psPaired)) ∧ ∃ d', d1.reserve rsvReq 0 = .ok d') := by
  simp only [List.mem_cons, List.not_mem_nil, or_false] at hst
  refine ⟨?_, ?_, rfl, took_both (P := fun d => (d.epochOk 2 5 = true ∧ d.rsv 2 7 = none ∧ d.hasPart rsvReq.tenant.toNat = true
    ∧ d.admits rsvReq.tenant.toNat t1 (rsvGrans rsvReq) = true ∧ d.freeRec = some 0
    ∧ (d.askTwin 0 (word0 (genIssued (d.rGen 0)) recArriving 1 1 1 0 1 4)).mirrors = (st == psPaired))
    ∧ ∃ d', (d.askTwin 0 (word0 (genIssued (d.rGen 0)) recArriving 1 1 1 0 1 4)).reserve rsvReq 0 = .ok d') ?_ ?_⟩ <;> rcases hst with rfl | rfl
  all_goals first
    | decide +kernel
    | exact ⟨by decide +kernel, reserve_of (bodies_of (by decide +kernel) (by decide +kernel))⟩

/-- Requests refused: of a node whose epoch is not known; of a tenant without partition; above its quota; and for want of space. -/
def isError {α β : Type} (r : Except α β) : Bool :=
  match r with
  | .ok _ => false
  | .error _ => true

theorem wit_TransferDestination_refused :
    ((asked psSolo).took (.rsvReq rsvReq) 3).epochOk 3 5 = false
    ∧ ((opened 0 (peered ready)).took (.rsvReq rsvReq) 2).hasPart rsvReq.tenant.toNat = false
    ∧ (((asked psSolo).put Fld.MEM_QUOTA_LIMIT 0 1).took (.rsvReq rsvReq) 2).admits rsvReq.tenant.toNat t1 (rsvGrans rsvReq) = false
    ∧ (let d := ({ asked psSolo with runs := [⟨0, 1048576, none, .table⟩] } : Dev).took (.rsvReq rsvReq) 2
       isError ((d.askTwin 0 0).reserve rsvReq 0) = true) :=
  ⟨took_both (P := fun d => d.epochOk 3 5 = false) (by decide +kernel) (by decide +kernel),
   took_both (P := fun d => d.hasPart rsvReq.tenant.toNat = false) (by decide +kernel) (by decide +kernel),
   took_both (P := fun d => d.admits rsvReq.tenant.toNat t1 (rsvGrans rsvReq) = false) (by decide +kernel) (by decide +kernel),
   took_both (P := fun d => isError ((d.askTwin 0 0).reserve rsvReq 0) = true) (by decide +kernel) (by decide +kernel)⟩

/-- A page without content of an entry and of a mode, with its check sum. -/
def pageMsg (n mode crc : Nat) : XferPage := ⟨hdr, BitVec.ofNat 32 n, BitVec.ofNat 2 mode, 64, false, [], [], [], BitVec.ofNat 32 crc⟩

/-- Under a reservation: a page with a wrong check sum, one placed already, one without room, and one with it; the same without a reservation. -/
theorem wit_TransferDestination_pages : ∀ x ∈ [(0, 1, 1), (4, 1, 0), (0, 2, 0), (0, 1, 0)], let m := pageMsg x.1 x.2.1 x.2.2
    m.hdr = hdr ∧ (held (seqIn recArriving) rsv0).hears 0 2 = true ∧ (m.crc.toNat = crc32c (m.payload ++ m.scale) ↔ x.2.2 = 0)
      ∧ rsv0.placed.any (·.1 == m.entry.toNat) = (x.1 == 4) ∧ (takeSpare m.mode.toNat rsv0.spare = if x.2.1 = 1 then some (3, []) else none)
      ∧ (let d := (held (seqIn recArriving) rsv0).took (.page m) 2
         d.epochOk 2 5 = true ∧ d.rsv 2 7 = some rsv0)
      ∧ (let d := (opened 0 (peered ready)).took (.page m) 2
         d.epochOk 2 5 = true ∧ d.rsv 2 7 = none) := by
  have h : ∀ x ∈ [(0, 1, 1), (4, 1, 0), (0, 2, 0), (0, 1, 0)], let m := pageMsg x.1 x.2.1 x.2.2
      ((held (seqIn recArriving) rsv0).hears 0 2 = true ∧ (m.crc.toNat = crc32c (m.payload ++ m.scale) ↔ x.2.2 = 0)
        ∧ rsv0.placed.any (·.1 == m.entry.toNat) = (x.1 == 4) ∧ (takeSpare m.mode.toNat rsv0.spare = if x.2.1 = 1 then some (3, []) else none))
      ∧ ∀ d ∈ [tookNo (held (seqIn recArriving) rsv0) (.page m) 2, tookAck (held (seqIn recArriving) rsv0) (.page m) 2], d.epochOk 2 5 = true ∧ d.rsv 2 7 = some rsv0 := by
    decide +kernel
  have g : ∀ x ∈ [(0, 1, 1), (4, 1, 0), (0, 2, 0), (0, 1, 0)], let m := pageMsg x.1 x.2.1 x.2.2
      ∀ d ∈ [tookNo (opened 0 (peered ready)) (.page m) 2, tookAck (opened 0 (peered ready)) (.page m) 2], d.epochOk 2 5 = true ∧ d.rsv 2 7 = none := by decide +kernel
  exact fun x hx => ⟨rfl, (h x hx).1.1, (h x hx).1.2.1, (h x hx).1.2.2.1, (h x hx).1.2.2.2,
    took_both (P := fun d => d.epochOk 2 5 = true ∧ d.rsv 2 7 = some rsv0) ((h x hx).2 _ (by simp)) ((h x hx).2 _ (by simp)),
    took_both (P := fun d => d.epochOk 2 5 = true ∧ d.rsv 2 7 = none) (g x hx _ (by simp)) (g x hx _ (by simp))⟩

/-- A `COMMIT` and an `ABORT` that find the transfer committed and told, committed and not told, reserved, and unknown. -/
def commit7 : CommitMsg := ⟨hdr, List.replicate 16 0, []⟩
def toldIs (b : Bool) (d : Dev) : Dev := { d with committed := [⟨2, 7, 0, 9, 0, b⟩] }
def finds (d : Dev) : Option Committed := d.committed.find? fun c => c.src == 2 && c.xid == 7 && (c.dst == 0)

theorem wit_TransferDestination_ends : ∀ m ∈ [Ctrl.commit commit7, .abort hdr],
    (∀ b ∈ [true, false], finds ((toldIs b (held (seqIn recArriving) rsv0)).took m 2) = some ⟨2, 7, 0, 9, 0, b⟩)
    ∧ (let d := (held (seqIn recArriving) rsv0).took m 2
       d.epochOk 2 5 = true ∧ finds d = none ∧ d.rsv 2 7 = some rsv0)
    ∧ (let d := (opened 0 (peered ready)).took m 2
       d.epochOk 2 5 = true ∧ finds d = none ∧ d.rsv 2 7 = none) := by
  intro m hm
  simp only [List.mem_cons, List.not_mem_nil, or_false] at hm
  refine ⟨fun b _ => took_both (P := fun d => finds d = some ⟨2, 7, 0, 9, 0, b⟩) ?_ ?_,
    took_both (P := fun d => d.epochOk 2 5 = true ∧ finds d = none ∧ d.rsv 2 7 = some rsv0) ?_ ?_,
    took_both (P := fun d => d.epochOk 2 5 = true ∧ finds d = none ∧ d.rsv 2 7 = none) ?_ ?_⟩ <;> rcases hm with rfl | rfl
  all_goals first
    | decide +kernel
    | (cases b <;> decide +kernel)

/-- The holds: a reservation silent for 0 strokes and for `RSV_HOLD`; a parked transfer; an append that waited for its time; a landing flush at its
angle; a returned record that waits for the answer to an `ABORT`. -/
theorem wit_TransferHolds :
    (∀ n ∈ [0, 255], let r := { rsv0 with silent := n }
      let d := held (seqIn recArriving) r
      d.alive = true ∧ d.hears 0 hdr.src.toNat = true ∧ d.rsv hdr.src.toNat hdr.xid.toNat = some r ∧ (n = 0 → r.silent < d.get Fld.MOV_XFER_CFG_RSV_HOLD) ∧ (n = 255 → d.get Fld.MOV_XFER_CFG_RSV_HOLD ≤ r.silent))
    ∧ (let x := { xferAt .moving with parked := true }
       (sending x).alive = true ∧ (sending x).xfers = [x] ∧ x.parked = true ∧ x.tried = false)
    ∧ (let k := { cmdOf (entry opAttnMerge []) with holds := true }
       let d := (running k ready).advanceTo (70000000 : BitVec 64).toNat
       d.alive = true ∧ d.cmdAs c0 opAttnMerge .run = some k ∧ k.holds = true ∧ k.since + 1000 * d.get Fld.MEM_FAULT_CFG_TIMEOUT ≤ d.ns)
    ∧ (let d : Dev := ({ ready with clk := { ready.clk with state := .locked, latched := 1000, period := 1000 } } : Dev).advanceTo 999
       d.alive = true ∧ d.firing = true ∧ d.clk.flushed = false ∧ d.get Fld.MOV_XFER_CFG_LFLUSH_ANGLE ≤ d.angle)
    ∧ (let d := sending (xferAt .committing)
       let d : Dev := (({ d with pair := { d.pair with waitAbort := [0], taking := true } } : Dev).put Fld.PAIR_STAT_SERVED 2).setSide 0 0 0 1 0
       d.alive = true ∧ d.inDoubt (1 : BitVec 32).toNat (2 : BitVec 16).toNat = some 0 ∧ d.hears 0 (d.sideDest 0) = true) := by decide +kernel

/-- A hold of a transfer that is reserved, and of one that is not. -/
theorem wit_TransferHolds_held : ((held (seqIn recArriving) rsv0).took (.xferHold hdr) 2).rsv 2 7 = some rsv0
    ∧ ((opened 0 (peered ready)).took (.xferHold hdr) 2).rsv 2 7 = none :=
  ⟨took_both (P := fun d => d.rsv 2 7 = some rsv0) (by decide +kernel) (by decide +kernel),
   took_both (P := fun d => d.rsv 2 7 = none) (by decide +kernel) (by decide +kernel)⟩

/-! ## Page directory, prefix tree, hall and attention (chapters 2, 4, 5) -/

/-- With a tree, an empty range of blocks; without one; and with a stale handle. -/
theorem wit_PrefixTreeAndScans_commands : ∀ op ∈ [opPrefixLookup, opPrefixInsert],
    (let k := cmdOf (entry op [(16, 4, h0)])
     let d := running k (seq.put Fld.IDX_PT_CFG_SIZE_LOG2 4)
     d.alive = true ∧ d.act c0 op = some k ∧ d.prefixCheck k true = stOK ∧ d.prefixCheck k false = stOK ∧ d.ptSize ≠ 0 ∧ u32 k.entry 20 = 0)
    ∧ (let k := cmdOf (entry op [(16, 4, h0)])
       let d := running k (seq.put Fld.IDX_PT_CFG_SIZE_LOG2 0)
       d.alive = true ∧ d.act c0 op = some k ∧ d.prefixCheck k true = stOK ∧ d.prefixCheck k false = stOK ∧ d.ptSize = 0)
    ∧ (let k := cmdOf (entry op [(16, 4, 0)])
       let d := running k seq
       d.alive = true ∧ d.act c0 op = some k ∧ d.prefixCheck k true ≠ stOK ∧ d.prefixCheck k false ≠ stOK) := by decide +kernel

theorem wit_PrefixTreeAndScans_empty (k : RunCmd) (i p : Nat) (d : Dev) :
    Dev.lookupFrom k i 0 0 p [] d = .ok [] d ∧ Dev.hashesFrom k i 0 0 p [] d = .ok ([], none) d ∧ Dev.insertFrom i [] 0 none 0 0 d = (d, 0, 0) := ⟨rfl, rfl, rfl⟩

/-- A key write; a scan at its first bucket of four and at its last; a sweep under way. -/
theorem wit_PrefixTreeAndScans_scans :
    (ready.alive = true ∧ ready.open' = true ∧ ready.flag Fld.GLB_UNIT_EN_IDX = true)
    ∧ (∀ b ∈ [0, 3], let x : KeyScan := ⟨1, b⟩
       let d : Dev := { (ready.put Fld.IDX_PT_CFG_SIZE_LOG2 4) with scans := [x] }
       d.alive = true ∧ d.scans.find? (·.tenant == (1 : BitVec 8).toNat) = some x ∧ d.ptSize ≠ 0 ∧ (d.scanBucket 1 b).ptSize ≠ 0
         ∧ (b = 0 → x.bucket + 1 < (d.scanBucket 1 b).buckets) ∧ (b = 3 → (d.scanBucket 1 b).buckets ≤ x.bucket + 1))
    ∧ (ready.put Fld.MEM_PD_SWEEP_BUSY 1).flag Fld.MEM_PD_SWEEP_BUSY = true := by decide +kernel

/-- A request by a master for command 0 of ring 0 (R110). -/
def req (k : HallKind) (master : BitVec 7) (t : Option (BitVec 8)) (data : Word) : HallReq := ⟨master, .cmd c0, 0, k, 255, data, 0, t⟩

theorem wit_HallGrants_one : (∀ k ∈ [HallKind.read, .add, .swap], ready.reqOk 0 (req k 16 (some 1) 5) = true) ∧ ready.reqOk 0 (req .read 16 none 5) = false
    ∧ (ready.alive = true ∧ ready.watches = []) ∧ ready.badWords (bankAddr 0 0) 8 = []
    ∧ ready.stalled.filter (fun (x : BankReq) => x.bank == (0 : BitVec 8).toNat) = [] := by decide +kernel

/-- With the same data and with other data; by a boat and by the host; over a word that is correctable and one that is not. -/
theorem wit_HallGrants_two : ∀ n ∈ [5, 6], ∀ m ∈ [17, mHost], ∀ bad ∈ [[], [bankAddr 0 0]], let p := req .write (if m = mHost then 0 else 16) (some 1) 5
    let q := req .write (BitVec.ofNat 7 m) (some 1) (BitVec.ofNat 64 n)
    let d : Dev := { ready with hallBad := bad }
    (d.alive = true ∧ d.watches = []) ∧ p.kind = .write ∧ q.kind = .write ∧ q.row = p.row ∧ p.be.toNat = 255 ∧ q.be.toNat = 255 ∧ p.master.toNat < q.master.toNat
      ∧ (m = mHost → q.master.toNat = mHost) ∧ d.badWords (bankAddr 0 0) 8 = bad ∧ d.stalled = [] ∧ d.reqOk 0 p = true ∧ d.reqOk 0 q = true ∧ q.owner = .cmd c0 := by
  decide +kernel

/-- A read before a write; and a read that has stalled `AGE` cycles before a read of a lower master. -/
theorem wit_HallGrants_stalled : let p := req .read 16 (some 1) 5
    let q := req .read 17 (some 1) 6
    ready.alive = true ∧ ready.watches = [] ∧ p.kind ≠ .write ∧ p.master.toNat < q.master.toNat
      ∧ (let n := atLeast1 (ready.get Fld.HAL_CFG_AGE)
         let d : Dev := { ready with stalled := [⟨0, n, q⟩] }
         d.alive = true ∧ d.watches = [] ∧ d.stalled = [⟨(0 : BitVec 8).toNat, n, q⟩] ∧ atLeast1 (d.get Fld.HAL_CFG_AGE) ≤ n ∧ q.kind = .read ∧ d.reqOk 0 q = true
           ∧ d.badWords (bankAddr 0 0) 8 = []) := by decide +kernel

/-- The first and the last core; a posted send answered; a `RETR_SELECT` at the head of its ring with and without summaries. -/
theorem wit_CoreControlAndSends :
    (ready.alive = true ∧ ready.open' = true ∧ ∀ n ∈ [(0 : BitVec 9).toNat, (511 : BitVec 9).toNat], ready.boatFitted (n / 8) = true)
    ∧ (∀ op ∈ [opAttnStep, opLoraApply], let k := { cmdOf (entry op []) with phase := .acks, note := sendSync }
       let d := running k (tabled h0 0 seq)
       d.alive = true ∧ d.cmdOf c0 = some k ∧ k.phase = .acks ∧ opOf k.entry = op ∧ k.ops = [] ∧ k.note = sendSync)
    ∧ (∀ en ∈ [0, 1], let d := (headed engIndex (entry opRetrSelect [])).put Fld.IDX_SUM_BASE_EN en
       d.alive = true ∧ d.retrHead c0 = true ∧ d.retr = [] ∧ d.handing = false ∧ d.flag Fld.IDX_SUM_BASE_EN = (en == 1)) := by decide +kernel

/-- A `RETR_SELECT` taken up again, over a step table that names an own sequence, whose segment has no retrieval record; and one at the head of its ring that is due. -/
theorem wit_CoreControlAndSends_start : (let k := cmdOf (entry opRetrSelect [])
    let d := running k (tabled h0 0 seq)
    d.alive = true ∧ d.act c0 opRetrSelect = some k ∧ k.status = stOK ∧ (d.retrCheck k).2 = stOK
      ∧ ((d.retrCheck k).1.tableShape ((d.retrCheck k).1.stepTab 0)).isSome = true
      ∧ okAnd (Dev.selectSegs k (d.stepTab 0) ⟨1, 1, 0, 1⟩ (List.range (d.stepTab 0).nsegs) ⟨0, 0, none⟩ d) (fun r _ => r == ⟨0, 1, none⟩) = true)
    ∧ (let s0 := (headed engIndex (entry opRetrSelect [])).put Fld.IDX_SUM_BASE_EN 1
       let d : Dev := { s0 with retr := [⟨0, 0, 0⟩], clk := { s0.clk with state := .locked } }
       d.alive = true ∧ d.act c0 opRetrSelect = none ∧ d.retrHead c0 = true ∧ d.retrDue c0 = true ∧ d.flag Fld.IDX_SUM_BASE_EN = true ∧ d.handing = false
         ∧ d.running engIndex < room engIndex
         ∧ (({ (d.take 0 engIndex (d.isLc 0 (d.head 0)) none .run) with retr := d.retr.filter fun w => w.ring != 0 } : Dev).act c0 opRetrSelect).isSome = true) := by
  decide +kernel

/-- A landing body for record 0, so that a merge takes no new granules. -/
def landed : Dev := { seq with runs := [⟨2100, 16, some 1, .landing 0⟩] }

/-- A merge of the next row, and one at a position that the checks refuse. -/
theorem wit_AttnMergeCompletes :
    (let e := entry opAttnMerge [(20, 4, 4096), (26, 2, 1), (32, 4, 512)]
     let k := cmdOf e
     let d := running k (tabled h0 0 landed)
     let k' := { k with stage := 1 }
     let d1 := (d.mergeCheck k).1
     let d2 := ((d1.setAt k').named k.tenant e).foldl Dev.touch (d1.setAt k')
     d.alive = true ∧ d.act c0 opAttnMerge = some k ∧ k.status = stOK ∧ k.begun = false ∧ k.pos = 0 ∧ k.res = [] ∧ k.holds = false ∧ (d.mergeCheck k).2 = stOK
       ∧ d2.tableShape (d2.stepTab (u32 e 16)) = some ⟨1, 1, 0, 1⟩
       ∧ (Dev.mergeFrom k' (d2.stepTab (u32 e 16)) ⟨1, 1, 0, 1⟩ (u32 e 20) (u8 e 28) (d2.mergeOrder (d2.stepTab (u32 e 16)) (u16 e 24) (u16 e 26)) ⟨0, 0⟩ d2).1 = .done)
    ∧ (let k := cmdOf (entry opAttnMerge [(20, 4, 4096), (26, 2, 1), (32, 4, 512)])
       let d := running k (tabled h0 9 landed)
       d.alive = true ∧ d.act c0 opAttnMerge = some k ∧ k.status = stOK ∧ k.begun = false ∧ k.pos = 0 ∧ k.res = [] ∧ k.holds = false ∧ (d.mergeCheck k).2 ≠ stOK) := by decide +kernel

/-- A step over one row in the landing body, with its unit; and one whose range fails. -/
def stepE : Entry := entry opAttnStep [(20, 4, 4096), (24, 4, 8192), (30, 2, 1), (34, 1, 1), (36, 4, 512)]
def stepD : Dev := running (cmdOf stepE) (tabled h0 0 (landed.putHdr 0 0 0 1))

theorem wit_AttnStepRuns :
    (stepD.alive = true ∧ stepD.act c0 opAttnStep = some (cmdOf stepE) ∧ (cmdOf stepE).status = stOK ∧ (cmdOf stepE).begun = false ∧ (cmdOf stepE).pos = 0
      ∧ (stepD.stepRange (cmdOf stepE)).2 = stOK ∧ stepD.tableShape (stepD.stepTab (u32 stepE 16)) = some ⟨1, 1, 0, 1⟩)
    ∧ (let d := running (cmdOf stepE) (tabled h0 0 landed)
       d.alive = true ∧ d.act c0 opAttnStep = some (cmdOf stepE) ∧ (d.stepRange (cmdOf stepE)).2 ≠ stOK) := by decide +kernel

theorem wit_AttnStepRuns_unit : let t := stepD.stepTab 0
    let sh : Shape := ⟨1, 1, 0, 1⟩
    unitList stepE = [(0, 0)] ∧ stepD.tagSeg t 0 ≠ segPad ∧ (cmdOf stepE).core = none ∧ stepD.badQuery t sh (u32 stepE 20) 0 0 = []
      ∧ okAnd (stepD.unit (cmdOf stepE) t sh (u32 stepE 20) 0 (u8 stepE 32) 0) (fun u d' => u.sel == 0 && u.bad == 0 && u.stale.isNone
          && d'.hallOk (some 1) (unitOff stepE t sh (0, 0)) (2 * u.out.length)
          && (d'.lostWords (.cmd (cmdOf stepE).id) (unitOff stepE t sh (0, 0)) (bf16Bytes u.out).length).isEmpty
          && (d'.badPart (unitOff stepE t sh (0, 0)) (bf16Bytes u.out).length).isEmpty) = true := by decide +kernel

/-! ## Sampler and adapters (chapters 6, 7) -/

/-- A `SAMPLE` of one segment with one token in its vocabulary. -/
def sampleE (h : Nat) : RunCmd := cmdOf (entry opSample [(22, 2, 1), (24, 8, 8192), (32, 8, 4096), (40, 4, 1), (60, 4, h)])
def sampleD (h : Nat) : Dev := running (sampleE h) (tabled h 0 (mapped seq))

/-- One that passes its checks, whose only segment gives a token; one whose segment has a stale handle; and one outside the tenant's ways. -/
theorem wit_SamplerRuns_sample :
    ((sampleD h0).alive = true ∧ (sampleD h0).act c0 opSample = some (sampleE h0) ∧ (sampleE h0).begun = false ∧ (sampleE h0).stage ≠ stageNotRun ∧ ((sampleD h0).sampleCheck (sampleE h0)).2 = stOK
      ∧ okAnd ((sampleD h0).segment (sampleE h0) ((sampleD h0).stepTab 0) 0) (fun r _ => r.1.code == ocToken) = true)
    ∧ okAnd ((sampleD 1).segment (sampleE 1) ((sampleD 1).stepTab 0) 0) (fun r _ => r.1.code == ocRejected) = true
    ∧ (let d := running (sampleE h0) ready
       d.act c0 opSample = some (sampleE h0) ∧ (d.sampleCheck (sampleE h0)).2 ≠ stOK)
    ∧ ((sampleD h0).mirrors = false ∧ (sampleD h0).groupsOf (sampleE h0) = [] ∧ (sampleD h0).cmds = [sampleE h0]) := by decide +kernel

/-- `SAMP_SET` in range and not; a group that is ready; a stroke at the scan's angle. -/
theorem wit_SamplerRuns_rest :
    (∀ n ∈ [2, 3], let k := cmdOf (entry opSampSet [(16, 4, h0), (30, 1, n)])
       let d := running k seq
       d.alive = true ∧ d.act c0 opSampSet = some k ∧ d.checkHandle (u32 k.entry 16) k.tenant k.order = stOK ∧ d.checkHandle (h0 + 32768) k.tenant k.order ≠ stOK ∧ sampSetOk k.entry = (n == 2))
    ∧ (let g : TokGroup := ⟨0, 0, 0, []⟩
       let d : Dev := { ready with groups := [g] }
       d.alive = true ∧ d.groups = [g] ∧ g.number = (0 : BitVec 64).toNat ∧ d.groupReady g = true)
    ∧ (let d : Dev := ({ ready with clk := { ready.clk with state := .locked, latched := 1000, period := 1000 } } : Dev).advanceTo 999
       d.alive = true ∧ d.firing = true ∧ d.clk.scanned = false ∧ d.get Fld.SMP_CFG_SCAN_ANGLE ≤ d.angle) := by decide +kernel

/-- A NaN; all at minus infinity; a plus infinity; and plain logits with temperature 0 and with `TOP_K` 1. -/
theorem wit_ChooseToken : (dec32 0x7FC00000).isNan = true ∧ (dec32 negInf32).isNan = false ∧ (dec32 posInf32).isNan = false
    ∧ (∀ x ∈ [(0, 0), (1, 0x3F800000)], x.2 < 2 ^ 32 ∧ (dec32 x.2).isNan = false ∧ x.2 ≠ negInf32 ∧ x.2 ≠ posInf32) ∧ (dec32 0).isZero = true := by decide +kernel

def loraK : RunCmd := cmdOf (entry opLoraApply [(20, 4, 4096), (24, 4, 8192), (30, 2, 1), (36, 4, 512)])
def loraD (h : Nat) : Dev := running loraK (tabled h 0 (lardered (seq.rput 0 5 63 48 3)))

theorem wit_AdapterRuns_lora :
    ((loraD h0).alive = true ∧ (loraD h0).act c0 opLoraApply = some loraK ∧ ((loraD h0).loraCheck loraK).2 = (stOK, 32, 32))
    ∧ ((loraD 1).act c0 opLoraApply = some loraK ∧ ((loraD 1).loraCheck loraK).2.1 ≠ stOK) := by decide +kernel

/-- A `WSTREAM` without and with a `DIFF`; one whose tiles are done; one whose atomic is done. -/
theorem wit_AdapterRuns_wstream :
    (let k := cmdOf (entry opWstream [(28, 2, 0xFFFF), (36, 2, 64)])
     let d := running k (paired ready)
     d.alive = true ∧ d.cmdOf c0 = some k ∧ opOf k.entry = opWstream ∧ k.phase = .run ∧ k.begun = false ∧ (d.wstreamCheck k).2 = stOK ∧ u16 k.entry 28 = adpNone)
    ∧ (let k := cmdOf (entry opWstream [(28, 2, 4), (30, 1, 1), (36, 2, 64)])
       let d := running k ((lardered (paired ready)).setAdp 4 ⟨1, adValid, 2, 0, 1, 40, 0, 1, 0, 0⟩)
       d.cmdOf c0 = some k ∧ opOf k.entry = opWstream ∧ k.phase = .run ∧ k.begun = false ∧ (d.wstreamCheck k).2 = stOK ∧ u16 k.entry 28 ≠ adpNone)
    ∧ (∀ n ∈ [wsTiles, wsSync], let k := { cmdOf (entry opWstream [(36, 2, 64)]) with phase := .acks, note := n, pos := stOK }
       let d := running k (paired ready)
       d.alive = true ∧ d.cmdOf c0 = some k ∧ opOf k.entry = opWstream ∧ k.phase = .acks ∧ k.ops = [] ∧ k.status = stOK ∧ k.pos = stOK ∧ k.note = n ∧ d.pairRefuses k.tenant (u16 k.entry 36) = stOK
         ∧ (d.sendAtomic k (u16 k.entry 36) (u64 k.entry 40) wsSync).isSome = true) := by decide +kernel

/-- An adapter body of one granule: one layer, no target; and its check sum. -/
def body : List Byte := 1 :: zeros 4095

theorem body_crc : crc32c body = 0x5A5CF7D7 := (crc32c_eq_steps body).trans (by decide +kernel)

/-- Two lists compared from their fronts. -/
def same : List Byte → List Byte → Bool
  | [], [] => true
  | a :: as, b :: bs => if a = b then same as bs else false
  | _, _ => false

/-- Loads of the body from host memory, as class L, which it obeys, and as class D, which it does not. -/
def loadK (cls : Nat) : RunCmd := cmdOf (entry opAdpLoad [(16, 2, 5), (18, 1, cls), (32, 4, 1), (36, 4, 40), (44, 4, 0x5A5CF7D7), (48, 2, 0xFFFF)])
def loadD (cls : Nat) : Dev :=
  { running (loadK cls) ((mapped (lardered laid)).dramPutN 8 (12 * granBytes) (lfHost * 2 ^ 61 + 2 ^ 58 + 2 ^ 57)) with host := [(0, 1)] }

theorem wit_AdapterDirectory_load : ∀ cls ∈ [1, 2],
    let d := loadD cls
    let e := (loadK cls).entry
    let a := loadEntry e 1
    let d1 := ((d.put Fld.MEM_QUOTA_USE (d.get Fld.MEM_QUOTA_USE 1 t1 + u32 e 32) 1 t1).setAdp (u16 e 16) a).setCmd { loadK cls with stage := 1 }
    d.alive = true ∧ d.act c0 opAdpLoad = some (loadK cls) ∧ (loadK cls).stage = 0 ∧ d.adpLoadCheck (loadK cls) = stOK ∧ u16 e 48 = 0xFFFF
      ∧ a.cls = cls ∧ a.crc = 0x5A5CF7D7 ∧ okAnd (d1.vaRead (some (0, 0)) 1 (u64 e 24) (u32 e 32 * granBytes)) (fun b _ => same b body) = true := by decide +kernel

/-- The load as it reaches a member, with and without quota. -/
def loadMsg : AdpLoadMsg := ⟨2, 5, [BitVec.ofNat 64 (2 ^ 56 + 2 ^ 52 + 40), 1, 0, BitVec.ofNat 64 (0x5A5CF7D7 * 2 ^ 32)], body⟩

theorem wit_AdapterDirectory_member : let e : AdpE := ⟨1, adLoading, 1, 0, 1, 40, 0, 1, 0, 0x5A5CF7D7⟩
    let w (k : Nat) : Nat := (loadMsg.words.getD k 0).toNat
    e = { tenant := bits (w 0) 63 56, state := adLoading, cls := bits (w 0) 53 52, mode := bits (w 0) 51 50, rank := bits (w 0) 47 40 + 1,
          gran := bits (w 0) 26 0, alpha := bits (w 1) 63 32, grans := bits (w 1) 31 0, stamp := 0, crc := bits (w 3) 63 32 }
      ∧ (∀ n ∈ [0, 9], let d := lardered (laid.put Fld.MEM_QUOTA_LIMIT n 1)
          d.alive = true ∧ d.takesPart 12 loadMsg.src.toNat = true ∧ d.flag Fld.GLB_UNIT_EN_ADP = true ∧ loadMsg.id.toNat < 4096 ∧ (e.cls = 1 ∨ e.cls = 2)
            ∧ d.larderFree loadMsg.id.toNat e.gran e.grans = true ∧ d.admits e.tenant t1 e.grans = (n == 9)) := by decide +kernel

theorem wit_AdapterDirectory_body : body.length = 1 * granBytes ∧ bodyStatus 1 0 1 1 0x5A5CF7D7 body = stOK ∧ bodyStatus 2 0 1 1 0x5A5CF7D7 body ≠ stOK := by
  have h : bodyOkL body 0 1 1 = true ∧ bodyOkD body 1 = false := by decide +kernel
  refine ⟨by rw [body, List.length_cons, zeros, List.length_replicate]; rfl, ?_, ?_⟩ <;> simp [bodyStatus, h.1, h.2, body_crc, stOK, stAborted]

/-- An unload of an own entry and of another's; drained, and still read; a binding. -/
theorem wit_AdapterDirectory_rest :
    (∀ t ∈ [1, 2], let k := { cmdOf (entry opAdpUnload [(16, 2, 3)]) with tenant := t }
      let d := running k (lardered laid)
      d.alive = true ∧ d.act c0 opAdpUnload = some k ∧ k.begun = false ∧ u16 k.entry 16 < 4096 ∧ (d.adp 3).state = adValid ∧ (d.adp 3).tenant = 1)
    ∧ (∀ n ∈ [0, 1], let k := { cmdOf (entry opAdpUnload [(16, 2, 3)]) with stage := 1 }
      let d := running k ((lardered laid).dramPutN 4 (8000 * granBytes + 96 + 24) n)
      d.alive = true ∧ d.act c0 opAdpUnload = some k ∧ k.begun = true ∧ d.adpUsers (u16 k.entry 16) = n)
    ∧ (let k := cmdOf (entry opAdpBind [(16, 4, h0), (20, 2, 3), (22, 2, 0xFFFF)])
       let d := running k (lardered seq)
       d.alive = true ∧ d.act c0 opAdpBind = some k ∧ d.checkHandle (u32 k.entry 16) k.tenant k.order = stOK ∧ d.bindCheck 9 1 (d.rTenant 0) ≠ stOK
         ∧ d.bindCheck 9 2 (d.rTenant 0) ≠ stOK ∧ d.bindCheck (u16 k.entry 20) 1 (d.rTenant 0) = stOK
         ∧ d.bindCheck (u16 k.entry 22) 2 (d.rTenant 0) = stOK) := by decide +kernel

/-! ## Translation, tiers, faults and prefetch (chapter 8) -/

/-- The first page of the next 2 MiB mapped on host memory; what the checks refuse; and a load on its way in the range, and none. -/
theorem wit_MapAndUnmap :
    (∀ op ∈ [opVmMap, opVmUnmap], let k := cmdOf (entry op [])
       (running k ready).alive = true ∧ (running k ready).act c0 op = some k)
    ∧ (∀ n ∈ [0, 1], let k := { cmdOf (entry opVmUnmap [(24, 4, 1)]) with missed := n }
       let d := running k ((mapped ready).dramPutN 8 (12 * granBytes) (lfRack * 2 ^ 61 + 2 ^ 57))
       d.act c0 opVmUnmap = some k ∧ d.draining k.tenant (u64 k.entry 16) (u32 k.entry 24) = (n == 1))
    ∧ (((mapped ready).dramPutN 8 (12 * granBytes + 8) (lfTable * 2 ^ 61 + 13 * 4096)).vmMap 1 2097152 1 lfHost 12 0).2 = stOK ∧ (mapped ready).mapped 1 0 1 = true
    ∧ ((mapped ready).dramPutN 8 (12 * granBytes) (lfLocal * 2 ^ 61 + 2 ^ 60 + 51200 * 4096)).pinnedIn 1 0 1 = true := by decide +kernel

/-- `seq` with one OWNED page 5 in slot 0. -/
def owning : Dev := owningWith 7 seq

theorem wit_Demotion_command :
    (∀ tier ∈ [1, 2], let k := cmdOf (entry opDemote [(16, 4, h0), (21, 1, 1), (22, 1, tier)])
      let d := running k owning
      d.alive = true ∧ d.act c0 opDemote = some k ∧ k.begun = false ∧ bit (u8 k.entry 26) 0 = false ∧ (d.demoteCheck k = stOK ↔ tier = 2))
    ∧ (let k := { cmdOf (entry opDemote [(16, 4, h0), (21, 1, 1), (22, 1, 2)]) with stage := 1 }
       let d := running k owning
       d.alive = true ∧ d.act c0 opDemote = some k ∧ k.stage = 1 ∧ k.pos ≠ 1 ∧ bit (u8 k.entry 26) 0 = false ∧ d.earlierNaming (hIndex (u32 k.entry 16)) k.order = false)
    ∧ (let m : Dem := ⟨0, .entry 0 0 5, none⟩
       let d : Dev := { owning with dems := [m] }
       d.alive = true ∧ d.dems = [m] ∧ m.cellar = (0 : BitVec 26).toNat ∧ m.cmd = none ∧ d.writing m.cellar = false
         ∧ ({ d with ops := [⟨0, 12, 2, .write, none, 1, 0, 0, 0, spCellar, 0, 0, false, false⟩] } : Dev).writing m.cellar = true) := by decide +kernel

/-- A leaf's granule demoted by a command that names addresses. -/
theorem wit_Demotion_leaf : let k := { cmdOf (entry opDemote [(22, 1, 2), (26, 1, 1), (40, 4, 1)]) with stage := 1 }
    let d := running k (mapped ready)
    d.alive = true ∧ d.act c0 opDemote = some k ∧ k.stage = 1 ∧ k.pos ≠ 1 ∧ bit (u8 k.entry 26) 0 = true := by decide +kernel

/-- A cellar entry taken when there is one to take. -/
theorem allocCellar_one {d : Dev} {t tier n off f : Nat} {e' : CellarE} (h : d.cellarFit t tier n = some off)
    (h1 : d.cellarHeld.foldl (fun b c => insertNat c b) (d.listedCellars.filter fun c => (d.cellar c).state != clFree) = [])
    (h2 : d.get Fld.MEM_CELLAR_BASE_COUNT = 1) (h3 : (d.cellar 0).vtag ≠ 0xFFFFFF) :
    Dev.allocCellar t tier n e' (f + 1) d = some (0, (({ d with freeCtr := d.freeCtr + 1 } : Dev).setCellar 0
      { e' with vtag := (d.cellar 0).vtag + 1, state := clWriting, tier := tier, tenant := t, grans := n, off := off }).put Fld.MEM_QUOTA_USE
        ((({ d with freeCtr := d.freeCtr + 1 } : Dev).setCellar 0
          { e' with vtag := (d.cellar 0).vtag + 1, state := clWriting, tier := tier, tenant := t, grans := n, off := off }).get Fld.MEM_QUOTA_USE t (tier - 1) + n) t (tier - 1)) := by
  have h4 : (({ d with freeCtr := d.freeCtr + 1 } : Dev).cellar 0).vtag = (d.cellar 0).vtag := rfl
  simp [Dev.allocCellar, h, h1, h2, Dev.choose, Nat.mod_one, kthFree, h4, h3]

/-- A tenant above its T1 quota whose oldest page fits its T2 cellar. -/
def reclaiming : Dev :=
  opened 12 (((((((owning.put Fld.MEM_QFLAG_RECLAIM 1 1).put Fld.MEM_QUOTA_LIMIT 0 1).put Fld.MEM_QUOTA_USE 4 1).put Fld.MEM_CELLAR_BASE_GRAN 7000).put
    Fld.MEM_CELLAR_BASE_COUNT 1).put Fld.MEM_CELLAR1_T2_GRANS 100 1).put Fld.MEM_QUOTA_LIMIT 100 1 t2)

/-- The tier of an entry just written, whatever its check sum; and the state of a pair whose context lies above it. -/
theorem tier_setCellar (d : Dev) (c w : Nat) (e : CellarE) (hw : e.vtag % 2 ^ 24 * 2 ^ 40 + e.state % 8 * 2 ^ 37 + e.tier % 4 * 2 ^ 35 + e.mode % 8 * 2 ^ 32
    + e.tenant % 256 * 2 ^ 24 + e.fill % 256 * 2 ^ 16 + e.hdim % 4 * 2 ^ 14 = w) :
    ((d.setCellar c e).cellar c).tier = bits (ofBytes (toBytes 8 w)) 36 35 := by
  have other : ∀ (m : Mem) (b v : Nat), d.cellarAddr c + 8 ≤ b → (m.writeN 8 b v).readN 8 (d.cellarAddr c) = m.readN 8 (d.cellarAddr c) := by
    intro m b v h
    refine congrArg ofBytes (List.map_congr_left fun k hk => ?_)
    exact Mem.read_writeBytes_other _ m b _ (.inl (by have := List.mem_range.mp hk; omega))
  have own : ∀ (m : Mem) (a v : Nat), (m.writeN 8 a v).readN 8 a = ofBytes (toBytes 8 v) := fun m a v =>
    congrArg ofBytes (Mem.readBytes_writeBytes m a (toBytes 8 v))
  have ha : ∀ m : Mem, ({ d with dram := m } : Dev).cellarAddr c = d.cellarAddr c := fun _ => rfl
  simp only [Nat.reducePow] at hw
  simp only [Dev.cellar, Dev.setCellar, Dev.dramPutN, Dev.dramWord, ha, Nat.reducePow, hw]
  rw [other _ _ _ (Nat.le_add_right _ 8), other _ _ _ (Nat.le_refl _), own]

theorem qState_setCellar (d : Dev) (c q : Nat) (e : CellarE) (h : d.cellarAddr c + 24 ≤ d.qpAddr q) : (d.setCellar c e).qState q = d.qState q := by
  have other : ∀ (m : Mem) (a b v : Nat), b + 8 ≤ a → (m.writeN 8 b v).readN 8 a = m.readN 8 a := by
    intro m a b v h
    refine congrArg ofBytes (List.map_congr_left fun k _ => ?_)
    exact Mem.read_writeBytes_other _ m b _ (.inr (by simp only [toBytes, List.length_map, List.length_range]; omega))
  have put : ∀ (d : Dev) (b v : Nat), b + 8 ≤ d.qpAddr q → (d.dramPutN 8 b v).qState q = d.qState q := by
    intro d b v h
    unfold Dev.qState Dev.qget Dev.qw
    exact congrArg (fun w => bits w 63 61) (other d.dram (d.qpAddr q + 8 * 0) b v (by omega))
  have ha : ∀ (d : Dev) (b v : Nat), (d.dramPutN 8 b v).cellarAddr c = d.cellarAddr c := fun _ _ _ => rfl
  have hq : ∀ (d : Dev) (b v : Nat), (d.dramPutN 8 b v).qpAddr q = d.qpAddr q := fun _ _ _ => rfl
  simp only [Dev.setCellar, ha]
  rw [put _ _ _ (by simp only [hq]; omega), put _ _ _ (by simp only [hq]; omega), put _ _ _ (by omega)]

theorem qState_put (d : Dev) (f : Fld) (v i j q : Nat) (h : (d.put f v i j).get Fld.FAB_QP_BASE_GRAN = d.get Fld.FAB_QP_BASE_GRAN) :
    (d.put f v i j).qState q = d.qState q := by
  simp only [Dev.qState, Dev.qget, Dev.qw, Dev.qpAddr, h]; rfl

theorem tier_put (d : Dev) (f : Fld) (v i j c : Nat) (h : (d.put f v i j).get Fld.MEM_CELLAR_BASE_GRAN = d.get Fld.MEM_CELLAR_BASE_GRAN) :
    ((d.put f v i j).cellar c).tier = (d.cellar c).tier := by
  simp only [Dev.cellar, Dev.cellarAddr, h]; rfl

def isStored : Stored → Bool
  | .ok _ => true
  | _ => false

theorem reclaiming_sends (x : Nat) (bs : List Byte) : ∃ d, reclaiming.takeCellar 1 2 5
      { vtag := 0, state := clWriting, tier := 2, mode := 1, tenant := 1, fill := 64, hdim := 0, crc := x, grans := 0, off := 0 } = (d, some 0)
    ∧ isStored (d.sendCellar 0 bs) = true := by
  have ha : reclaiming.admits 1 1 5 = true := by decide +kernel
  simp only [Dev.takeCellar, show 2 - 1 = 1 from rfl, ha, Bool.not_true, Bool.false_eq_true, if_false]
  rw [allocCellar_one (off := 0) (by decide +kernel) (by decide +kernel) (by decide +kernel) (by decide +kernel)]
  refine ⟨_, rfl, ?_⟩
  simp only [Dev.sendCellar]
  rw [if_pos, if_neg]
  · rfl
  · rw [qState_put _ _ _ _ _ _ (Dev.get_put_other _ _ _ _ _ _ _ _ (by decide)), qState_setCellar]
    · decide +kernel
    · decide +kernel
  rw [tier_put _ _ _ _ _ _ (Dev.get_put_other _ _ _ _ _ _ _ _ (by decide)), tier_setCellar (w := 2 ^ 40 + 2 ^ 37 + 2 * 2 ^ 35 + 2 ^ 32 + 2 ^ 24 + 64 * 2 ^ 16)]
  · decide +kernel
  · have hv : (reclaiming.cellar 0).vtag = 0 := by decide +kernel
    simp only [hv]; rfl

theorem wit_Demotion_reclaim : reclaiming.alive = true ∧ reclaiming.flag Fld.MEM_QFLAG_RECLAIM 1 = true ∧ reclaiming.overQuota 1 t1 = true
    ∧ (reclaiming.reclaimable 1).findSome? (fun i => (reclaiming.reclaimEntry i).map fun x => (i, x)) = some (0, 0)
    ∧ sget 0 1 reclaiming.reclaimed + pageGrans (reclaiming.page (reclaiming.entry 0 0).page).mode ≤ reclaiming.get Fld.MEM_RECLAIM_CFG_RATE
    ∧ (reclaiming.admits 1 t2 5 && (reclaiming.cellarFit 1 2 5).isSome) = true := by decide +kernel

theorem wit_Demotion_reclaim_sent : (reclaiming.demotePage 0 0 2 none).2 = .sent := by
  have h : reclaiming.page (reclaiming.entry 0 0).page = ⟨0, 1, 1, 64, 7, 5000, 1, pgOwned, 0, false, false, false⟩ := by decide +kernel
  unfold Dev.demotePage
  simp only [h, show pageGrans 1 + 1 = 5 from rfl]
  generalize reclaiming.payload _ ++ _ ++ _ = bs
  obtain ⟨d, h1, h2⟩ := reclaiming_sends (crc32c bs) bs
  rw [h1]
  cases h3 : d.sendCellar 0 bs <;> rw [h3] at h2
  · simp only [h3]
  · cases h2
  · cases h2

/-- In the stroke 0 that began at local time 0, at angle 0. -/
def ticking (d : Dev) : Dev := { d with clk := { d.clk with state := .locked, latched := 1000, period := 1000 } }

/-- A `PREFETCH` that passes its checks and one that does not. -/
theorem wit_PrefetchAndFaults_command : ∀ h ∈ [h0, 1], let k := cmdOf (entry opPrefetch [(16, 4, h), (21, 1, 1)])
    let d := running k seq
    d.alive = true ∧ d.act c0 opPrefetch = some k ∧ k.begun = false ∧ bit (u8 k.entry 26) 0 = false ∧ (d.prefetchCheck k = stOK ↔ h = h0) := by decide +kernel

/-- Issue: at its point and before it; a table entry at its angle; and the end of an issued one, also while an entry of its is still being written. -/
theorem wit_PrefetchAndFaults_issue :
    (∀ n ∈ [0, 1], let p : Pf := ⟨0, some (0, 0), none, 1, 0, 0, 0, n, false, 0, none⟩
      let d : Dev := { ticking ready with pfs := [p] }
      d.alive = true ∧ d.pfs.find? (fun p => p.cmd == some (c0.ring.toNat, c0.index.toNat) && !p.issued) = some p ∧ d.reached p.issueStroke p.issue = (n == 0))
    ∧ (let d := (((ticking ready).put Fld.MEM_PF_CFG_GRAN 7500).put Fld.MEM_PF_ENTRIES_ENTRIES 1).dramPutN 1 (7500 * granBytes + 13) 1
       d.alive = true ∧ d.pfPending (0 : BitVec 16).toNat = some 0 ∧ d.firing = true ∧ 0 ≤ d.angle)
    ∧ (let p : Pf := ⟨0, none, none, 1, 0, 0, 0, 0, true, 0, some 0⟩
       let d := ({ ticking ready with pfs := [p] } : Dev).advanceTo (0 : BitVec 64).toNat
       d.alive = true ∧ d.pfs.find? (fun p => p.id % 2 ^ 32 == (0 : BitVec 32).toNat && p.issued) = some p ∧ d.pfTargets p = [] ∧ d.pfCells p = []) := by decide +kernel

def isDone : Brought → Bool
  | .done _ _ _ => true
  | _ => false
def isQuota : Brought → Bool
  | .refused _ q => q
  | _ => false
def isStale : Brought → Bool
  | .stale _ _ => true
  | _ => false

/-- A `PREFETCH` of an absent page: its entry being written, its tag another, and its tenant's quota full. -/
def absentD (st tag limit : Nat) : Dev :=
  let k := { cmdOf (entry opPrefetch [(16, 4, h0), (21, 1, 1)]) with stage := 1 }
  let d := ((((ticking seq).put Fld.MEM_CELLAR_BASE_GRAN 7000).put Fld.MEM_QUOTA_LIMIT limit 1).setCellar 9
    ⟨3, st, 2, 1, 1, 64, 0, 0, 5, 0⟩).dramPutN 8 (2001 * granBytes) (packEntry ⟨tag, 9, 2⟩)
  ({ running k d with pfs := [⟨0, some (0, 0), none, 1, 0, 0, 0, 0, true, 0, some 0⟩] } : Dev).advanceTo (0 : BitVec 64).toNat

theorem wit_PrefetchAndFaults_obstacles : let p : Pf := ⟨0, some (0, 0), none, 1, 0, 0, 0, 0, true, 0, some 0⟩
    (∀ x ∈ [clWriting, clHeld], (absentD x 3 100).pfs = [p] ∧ (absentD x 3 100).pfTargets p = [.entry 0 0]
      ∧ ((absentD x 3 100).pfCells p).any (fun c => ((absentD x 3 100).cellar c).state == clWriting) = (x == clWriting))
    ∧ isStale (Dev.bringEach ((absentD clHeld 4 100).pfTargets p) false 0 [] (absentD clHeld 4 100)) = true
    ∧ isQuota (Dev.bringEach ((absentD clHeld 3 0).pfTargets p) false 0 [] (absentD clHeld 3 0)) = true := by decide +kernel

theorem wit_PrefetchAndFaults_brought (got : List FetchResult) (d : Dev) : Dev.bringEach [] false 0 got d = .done d 0 got := rfl

/-- A fault on a demand-zero leaf of 2 MiB, with quota for it and without. -/
def zeroing (limit : Nat) : Dev :=
  { ((mapped laid).dramPutN 8 (12 * granBytes) (2 ^ 59 + 2 ^ 58 + 2 ^ 57)).put Fld.MEM_QUOTA_LIMIT limit 1 with faults := [⟨0, 0, 0, .zero 1 0, false, 0, false⟩] }

theorem wit_PrefetchAndFaults_fault : ∀ n ∈ [0, 1000], let d := (zeroing n).advanceTo (0 : BitVec 64).toNat
    (zeroing n).alive = true ∧ d.nextFault = some ⟨0, 0, 0, .zero 1 0, false, 0, false⟩ ∧ isDone (d.bring (.zero 1 0) []) = (n == 1000) ∧ isQuota (d.bring (.zero 1 0) []) = (n == 0) := by
  decide +kernel

/-- A fault on a `LOWER` leaf whose fetch fails, and one whose tag is another. -/
def lowered (tag : Nat) : Dev :=
  { (((mapped laid).dramPutN 8 (12 * granBytes) (lfLower * 2 ^ 61 + 2 ^ 58 + 2 ^ 57 + tag * 2 ^ 28 + 9)).put Fld.MEM_CELLAR_BASE_GRAN 7000).setCellar 9
      ⟨3, clHeld, 2, 0, 1, 0, 0, 0, 512, 0⟩ with faults := [⟨0, 0, 0, .lower 1 0 9 tag, false, 0, false⟩] }
def isFailed : Brought → Bool
  | .failed _ _ _ => true
  | _ => false

theorem wit_PrefetchAndFaults_fetch : ∀ n ∈ [3, 4], let d := (lowered n).advanceTo (0 : BitVec 64).toNat
    (lowered n).alive = true ∧ d.nextFault = some ⟨0, 0, 0, .lower 1 0 9 n, false, 0, false⟩ ∧ isFailed (d.bring (.lower 1 0 9 n) [.failed]) = (n == 3)
      ∧ isStale (d.bring (.lower 1 0 9 n) [.failed]) = (n == 4) := by decide +kernel

/-- A core in `FAULT_STALL` for the timeout, with a spare slot and without; and a run given back. -/
theorem wit_PrefetchAndFaults_stalled :
    (∀ n ∈ [0, 1], let k := { cmdOf (entry opAttnStep []) with engine := engAttn, core := some 0, phase := .faulted }
      let d := ({ running k ready with pool := List.replicate n 512 } : Dev).advanceTo (70000000 : BitVec 64).toNat
      d.alive = true ∧ d.cmds.find? (fun k => k.core == some (0 : BitVec 9).toNat && decide (k.phase = .faulted)) = some k
        ∧ k.since + 1000 * atLeast1 (d.get Fld.MEM_FAULT_CFG_TIMEOUT) ≤ d.ns ∧ (d.beginSave k afterPark).isSome = (n == 1) ∧ k.note ≠ noteSlotEmpty)
    ∧ (let z : Zeroing := ⟨5, 1, some 1, none, true⟩
       let d : Dev := { ready with zeroing := [z] }
       d.alive = true ∧ d.zeroing = [z] ∧ z.start = (5 : BitVec 27).toNat ∧ z.page = none ∧ z.tenant = some 1 ∧ 1 < 256
         ∧ ∀ k < 64, d.partState k ≠ ptReleasing ∧ d.partState k ≠ ptChanging) := by decide +kernel

/-! ## The host interface (chapters 1, 15) -/

/-- One field of each access type of R11, which takes the value, and one that does not. -/
theorem wit_WriteByAccessType : ∀ a ∈ [Acc.rw, .rwl, .w1c, .ro, .rc, .wo], let f : FieldSpec := ⟨7, 0, a, [(0, 255)], 1⟩
    f.acc = a ∧ f.lo ≤ f.hi ∧ f.hi < 64 ∧ f.admits (bits 0xFF f.hi f.lo) = true ∧ { f with ok := [(0, 15)] }.admits (bits 0xFF f.hi f.lo) = false := by decide +kernel

/-- A register that only holds its fields, above the logbook window. -/
theorem wit_RegisterAccess : ready.alive = true ∧ ready.watches = [] ∧ ready.open' = true ∧ Reg.FAB_CFG.base % 8 = 0 ∧ logWindow + 0x40000 ≤ Reg.FAB_CFG.base ∧ Reg.FAB_CFG.base < 0x01F00000
      ∧ ready.reached' Reg.FAB_CFG.base = some Reg.FAB_CFG ∧ Reg.FAB_CFG.base ∉ writeActs := by decide +kernel

/-- A header that Cox accepts and has not answered; a write with `RESET`'s code. -/
theorem wit_ResetSources : let d := managed ready
    d.alive = true ∧ d.accepts hdrM = true ∧ d.answeredAs hdrM = none ∧ d.open' = true ∧ (0x3C5A : Word).toNat % 65536 = 0x3C5A := by decide +kernel

/-- An access that fits: both halves of a register and the whole. -/
theorem wit_AlignedAccessesOnly : ∀ o ∈ [Reg.FAB_CFG.base, Reg.FAB_CFG.base + 4], o % 4 = 0 ∧ ready.latch = [] ∧ logWindow + 0x40000 ≤ o ∧ o < 0x01F00000 ∧ ready.reached' (o - o % 8) = some Reg.FAB_CFG
    ∧ (ready.alive = true ∧ ready.watches = []) ∧ ¬((Reg.FAB_CFG.base + 2) % 4 = 0) := by decide +kernel

/-- A register that latches (`TIM_ERR`, all `RC`), and one that does not. -/
theorem wit_LatchedReads : ∀ r ∈ [Reg.TIM_ERR, Reg.FAB_CFG], r.latches = (r == Reg.TIM_ERR) ∧ ready.alive = true ∧ r.base % 8 = 0 ∧ (r.base < logWindow ∨ logWindow + 0x40000 ≤ r.base)
    ∧ r.base < 0x01F00000    ∧ ready.reached' r.base = some r ∧ ready.latch = [] := by decide +kernel

/-- A locked device, and a change of an `RWL` field. -/
theorem wit_LockedWrites : let d := ready.put Fld.GLB_CFG_LOCK_LOCK 1
    (d.alive = true ∧ d.watches = []) ∧ d.open' = true ∧ Reg.FAB_CFG.base < 0x01F00000 ∧ d.reached' Reg.FAB_CFG.base = some Reg.FAB_CFG ∧ Reg.FAB_CFG.base ∉ writeActs
      ∧ d.flag Fld.GLB_CFG_LOCK_LOCK = true ∧ d.log.pending = 0 ∧ d.log.fifo.length < 64
      ∧ (Reg.FAB_CFG.fields.any fun f => f.acc == .rwl && f.admits (bits 1 f.hi f.lo) && bits 1 f.hi f.lo != bits (d.word Reg.FAB_CFG.base Reg.FAB_CFG.wreset) f.hi f.lo) = true := by
  decide +kernel

/-- A head with member 1 and the last member mapped, and member 2 not; offsets at both ends of a member's window. -/
def head : Dev := ((ready.put Fld.GLB_PROXY_CFG_HEAD 1).put Fld.GLB_PROXY_MAP_VALID 1 1).put Fld.GLB_PROXY_MAP_VALID 1 63

theorem wit_AliasesAndProxy : (head.alive = true ∧ head.open' = true ∧ head.flag Fld.GLB_PROXY_CFG_HEAD = true)
    ∧ (∀ m ∈ [1, 2, 63], ∀ x ∈ [0, 0x1FFFFFF8], 0 < m ∧ m < 64 ∧ x < 0x20000000 ∧ (BitVec.ofNat 35 (m * 0x20000000 + x)).toNat = m * 0x20000000 + x
        ∧ head.flag Fld.GLB_PROXY_MAP_VALID m = (m != 2))
    ∧ (let p : ProxyRead := ⟨1, 0, 8⟩
       let d := ({ head with proxy := [p] } : Dev).advanceTo (70000000 : BitVec 64).toNat
       d.proxy = [p] ∧ p.slot = (1 : BitVec 6).toNat ∧ p.at' + 1000 * atLeast1 (d.get Fld.GLB_PROXY_CFG_TMO) ≤ d.ns) := by decide +kernel

/-! ## Ports, transport, traffic (chapters 10, 12) -/

/-- The first and the last port: down with light; tuning; up; failed twice; a feed that weakens. -/
theorem wit_PortsAndLinkControl_port : ∀ p ∈ [0, 23],
    (let d := ready.put Fld.FAB_LASER_POWER 301 (p / 3)
     d.alive = true ∧ p < 24 ∧ d.open' = true ∧ d.portState p = poDown ∧ d.flag Fld.FAB_PORT_CTL_EN p = false ∧ 300 < d.feedPower (p / 3) ∧ d.portState p ≠ poFailed
       ∧ d.ports.length = 24 ∧ ofField 16 (299 : BitVec 16).toNat < 300)
    ∧ (∀ n ∈ [0, 2], let d := ((ready.put Fld.FAB_LASER_POWER 301 (p / 3)).put Fld.FAB_PORT_CTL_EN 1 p).put Fld.FAB_PORT_CTL_STATE poTuning p
        let d := d.setPort p { d.port p with fails := n }
        p ∈ d.tunable ∧ d.ports.length = 24 ∧ (n = 0 → (d.port p).fails + 1 < 3) ∧ (n = 2 → 3 ≤ (d.port p).fails + 1))
    ∧ (∀ v ∈ [poUp, poRelearn, poTraining], (ready.put Fld.FAB_PORT_CTL_STATE v p).portState p = v) := by decide +kernel

/-- Training for a millisecond without miscabling; up without link control for as long; a check with all lanes at their limit and one above it. -/
theorem wit_PortsAndLinkControl_link : ∀ p ∈ [0, 23],
    (let d := (ready.put Fld.FAB_PORT_CTL_STATE poTraining p).advanceTo (1000000 : BitVec 64).toNat
     d.portState p = poTraining ∧ d.flag Fld.FAB_PORT_CTL_MISCABLE p = false ∧ (d.port p).since + 1000000 ≤ d.ns)
    ∧ (let d := (ready.put Fld.FAB_PORT_CTL_STATE poUp p).advanceTo (1000000 : BitVec 64).toNat
       d.portState p = poUp ∧ (d.port p).lastCtl + 10000 ≤ d.ns ∧ (d.port p).lastBer + 1000000 ≤ d.ns ∧ (d.port p).uncorrMs = 0 ∧ (d.port p).relearns = [] ∧ d.ports.length = 24
         ∧ d.get Fld.FAB_PORT_BER_TH p < 65535 ∧ (List.replicate 16 (0 : BitVec 16)).length = 16) := by decide +kernel

/-- An UP port that hears link control with nothing waiting; and a check with every count in range, with one uncorrectable codeword, and with one lane above its limit. -/
theorem wit_PortsAndLinkControl_judge : (let d := (ready.put Fld.FAB_PORT_CTL_STATE poUp 3).advanceTo (1000000 : BitVec 64).toNat
      d.spray = [] ∧ (d.port 3).egress = [])
    ∧ (∀ u ∈ [0, 1], ∀ c ∈ [0, 1], let d := (ready.put Fld.FAB_PORT_BER_UNCORR_MAX 0 3).put Fld.FAB_PORT_BER_TH 0 3
      let x := { d.port 3 with uncorrMs := u, corr := [c] }
      (u = 1 → d.get Fld.FAB_PORT_BER_UNCORR_MAX 3 < x.uncorrMs) ∧ (u = 0 → x.uncorrMs ≤ d.get Fld.FAB_PORT_BER_UNCORR_MAX 3)
        ∧ (c = 0 → ∀ c ∈ x.corr, c ≤ d.get Fld.FAB_PORT_BER_TH 3) ∧ (c = 1 → d.get Fld.FAB_PORT_BER_TH 3 < c))
    ∧ (∀ n ∈ [0, 2], let d := ready.advanceTo 1000000
      ((List.replicate n 0).filter fun r => decide (d.ns < r + 100000000)).length = n) := by decide +kernel

/-- The codeword of zeros is decoded as it is; a word of another length is not decoded. -/
theorem gfMul_zero (a : Nat) : gfMul a 0 = 0 := by
  have h : ∀ n, gfMulFrom a 0 n = 0 := by
    intro n
    induction n with
    | zero => rfl
    | succ n ih => simp [gfMulFrom, ih, gfDouble]
  exact h 10

theorem gfEval_zeros (x : Nat) : ∀ n, gfEval x (List.replicate n 0) = 0
  | 0 => rfl
  | n + 1 => by rw [List.replicate_succ, gfEval, gfEval_zeros x n, gfMul_zero]; rfl

theorem wit_PortsAndLinkControl_codewords : rsDecode (List.replicate 272 0) = some (List.replicate 272 0, []) ∧ rsDecode [] = none := by
  have h : rsSyndromes (List.replicate 272 0) = List.replicate 15 0 := by
    simp only [rsSyndromes, List.reverse_replicate, gfEval_zeros]; rfl
  refine ⟨?_, by decide +kernel⟩
  simp only [rsDecode, h]
  rw [if_neg (by rw [List.length_replicate]; decide), if_pos (by decide)]

/-- The field of R247: α^9 times α is α^3 + 1; an inverse; and the generator is zero at α^0 to α^14. -/
theorem test_field : gfMul 512 2 = 9 ∧ gfMul (gfInv 777) 777 = 1 ∧ rsGenerator.length = 16
    ∧ (List.range 15).all (fun i => gfEval (gfPow i) rsGenerator == 0) = true := by decide +kernel

/-- A packet with its check codes (R254). -/
def sealed (p : Packet) : Packet :=
  let p := { p with hcrc := BitVec.ofNat 32 (pktHeadCrc p) }
  { p with icrc := BitVec.ofNat 32 (pktBodyCrc p) }

/-- A packet waiting to leave, of the flow of system traffic; a port that takes it. -/
def txOf (opc q : Nat) (lc : Bool) : TxPkt := ⟨{ pktBlank with opc := BitVec.ofNat 6 opc, dstNode := 2 }, q, 2, lc, 256, 0, false⟩
def portUp (d : Dev) : Dev := d.put Fld.FAB_PORT_CTL_STATE poUp 3

/-- A packet at the head of a scheduler of each class; one that a port takes, and an epoch of 0. -/
theorem wit_PacketsLeave :
    (∀ lc ∈ [false, true], let t := txOf pkWrite 64 lc
      let d : Dev := { paired ready with txq := [t] }
      d.alive = true ∧ d.pick (schedOf lc) = some t ∧ t.retx = false ∧ t.flow = 256)
    ∧ (let t := txOf pkWrite 64 true
       let d : Dev := { portUp (paired ready) with spray := [t] }
       d.epoch ≠ 0 ∧ d.spray = [t] ∧ d.sprayable t = true ∧ d.nextPort (laneOf t) = some 3 ∧ ready.epoch = 0) := by decide +kernel

/-- A packet of node 2 for queue pair 64, and one of each fault that is found before the payload is looked at. -/
def inPkt (opc : Nat) : Packet :=
  { pktBlank with opc := BitVec.ofNat 6 opc, srcNode := 2, dstQp := 64, srcQp := 64, tenant := 1, epoch := 5 }
def hearing : Dev := paired (peered ready)

theorem wit_PacketChecks : let d := hearing.arrive ar0
    (∀ op ∈ [pkWrite, pkAck, pkNak], let p := inPkt op
      hearing.alive = true ∧ p.opc.toNat = op ∧ ({ sealed p with hcrc := 0 } : Packet).hcrc.toNat ≠ pktHeadCrc { sealed p with hcrc := 0 })
    ∧ (∀ o ∈ [0, 9, 63], let p := sealed (inPkt o)
      p.hcrc.toNat = pktHeadCrc p ∧ knownOpc p.opc.toNat = false)
    ∧ (let p := sealed { inPkt pkWrite with dstNode := 1 }
       p.hcrc.toNat = pktHeadCrc p ∧ p.dstNode.toNat ≠ (d p).node ∧ (d p).serves p.dstNode.toNat = false)
    ∧ (let p := sealed (inPkt pkWrite)
       p.hcrc.toNat = pktHeadCrc p ∧ p.dstNode.toNat = (d p).node ∧ ({ p with icrc := 0 } : Packet).icrc.toNat ≠ pktBodyCrc { p with icrc := 0 })
    ∧ (let p := sealed { inPkt pkWrite with epoch := 6 }
       p.hcrc.toNat = pktHeadCrc p ∧ p.icrc.toNat = pktBodyCrc p ∧ p.payload.length = p.len.toNat ∧ (d p).peerValid p.srcNode.toNat = true
         ∧ (d p).peerEpoch p.srcNode.toNat < p.epoch.toNat) := by decide +kernel

/-- Whether the checks let a packet pass. -/
def isPass (r : Checked) : Bool :=
  match r with
  | .pass _ => true
  | .done _ => false

theorem pass_of_ite {c : Prop} [Decidable c] {x d : Dev} {r : Checked} (hr : isPass r = true → r = .pass d)
    (h : isPass (if c then .done x else r) = true) : (if c then .done x else r) = .pass d := by
  by_cases hc : c
  · rw [if_pos hc] at h; exact absurd h Bool.false_ne_true
  · rw [if_neg hc] at h ⊢; exact hr h

theorem checkPkt_pass {d : Dev} {p : Packet} : isPass (d.checkPkt p) = true → d.checkPkt p = .pass (d.useCtx p.dstQp.toNat) :=
  pass_of_ite (pass_of_ite (pass_of_ite (pass_of_ite (pass_of_ite (pass_of_ite (pass_of_ite (pass_of_ite fun _ => rfl)))))))

theorem ok_of_ite {c : Prop} [Decidable c] {d e : Dev} {st : Nat} {r : Dev × Nat} (hx : st ≠ stOK) (hr : r.2 = stOK → r = (d, stOK))
    (h : (if c then (e, st) else r).2 = stOK) : (if c then (e, st) else r) = (d, stOK) := by
  by_cases hc : c
  · rw [if_pos hc] at h; exact absurd h hx
  · rw [if_neg hc] at h ⊢; exact hr h

theorem winCheck_ok {d : Dev} {p : Packet} : (d.winCheck p).2 = stOK → d.winCheck p = (d, stOK) :=
  ok_of_ite (by decide) (ok_of_ite (by decide) (ok_of_ite (by decide) (ok_of_ite (by decide) (ok_of_ite (by decide) (ok_of_ite (by decide)
    (ok_of_ite (by decide) fun _ => rfl))))))

/-- The device on which an arriving packet is looked at; and a packet accepted there, worked out. -/
def inn (d : Dev) (p : Packet) : Dev := (d.arrive ar0 p).useCtx p.dstQp.toNat
def accepts' (d : Dev) (p : Packet) : Bool :=
  isPass ((d.arrive ar0 p).checkPkt p) && decide (subMod 32 p.psn.toNat ((inn d p).qpt p.dstQp.toNat p.srcNode.toNat).rpsn < rxWindow)
    && !((inn d p).qpt p.dstQp.toNat p.srcNode.toNat).got.contains p.psn.toNat && (inn d p).mapOk p.mapVer.toNat

theorem accepted_of {d : Dev} {p : Packet} (h : accepts' d p = true) : Accepted (d.arrive ar0 p) p (inn d p) := by
  simp only [accepts', Bool.and_eq_true, decide_eq_true_eq, Bool.not_eq_true'] at h
  exact ⟨checkPkt_pass h.1.1.1, h.1.1.2, h.1.2, h.2⟩

/-- What the meter leaves of a device on which a packet was heard; and a packet that it lets through, worked out. -/
def met (d : Dev) (p : Packet) : Dev := (((inn d p).heard p).meter (((inn d p).heard p).qTenant p.dstQp.toNat) (pktWire p)).1
def passes' (d : Dev) (p : Packet) : Bool :=
  !(qReserved p.dstQp.toNat) && (((inn d p).heard p).meter (((inn d p).heard p).qTenant p.dstQp.toNat) (pktWire p)).2.1

theorem passes_of {d : Dev} {p : Packet} (h : passes' d p = true) : ∃ mark, ((inn d p).heard p).Passes ar0 p (met d p) mark := by
  simp only [passes', Bool.and_eq_true, Bool.not_eq_true'] at h
  exact ⟨_, .inr ⟨h.1, _, Prod.ext rfl (Prod.ext h.2 rfl), rfl⟩⟩

/-- Placement that is done, with what is asked of the state it leaves. -/
def isPut (r : Placed) : Bool :=
  match r with
  | .ok _ => true
  | _ => false

/-- Window 3 of hall bytes 0 to 63, with every right, open to node 2; queue pair 64 has 32 bytes of the hall to receive in. -/
def windowed : Dev :=
  (((hearing.put Fld.RMA_WIN_CFG_GRAN 12000).put Fld.RMA_WIN_CFG_COUNT 16).setWin 3 ⟨wsOpen, 0, true, true, true, 1, 2, 77, 0, 64⟩).qput 64 3 63 32 32
def body8 : List Byte := List.replicate 8 7

/-- A packet with eight bytes of payload; through window 3, the last eight bytes it reaches. -/
def carrying (opc : Nat) : Packet := { inPkt opc with len := 8, payload := body8, aux := 0xFFFF, pkt := 0 }
def through (p : Packet) : Packet := { p with flags := BitVec.ofNat 6 pfWin, window := 3, key := 77, raddr := 56 }

theorem wit_RequestsReceived_qp : let p := sealed { carrying pkWrite with raddr := 24 }
    let d := (inn windowed p).heard p
    windowed.alive = true ∧ Accepted (windowed.arrive ar0 p) p (inn windowed p) ∧ (∃ mark, d.Passes ar0 p (met windowed p) mark)
      ∧ p.dstQp.toNat = 64 ∧ p.opc.toNat = pkWrite ∧ pktHas p pfWin = false ∧ d.qget 64 2 63 62 < 2 ∧ p.raddr.toNat + p.len.toNat ≤ d.qget 64 3 63 32
      ∧ isPut (Dev.placeRuns mRx (ownerOf p) (some (d.qTenant 64)) (d.qget 64 2 63 62) (d.qget 64 2 51 0 + p.raddr.toNat) (byteRuns (enabledBytes p)) (met windowed p)) = true :=
  ⟨by decide +kernel, accepted_of (by decide +kernel), passes_of (by decide +kernel), by decide +kernel⟩

/-- One byte past the receive region. -/
theorem wit_RequestsReceived_bounds : let p := sealed { carrying pkWrite with raddr := 25 }
    Accepted (windowed.arrive ar0 p) p (inn windowed p) ∧ p.opc.toNat = pkWrite ∧ pktHas p pfWin = false
      ∧ ((inn windowed p).heard p).qget 64 3 63 32 < p.raddr.toNat + p.len.toNat :=
  ⟨accepted_of (by decide +kernel), by decide +kernel⟩

theorem wit_RequestsReceived_win : ∀ op ∈ [pkWrite, pkMcast], let p := sealed (through (carrying op))
    let d := (inn windowed p).heard p
    let d1 := met windowed p
    Accepted (windowed.arrive ar0 p) p (inn windowed p) ∧ (∃ mark, d.Passes ar0 p d1 mark) ∧ d.winCheck p = (d, stOK) ∧ p.opc.toNat = op ∧ pktHas p pfWin = true
      ∧ isPut (Dev.placeRuns mRma (ownerOf p) (some (d1.win 3).tenant) (d1.win 3).space ((d1.win 3).base + p.raddr.toNat) (byteRuns (enabledBytes p)) (d1.fly 3)) = true := by
  have h : ∀ op ∈ [pkWrite, pkMcast], let p := sealed (through (carrying op))
      let d := (inn windowed p).heard p
      let d1 := met windowed p
      accepts' windowed p = true ∧ passes' windowed p = true ∧ (d.winCheck p).2 = stOK ∧ p.opc.toNat = op ∧ pktHas p pfWin = true
        ∧ isPut (Dev.placeRuns mRma (ownerOf p) (some (d1.win 3).tenant) (d1.win 3).space ((d1.win 3).base + p.raddr.toNat) (byteRuns (enabledBytes p)) (d1.fly 3)) = true := by
    decide +kernel
  exact fun op ho => ⟨accepted_of (h op ho).1, passes_of (h op ho).2.1, winCheck_ok (h op ho).2.2.1, (h op ho).2.2.2⟩

/-- Requests that a window refuses, and requests that name none. -/
theorem wit_RequestsReceived_refused : ∀ op ∈ [pkWrite, pkMcast, pkReadReq, pkAtomic, pkReduce],
    (let p := sealed { through (carrying op) with key := 78 }
     Accepted (windowed.arrive ar0 p) p (inn windowed p) ∧ p.opc.toNat = op ∧ pktHas p pfWin = true ∧ (((inn windowed p).heard p).winCheck p).2 ≠ stOK)
    ∧ (let p := sealed (carrying op)
       Accepted (windowed.arrive ar0 p) p (inn windowed p) ∧ p.opc.toNat = op ∧ pktHas p pfWin = false) := by
  have h : ∀ op ∈ [pkWrite, pkMcast, pkReadReq, pkAtomic, pkReduce],
      (let p := sealed { through (carrying op) with key := 78 }
       accepts' windowed p = true ∧ p.opc.toNat = op ∧ pktHas p pfWin = true ∧ (((inn windowed p).heard p).winCheck p).2 ≠ stOK)
      ∧ (let p := sealed (carrying op)
         accepts' windowed p = true ∧ p.opc.toNat = op ∧ pktHas p pfWin = false) := by decide +kernel
  exact fun op ho => ⟨⟨accepted_of (h op ho).1.1, (h op ho).1.2⟩, accepted_of (h op ho).2.1, (h op ho).2.2⟩

/-- The requests: a read of the window's last 8 bytes, an atomic and a reduction on its last word, and the drop of a range. -/
def requests : List Packet :=
  [through { inPkt pkReadReq with aux := 8 }, through { carrying pkAtomic with len := 16, payload := body8 ++ body8, aux := 2 }, through { carrying pkReduce with aux := 3 },
   { inPkt pkInval with aux := 256 }]

def readsOf (r : Dev × Res (List Byte)) (n : Nat) : Bool := okAnd r.2 fun bs _ => bs.length == n

theorem wit_RequestsReceived_served : (∀ p0 ∈ requests, let p := sealed p0
      let d := (inn windowed p).heard p
      let d1 := met windowed p
      Accepted (windowed.arrive ar0 p) p (inn windowed p) ∧ (∃ mark, d.Passes ar0 p d1 mark)
        ∧ (p.opc.toNat ≠ pkInval → d.winCheck p = (d, stOK) ∧ pktHas p pfWin = true ∧ (d1.fly 3).hallOk (some (d1.win 3).tenant) ((d1.win 3).base + p.raddr.toNat) 8 = true
            ∧ (d1.fly 3).badWords ((d1.win 3).base + p.raddr.toNat) 8 = [])
        ∧ (p.opc.toNat = pkReadReq → p.aux.toNat = 8 ∧ readsOf ((d1.fly 3).winRead (d1.win 3) p.raddr.toNat p.aux.toNat) 8 = true)
        ∧ (p.opc.toNat = pkReduce → p.len.toNat = 8) ∧ (p.opc.toNat = pkInval → p.aux.toNat ≠ wholeWindow))
    ∧ requests.map (·.opc.toNat) = [pkReadReq, pkAtomic, pkReduce, pkInval] := by
  have h : ∀ p0 ∈ requests, let p := sealed p0
      let d := (inn windowed p).heard p
      let d1 := met windowed p
      accepts' windowed p = true ∧ passes' windowed p = true
        ∧ (p.opc.toNat ≠ pkInval → (d.winCheck p).2 = stOK ∧ pktHas p pfWin = true ∧ (d1.fly 3).hallOk (some (d1.win 3).tenant) ((d1.win 3).base + p.raddr.toNat) 8 = true
            ∧ (d1.fly 3).badWords ((d1.win 3).base + p.raddr.toNat) 8 = [])
        ∧ (p.opc.toNat = pkReadReq → p.aux.toNat = 8 ∧ readsOf ((d1.fly 3).winRead (d1.win 3) p.raddr.toNat p.aux.toNat) 8 = true)
        ∧ (p.opc.toNat = pkReduce → p.len.toNat = 8) ∧ (p.opc.toNat = pkInval → p.aux.toNat ≠ wholeWindow) := by decide +kernel
  exact ⟨fun p hp => ⟨accepted_of (h p hp).1, passes_of (h p hp).2.1, fun ho => ⟨winCheck_ok ((h p hp).2.2.1 ho).1, ((h p hp).2.2.1 ho).2⟩, (h p hp).2.2.2⟩, by decide⟩

/-- An operation on queue pair 64 that waits for a response. -/
def opFor (kind : OpKind) : Op := ⟨0, 64, 2, kind, none, 1, 1, 2, 0, spHall, 0, 0, false, false⟩

def stores (r : Dev × Bool) : Bool := !r.2

theorem wit_AnswersReceived_responses : (∀ x ∈ [(pkReadResp, OpKind.read), (pkAtomicResp, OpKind.atomic)], let p := sealed (carrying x.1)
      let e : Dev := { windowed with ops := [opFor x.2] }
      let d := (inn e p).heard p
      let d1 := met e p
      Accepted (windowed.arrive ar0 p) p (inn windowed p) ∧ ((inn windowed p).heard p).opOfResp p = none ∧ Accepted (e.arrive ar0 p) p (inn e p)
        ∧ (∃ mark, d.Passes ar0 p d1 mark) ∧ p.opc.toNat = x.1 ∧ d.opOfResp p = some (opFor x.2) ∧ (opFor x.2).space = spHall
        ∧ d1.hallOk (some (d1.qTenant (opFor x.2).qp)) ((opFor x.2).laddr + p.raddr.toNat) p.payload.length = true
        ∧ d1.hallLost.any (fun x => decide (x.1 = ownerOf p)) = false
        ∧ stores (d1.hallStoreFor (ownerOf p) mRx ((opFor x.2).laddr + p.raddr.toNat) p.payload) = true ∧ (opFor x.2).cmd = none) := by
  have h : ∀ x ∈ [(pkReadResp, OpKind.read), (pkAtomicResp, OpKind.atomic)], let p := sealed (carrying x.1)
      let e : Dev := { windowed with ops := [opFor x.2] }
      let d := (inn e p).heard p
      let d1 := met e p
      accepts' windowed p = true ∧ ((inn windowed p).heard p).opOfResp p = none ∧ accepts' e p = true
        ∧ passes' e p = true ∧ p.opc.toNat = x.1 ∧ d.opOfResp p = some (opFor x.2) ∧ (opFor x.2).space = spHall
        ∧ d1.hallOk (some (d1.qTenant (opFor x.2).qp)) ((opFor x.2).laddr + p.raddr.toNat) p.payload.length = true
        ∧ d1.hallLost.any (fun x => decide (x.1 = ownerOf p)) = false
        ∧ stores (d1.hallStoreFor (ownerOf p) mRx ((opFor x.2).laddr + p.raddr.toNat) p.payload) = true ∧ (opFor x.2).cmd = none := by decide +kernel
  exact fun x hx => ⟨accepted_of (h x hx).1, (h x hx).2.1, accepted_of (h x hx).2.2.1, passes_of (h x hx).2.2.2.1, (h x hx).2.2.2.2⟩

/-- A response to an atomic of a command; and destinations in virtual space, of a fill and of a cellar's read. -/
theorem wit_AnswersReceived_commands : let p := sealed (carrying pkAtomicResp)
    let k := cmdOf (entry opRmOp [])
    let e : Dev := running k { windowed with ops := [{ opFor .atomic with cmd := some (0, 0) }] }
    Accepted (e.arrive ar0 p) p (inn e p) ∧ (∃ mark, ((inn e p).heard p).Passes ar0 p (met e p) mark)
      ∧ ((inn e p).heard p).opOfResp p = some { opFor .atomic with cmd := some (0, 0) } ∧ (met e p).cmd 0 0 = some k ∧ opOf k.entry = opRmOp
      ∧ okAnd ((mapped (met e p)).vaWrite none ((met e p).qTenant 64) p.raddr.toNat p.payload) (fun _ _ => true) = true :=
  ⟨accepted_of (by decide +kernel), passes_of (by decide +kernel), by decide +kernel⟩

/-- A pair with one packet sent and not acknowledged. -/
def sentPkt : OutPkt := ⟨inPkt pkWrite, 0, true, 0, true⟩
def waiting (q : Nat) (d : Dev) : Dev := d.setQpt { d.freshQpT q 2 with out := [sentPkt] }

theorem wit_AnswersReceived_acks : ∀ x ∈ [(pkAck, 0, 1, 0), (pkAck, 0, 0, 0), (pkNak, stCrcFault, 0, 0), (pkNak, stBoundsFault, 0, 0), (pkNak, 0x42, 0, 0), (pkAck, 0, 1, 9), (pkNak, 1, 1, 9)],
    let p := sealed { inPkt x.1 with stat := BitVec.ofNat 8 x.2.1, psn := BitVec.ofNat 32 x.2.2.1, mapVer := BitVec.ofNat 16 x.2.2.2 }
    let d := inn (waiting 64 hearing) p
    ((waiting 64 hearing).arrive ar0 p).checkPkt p = .pass d ∧ p.opc.toNat = x.1 ∧ d.mapOk p.mapVer.toNat = (x.2.2.2 == 0) ∧ d.ops = [] ∧ d.watches = []
      ∧ (p.opc.toNat = pkAck → ((d.qpt 64 2).out.any fun o => o.sent && ackCovers p o.pkt.psn.toNat) = (x.2.2.1 == 1))
      ∧ (p.opc.toNat = pkNak → x.2.2.1 = 0 → (d.qpt 64 2).out.find? (fun o => o.sent && o.pkt.psn == p.psn) = some sentPkt)
      ∧ nakStatus p ≠ stStaleEpoch ∧ (x.2.1 = stCrcFault ↔ nakStatus p = stCrcFault) := by
  have h : ∀ x ∈ [(pkAck, 0, 1, 0), (pkAck, 0, 0, 0), (pkNak, stCrcFault, 0, 0), (pkNak, stBoundsFault, 0, 0), (pkNak, 0x42, 0, 0), (pkAck, 0, 1, 9), (pkNak, 1, 1, 9)],
      let p := sealed { inPkt x.1 with stat := BitVec.ofNat 8 x.2.1, psn := BitVec.ofNat 32 x.2.2.1, mapVer := BitVec.ofNat 16 x.2.2.2 }
      let d := inn (waiting 64 hearing) p
      isPass (((waiting 64 hearing).arrive ar0 p).checkPkt p) = true ∧ p.opc.toNat = x.1 ∧ d.mapOk p.mapVer.toNat = (x.2.2.2 == 0) ∧ d.ops = [] ∧ d.watches = []
        ∧ (p.opc.toNat = pkAck → ((d.qpt 64 2).out.any fun o => o.sent && ackCovers p o.pkt.psn.toNat) = (x.2.2.1 == 1))
        ∧ (p.opc.toNat = pkNak → x.2.2.1 = 0 → (d.qpt 64 2).out.find? (fun o => o.sent && o.pkt.psn == p.psn) = some sentPkt)
        ∧ nakStatus p ≠ stStaleEpoch ∧ (x.2.1 = stCrcFault ↔ nakStatus p = stCrcFault) := by decide +kernel
  exact fun x hx => ⟨checkPkt_pass (h x hx).1, (h x hx).2⟩

/-- The timers: an ACK that is due at its microsecond; a first timeout and the last one, of a reserved pair and of another; a rate update. -/
theorem wit_PairTimers :
    (let d := (ready.setQpt { ready.freshQpT 64 2 with fresh := 1 }).advanceTo 1000
     (d.qpt 64 2).fresh ≠ 0 ∧ (d.qpt 64 2).firstAt + 1000 ≤ d.ns)
    ∧ (∀ q ∈ [15, 16], ∀ n ∈ [0, 254], let d := ready.put Fld.FAB_XPORT_CFG_RETRY_MAX 255
        let d := (d.setQpt { d.freshQpT q 2 with out := [sentPkt], tmo := n }).advanceTo 70000000
        let x := d.qpt q 2
        d.alive = true ∧ x.out.find? (fun o => o.sent && o.pkt.psn == 0) = some sentPkt ∧ sentPkt.sentAt + 1000 * atLeast1 (d.get Fld.FAB_XPORT_CFG_RTO) ≤ d.ns
          ∧ (n = 0 → x.tmo + 1 < atLeast1 (d.get Fld.FAB_XPORT_CFG_RETRY_MAX)) ∧ (n = 254 → atLeast1 (d.get Fld.FAB_XPORT_CFG_RETRY_MAX) ≤ x.tmo + 1))
    ∧ (let d := (waiting 64 ready).put Fld.FAB_RC_CFG_FAST 5
       (d.qpt 64 2).out ≠ [] ∧ (d.qpt 64 2).rcAt + 100 * atLeast1 ((d.advanceTo 100000).get Fld.FAB_RC_CFG_PERIOD) ≤ (d.advanceTo 100000).ns
         ∧ (d.qpt 64 2).marked = 0 ∧ (d.qpt 64 2).quiet < d.get Fld.FAB_RC_CFG_FAST ∧ d.get Fld.FAB_RC_CFG_FAST ≤ 31) := by decide +kernel

/-- A queue pair in each of its states. -/
def pairIn (st : Nat) : Dev := (ready.put Fld.FAB_QP_BASE_GRAN 9000).qput 64 0 63 61 st

theorem wit_QueuePairsAndTraffic : ∀ st ∈ [qsReset, qsInit, qsActive, qsDraining, qsError], (pairIn st).alive = true ∧ (pairIn st).open' = true ∧ (pairIn st).qState 64 = st
    ∧ (64 ≤ bits (2 ^ 48 + 64) 15 0 ∧ bits (2 ^ 48 + 64) 49 48 = 1) := by decide +kernel

/-- An ACTIVE queue pair 64 of tenant 1 with room for windows, imports and groups; virtual addresses below 2 MiB are mapped. -/
def reaching : Dev :=
  mapped (((((paired (peered ready)).put Fld.RMA_WIN_CFG_GRAN 12000).put Fld.RMA_WIN_CFG_COUNT 16).put Fld.RMA_IMP_CFG_GRAN 13000).put Fld.RMA_MC_CFG_GRAN 14000)

/-- Resolving that succeeds. -/
def isResolved (r : Resolved) : Bool :=
  match r with
  | .ok _ _ => true
  | _ => false

/-- Window 3 of tenant 1 in a state. -/
def winIn (st : Nat) (d : Dev) : Dev := d.setWin 3 ⟨st, 0, true, true, true, 1, 2, 77, 0, 64⟩

/-- `WIN_OPEN` of the lowest and of a named window, in the hall and in virtual space, its length the smallest and the largest there is; `WIN_REVOKE` of an own window,
of one past `COUNT`, of a free one and of another tenant's; a window with nothing in flight. -/
theorem wit_Windows :
    (∀ n ∈ [15, 0xFFFF], ∀ sp ∈ [0, 1], ∀ len ∈ [8, 2 ^ 40 - 8],
      let k := cmdOf (entry opWinOpen [(16, 2, n), (18, 1, sp), (19, 1, 3), (24, 8, 0), (32, 8, len)])
      let d := running k reaching
      d.alive = true ∧ d.act c0 opWinOpen = some k ∧ d.winFor (u16 k.entry 16) = some (if n = 15 then 15 else 0) ∧ winOk (u8 k.entry 18) (u8 k.entry 19) (u64 k.entry 24) (u64 k.entry 32) = true
        ∧ (len = 8 → d.allLeaves 1 (granSpan 0 len).1 (granSpan 0 len).2 = true ∧ isResolved (Dev.resolveLeaves 1 (d.leavesOf 1 (granSpan 0 len).1 (granSpan 0 len).2) [] d) = true))
    ∧ (∀ x ∈ [(3, wsOpen, 1), (16, wsOpen, 1), (2, wsFree, 1), (3, wsOpen, 2)], let k := { cmdOf (entry opWinRevoke [(16, 2, x.1)]) with tenant := x.2.2 }
      let d := running k (winIn wsOpen reaching)
      d.alive = true ∧ d.act c0 opWinRevoke = some k ∧ k.begun = false ∧ (x = (3, wsOpen, 1) → 3 < d.winCount ∧ (d.win 3).state ≠ wsFree ∧ (d.win 3).tenant = k.tenant)
        ∧ (x ≠ (3, wsOpen, 1) → d.winCount ≤ x.1 ∨ (d.win x.1).state = wsFree ∨ (d.win x.1).tenant ≠ k.tenant))
    ∧ (let d := winIn wsRevoking reaching
       d.alive = true ∧ (3 : BitVec 16).toNat < d.winCount ∧ (d.win 3).state = wsRevoking ∧ sget 0 3 d.flights = 0 ∧ d.revokes = []) := by decide +kernel

/-- A `WIN_OPEN` of virtual space over a leaf in a lower tier: held, being written, under another tag, and without quota. -/
def winLower (st tag limit : Nat) : Dev :=
  running (cmdOf (entry opWinOpen [(16, 2, 15), (18, 1, 1), (19, 1, 3), (32, 8, 8)]))
    ((((reaching.dramPutN 8 (12 * granBytes) (lfLower * 2 ^ 61 + 2 ^ 58 + 2 ^ 57 + 3 * 2 ^ 28 + 9)).put Fld.MEM_CELLAR_BASE_GRAN 7000).put Fld.MEM_QUOTA_LIMIT limit 1).setCellar 9
      ⟨tag, st, 2, 0, 1, 0, 0, 0, 512, 0⟩)
def resolvedAs (r : Resolved) : Nat :=
  match r with
  | .ok _ _ => 0
  | .wait => 1
  | .quota _ => 2
  | .abort _ => 3

theorem wit_Windows_lower : ∀ x ∈ [(clHeld, 3, 1000, 4), (clWriting, 3, 1000, 1), (clFetching, 3, 0, 2), (clFree, 3, 1000, 3)], let d := winLower x.1 x.2.1 x.2.2.1
    let k := cmdOf (entry opWinOpen [(16, 2, 15), (18, 1, 1), (19, 1, 3), (32, 8, 8)])
    d.act c0 opWinOpen = some k ∧ u8 k.entry 18 = 1 ∧ k.stage = 0 ∧ d.winFor (u16 k.entry 16) = some 15 ∧ winOk (u8 k.entry 18) (u8 k.entry 19) (u64 k.entry 24) (u64 k.entry 32) = true
      ∧ d.allLeaves 1 (granSpan 0 8).1 (granSpan 0 8).2 = true
      ∧ (d.leafCells (d.leavesOf 1 (granSpan 0 8).1 (granSpan 0 8).2)).any (fun c => (d.cellar c).state == clHeld) = (x.1 == clHeld)
      ∧ (x.1 ≠ clHeld → resolvedAs (Dev.resolveLeaves 1 (d.leavesOf 1 (granSpan 0 8).1 (granSpan 0 8).2) [] d) = x.2.2.2) := by decide +kernel

/-- A revocation that its window's last access ends. -/
theorem wit_Windows_revoked : let k := { cmdOf (entry opWinRevoke [(16, 2, 3)]) with stage := 1 }
    let d : Dev := { running k (winIn wsRevoking reaching) with revokes := [(0, 0, 3)] }
    let d1 := (d.setWin 3 { d.win 3 with state := wsFree }).unpin 3
    d.alive = true ∧ d.revokes = [(k.ring, k.index, (3 : BitVec 16).toNat)] ∧ d1.cmd k.ring k.index = some k := by decide +kernel

/-- An `RM_OP` of a kind on queue pair 64 with a length. -/
def rmCmd (kind len : Nat) : RunCmd := cmdOf (entry opRmOp [(16, 2, 64), (18, 1, kind), (19, 1, 2), (22, 2, 3), (24, 4, 77), (28, 4, len), (40, 8, 0), (48, 2, 5)])

theorem wit_RemoteOpsIssue_rest : ∀ x ∈ [(2, 8), (2, 2048), (3, 16), (4, 8), (6, wholeWindow), (6, 0), (6, 2 ^ 30)], let k := rmCmd x.1 x.2
    let d := running k reaching
    let e := k.entry
    d.alive = true ∧ k.note ≠ rmSent ∧ k.status = stOK ∧ d.rmCheck k true = stOK ∧ d.rmAct c0 x.1 = some k ∧ rmVirt e = false ∧ u8 e 19 < 3
      ∧ (x.1 ≠ 6 → rmLenOk (rmLen e) = true ∧ 8 ≤ rmLen e ∧ d.hallOk (some k.tenant) (u64 e 40) (rmLen e) = true)
      ∧ (x.1 = 6 → rmLen e = wholeWindow ∨ rmLenOk (rmLen e) = true) := by decide +kernel

/-- A write of eight bytes of the hall. -/
theorem wit_RemoteOpsIssue_write : let k := rmCmd 1 8
    let d := running k reaching
    let e := k.entry
    d.alive = true ∧ d.rmCheck k true = stOK ∧ d.rmAct c0 1 = some k ∧ rmKind e = 1 ∧ rmLenOk (rmLen e) = true ∧ rmVirt e = false ∧ d.hallOk (some k.tenant) (u64 e 40) (rmLen e) = true
      ∧ d.egress (rmQp e) (d.hall.readBytes (u64 e 40) (rmLen e)) = some (zeros 8, d)
      ∧ ((d.rmIssue k .write (fun _ => 0) (fun _ => 0) [splitPayload pkWrite (u64 e 32) (rmFlags e) (u32 e 24) (u16 e 22) allBytes (zeros 8)]).cmd k.ring k.index).any
          (fun j => decide (j.phase = .run)) = false := by decide +kernel

/-- Its bytes as they are read; a pair whose `PMODE` does not fit them; and a destination in virtual space. -/
theorem wit_RemoteOpsIssue_bytes : (let k := rmCmd 1 8
      let d := running k reaching
      d.LocalBytes k (zeros 8) d)
    ∧ ((running (rmCmd 1 8) reaching).qput 64 0 58 56 4).egress 64 (zeros 8) = none
    ∧ (let e := entry opRmOp [(16, 2, 64), (18, 1, 2), (20, 1, 2), (28, 4, 8), (40, 8, 64)]
       rmVirt e = true ∧ okAnd ((running (cmdOf e) reaching).canWrite 1 (u64 e 40) (rmLen e)) (fun _ _ => true) = true) := by
  refine ⟨.inr (.inr ⟨by decide +kernel, by decide +kernel, by decide +kernel, ?_, ?_⟩), by decide +kernel, by decide +kernel⟩
  · exact Prod.ext (by decide +kernel) (by decide +kernel)
  · decide +kernel

/-- A group of one member, the last one there is. -/
def grouped (g : Nat) (d : Dev) : Dev := d.dramPut (14000 * granBytes + 512 * g) (toBytes 8 (256 + 1) ++ toBytes 8 (64 * 2 ^ 48 + 3 * 2 ^ 32 + 77))

theorem wit_RemoteOpsIssue_mcast : ∀ g ∈ [0, 1023], let k := cmdOf (entry opRmOp [(16, 2, 64), (18, 1, 5), (28, 4, 8), (40, 8, 0), (48, 2, g)])
    let d := running k (grouped g reaching)
    let e := k.entry
    d.alive = true ∧ d.rmAct c0 5 = some k ∧ d.rmCheck k true = stOK ∧ rmLenOk (rmLen e) = true ∧ u16 e 48 < 1024 ∧ d.grpTenant (u16 e 48) = k.tenant ∧ d.grpCount (u16 e 48) ≠ 0
      ∧ rmVirt e = false ∧ d.hallOk (some k.tenant) (u64 e 40) (rmLen e) = true
      ∧ (d.mcastSend k (u16 e 48) (u64 e 32) (rmFence e) (d.hall.readBytes (u64 e 40) (rmLen e))).isSome = true := by decide +kernel

/-- A multicast to one member with the operation table full. -/
theorem wit_RemoteOpsIssue_full (d : Dev) (k : RunCmd) (g raddr : Nat) (body : List Byte) (o : Op) (h : d.ops = List.replicate opTableSize o)
    (hm : ((List.range (d.grpCount g)).filter fun i => d.pairRefuses k.tenant (d.grpMember g i).1 == stOK) = [0]) : d.mcastSend k g raddr false body = none := by
  have hf : d.freeOp = none := by
    rw [Dev.freeOp, if_neg]
    rw [Dev.opsUsed, h, List.length_replicate]; omega
  simp only [Dev.mcastSend, hm, Dev.mcastOps, hf, Option.map_none]

/-- An image at virtual address 64: an import entry over the granule 0 through queue pair 64; a group of one member. -/
def imaged (bs : List Byte) (d : Dev) : Dev := d.dramPut (51200 * granBytes + 64) bs
def importImage : List Byte := toBytes 8 (2 ^ 63 + 3 * 2 ^ 32 + 64 * 2 ^ 16) ++ toBytes 8 0 ++ toBytes 8 4096 ++ toBytes 8 (77 * 2 ^ 32)
def groupImage : List Byte := toBytes 8 1 ++ toBytes 8 (64 * 2 ^ 48) ++ zeros 496
def ctlCmd (sub x : Nat) : RunCmd := cmdOf (entry opRmCtl [(16, 1, sub), (18, 2, x), (20, 2, 64), (22, 2, 3), (24, 8, 64), (40, 8, 256)])

theorem wit_RemoteControl_images :
    (∀ x ∈ [0, 4095], let k := ctlCmd 1 x
      let d := running k (imaged importImage reaching)
      let w0 := setBits (imgWord importImage 0) 55 48 k.tenant
      d.alive = true ∧ k.status = stOK ∧ d.ctlAct c0 1 = some k ∧ ctlSub k.entry = 1 ∧ u16 k.entry 18 < 4096 ∧ (d.imp x).valid = false
        ∧ okAnd (d.vaRead (some (k.ring, k.index)) k.tenant (u64 k.entry 24) 32) (fun bs d1 => bs == importImage
            && d1.importOk k.tenant x (impOf w0 (imgWord bs 1) (imgWord bs 2) (imgWord bs 3)) && (d1.setImport x (toBytes 8 w0 ++ bs.drop 8)).isSome) = true)
    ∧ (∀ x ∈ [0, 4095], let k := ctlCmd 2 x
      let d := running k reaching
      d.ctlAct c0 2 = some k ∧ k.status = stOK ∧ u16 k.entry 18 < 4096 ∧ (d.imp x).valid = false ∧ (d.setImport x (zeros 32)).isSome = true)
    ∧ (∀ x ∈ [0, 1023], let k := ctlCmd 3 x
      let d := running k (imaged groupImage reaching)
      d.ctlAct c0 3 = some k ∧ k.status = stOK ∧ u16 k.entry 18 < 1024
        ∧ okAnd (d.vaRead (some (k.ring, k.index)) k.tenant (u64 k.entry 24) 512) (fun bs d1 => bs == groupImage && bits (imgWord bs 0) 5 0 == 1 && d1.grpCount x == 0
            && !(qReserved (bits (imgWord bs 1) 63 48)) && d1.qTenant (bits (imgWord bs 1) 63 48) == k.tenant) = true) := by decide +kernel

theorem wit_RemoteControl_rest : (∀ sub ∈ [4, 5], let k := ctlCmd sub 0
      let d := running k reaching
      d.alive = true ∧ k.status = stOK ∧ d.ctlAct c0 sub = some k ∧ d.gw = [] ∧ qReserved (u16 k.entry 20) = false ∧ d.qTenant (u16 k.entry 20) = k.tenant)
    ∧ (let g : GwBuf := ⟨1, 0, 64, 5, [(0, 7)], 0, [], [], none⟩
       let d := ({ reaching with gw := [g] } : Dev).advanceTo (1000000 : BitVec 64).toNat
       d.gw = [g] ∧ g.tenant = (1 : BitVec 8).toNat ∧ g.block = (5 : BitVec 40).toNat ∧ g.stored + 3000 * atLeast1 (d.get Fld.RMA_GW_CFG_IDLE) ≤ d.clk.now) := by decide +kernel

/-- A tracker with a lock and the angle 0. -/
def locked (d : Dev) : Dev := { d with clk := { d.clk with state := .locked, period := 1000000, latched := 1000000 } }

/-- A map due at this stroke and one due at the next; a drain window that is over. -/
theorem wit_RemoteControl_maps : (∀ n ∈ [0, 1], let d := ((locked ready).put Fld.RMA_MAP_NEXT_PEND 1).put Fld.RMA_MAP_NEXT_STROKE n
      d.alive = true ∧ d.firing = true ∧ d.flag Fld.RMA_MAP_NEXT_PEND = true ∧ (n = 0 → 0 ≤ modDiff 32 d.stroke32 (d.get Fld.RMA_MAP_NEXT_STROKE) ∧ d.mapPairs = [] ∧ d.watches = [])
        ∧ (n = 1 → modDiff 32 d.stroke32 (d.get Fld.RMA_MAP_NEXT_STROKE) < 0))
    ∧ (let d : Dev := { locked ready with drainTo := some 0 }
       d.firing = true ∧ d.drainTo = some 0 ∧ 0 ≤ modDiff 32 d.stroke32 0)
    ∧ ready.firing = false ∧ ready.drainTo = none := by decide +kernel

/-! ## Stroke and time (chapter 13), pairing and admission (chapter 14) -/

/-- A tracker in `LOCKED` whose period is 1 ms, and the frame of stroke 1 with its CRC. -/
def ticking' : Dev :=
  let d := ready.put Fld.TIM_CFG_FREE_MAX 3
  { d with clk := { d.clk with state := .locked, period := 1000000, latched := 1000000, flushed := true, scanned := true } }
def frame1 : Nat := 1 + frameCrc 1 * 2 ^ 80

/-- What `STRK` carries after the edge of a frame: the mark, then each bit as a cell that rises in its middle for a 1 and falls there for a 0 (R310). -/
def lineOf (frame : Nat) : Nat := (List.range 96).foldl (fun l k => l + if bit frame k then 2 ^ (9 + 2 * k) else 2 ^ (8 + 2 * k)) 0x3F

/-- The line of a frame, bit 0 in the first cell; and lines whose mark or whose last cell is not one. -/
theorem test_stroke_line : frameOf (lineOf frame1) = frame1 ∧ markOk (lineOf frame1) = true ∧ cellsOk (lineOf frame1) = true ∧ lineOf frame1 < 2 ^ 200
    ∧ markOk (lineOf frame1 - 1) = false ∧ cellsOk (lineOf frame1 % 2 ^ 198) = false ∧ bits (frameOf (0x3F + 2 ^ 9)) 0 0 = 1 ∧ frameOf (0x3F + 2 ^ 8) = 0 := by decide +kernel

/-- A catch at both ends of the window around the held period; a catch that is missing. -/
theorem wit_LockedTracker : ∀ e ∈ [1000000, 1000000 + ticking'.winNs], ticking'.alive = true ∧ ticking'.watches = [] ∧ ticking'.adm ≠ admLoading
    ∧ (let d := ticking'.advanceTo (e + 800)
       let i := (edgeAt e - d.clk.catchAt) / 3
       let frame := frameOf (BitVec.ofNat 200 (lineOf frame1)).toNat
       markOk (BitVec.ofNat 200 (lineOf frame1)).toNat = true ∧ cellsOk (BitVec.ofNat 200 (lineOf frame1)).toNat = true
         ∧ d.tracking = true ∧ d.clk.halted = none ∧ d.clk.state = .locked ∧ d.clk.catchAt ≤ edgeAt e ∧ d.unfired = [] ∧ bits frame 95 80 = frameCrc frame
         ∧ bits frame 63 0 = (d.clk.number + 1) % 2 ^ 64 ∧ minInterval ≤ i ∧ i ≤ maxInterval ∧ d.clk.period ≤ i + d.winNs ∧ i ≤ d.clk.period + d.winNs)
    ∧ (let d := ticking'.advanceTo (1000000 + ticking'.winNs)
       d.clk.halted = none ∧ d.clk.state = .locked ∧ d.clk.catchAt + 3 * (d.clk.period + d.winNs) ≤ d.clk.now ∧ d.unfired = [] ∧ d.clk.inserted < d.get Fld.TIM_CFG_FREE_MAX) := by
  decide +kernel

/-- No lock in time; `EN` cleared, set and left; edges within and beyond `STEP_TH`, in holdover and out of it; an edge that comes too soon; no edge. -/
theorem wit_TimeCounter :
    (let d := ready.advanceTo (100000000000 : BitVec 64).toNat
     d.tracking = true ∧ d.clk.halted = none ∧ d.clk.state = .acquire ∧ d.clk.entered + (d.get Fld.TIM_CFG_FREE_MAX + 1) * d.get Fld.TIM_CFG_SELF_PERIOD ≤ d.ns ∧ ready.watches = [])
    ∧ (∀ a ∈ [0, 1], ∀ b ∈ [0, 1], let d := ready.put Fld.TIM_CFG_EN a
        let v := setBits (d.word Reg.TIM_CFG.base Reg.TIM_CFG.wreset) Fld.TIM_CFG_EN.hi Fld.TIM_CFG_EN.lo b
        d.get Fld.GLB_BOOT_PHASE = 5 ∧ d.flag Fld.TIM_CFG_EN = (a == 1) ∧ (d.writeReg false Reg.TIM_CFG Reg.TIM_CFG.base maskAll v).flag Fld.TIM_CFG_EN = (b == 1))
    ∧ (∀ hold ∈ [true, false], ∀ c ∈ [999999999, 300000000],
        let d : Dev := (({ ready with clk := { ready.clk with ppsHold := hold, cnt := c, now := 3000000000 } } : Dev).put Fld.TIM_PPS_CFG_STEP_TH 1).advanceTo 1000000000
        d.clk.lastPps = none ∧ d.flag Fld.TIM_TAI_PEND = false ∧ d.clk.ppsHold = hold ∧ (c = 999999999 → (ppsOffset d.clk.cnt).natAbs ≤ d.get Fld.TIM_PPS_CFG_STEP_TH)
          ∧ (c = 300000000 → d.get Fld.TIM_PPS_CFG_STEP_TH < (ppsOffset d.clk.cnt).natAbs))
    ∧ (let d : Dev := ({ ready with clk := { ready.clk with lastPps := some 0 } } : Dev).advanceTo 499999999
       d.clk.lastPps = some 0 ∧ d.ns < 0 + 500000000)
    ∧ (let d := ready.advanceTo 1100000000
       d.clk.lastPps.getD 0 + 1100000000 ≤ d.ns) := by decide +kernel

/-- The catch, and a time at which the angle holds. -/
theorem wit_StrokeAngle : ∀ t ∈ [0, 999984, 999985, 5000000], let d : Dev := { ticking' with clk := { ticking'.clk with now := 3 * t } }
    d.clk.halted = none ∧ d.clk.state ≠ .acquire ∧ d.clk.period < 2 ^ 30 ∧ d.clk.now = d.clk.catchAt + 3 * t ∧ 0 < d.clk.latched ∧ (d.angle = 65535) = (999985 ≤ t) := by decide +kernel

/-- A member of a pair in a state, with the pairing pair open. -/
def twinned (st : Nat) : Dev := opened 8 ((ready.put Fld.PAIR_STAT_STATE st).put Fld.PAIR_CFG_TWIN 2)

theorem took_all {P : Dev → Prop} {d : Dev} {m : Ctrl} {node : Nat} (h : ∀ e ∈ [tookNo d m node, tookAck d m node], P e) : P (d.took m node) :=
  took_both (h _ (by simp)) (h _ (by simp))

/-- The next message and one that came before; from the node mirrored with and from another, also on a device that may yet become its twin. -/
theorem wit_MirrorMessages_message : (∀ st ∈ [psSyncing, psPaired], ∀ n ∈ [0, 1], let m : MirrorMsg := ⟨BitVec.ofNat 64 n, []⟩
      let d := ((twinned st).took (.mirror m) 2).heardTwin 2
      (twinned st).alive = true ∧ (twinned st).hears 8 2 = true ∧ d.takesMirror = true ∧ 2 = d.mirrorNode ∧ (n = 1 → d.pair.applied < m.number.toNat) ∧ (n = 0 → m.number.toNat ≤ d.pair.applied))
    ∧ (∀ st ∈ [psPaired, psDetached, psSolo], ∀ n ∈ [1, 2], let m : MirrorMsg := ⟨BitVec.ofNat 64 n, []⟩
      let d := ((twinned st).took (.mirror m) 3).heardTwin 3
      (twinned st).hears 8 3 = true ∧ (d.takesMirror = false ∨ 3 ≠ d.mirrorNode) ∧ d.keepsMirror 3 = (st == psSolo) ∧ 3 ≠ d.pair.aheadFrom)
    ∧ (let s0 := twinned psSolo
       let d := (({ s0 with pair := { s0.pair with aheadFrom := 3 } } : Dev).took (.mirror ⟨2, []⟩) 3).heardTwin 3
       d.keepsMirror 3 = true ∧ 3 = d.pair.aheadFrom)
    ∧ ready.hears 8 2 = false := by
  refine ⟨fun st hs n hn => ?_, fun st hs n hn => ?_, ?_, by decide +kernel⟩
  · have h : ∀ st ∈ [psSyncing, psPaired], ∀ n ∈ [0, 1], ∀ e ∈ [tookNo (twinned st) (.mirror ⟨BitVec.ofNat 64 n, []⟩) 2, tookAck (twinned st) (.mirror ⟨BitVec.ofNat 64 n, []⟩) 2],
        let d := e.heardTwin 2
        (twinned st).alive = true ∧ (twinned st).hears 8 2 = true ∧ d.takesMirror = true ∧ 2 = d.mirrorNode ∧ (n = 1 → d.pair.applied < (BitVec.ofNat 64 n).toNat)
          ∧ (n = 0 → (BitVec.ofNat 64 n).toNat ≤ d.pair.applied) := by decide +kernel
    exact took_all (P := fun e => let d := e.heardTwin 2
      (twinned st).alive = true ∧ (twinned st).hears 8 2 = true ∧ d.takesMirror = true ∧ 2 = d.mirrorNode ∧ (n = 1 → d.pair.applied < (BitVec.ofNat 64 n).toNat)
        ∧ (n = 0 → (BitVec.ofNat 64 n).toNat ≤ d.pair.applied)) (h st hs n hn)
  · have h : ∀ st ∈ [psPaired, psDetached, psSolo], ∀ n ∈ [1, 2], ∀ e ∈ [tookNo (twinned st) (.mirror ⟨BitVec.ofNat 64 n, []⟩) 3, tookAck (twinned st) (.mirror ⟨BitVec.ofNat 64 n, []⟩) 3],
        let d := e.heardTwin 3
        (twinned st).hears 8 3 = true ∧ (d.takesMirror = false ∨ 3 ≠ d.mirrorNode) ∧ d.keepsMirror 3 = (st == psSolo) ∧ 3 ≠ d.pair.aheadFrom := by decide +kernel
    exact took_all (P := fun e => let d := e.heardTwin 3
      (twinned st).hears 8 3 = true ∧ (d.takesMirror = false ∨ 3 ≠ d.mirrorNode) ∧ d.keepsMirror 3 = (st == psSolo) ∧ 3 ≠ d.pair.aheadFrom) (h st hs n hn)
  · exact took_all (P := fun e => (e.heardTwin 3).keepsMirror 3 = true ∧ 3 = (e.heardTwin 3).pair.aheadFrom) (by decide +kernel)

/-- An acknowledgement while PAIRED, and while SYNCING with the copy covered and not; on a device that sends none. -/
def copying (st : Nat) : Dev := { twinned st with pair := { (twinned st).pair with next := 2, syncTo := 1 } }
theorem wit_MirrorMessages_ack : (∀ st ∈ [psSyncing, psPaired], ∀ a ∈ [0, 1], let d := ((copying st).took (.mirrorAck a 0 false) 2).heardTwin 2
      let n := min a (d.pair.next - 1)
      (copying st).hears 8 2 = true ∧ d.sendsMirror = true ∧ 2 = d.mirrorNode ∧ d.held = [] ∧ d.groups = [] ∧ d.committed = [] ∧ d.pair.unsent = 0 ∧ d.pair.short = false
        ∧ d.watches = [] ∧ d.pairState = st ∧ (a = 1 → d.pair.syncTo ≤ max d.pair.acked n) ∧ (a = 0 → max d.pair.acked n < d.pair.syncTo))
    ∧ (let d := ((twinned psSolo).took (.mirrorAck 0 0 false) 2).heardTwin 2
       (twinned psSolo).hears 8 2 = true ∧ d.sendsMirror = false) := by
  refine ⟨fun st hs a ha => ?_, took_all (P := fun e => (twinned psSolo).hears 8 2 = true ∧ (e.heardTwin 2).sendsMirror = false) (by decide +kernel)⟩
  have h : ∀ st ∈ [psSyncing, psPaired], ∀ a ∈ [0, 1], ∀ e ∈ [tookNo (copying st) (.mirrorAck a 0 false) 2, tookAck (copying st) (.mirrorAck a 0 false) 2],
      let d := e.heardTwin 2
      let n := min a (d.pair.next - 1)
      (copying st).hears 8 2 = true ∧ d.sendsMirror = true ∧ 2 = d.mirrorNode ∧ d.held = [] ∧ d.groups = [] ∧ d.committed = [] ∧ d.pair.unsent = 0 ∧ d.pair.short = false
        ∧ d.watches = [] ∧ d.pairState = st ∧ (a = 1 → d.pair.syncTo ≤ max d.pair.acked n) ∧ (a = 0 → max d.pair.acked n < d.pair.syncTo) := by decide +kernel
  exact took_all (P := fun e => let d := e.heardTwin 2
    let n := min a (d.pair.next - 1)
    (copying st).hears 8 2 = true ∧ d.sendsMirror = true ∧ 2 = d.mirrorNode ∧ d.held = [] ∧ d.groups = [] ∧ d.committed = [] ∧ d.pair.unsent = 0 ∧ d.pair.short = false
      ∧ d.watches = [] ∧ d.pairState = st ∧ (a = 1 → d.pair.syncTo ≤ max d.pair.acked n) ∧ (a = 0 → max d.pair.acked n < d.pair.syncTo)) (h st hs a ha)

/-- The intervals of a member and of a device alone, ended; silence on each path. -/
theorem wit_Liveness : ∀ st ∈ [psSolo, psPaired], ∀ b ∈ [true, false],
    let d : Dev := ((twinned st).put Fld.PAIR_STAT_LINK_UP 1).put Fld.PAIR_STAT_PEER_MGMT 1
    let d : Dev := ({ d with pair := { d.pair with sentSince := b } } : Dev).advanceTo (10000000000 : BitVec 64).toNat
    d.alive = true ∧ d.watches = [] ∧ d.pair.hbAt + d.hbNs ≤ d.ns ∧ d.pairState = st ∧ d.pair.sentSince = b
      ∧ d.flag Fld.PAIR_STAT_LINK_UP = true ∧ d.pair.twinAt + atLeast1 (d.get Fld.PAIR_CFG_HB_MISS) * d.hbNs ≤ d.ns ∧ d.pair.mgmtHbAt + mgmtPeriod ≤ d.ns
      ∧ d.flag Fld.PAIR_STAT_PEER_MGMT = true ∧ d.pair.peerAt + mgmtSilence ≤ d.ns := by decide +kernel

/-- A heartbeat of the twin, of another node, to a device alone, and on a pair that is not open. -/
theorem wit_Liveness_heard : (∀ st ∈ [psSolo, psPaired], (twinned st).hears 8 2 = true ∧ (twinned st).hears 8 3 = true
      ∧ (let d1 := (twinned st).took .heartbeat 2
         2 = d1.get Fld.PAIR_CFG_TWIN ∧ d1.pairState = st ∧ d1.watches = [])
      ∧ 3 ≠ ((twinned st).took .heartbeat 3).get Fld.PAIR_CFG_TWIN)
    ∧ ready.hears 8 2 = false := by
  have h : ∀ st ∈ [psSolo, psPaired], (twinned st).hears 8 2 = true ∧ (twinned st).hears 8 3 = true
      ∧ (∀ e ∈ [tookNo (twinned st) .heartbeat 2, tookAck (twinned st) .heartbeat 2], 2 = e.get Fld.PAIR_CFG_TWIN ∧ e.pairState = st ∧ e.watches = [])
      ∧ (∀ e ∈ [tookNo (twinned st) .heartbeat 3, tookAck (twinned st) .heartbeat 3], 3 ≠ e.get Fld.PAIR_CFG_TWIN) := by decide +kernel
  exact ⟨fun st hs => ⟨(h st hs).1, (h st hs).2.1,
    took_all (P := fun e => 2 = e.get Fld.PAIR_CFG_TWIN ∧ e.pairState = st ∧ e.watches = []) (h st hs).2.2.1,
    took_all (P := fun e => 3 ≠ e.get Fld.PAIR_CFG_TWIN) (h st hs).2.2.2⟩, by decide +kernel⟩

/-- A takeover that is due; notices of a newer and of the same epoch, from a peer and from a stranger. -/
theorem wit_Takeovers_epochs :
    (let s0 := (twinned psPaired).put Fld.PAIR_CFG_AUTO 1
     let d : Dev := ({ s0 with pair := { s0.pair with silentAt := some 0 } } : Dev).advanceTo (100000000000 : BitVec 64).toNat
     s0.alive = true ∧ d.pair.silentAt = some 0 ∧ d.mayTake = true ∧ d.flag Fld.PAIR_CFG_AUTO = true ∧ 0 + d.get Fld.PAIR_CFG_AUTO_MS * 1000000 ≤ d.ns
       ∧ d.pair.fmAt + d.get Fld.PAIR_CFG_AUTO_MS * 1000000 ≤ d.ns)
    ∧ (∀ src ∈ [2, 3], ∀ ep ∈ [0, 1], let s0 := opened 8 (peered ready)
       let d := s0.took (.notice 4 ep) src
       s0.hears 8 src = true ∧ d.epochOk src 5 = (src == 2) ∧ (ep = 1 → d.peerEpoch 4 < ep) ∧ (ep = 0 → ep ≤ d.peerEpoch 4)) := by
  refine ⟨by decide +kernel, fun src hs ep he => ?_⟩
  have h : ∀ src ∈ [2, 3], ∀ ep ∈ [0, 1], ∀ d ∈ [tookNo (opened 8 (peered ready)) (.notice 4 ep) src, tookAck (opened 8 (peered ready)) (.notice 4 ep) src],
      (opened 8 (peered ready)).hears 8 src = true ∧ d.epochOk src 5 = (src == 2) ∧ (ep = 1 → d.peerEpoch 4 < ep) ∧ (ep = 0 → ep ≤ d.peerEpoch 4) := by decide +kernel
  exact took_all (P := fun d => (opened 8 (peered ready)).hears 8 src = true ∧ d.epochOk src 5 = (src == 2) ∧ (ep = 1 → d.peerEpoch 4 < ep) ∧ (ep = 0 → ep ≤ d.peerEpoch 4))
    (h src hs ep he)

/-- `SEQ_HOT` over a map with one page, that it changes and that it does not; over one with a stale reference and one that is empty; of fields outside their ranges; and of a
handle that does not pass R32. -/
theorem wit_Takeovers_hot : (∀ set ∈ [0, 1], let k := cmdOf (entry opSeqHot [(16, 4, h0), (21, 1, 1), (22, 1, set)])
      let d := running k (owningWith 7 seq)
      let e := k.entry
      let xs := (d.usedEntries 0).filter (d.inLayers 0 (u8 e 20) (u8 e 21))
      d.act c0 opSeqHot = some k ∧ d.checkHandle (u32 e 16) k.tenant k.order = stOK ∧ u8 e 20 + u8 e 21 ≤ d.rLayers 0 ∧ u8 e 22 ≤ 1 ∧ xs = [0]
        ∧ d.staleRef (d.entry 0 0) = false ∧ (d.entry 0 0).loc = 1 ∧ (((d.touch 0).page (d.entry 0 0).page).hot = (set == 1) ↔ set = 0)
        ∧ (let d := running k (owningWith 8 seq)
           (((d.usedEntries 0).filter (d.inLayers 0 (u8 e 20) (u8 e 21))).map (d.entry 0)).find? d.staleRef = some ⟨7, 5, 1⟩)
        ∧ (let d := running k seq
           d.checkHandle (u32 e 16) k.tenant k.order = stOK ∧ (d.usedEntries 0).filter (d.inLayers 0 (u8 e 20) (u8 e 21)) = []))
    ∧ (let k := cmdOf (entry opSeqHot [(16, 4, h0), (21, 1, 2), (22, 1, 2)])
       let d := running k seq
       d.act c0 opSeqHot = some k ∧ d.checkHandle (u32 k.entry 16) k.tenant k.order = stOK ∧ d.rLayers 0 < u8 k.entry 20 + u8 k.entry 21 ∧ 1 < u8 k.entry 22)
    ∧ (let k := cmdOf (entry opSeqHot [(16, 4, h0 + 32768)])
       let d := running k seq
       d.act c0 opSeqHot = some k ∧ d.checkHandle (u32 k.entry 16) k.tenant k.order ≠ stOK) := by decide +kernel

/-- A device in an admission, as the spare and as the loader. -/
def admitting (loader adm : Nat) (d : Dev) : Dev := (d.put Fld.PAIR_ADMIT_LOADER loader).put Fld.PAIR_ADMIT_ADM adm

theorem wit_Admission_sides : ∀ l ∈ [0, 1],
    (let d := admitting l admTesting ready
     d.alive = true ∧ d.adm = admTesting ∧ d.flag Fld.PAIR_ADMIT_LOADER = (l == 1))
    ∧ (let d := admitting l admLoading ready
       d.alive = true ∧ d.adm = admLoading ∧ (d.flag Fld.PAIR_ADMIT_LOADER = false ∨ (d.pair.syncTo ≤ d.pair.acked ∧ d.pair.short = false)))
    ∧ (let d := admitting l admReady ticking'
       d.alive = true ∧ d.adm = admReady ∧ d.handing = true ∧ d.flag Fld.PAIR_ADMIT_LOADER = (l == 1) ∧ d.cmds = [])
    ∧ (ready.adm ≠ admLoading ∧ ready.handing = false) := by decide +kernel

/-- A returned record that reaches a spare being loaded, from its loader and from another node, and a device that is none. -/
def loadMsg0 : Ctrl := .load 1 0 [BitVec.ofNat 64 (word0 1 recActive 1 1 1 0 1 4)] [] [] []
theorem wit_Admission_record : (∀ l ∈ [0, 1], let d := opened 12 (admitting l admLoading laid)
      d.hears 12 0 = true ∧ (d.took loadMsg0 0).spare = (l == 0) ∧ (d.took loadMsg0 0).adm = admLoading)
    ∧ (opened 12 (admitting 0 admLoading laid)).hears 12 2 = false ∧ (admitting 0 admLoading laid).takesPart 12 2 = false := by
  refine ⟨fun l hl => ?_, by decide +kernel⟩
  have h : ∀ l ∈ [0, 1], ∀ e ∈ [tookNo (opened 12 (admitting l admLoading laid)) loadMsg0 0, tookAck (opened 12 (admitting l admLoading laid)) loadMsg0 0],
      (opened 12 (admitting l admLoading laid)).hears 12 0 = true ∧ e.spare = (l == 0) ∧ e.adm = admLoading := by decide +kernel
  exact took_all (P := fun e => (opened 12 (admitting l admLoading laid)).hears 12 0 = true ∧ e.spare = (l == 0) ∧ e.adm = admLoading) (h l hl)

/-- Two events wait; the first is written at the first and at the last place of the log, with and without an interrupt. -/
theorem wit_LogRecord : ∀ n ∈ [0, 8191], ∀ irq ∈ [0, 1], let e : LogEv := ⟨0, evBootDone, mCox, false, false, 0, 0, 0⟩
    let d : Dev := ((ready.put Fld.HAL_WAY_TEN 0).put Fld.LOG_CFG_IRQ irq)
    let d : Dev := { d with log := { d.log with fifo := [e, e], next := n, base := 0 } }
    d.alive = true ∧ d.watches = [] ∧ d.log.fifo = [e, e] ∧ d.cox.proxyNodes = [] ∧ d.log.first = none ∧ d.hallOk none (d.log.base + 32 * (d.log.next % 8192)) 32 = true
      ∧ (d.log.base + 32 * (d.log.next % 8192)) % 8 = 0 ∧ d.badPart (d.log.base + 32 * (d.log.next % 8192)) 32 = [] := by decide +kernel

/-- A stack with a system region, and one without. -/
theorem wit_StackFailure : ∀ st ∈ [0, 7], let d := ready.logEv evUnitFailed mCox (2 * 256 + st)
    ready.alive = true ∧ (d.pinnedRegions ++ d.ringRegions).any (inStack st) = (st == 0) ∧ d.listedPages = [] ∧ d.ownRecs = [] := by decide +kernel

/-- A boat that drains and is idle, one that is scrubbed, and a way: the first and the last of each. -/
theorem wit_Scrubs : ∀ b ∈ [0, 63],
    (let d : Dev := { ready with scrubs := [⟨b, false, true, 0⟩] }
     d.alive = true ∧ (d.scrubs.any fun x => x.boat == b && x.drain) = true ∧ d.boatIdle b = true)
    ∧ (let x : BoatScrub := ⟨b, false, false, 0⟩
       let d : Dev := { ready with scrubs := [x] }
       d.scrubs = [x] ∧ x.boat = b ∧ x.drain = false ∧ d.watches = [] ∧ (∀ k < 64, d.partState k ≠ ptReleasing))
    ∧ (let d : Dev := { ready with wayScrubs := [(b, 0)] }
       d.wayScrubs = [(b, 0)] ∧ d.watches = [] ∧ ∀ k < 64, d.partState k ≠ ptReleasing) := by decide +kernel

/-! ## Attestation, boot, management, the board (chapters 15, 16) -/

/-- A session, and none; a request that verifies, of version 1.2, for slot 0 and for another. -/
def inSession (b : Bool) (d : Dev) : Dev := { d with sec := { d.sec with session := b } }

theorem wit_SpdmAnswers : (∀ b ∈ [true, false], ∀ sl ∈ [0, 1], let r : SpdmReq := ⟨true, BitVec.ofNat 8 sl, true, []⟩
      let d := inSession b ready
      d.alive = true ∧ r.verifies = true ∧ r.version12 = true ∧ (r.slot = 0) = (sl = 0) ∧ d.sec.session = b ∧ (d.advanceTo (5 : BitVec 64).toNat).sec.session = b)
    ∧ (⟨true, 0, false, []⟩ : SpdmReq).verifies = false := by decide +kernel

/-- A session that was silent for three heartbeat periods, whatever they are. -/
def silent : Dev := { inSession true ready with clk := { ready.clk with now := 3 * (3 * Config.heartbeatNs) } }

theorem advance_none (d : Dev) : (d.advance 0).sec = d.sec ∧ (d.advance 0).clk.now = d.clk.now := by
  simp only [Dev.advance, Nat.add_zero, Nat.sub_self, if_true]
  split <;> exact ⟨rfl, rfl⟩

theorem wit_SpdmSessionTimeout : silent.alive = true ∧ (let dt := silent.advanceTo (0 : BitVec 64).toNat
    dt.sec.session = true ∧ dt.sec.lastMsg + 3 * Config.heartbeatNs ≤ dt.ns) := by
  have h : silent.advanceTo (0 : BitVec 64).toNat = silent.advance 0 := congrArg (fun n => silent.advance n) (Nat.zero_sub _)
  have hm : silent.sec.lastMsg = 0 := by decide +kernel
  have hs : silent.sec.session = true := by decide +kernel
  have hn : silent.clk.now = 3 * (3 * Config.heartbeatNs) := rfl
  refine ⟨by decide +kernel, ?_⟩
  rw [h]
  simp only [Dev.ns, (advance_none silent).1, (advance_none silent).2]
  rw [hm, hs, hn]
  exact ⟨rfl, by omega⟩

/-- A device in a phase of the boot. -/
def phased (n : Nat) : Dev := (Dev.reset Fuses.fitted).put Fld.GLB_BOOT_PHASE n

/-- A boot memory with a directory: empty firmware slots, a role region and a journal of four sectors; and in the role region the smallest image there is. -/
def dirBytes : List Byte :=
  toBytes 4 0 ++ toBytes 4 1 ++ zeros 16 ++ toBytes 4 65536 ++ toBytes 4 65536 ++ toBytes 4 131072 ++ toBytes 4 4
def imgHead (crc : Nat) : List Byte := toBytes 4 0x4D494F5A ++ toBytes 2 1 ++ toBytes 1 1 ++ zeros 1 ++ toBytes 4 64 ++ zeros 4 ++ toBytes 4 crc ++ zeros 44
def booted : Mem := nvmPut (nvmPut [] 0 (dirBytes ++ toBytes 4 (crc32c dirBytes))) 65536 (imgHead (crc32c (imgHead 0)))
def dir0 : NvmDir := ⟨1, (0, 0), (0, 0), (65536, 65536), 131072, 4⟩

theorem directory_booted : directory booted = some dir0 := by decide +kernel

theorem placed_dir0 : dir0.placed = true := by
  have h : nvmSize = 2 ^ 27 ∨ nvmSize = 2 ^ 26 := by unfold nvmSize; split <;> simp
  rcases h with h | h <;> simp only [NvmDir.placed, NvmDir.regions, dir0, h] <;> decide +kernel

/-- Where a check of the role image stands: its cause, or 0. -/
def causeOf (r : RoleCheck) : Nat :=
  match r with
  | .refused n => n
  | .good _ _ _ => 0

/-- Each boot phase with what its row finds: no slot accepted in an erased boot memory; an image refused since the boot memory has no directory; a journal record to program. -/
theorem wit_BootPhases : (∀ n ∈ [bpRom, bpFw, bpDram, bpRole], let d := (phased n).advanceTo (0 : BitVec 64).toNat
      (phased n).alive = true ∧ d.phase = n ∧ d.clk.halted = none)
    ∧ ({ State.reset with dev := phased bpFw } : State).firmware = none
    ∧ (let s : State := { State.reset with dev := phased bpRole }
       s.roleImage = [] ∧ causeOf ({ s with dev := (s.dev.advanceTo 0).measureRole [] } : State).roleCheck = 2) := by decide +kernel

theorem wit_BootPhases_journal : let s : State := { on { phased bpReady with cox := { ready.cox with dirty := [⟨1, 2, 3⟩] } } with nvm := booted }
    let d := s.dev.advanceTo (0 : BitVec 64).toNat
    d.alive = true ∧ directory s.nvm = some dir0 ∧ d.cox.jlast = 0 ∧ d.cox.dirty ≠ [] ∧ d.phase = bpReady ∧ dir0.placed = true ∧ d.flag Fld.GLB_NVM_NVM_WORN = false
      ∧ (dir0.program d.cox.dirty (s.nvm, d.get Fld.GLB_NVM_SECTOR, d.cox.jnext)).2.2.2 = false :=
  ⟨by decide +kernel, by decide +kernel, by decide +kernel, by decide +kernel, by decide +kernel, placed_dir0, by decide +kernel, by decide +kernel⟩

/-- A slot that is accepted: whenever the signature of its (empty) image verifies, which is left open, on fuses that hold the hash of the image's key. -/
theorem wit_BootPhases_firmware (h : Config.ecdsaVerify (Config.imageKey []) (Config.sha384 (Config.imageSigned [])) (Config.imageSig []) = true) :
    let s : State := { State.reset with nvm := booted, fuse := { Fuses.fitted with keys := [Config.sha384 (Config.imageKey [])] }, dev := phased bpFw }
    s.firmware = some (0, [], 0) := by
  have ha : nvmBytes booted dir0.slotA.1 dir0.slotA.2 = [] := rfl
  have hb : nvmBytes booted dir0.slotB.1 dir0.slotB.2 = [] := rfl
  have hk : ({ Fuses.fitted with keys := [Config.sha384 (Config.imageKey [])] } : Fuses).accepts [] = some 0 := by
    simp [Fuses.accepts, h, Fuses.keySlot, Fuses.fitted, List.range_succ]
  simp only [State.firmware, directory_booted, ha, hb, hk]

/-- An image that passes every check: it has no section. -/
def isGood (r : RoleCheck) : Bool :=
  match r with
  | .good _ _ _ => true
  | .refused _ => false

theorem wit_BootPhases_good : let s : State := { State.reset with nvm := booted, dev := phased bpRole }
    let s1 : State := { s with dev := (s.dev.advanceTo 0).measureRole s.roleImage }
    (s.dev.advanceTo 0).phase = bpRole ∧ isGood s1.roleCheck = true := by
  refine ⟨by decide +kernel, ?_⟩
  simp only [State.roleCheck, directory_booted, placed_dir0]
  decide +kernel

/-- The management instructions: the preconditions on the map version, the pair state, the admission, the partition and the placement, met and not met. -/
theorem wit_ManagerInstructions :
    (∀ st ∈ [psSolo, psSyncing, psPaired, psDetached, psServing], let d := managed ((ready.put Fld.PAIR_STAT_STATE st))
      d.alive = true ∧ d.accepts hdrM = true ∧ d.answeredAs hdrM = none ∧ d.pairState = st ∧ d.spare = false
        ∧ d.mayTake = (st == psSyncing || st == psPaired || st == psDetached) ∧ (1 : BitVec 16).toNat = (d.get Fld.RMA_MAP_CUR_VER + 1) % 65536
        ∧ (0 : BitVec 16).toNat ≠ (d.get Fld.RMA_MAP_CUR_VER + 1) % 65536)
    ∧ (let p : PartInstr := ⟨0, .form, 1, 1, 2, BitVec.ofNat 256 (2 ^ 255), 0⟩
       ((managed ready).part p).2 = true ∧ ((managed ready).part { p with op := .add }).2 = false ∧ (managed ready).placeAll [] = (managed ready, stOK)) := by decide +kernel

/-- A sender that is accepted, one that is not, and a message that was answered. -/
theorem wit_ManagerMemory :
    (let d := managed ready
     d.alive = true ∧ d.accepts hdrM = true ∧ d.answeredAs hdrM = none ∧ d.accepts ⟨9, 6⟩ = false ∧ d.cox.mgmtOk = true ∧ ({ d with cox := { d.cox with answered := [(9, stOK)] } } : Dev).answeredAs hdrM = some stOK)
    ∧ (let e := (managed ready).advanceTo (5 : BitVec 64).toNat
       e.accepts hdrM = true ∧ e.answeredAs hdrM = none ∧ e.accepts ⟨9, 6⟩ = false) := by decide +kernel

theorem wit_ManagerMemory_nvm : (0 : BitVec 32).toNat + [(1 : Byte)].length ≤ nvmSize := by unfold nvmSize; split <;> decide

/-- The limits: 11 µs on a rail that is not `VDD_STBY`, 1,001 ns without `SYSREF`; a device that is held, of which everything but one is back. -/
theorem wit_BoardResets : (∀ r : Nat, r < 7 → r ≠ railStby → (BitVec.ofNat 3 r).toNat ≠ railStby) ∧ 10 < (11 : BitVec 16).toNat ∧ 1000 < (1001 : BitVec 64).toNat
    ∧ (∀ b ∈ [true, false], let d : Dev := { ready with elec := { ready.elec with held := true, sysref := b } }
      d.elec.held = true ∧ d.elec.trip = false ∧ d.elec.sysref = b ∧ d.elec.pwrgd = true ∧ d.elec.perstN = true) ∧ 1000000 ≤ (1000000 : BitVec 64).toNat := by decide +kernel

/-- The alarm reached from below and not reached; 112 °C and below 95 °C with the clocks stopped. -/
theorem wit_Temperatures : (∀ tj ∈ [24, 25], let d : Dev := { ready with elec := { ready.elec with tj := 24 } }
      d.elec.tj < (25 : BitVec 8).toInt ∧ ((25 : BitVec 8).toInt ≤ (BitVec.ofNat 8 tj).toInt) = (tj = 25))
    ∧ 112 ≤ (112 : BitVec 8).toInt ∧ ready.elec.trip = false ∧ (94 : BitVec 8).toInt < 95 ∧ ready.alive = true ∧ ready.elec.refresh.length = 8
    ∧ (let d : Dev := { ready with elec := { ready.elec with trip := true, pwrgd := false } }
       d.elec.trip = true ∧ d.elec.pwrgd = false) := by decide +kernel

/-- Each strap value and the address that answers to it; a device that is not held, in the phases that allow `NVM_CMD` and in one that does not. -/
theorem wit_I3cTarget : (∀ st ∈ [0, 7], let d : Dev := { ready with elec := { ready.elec with straps := st } }
      (BitVec.ofNat 7 (0x50 + st)).toNat = 0x50 + d.elec.straps ∧ (0 : BitVec 7).toNat ≠ 0x50 + d.elec.straps ∧ d.elec.held = false ∧ (0 : BitVec 8) ≠ 0xA5)
    ∧ (∀ n ∈ [bpUnconf, bpFailed, bpReady], (phased n).alive = true ∧ (phased n).phase = n) := by decide +kernel

theorem wit_I3cTarget_nvm : (0 : BitVec 32).toNat + 256 ≤ nvmSize := by unfold nvmSize; split <;> decide

/-! ## The whole block -/

/-- A state with commands that wait, one whose device is held, and one whose security version a step fuses. -/
theorem wit_WholeBlock : ({ State.reset with pending := [.mapSwitch] } : State).pending = .mapSwitch :: [] ∧ State.reset.pending = []
    ∧ ({ ready with elec := { ready.elec with held := true } } : Dev).alive = false ∧ boardRow .mapSwitch = false ∧ State.reset.nvmOk = true := by decide +kernel

/-- A step that changes a fuse, and one that changes the boot memory. -/
theorem wit_FusesOnlyBurn : ∃ t, step { on ((managed ready).put Fld.SEC_BOOT_SVN_IMG 2) with pending := [.svnFuse hdrM] } = .next t ∧ t.fuse.svn = 2 := ⟨_, rfl, by decide +kernel⟩

theorem wit_BootMemoryKept : ∃ t, step { on (managed ready) with pending := [.nvmWrite hdrM 0 [1]] } = .next t ∧ t.nvm ≠ [] := by
  have hn : ¬nvmSize < (0 : BitVec 32).toNat + [(1 : Byte)].length := by unfold nvmSize; split <;> decide
  have hal : (managed ready).alive = true := by decide +kernel
  have hac : (managed ready).accepts hdrM = true := by decide +kernel
  have han : (managed ready).answeredAs hdrM = none := by decide +kernel
  refine ⟨_, rfl, ?_⟩
  simp only [on, hal, if_true, State.mgmt, hac, han, Bool.not_true, Bool.false_eq_true, if_false, if_neg hn]
  decide +kernel

/-! ## The manual's worked examples -/

/-- The block of the worked example of chapter 3, as BF16 codes: elements 0 to 7, element 20, and 0.5 elsewhere. -/
def blockIn : List FVal :=
  let half := [0x3F00, 0x3F00, 0x3F00, 0x3F00]
  ([0x3F50, 0xC030, 0x3E20, 0x3FC0, 0xBED0, 0x4050, 0, 0xBF80] ++ half ++ half ++ half ++ [0xC0D0, 0x3F00, 0x3F00, 0x3F00] ++ half ++ half).map decBf16

/-- Chapter 3: the scale bytes 0x80 and 0x7F; the Z4 block B1 20 30 90 … 0D …; the first bytes C6 1C of the Z6 block. -/
theorem test_zblocks : (encodeBlock (fmtOf 3) blockIn).1 = 0x80
    ∧ packBlock (fmtOf 3) (encodeBlock (fmtOf 3) blockIn).2 = [0xB1, 0x20, 0x30, 0x90, 0, 0, 0, 0, 0, 0, 0x0D, 0, 0, 0, 0, 0]
    ∧ (encodeBlock (fmtOf 2) blockIn).1 = 0x7F ∧ (packBlock (fmtOf 2) (encodeBlock (fmtOf 2) blockIn).2).take 2 = [0xC6, 0x1C] := by decide +kernel

/-- Chapter 3: the row scale 0x79, the S12 block AB 3F 10 00 65 F3 …, 19 values dropped. -/
theorem test_sparse : (encodeSparseRow 12 blockIn).1 = 0x79 ∧ (encodeSparseRow 12 blockIn).2.2.1 = 19
    ∧ (encodeSparseRow 12 blockIn).2.1 = [0xAB, 0x3F, 0x10, 0, 0x65, 0xF3, 0x6C, 0x75, 0xE8, 0x60, 0x60, 0x60, 0x60, 0x60, 0x60, 0xFD] := by decide +kernel

/-- Chapter 4: the exact dot product 1.5 from an accumulator of 0.5, and 4.5 with stream scale byte 0x81. -/
theorem test_dot : let a := ([0x78, 0x38, 0xF8] ++ List.replicate 29 0).map (decElem (fmtOf 1))
    let b := ([0x4780, 0x3F80, 0x4780] ++ List.replicate 29 0).map decBf16
    dotBlock a 0x7F b 0x7F 0x3F000000 = 0x3FC00000 ∧ dotBlock a 0x81 b 0x7F 0x3F000000 = 0x40900000 := by decide +kernel

/-- Chapter 12: the tenant of the worked example of the meter, `n` packets of 4,160 bytes after the one at time 0. -/
def metered0 : Dev :=
  ((((ready.put Fld.TRF_METER0_CIR 50000 0x11).put Fld.TRF_METER0_PIR 100000 0x11).put Fld.TRF_METER1_CBS 16 0x11).put Fld.TRF_METER1_PBS 32 0x11).fillMeter 0x11
def meterRun : Nat → Dev → List (Bool × Bool)
  | 0, _ => []
  | n + 1, d => (d.meter 0x11 4160).2 :: meterRun n ((d.meter 0x11 4160).1.advance 30)

/-- Chapter 12: green four times, yellow five times, green at 90 ns, red at 100 ns. -/
theorem test_meter : meterRun 11 metered0 = List.replicate 4 (true, false) ++ List.replicate 5 (true, true) ++ [(true, false), (false, false)] := by decide +kernel

/-- Chapter 12: after the write the bucket holds 4,000 bytes at 40 ns and 5,000 at 50 ns. -/
theorem test_shaper : ∀ x ∈ [(40, 4000), (50, 5000)], ((ready.writeShape 0x2A (100000 * 2 ^ 40 + 128 * 2 ^ 24)).advance (3 * x.1)).shaper 0x2A = ⟨x.2, 0, x.1 / 10⟩ := by decide +kernel

end Sys2Proof.Tests
end

/-! # Host accesses of BAR0: their alignment, and what they reach (R10, R424) -/

namespace Sys2Proof.Machine

/-! ## The offsets of the register map -/

/-- The first offset and the strides of every register keep its instances on 8-byte boundaries (R10, R404). -/
theorem regTable_strides_aligned : ∀ r ∈ regTable, 8 ∣ r.base ∧ 8 ∣ r.s1 ∧ 8 ∣ r.s2 := by decide +kernel

/-- Where the instances of a register lie (R404). -/
theorem RegSpec.exists_index_of_has {r : RegSpec} {off : Nat} (h : r.has off = true) : ∃ i j, off = r.base + r.s2 * j + r.s1 * i := by
  simp only [RegSpec.has, List.any_eq_true, Bool.and_eq_true, decide_eq_true_eq] at h
  obtain ⟨j, -, hle, hplace⟩ := h
  split at hplace
  · have hzero : off - (r.base + r.s2 * j) = 0 := by simpa using hplace
    exact ⟨0, j, by omega⟩
  · simp only [Bool.and_eq_true, decide_eq_true_eq] at hplace
    obtain ⟨⟨hmod, -⟩, -⟩ := hplace
    have := Nat.div_add_mod (off - (r.base + r.s2 * j)) r.s1
    exact ⟨(off - (r.base + r.s2 * j)) / r.s1, j, by omega⟩

theorem mem_regTable_of_regAt {off : Nat} {r : RegSpec} (h : regAt off = some r) : r ∈ regTable := List.mem_of_find?_eq_some h

theorem has_of_regAt {off : Nat} {r : RegSpec} (h : regAt off = some r) : r.has off = true := by
  simpa using List.find?_some h

/-- Every register stands at an 8-byte-aligned offset (R10). -/
theorem dvd_of_regAt {off : Nat} {r : RegSpec} (h : regAt off = some r) : 8 ∣ off := by
  obtain ⟨hbase, hs1, hs2⟩ := regTable_strides_aligned r (mem_regTable_of_regAt h)
  obtain ⟨i, j, rfl⟩ := RegSpec.exists_index_of_has (has_of_regAt h)
  exact (hbase.add (hs2.mul_right j)).add (hs1.mul_right i)

/-! ## Aligned and misaligned accesses -/

theorem aligned_iff (off : Nat) (width : BitVec 8) :
    aligned off width.toNat = true ↔ (width = 8 ∧ off % 8 = 0) ∨ (width = 4 ∧ off % 4 = 0) := by
  simp [aligned, ← BitVec.toNat_inj]

theorem exec_registerWrite (fn : BitVec 6) (off : BitVec 26) (width : BitVec 8) (v : Word) {s : State} (h : s.dev.alive = true) :
    exec (.registerWrite fn off width v) s = .next (s.hostWrite fn.toNat off.toNat width.toNat v.toNat) :=
  congrArg _ (if_pos h)

theorem exec_rcCounterRead (fn : BitVec 6) (off : BitVec 26) (width : BitVec 8) {s : State} (h : s.dev.alive = true) :
    exec (.rcCounterRead fn off width) s = .next (s.withDev (s.dev.answerRead fn.toNat off.toNat width.toNat)) :=
  onDev_alive (f := fun d => d.answerRead fn.toNat off.toNat width.toNat) h

theorem Dev.answerRead_eq (d : Dev) (fn off width : Nat) :
    d.answerRead fn off width = (d.hostRead fn off width).2.emit (.readData (d.hostRead fn off width).1) := rfl

theorem Dev.hostWrite_misaligned (d : Dev) (fn : Nat) {off width : Nat} (v : Nat) (h : aligned off width = false) :
    d.hostWrite fn off width v = d := by simp [Dev.hostWrite, h]

/-- A misaligned write is no reset either (R10, R375). -/
theorem State.hostWrite_misaligned (s : State) (fn : Nat) {off width : Nat} (v : Nat) (h : aligned off width = false)
    (hw : s.dev.watches = []) : s.hostWrite fn off width v = s := by
  simp [State.hostWrite, h, Dev.hostWrite_misaligned, Dev.settle_calm hw]

theorem Dev.hostRead_misaligned (d : Dev) (fn : Nat) {off width : Nat} (h : aligned off width = false) :
    d.hostRead fn off width = (0, d) := by simp [Dev.hostRead, h]

/-! ## Reads of a register -/

/-- An aligned read through the PF, outside its two tables and the aliases, is a read of the register reached (R402). -/
theorem Dev.hostRead_pf {d : Dev} {off width : Nat} {r : RegSpec} (ha : aligned off width = true) (hoff : off < msixBase)
    (hlog : off < logWindow ∨ logWindow + 0x40000 ≤ off) (hr : d.reached' (off - off % 8) = some r) :
    d.hostRead 0 off width = d.readReg 0 (off - off % 8) r (off - off % 8) off width := by
  have hbelow : off < 0x02000000 := by simp only [msixBase] at hoff; omega
  have hwin : ¬ (d.open' = true ∧ ¬ off < logWindow ∧ off < logWindow + 0x40000) :=
    fun ⟨_, hlow, hhigh⟩ => hlog.elim hlow (Nat.not_le.2 hhigh)
  have hmsix : ¬ (d.open' = true ∧ ¬ off < msixBase ∧ off < msixBase + 0x10000) := fun ⟨_, habove, _⟩ => habove hoff
  have hpf : d.hostRead 0 off width = d.readPf off width := by simp [Dev.hostRead, ha, hbelow]
  rw [hpf, Dev.readPf, if_neg hmsix, if_neg hwin, hr]

/-- With no latch held, a read gives the shown word or the half of it that the access covers (R424). -/
theorem Dev.readReg_value {d : Dev} (h : d.latch = []) (fn key : Nat) (r : RegSpec) (at' off width : Nat) :
    (d.readReg fn key r at' off width).1 = halfOf off width (r.shown (d.liveWord r at')) := by
  unfold Dev.readReg
  by_cases hw : width = 8
  · simp [hw, halfOf]
  · by_cases hl : r.latches = true
    · by_cases ho : off % 8 = 0 <;> simp [hw, hl, ho, h, halfOf]
    · simp [hw, hl, halfOf]

/-- A read of a register changes the register file and the latches only. -/
theorem Dev.readReg_frame (d : Dev) (fn key : Nat) (r : RegSpec) (at' off width : Nat) :
    ∃ regs latch, (d.readReg fn key r at' off width).2 = { d with regs := regs, latch := latch } := by
  unfold Dev.readReg
  by_cases hw : width = 8
  · simp only [hw, if_true]; exact ⟨_, _, rfl⟩
  · simp only [if_neg hw]
    split
    · exact ⟨_, _, rfl⟩
    · split
      · exact ⟨_, _, rfl⟩
      · split <;> exact ⟨_, _, rfl⟩

/-! ## The statement -/

/-- Settles O27: the register map is aligned by its table; a misaligned access is refused before it reaches a function's BAR0; an
aligned read of the PF is a read of the register reached, whose value is `halfOf` its word. -/
theorem alignedAccessesOnly : Obligations.AlignedAccessesOnly := by
  refine ⟨fun n r h => Nat.mod_eq_zero_of_dvd (dvd_of_regAt h), fun s fn off width v ⟨halive, hwatch⟩ => ⟨fun hmis => ?_, ?_⟩⟩
  · have ha : aligned off.toNat width.toNat = false := by
      simpa only [← aligned_iff, Bool.not_eq_true] using hmis
    rw [exec_registerWrite _ _ _ _ halive, State.hostWrite_misaligned s _ _ ha hwatch,
      exec_rcCounterRead _ _ _ halive, Dev.answerRead_eq, Dev.hostRead_misaligned _ _ ha]
    exact ⟨rfl, rfl⟩
  · intro r hfits hlatch hoff hlog hr
    have hread := Dev.hostRead_pf ((aligned_iff _ _).2 hfits) hoff hlog hr
    obtain ⟨regs, latch, hdev⟩ := s.dev.readReg_frame 0 (off.toNat - off.toNat % 8) r (off.toNat - off.toNat % 8) off.toNat width.toNat
    refine ⟨_, exec_rcCounterRead 0 off width halive, ?_⟩
    rw [Dev.answerRead_eq, show (0 : BitVec 6).toNat = 0 from rfl, hread, hdev, Dev.readReg_value hlatch]
    refine ⟨rfl, rfl, ?_⟩
    simp [State.withDev, halfOf, ← BitVec.toNat_inj]

end Sys2Proof.Machine

/-! # The stroke clock: the angle of a stroke and its latched period (R317, R323) -/

namespace Sys2Proof.Machine

/-! ## The period shown in `TIM_STAT` -/

/-- A field reads back what was put into its word, cut to its width. -/
theorem Fld.bits_into_same {f : Fld} (h : f.lo ≤ f.hi) (v w : Nat) : bits (f.into v w) f.hi f.lo = v % 2 ^ (f.hi + 1 - f.lo) :=
  bits_setBits_same h w v

/-- A field apart from the one put into a word reads as before. -/
theorem Fld.bits_into_other {f g : Fld} (h : f.lo ≤ f.hi) (hd : g.hi < f.lo ∨ f.hi < g.lo) (v w : Nat) :
    bits (f.into v w) g.hi g.lo = bits w g.hi g.lo := bits_setBits_other h hd w v

theorem Dev.liveWord_timStat (d : Dev) :
    d.liveWord Reg.TIM_STAT Reg.TIM_STAT.base = d.timStat (d.word Reg.TIM_STAT.base Reg.TIM_STAT.wreset) := rfl

/-- The fields over `PERIOD` stand apart from it, so it shows the period latched at the catch (R317). -/
theorem Dev.timStat_period (d : Dev) (w : Nat) :
    bits (d.timStat w) Fld.TIM_STAT_PERIOD.hi Fld.TIM_STAT_PERIOD.lo = d.clk.latched % 2 ^ 30 := by
  simp (disch := decide) only [Dev.timStat, Fld.bits_into_other]
  exact Fld.bits_into_same (by decide) _ _

/-! ## What passing time leaves of the clock -/

@[simp] theorem Dev.coreCycles_clk (d : Dev) (n core : Nat) : (d.coreCycles n core).clk = d.clk := by
  unfold Dev.coreCycles
  split
  · rfl
  · split <;> rfl

@[simp] theorem Dev.foldl_coreCycles_clk (n : Nat) (cores : List Nat) (d : Dev) :
    (cores.foldl (Dev.coreCycles · n) d).clk = d.clk := by
  induction cores generalizing d with
  | nil => rfl
  | cons core cores ih => rw [List.foldl_cons, ih, Dev.coreCycles_clk]

/-- Passing time moves the local count and the time counter; the stroke and the tracker stay, whatever units count on the way. -/
theorem Dev.advance_clk (d : Dev) (dt : Nat) :
    ∃ cnt frac, (d.advance dt).clk = { d.clk with now := d.clk.now + dt, cnt := cnt, frac := frac } := by
  unfold Dev.advance
  simp only [apply_ite Dev.clk, Dev.bump_clk, Dev.foldl_coreCycles_clk, ite_self]
  exact ⟨_, _, rfl⟩

/-! ## The angle of a running stroke -/

/-- The angle of a clock that runs outside ACQUIRE, in thirds of a nanosecond (R317). -/
theorem Dev.angle_running {d : Dev} (hrun : d.clk.halted = none) (htrack : d.clk.state ≠ .acquire) :
    d.angle = min 65535 ((d.clk.now - d.clk.catchAt) * 65536 / (3 * atLeast1 d.clk.latched)) := by
  simp [Dev.angle, hrun, htrack]

/-- In a stroke of a period over 0, the angle `t` ns after the catch (R317). -/
theorem Dev.angle_after_catch {d : Dev} (hrun : d.clk.halted = none) (htrack : d.clk.state ≠ .acquire) {t : Nat}
    (hnow : d.clk.now = d.clk.catchAt + 3 * t) (hperiod : 0 < d.clk.latched) :
    d.angle = min 65535 (t * 65536 / d.clk.latched) := by
  rw [Dev.angle_running hrun htrack, hnow, Nat.add_sub_cancel_left, atLeast1, if_neg hperiod.ne', Nat.mul_assoc,
    Nat.mul_div_mul_left _ _ (by decide)]

/-- At its catch a stroke is at angle 0. -/
theorem Dev.angle_at_catch {d : Dev} (hrun : d.clk.halted = none) (htrack : d.clk.state ≠ .acquire)
    (hnow : d.clk.now = d.clk.catchAt) : d.angle = 0 := by
  simp [Dev.angle_running hrun htrack, hnow]

theorem Dev.angle_le_max {d : Dev} (hrun : d.clk.halted = none) (htrack : d.clk.state ≠ .acquire) : d.angle ≤ 65535 :=
  Dev.angle_running hrun htrack ▸ min_le_left _ _

/-- While no catch comes the elapsed time grows, and the angle with it, up to 65,535 (R317). -/
theorem Dev.angle_advance_mem_Icc {d : Dev} (hrun : d.clk.halted = none) (htrack : d.clk.state ≠ .acquire) (dt : Nat) :
    (d.advance dt).angle ∈ Set.Icc d.angle 65535 := by
  obtain ⟨cnt, frac, hclk⟩ := d.advance_clk dt
  have hrun' : (d.advance dt).clk.halted = none := by rw [hclk]; exact hrun
  have htrack' : (d.advance dt).clk.state ≠ .acquire := by rw [hclk]; exact htrack
  refine ⟨?_, Dev.angle_le_max hrun' htrack'⟩
  rw [Dev.angle_running hrun htrack, Dev.angle_running hrun' htrack', hclk]
  have helapsed : d.clk.now - d.clk.catchAt ≤ d.clk.now + dt - d.clk.catchAt := Nat.sub_le_sub_right (Nat.le_add_right _ _) _
  exact min_le_min_left _ (Nat.div_le_div_right (Nat.mul_le_mul_right _ helapsed))

/-! ## The statement -/

/-- Settles O42: the shown period is the one latched, the angle is a function of the time since the catch, and passing time moves
nothing else of the stroke. -/
theorem strokeAngle : Obligations.StrokeAngle := by
  intro d hrun htrack
  refine ⟨fun number at3 => ⟨fun hfits => ?_, fun hnow => ?_⟩, fun t hnow hperiod => ?_, fun dt => ?_⟩
  · rw [Dev.liveWord_timStat, Dev.timStat_period]
    exact Nat.mod_eq_of_lt hfits
  · exact Dev.angle_at_catch (d := d.beginStroke number at3) hrun htrack hnow
  · exact Dev.angle_after_catch hrun htrack hnow hperiod
  · obtain ⟨hgrows, hmax⟩ := Dev.angle_advance_mem_Icc hrun htrack dt
    exact ⟨hgrows, fun hheld => le_antisymm hmax (hheld ▸ hgrows)⟩

end Sys2Proof.Machine

/-! # The logbook writer: a record and its interrupt (R117, R348 to R351, R396) -/

namespace Sys2Proof.Machine

/-! ## What an access to the hall counts -/

/-- The counters of hall accesses and of events dropped (R109, R116, R117, R350), all of them outside `LOG_CFG`. -/
def accessCounters : List Nat :=
  [Fld.HAL_ROTATE_UNALIGNED.base, Fld.HAL_ECC_UNCORR.base, Fld.HAL_FAULT_DENY.base, Fld.LOG_STAT_DROPPED.base]

/-- `d'` is `d` but for the hall, the logbook, and the counters of hall accesses and dropped events. -/
structure Dev.AccessedTo (d d' : Dev) : Prop where
  frame : d' = { d with regs := d'.regs, hall := d'.hall, hallBad := d'.hallBad, log := d'.log }
  regs  : d.sameRegsBut accessCounters d'

theorem Dev.AccessedTo.refl (d : Dev) : d.AccessedTo d := ⟨rfl, fun _ _ _ => rfl⟩

theorem Dev.AccessedTo.trans {d₁ d₂ d₃ : Dev} (h₁ : d₁.AccessedTo d₂) (h₂ : d₂.AccessedTo d₃) : d₁.AccessedTo d₃ where
  frame := h₂.frame.trans (by rw [h₁.frame])
  regs  := fun off w hoff => (h₂.regs off w hoff).trans (h₁.regs off w hoff)

theorem Dev.AccessedTo.watches {d d' : Dev} (h : d.AccessedTo d') : d'.watches = d.watches := by rw [h.frame]

theorem Dev.AccessedTo.out {d d' : Dev} (h : d.AccessedTo d') : d'.out = d.out := by rw [h.frame]

theorem Dev.AccessedTo.cox {d d' : Dev} (h : d.AccessedTo d') : d'.cox = d.cox := by rw [h.frame]

theorem Dev.AccessedTo.get {d d' : Dev} (h : d.AccessedTo d') {f : Fld} {i j : Nat} (hf : f.off i j ∉ accessCounters) :
    d'.get f i j = d.get f i j := by rw [Dev.get, Dev.get, h.regs _ _ hf]

/-- One of those counters advanced. -/
theorem Dev.accessedTo_bump (d : Dev) (f : Fld) (n : Nat) (hf : f.off 0 0 ∈ accessCounters) : d.AccessedTo (d.bump f n) where
  frame := rfl
  regs  := fun off w hoff => d.word_put_other f _ 0 0 (fun heq : off = f.off 0 0 => hoff (heq ▸ hf)) w

/-- An event enters the FIFO, or is dropped and counted (R350). -/
theorem Dev.accessedTo_logEv (d : Dev) (code src data : Nat) : d.AccessedTo (d.logEv code src data) := by
  unfold Dev.logEv
  split
  · exact ⟨rfl, fun _ _ _ => rfl⟩
  · refine .trans ?_ (Dev.accessedTo_bump _ Fld.LOG_STAT_DROPPED 1 (by decide))
    exact ⟨rfl, fun _ _ _ => rfl⟩

/-- Uncorrectable words are counted and recorded, one after another (R117). -/
theorem Dev.accessedTo_meetBad (m : Nat) (ws : List Nat) (d : Dev) : d.AccessedTo (d.meetBad m ws) := by
  induction ws generalizing d with
  | nil => exact .refl d
  | cons w ws ih =>
    exact ((d.accessedTo_bump Fld.HAL_ECC_UNCORR 1 (by decide)).trans (Dev.accessedTo_logEv _ _ _ _)).trans (ih _)

theorem Dev.accessedTo_rotated (d : Dev) (a n : Nat) : d.AccessedTo (d.rotated a n) := by
  unfold Dev.rotated
  split
  · exact d.accessedTo_bump _ 1 (by decide)
  · exact .refl d

theorem Dev.accessedTo_hallPut (d : Dev) (a : Nat) (bs : List Byte) : d.AccessedTo (d.hallPut a bs) := by
  unfold Dev.hallPut
  refine .trans ?_ (Dev.accessedTo_rotated _ a bs.length)
  exact ⟨rfl, fun _ _ _ => rfl⟩

theorem Dev.accessedTo_hallStore (d : Dev) (m a : Nat) (bs : List Byte) : d.AccessedTo (d.hallStore m a bs).1 :=
  (d.accessedTo_hallPut a bs).trans (Dev.accessedTo_meetBad m _ _)

theorem Dev.accessedTo_deny (d : Dev) : d.AccessedTo d.deny := d.accessedTo_bump _ 1 (by decide)

/-- An access that starts a word does not take the rotate path (R116). -/
theorem Dev.rotated_aligned (d : Dev) {a : Nat} (n : Nat) (h : a % 8 = 0) : d.rotated a n = d := if_neg fun hrot => hrot.1 h

/-- A store that starts a word and replaces every uncorrectable word it meets writes its bytes and counts nothing (R116, R117). -/
theorem Dev.hallStore_whole (d : Dev) (m : Nat) {a : Nat} {bs : List Byte} (ha : a % 8 = 0) (hbad : d.badPart a bs.length = []) :
    ∃ hallBad, (d.hallStore m a bs).1 = { d with hall := d.hall.writeBytes a bs, hallBad := hallBad } := by
  simp only [Dev.hallStore, Dev.hallPut, hbad, List.foldl_nil, Dev.rotated_aligned _ _ ha]
  exact ⟨_, rfl⟩

/-! ## Interrupts -/

theorem Dev.ctrlAs_frame (d : Dev) (node src : Nat) (m : Ctrl) : ∃ spray, d.ctrlAs node src m = { d with spray := spray } := by
  unfold Dev.ctrlAs
  split <;> exact ⟨_, rfl⟩

theorem Dev.toHead_frame (d : Dev) (r : MemberReq) : ∃ spray, d.toHead r = { d with spray := spray } := by
  unfold Dev.toHead
  split
  · exact ⟨_, rfl⟩
  · exact d.ctrlAs_frame _ _ _

/-- A vector raised is an output, or a message to the head (R396). -/
theorem Dev.raise_frame (d : Dev) (fn v : Nat) : ∃ out spray, d.raise fn v = { d with out := out, spray := spray } := by
  unfold Dev.raise
  split
  · exact ⟨_, _, rfl⟩
  · split
    · obtain ⟨spray, h⟩ := d.toHead_frame (.msix (BitVec.ofNat 16 v))
      exact ⟨_, spray, h⟩
    · exact ⟨_, _, rfl⟩

/-- A device that has the host itself emits the vector (R396). -/
theorem Dev.raise_of_host {d : Dev} (h : d.cox.proxyNodes = []) (fn v : Nat) : d.raise fn v = d.emit (.msix fn v) := by
  simp [Dev.raise, h]

/-! ## LOG_RECORD_WRITE in its three parts -/

/-- Where the next record stands: the slots of the logbook are used in turn (R349). -/
def Dev.recordPlace (d : Dev) : Nat := d.log.base + 32 * (d.log.next % 8192)

/-- The record's bytes stored, or the access refused and counted (R109, R349). -/
def Dev.storeRecord (d : Dev) (e : LogEv) : Dev :=
  if d.hallOk none d.recordPlace 32 then (d.hallStore mTiming d.recordPlace (logBytes d.log.next e)).1 else d.deny

/-- The FIFO once its oldest event is written: the free entry takes a pending `OVERFLOW` (R350). -/
def Logbook.shift (l : Logbook) (rest : List LogEv) : Logbook :=
  match l.first with
  | some f => { l with fifo := rest ++ [overflowEv l.pending f], pending := 0, first := none }
  | none => { l with fifo := rest }

/-- The logbook once its oldest event is written: `NEXT` names the next record (R349). -/
def Logbook.advance (l : Logbook) (rest : List LogEv) : Logbook :=
  { l.shift rest with next := ((l.shift rest).next + 1) % 2 ^ 32 }

/-- The interrupt of a record written (R351). -/
def Dev.recordIrq (d : Dev) : Dev := if d.flag Fld.LOG_CFG_IRQ then d.raise 0 (d.get Fld.LOG_CFG_MSIX) else d

/-- The oldest event `e` written, `rest` behind it: its bytes, the logbook, the interrupt. -/
def Dev.writeRecord (d : Dev) (e : LogEv) (rest : List LogEv) : Dev :=
  ({ d.storeRecord e with log := (d.storeRecord e).log.advance rest } : Dev).recordIrq

theorem exec_logRecordWrite {s : State} {e : LogEv} {rest : List LogEv} (halive : s.dev.alive = true) (hfifo : s.dev.log.fifo = e :: rest) :
    exec .logRecordWrite s = .next (s.settled (s.dev.writeRecord e rest)) := by
  have hexec : exec .logRecordWrite s = execLogRecordWrite s := rfl
  rw [hexec, execLogRecordWrite, onHall_alive halive]
  simp only [hfifo]
  rfl

theorem Logbook.advance_none {l : Logbook} (h : l.first = none) (rest : List LogEv) :
    l.advance rest = { l with fifo := rest, next := (l.next + 1) % 2 ^ 32 } := by
  simp [Logbook.advance, Logbook.shift, h]

theorem length_logBytes (seq : Nat) (e : LogEv) : (logBytes seq e).length = 32 := by simp [logBytes, toBytes, zeros]

theorem Dev.accessedTo_storeRecord (d : Dev) (e : LogEv) : d.AccessedTo (d.storeRecord e) := by
  unfold Dev.storeRecord
  split
  · exact d.accessedTo_hallStore _ _ _
  · exact d.accessedTo_deny

theorem Dev.recordIrq_frame (d : Dev) : ∃ out spray, d.recordIrq = { d with out := out, spray := spray } := by
  unfold Dev.recordIrq
  split
  · exact d.raise_frame _ _
  · exact ⟨_, _, rfl⟩

theorem Dev.recordIrq_out {d : Dev} (h : d.cox.proxyNodes = []) :
    d.recordIrq.out = d.out ++ (if d.flag Fld.LOG_CFG_IRQ then [.msix 0 (d.get Fld.LOG_CFG_MSIX)] else []) := by
  unfold Dev.recordIrq
  split
  · rw [Dev.raise_of_host h, Dev.emit_out]
  · exact (List.append_nil _).symm

/-! ## A record written -/

/-- Writing a record arms no wait, so the monitor finds nothing to look at (R225). -/
theorem Dev.writeRecord_watches (d : Dev) (e : LogEv) (rest : List LogEv) : (d.writeRecord e rest).watches = d.watches := by
  obtain ⟨out, spray, hirq⟩ := ({ d.storeRecord e with log := (d.storeRecord e).log.advance rest } : Dev).recordIrq_frame
  rw [Dev.writeRecord, hirq]
  exact (d.accessedTo_storeRecord e).watches

/-- The store of the record moves neither `LOG_CFG` nor the member table, so `IRQ` and `MSIX` are those before it (R351). -/
theorem Dev.writeRecord_out {d : Dev} (hhost : d.cox.proxyNodes = []) (e : LogEv) (rest : List LogEv) :
    (d.writeRecord e rest).out = d.out ++ (if d.flag Fld.LOG_CFG_IRQ then [.msix 0 (d.get Fld.LOG_CFG_MSIX)] else []) := by
  have hstored := d.accessedTo_storeRecord e
  have hirq : (d.storeRecord e).flag Fld.LOG_CFG_IRQ = d.flag Fld.LOG_CFG_IRQ := congrArg (· == 1) (hstored.get (by decide))
  have hvec : (d.storeRecord e).get Fld.LOG_CFG_MSIX = d.get Fld.LOG_CFG_MSIX := hstored.get (by decide)
  have hcox : (d.storeRecord e).cox.proxyNodes = [] := by rw [hstored.cox, hhost]
  rw [← hstored.out, ← hirq, ← hvec]
  exact Dev.recordIrq_out hcox

/-- A record written at a place it may write, with no event dropped before: 32 bytes of the hall and the logbook move on, beside the
interrupt. -/
theorem Dev.writeRecord_frame {d : Dev} (e : LogEv) (rest : List LogEv) (hfirst : d.log.first = none)
    (hok : d.hallOk none d.recordPlace 32 = true) (halign : d.recordPlace % 8 = 0) (hbad : d.badPart d.recordPlace 32 = []) :
    ∃ hallBad out spray, d.writeRecord e rest =
      { d with hall := d.hall.writeBytes d.recordPlace (logBytes d.log.next e), hallBad := hallBad,
               log := { d.log with fifo := rest, next := (d.log.next + 1) % 2 ^ 32 }, out := out, spray := spray } := by
  obtain ⟨hallBad, hstore⟩ := d.hallStore_whole mTiming (bs := logBytes d.log.next e) halign (by rwa [length_logBytes])
  have hstored : d.storeRecord e = { d with hall := d.hall.writeBytes d.recordPlace (logBytes d.log.next e), hallBad := hallBad } :=
    (if_pos hok).trans hstore
  obtain ⟨out, spray, hirq⟩ := ({ d.storeRecord e with log := (d.storeRecord e).log.advance rest } : Dev).recordIrq_frame
  exact ⟨hallBad, out, spray, by rw [Dev.writeRecord, hirq, hstored, Logbook.advance_none hfirst]⟩

/-- Settles O47: the record's store reaches its 32 bytes and counters outside `LOG_CFG` only, so the interrupt is the one set up
before it, and on a place without fault the frame is exact. -/
theorem logRecord : Obligations.LogRecord := by
  intro s e rest ⟨halive, hwatch⟩
  dsimp only
  intro hfifo
  have hexec : exec .logRecordWrite s = .next (s.withDev (s.dev.writeRecord e rest)) := by
    rw [exec_logRecordWrite halive hfifo, State.settled, Dev.settle_calm ((s.dev.writeRecord_watches e rest).trans hwatch), State.withDev]
  refine ⟨fun hhost => ⟨_, hexec, Dev.writeRecord_out hhost e rest⟩, fun hfirst hok halign hbad => ⟨_, hexec, ?_⟩⟩
  obtain ⟨hallBad, out, spray, hdev⟩ := Dev.writeRecord_frame e rest hfirst hok halign hbad
  have hlen := length_logBytes s.dev.log.next e
  rw [State.withDev, hdev]
  refine ⟨?_, fun x hx => ?_, rfl, rfl, rfl, rfl, rfl⟩
  · have hread := s.dev.hall.readBytes_writeBytes s.dev.recordPlace (logBytes s.dev.log.next e)
    rwa [hlen] at hread
  · exact Mem.read_writeBytes_other _ _ _ _ (by rwa [hlen])

end Sys2Proof.Machine

/-! # The reset sources: a full reset, and resets of the functions (R375, R377, R387, R392, R411, R413) -/

namespace Sys2Proof.Machine

/-! ## The registers of a device after a full reset -/

/-- Outside the identity registers, which the fuses set, a register reads its reset word (R7, R375). -/
theorem Dev.word_reset (f : Fuses) {off w : Nat} (hoff : off ∉ [0, 8, 16]) (hw : w < 2 ^ 64) : (Dev.reset f).word off w = w := by
  simp only [List.mem_cons, List.not_mem_nil, or_false, not_or] at hoff
  obtain ⟨hid, hunits, hboats⟩ := hoff
  have hlisted : sget (BitVec.ofNat 64 w) off f.regs = BitVec.ofNat 64 w := by
    rw [Fuses.regs, sget_sput_other _ _ hid, sget_sput_other _ _ hunits, sget_sput_other _ _ hboats, sget]
  rw [Dev.word, show (Dev.reset f).regs = f.regs from rfl, hlisted, BitVec.toNat_ofNat, Nat.mod_eq_of_lt hw]

/-- The epoch reads 0 after a full reset (R340, R375). -/
theorem Dev.epoch_reset (f : Fuses) : (Dev.reset f).epoch = 0 := by
  have hword : (Dev.reset f).word Fld.FAB_EPOCH_EPOCH.base 0 = 0 := Dev.word_reset f (by decide) (by decide)
  exact congrArg (bits · Fld.FAB_EPOCH_EPOCH.hi Fld.FAB_EPOCH_EPOCH.lo) hword

/-! ## States that a full reset leaves -/

theorem State.resetTo_fullReset (s : State) : s.resetTo s.fullReset := ⟨rfl, rfl, rfl, rfl⟩

/-- A full reset looks at nothing of the device before it. -/
theorem State.withDev_resetTo {s t : State} {d : Dev} : (s.withDev d).resetTo t ↔ s.resetTo t := Iff.rfl

/-- The pins and sensors are no state that a full reset returns to its reset state. -/
theorem State.resetTo.withElec {s t : State} (h : s.resetTo t) (f : Elec → Elec) : s.resetTo (t.withElec f) := by
  obtain ⟨hpending, hfuse, hnvm, hdev⟩ := h
  exact ⟨hpending, hfuse, hnvm, congrArg (fun d : Dev => { d with elec := f t.dev.elec }) hdev⟩

theorem State.resetTo.emit {s t : State} (h : s.resetTo t) (o : Output) : s.resetTo (t.withDev (t.dev.emit o)) := by
  obtain ⟨hpending, hfuse, hnvm, hdev⟩ := h
  exact ⟨hpending, hfuse, hnvm, congrArg (Dev.emit · o) hdev⟩

/-- A reset that the board holds is a full reset (R411, R413). -/
theorem State.resetTo_hold (s : State) : s.resetTo s.hold := s.resetTo_fullReset.withElec _

/-- A thermal trip that ends moves a pin and emits its release (R419). -/
theorem State.resetTo.coolDown {s t : State} (h : s.resetTo t) : s.resetTo t.coolDown := by
  unfold State.coolDown
  dsimp only
  split
  · exact (h.withElec _).emit _
  · exact h

theorem State.resetTo.epoch {s t : State} (h : s.resetTo t) : t.dev.epoch = 0 := by
  obtain ⟨-, -, -, hdev⟩ := h
  rw [hdev]
  exact Dev.epoch_reset s.fuse

/-- With epoch 0 no packet leaves (R340). -/
theorem exec_packetSpray_epoch_zero {s : State} (h : s.dev.epoch = 0) : exec .packetSpray s = .next s := by
  have hspray : s.dev.sprayOne = s.dev := if_pos h
  by_cases halive : s.dev.alive = true
  · exact (onDev_alive halive).trans (by rw [hspray])
  · exact onDev_held (Bool.not_eq_true _ ▸ halive)

/-- A command that answers a state after a full reset: the epoch reads 0 there, and no packet leaves. -/
theorem exists_reset_of_next {o : Host.Outcome State Fault Refusal} {s t : State} (ho : o = .next t) (h : s.resetTo t) :
    ∃ t : State, o = .next t ∧ s.resetTo t ∧ t.dev.epoch = 0 ∧ exec .packetSpray t = .next t :=
  ⟨t, ho, h, h.epoch, exec_packetSpray_epoch_zero h.epoch⟩

/-! ## What each source does -/

theorem exec_perstAssert (s : State) : exec .perstAssert s = .next (s.withElec fun e => { e with perstN := false }).hold := rfl

theorem exec_pwrgdFall (s : State) : exec .pwrgdFall s = .next (s.withElec fun e => { e with pwrgd := false }).hold.coolDown := rfl

/-- `PWRGD` or `PERST_N` low holds the device in reset (R411). -/
theorem exec_powerOnReset_low {pwrgd perstN : Bool} (h : pwrgd = false ∨ perstN = false) (s : State) :
    exec (.powerOnReset pwrgd perstN) s = .next (s.withElec fun e => { e with pwrgd := pwrgd, perstN := perstN }).hold.coolDown := by
  have hlow : ¬ (pwrgd && perstN) = true := by rcases h with rfl | rfl <;> simp
  exact congrArg _ (if_neg hlow)

/-- The board's reset: a device held in reset stays held (R388). -/
theorem exec_i3cReset (s : State) : exec (.i3cReset 0xA5) s = .next (if s.dev.elec.held then s.hold else s.fullReset) := rfl

/-- An instruction of a manager that Cox accepts, under a sequence number not yet answered, is executed and answered (R386, R387). -/
theorem State.mgmt_fresh {s : State} {h : MgmtHdr} (hacc : s.dev.accepts h = true) (hnew : s.dev.answeredAs h = none) (code : Nat)
    (f : State → State × Nat) : s.mgmt h code f = (f s).1.settled ((f s).1.dev.mgmtDone h code (f s).2) := by
  simp only [State.mgmt, hacc, hnew]
  rfl

/-- The fault manager's reset comes once its answer is given (R387). -/
theorem exec_mgmtReset_fresh {s : State} {h : MgmtHdr} (halive : s.dev.alive = true) (hacc : s.dev.accepts h = true)
    (hnew : s.dev.answeredAs h = none) : exec (.mgmtReset h) s = .next (s.settled (s.dev.mgmtDone h mcReset stOK)).fullReset := by
  have hfresh : (s.dev.accepts h && (s.dev.answeredAs h).isNone) = true := by simp [hacc, hnew]
  calc exec (.mgmtReset h) s = .next (s.mgmt h mcReset fun s => (s, stOK)).fullReset :=
        congrArg _ ((if_pos halive).trans (if_pos hfresh))
    _ = .next (s.settled (s.dev.mgmtDone h mcReset stOK)).fullReset := by rw [State.mgmt_fresh hacc hnew]

/-- The host's code in `GLB_RESET`, in phase `READY` (R375, R377). -/
theorem exec_glbReset_code {s : State} {v : Word} (halive : s.dev.alive = true) (hopen : s.dev.open' = true)
    (hcode : v.toNat % 65536 = resetCode) : exec (.glbReset 0 v) s = .next s.fullReset :=
  congrArg _ ((if_pos halive).trans (if_pos ⟨rfl, rfl, by decide, hopen, hcode⟩))

theorem exec_functionLevelReset {s : State} (halive : s.dev.alive = true) (fn : BitVec 6) :
    exec (.functionLevelReset fn) s = .next (s.settled (s.dev.functionReset fn.toNat)) :=
  onHall_alive (f := (Dev.functionReset · fn.toNat)) halive

theorem exec_hotReset {s : State} (halive : s.dev.alive = true) :
    exec .hotReset s = .next (s.settled ((List.range 64).foldl Dev.functionReset s.dev)) :=
  onHall_alive (f := (List.range 64).foldl Dev.functionReset) halive

/-! ## The statement -/

/-- Settles O26: each source answers a full reset of the state as its pins or its answer left it, of which only the queue, the fuses
and the boot memory enter; the epoch's register is none that the fuses set. -/
theorem resetSources : Obligations.ResetSources := by
  intro s
  refine ⟨?_, ?_, fun pwrgd perstN hlow => ?_, ?_, fun h halive hacc hnew => ?_, fun v halive hopen hcode => ?_,
    fun halive => ⟨exec_hotReset halive, exec_functionLevelReset halive⟩⟩
  · exact exists_reset_of_next (exec_perstAssert s) (State.withDev_resetTo.1 (State.resetTo_hold _))
  · exact exists_reset_of_next (exec_pwrgdFall s) (State.withDev_resetTo.1 (State.resetTo_hold _).coolDown)
  · exact exists_reset_of_next (exec_powerOnReset_low hlow s) (State.withDev_resetTo.1 (State.resetTo_hold _).coolDown)
  · refine exists_reset_of_next (exec_i3cReset s) ?_
    split
    · exact s.resetTo_hold
    · exact s.resetTo_fullReset
  · exact exists_reset_of_next (exec_mgmtReset_fresh halive hacc hnew) (State.withDev_resetTo.1 (State.resetTo_fullReset _))
  · exact exists_reset_of_next (exec_glbReset_code halive hopen hcode) s.resetTo_fullReset

end Sys2Proof.Machine

/-! # The I3C target: its addresses, its reset register, and the boot memory through `NVM_CMD` (R382, R388, R418) -/

namespace Sys2Proof.Machine

/-! ## What an update of the pins leaves -/

@[simp] theorem State.withElec_withElec (s : State) (f g : Elec → Elec) : (s.withElec f).withElec g = s.withElec fun e => g (f e) := rfl

@[simp] theorem State.withElec_nvm (s : State) (f : Elec → Elec) : (s.withElec f).nvm = s.nvm := rfl

@[simp] theorem State.withElec_elec (s : State) (f : Elec → Elec) : (s.withElec f).dev.elec = f s.dev.elec := rfl

theorem State.withElec_nvm_update (s : State) (m : Mem) (f : Elec → Elec) :
    State.withElec { s with nvm := m } f = { s.withElec f with nvm := m } := rfl

/-! ## The static address and the reset register -/

theorem exec_setdasa_static {s : State} {st : BitVec 7} (h : st.toNat = s.dev.elec.staticAddr) (dy : BitVec 7) :
    exec (.setdasa st dy) s = .next (s.withElec fun e => { e with dynAddr := some dy.toNat }) :=
  congrArg _ (if_pos h)

theorem exec_setdasa_other {s : State} {st : BitVec 7} (h : st.toNat ≠ s.dev.elec.staticAddr) (dy : BitVec 7) :
    exec (.setdasa st dy) s = .next s :=
  congrArg _ (if_neg h)

theorem exec_i3cReset_free {s : State} (h : s.dev.elec.held = false) : exec (.i3cReset 0xA5) s = .next s.fullReset := by
  rw [exec_i3cReset, if_neg (by simp [h])]

theorem exec_i3cReset_other {v : BitVec 8} (h : v ≠ 0xA5) (s : State) : exec (.i3cReset v) s = .next s :=
  congrArg _ (if_neg fun hv : v.toNat = (0xA5 : BitVec 8).toNat => h (BitVec.eq_of_toNat_eq hv))

/-! ## `NVM_CMD`: served or refused -/

/-- The boot memory is open to the board: phase `UNCONFIGURED` or `FAILED` of a running device (R382). -/
def Dev.nvmOpen (d : Dev) : Prop := d.alive ∧ (d.phase = bpUnconf ∨ d.phase = bpFailed)

/-- A command that is served leaves its address and reads back 0 (R388). -/
theorem State.nvmCmd_served {s : State} {addr : Nat} (hopen : s.dev.nvmOpen) (hroom : addr + 256 ≤ nvmSize) (f : State → State) :
    s.nvmCmd addr f = (f (s.withElec fun e => { e with nvmAddr := addr })).withElec fun e => { e with nvmCmd := 0 } := by
  obtain ⟨halive, hphase⟩ := hopen
  exact if_pos ⟨halive, hphase, hroom⟩

/-- A command that is refused leaves its address, reads back 2 and does nothing else (R388). -/
theorem State.nvmCmd_refused {s : State} (hclosed : ¬ s.dev.nvmOpen) (addr : Nat) (f : State → State) :
    s.nvmCmd addr f = s.withElec fun e => { e with nvmAddr := addr, nvmCmd := 2 } :=
  if_neg fun ⟨halive, hphase, _⟩ => hclosed ⟨halive, hphase⟩

theorem exec_nvmRead_open {s : State} {addr : BitVec 32} (hopen : s.dev.nvmOpen) (hroom : addr.toNat + 256 ≤ nvmSize) :
    exec (.nvmRead addr) s =
      .next (s.withElec fun e => { e with nvmAddr := addr.toNat, nvmBuf := nvmBytes s.nvm addr.toNat 256, nvmCmd := 0 }) := by
  have hexec : exec (.nvmRead addr) s = execNvmRead addr s := rfl
  rw [hexec, execNvmRead, State.nvmCmd_served hopen hroom]
  simp only [State.withElec_withElec, State.withElec_nvm]

theorem exec_nvmProgram_open {s : State} {addr : BitVec 32} (hopen : s.dev.nvmOpen) (hroom : addr.toNat + 256 ≤ nvmSize) (buf : List Byte) :
    exec (.nvmProgram addr buf) s =
      .next { s.withElec fun e => { e with nvmBuf := padTo 256 buf, nvmAddr := addr.toNat, nvmCmd := 0 } with
        nvm := nvmProgram s.nvm addr.toNat (padTo 256 buf) } := by
  have hexec : exec (.nvmProgram addr buf) s = execNvmProgram addr buf s := rfl
  have hfilled : (s.withElec fun e => { e with nvmBuf := padTo 256 buf }).dev.nvmOpen := hopen
  rw [hexec, execNvmProgram, State.nvmCmd_served hfilled hroom]
  simp only [State.withElec_nvm_update, State.withElec_withElec, State.withElec_nvm, State.withElec_elec]

theorem exec_nvmErase_open {s : State} {addr : BitVec 32} (hopen : s.dev.nvmOpen) (hroom : addr.toNat + 256 ≤ nvmSize) :
    exec (.nvmErase addr) s =
      .next { s.withElec fun e => { e with nvmAddr := addr.toNat, nvmCmd := 0 } with nvm := nvmErase s.nvm addr.toNat } :=
  congrArg _ (State.nvmCmd_served hopen hroom _)

theorem exec_nvmErase_closed {s : State} (hclosed : ¬ s.dev.nvmOpen) (addr : BitVec 32) :
    exec (.nvmErase addr) s = .next (s.withElec fun e => { e with nvmAddr := addr.toNat, nvmCmd := 2 }) :=
  congrArg _ (State.nvmCmd_refused hclosed _ _)

/-! ## The statement -/

/-- Settles O54: each command of the port has its equation for either side of its guard; the boot memory's guard is that the device
runs and is in phase 6 or 7, and each frame is read off the state that the equation names. -/
theorem i3cTarget : Obligations.I3cTarget := by
  intro s
  refine ⟨fun _ => rfl, fun st dy => ⟨fun h => exec_setdasa_static h dy, fun h => exec_setdasa_other h dy⟩, exec_i3cReset_free,
    fun v hv => exec_i3cReset_other hv s, fun addr buf hroom => ⟨fun halive hphase => ?served, fun hunconf hfailed => ?refused⟩⟩
  case served =>
    have hopen : s.dev.nvmOpen := ⟨halive, hphase⟩
    exact ⟨exec_nvmRead_open hopen hroom, ⟨_, exec_nvmProgram_open hopen hroom buf, rfl, rfl, rfl, rfl, rfl⟩,
      ⟨_, exec_nvmErase_open hopen hroom, rfl, rfl, rfl, rfl, rfl⟩⟩
  case refused =>
    have hclosed : ¬ s.dev.nvmOpen := fun ⟨_, hphase⟩ => hphase.elim hunconf hfailed
    exact ⟨_, exec_nvmErase_closed hclosed addr, rfl, rfl⟩

end Sys2Proof.Machine

/-! # What one command reaches: the whole block (R366, R375, R384 to R388, R411, R419) -/

namespace Sys2Proof.Machine

/-! ## Effects on the device alone -/

/-- The states that differ from `s` in the device alone. -/
def State.Siblings (s : State) : Set State := {t | ∃ d, t = s.withDev d}

theorem State.sibling_refl (s : State) : s ∈ s.Siblings := ⟨s.dev, rfl⟩

theorem State.sibling_dev (s : State) (d : Dev) : { s with dev := d } ∈ s.Siblings := ⟨d, rfl⟩

theorem State.sibling_trans {s t u : State} (h : t ∈ s.Siblings) (h' : u ∈ t.Siblings) : u ∈ s.Siblings := by
  obtain ⟨d, rfl⟩ := h
  obtain ⟨d', rfl⟩ := h'
  exact ⟨d', rfl⟩

theorem State.sibling_ite {s t u : State} {c : Prop} [Decidable c] (h : t ∈ s.Siblings) (h' : u ∈ s.Siblings) :
    (if c then t else u) ∈ s.Siblings := by
  split <;> assumption

theorem State.sibling_fullReset (s : State) : s.fullReset ∈ s.Siblings := ⟨_, rfl⟩

theorem State.sibling_withElec (s : State) (f : Elec → Elec) : s.withElec f ∈ s.Siblings := ⟨_, rfl⟩

/-- A running device takes the effect of `f`; one that is held in reset, or whose clocks stand still, nothing (R411, R419). -/
def State.Acts (s : State) (o : Host.Outcome State Fault Refusal) : Prop :=
  ∃ t ∈ s.Siblings, o = .next t ∧ (s.dev.alive = false → t = s)

theorem State.acts_onDev (s : State) (f : Dev → Dev) : s.Acts (onDev f s) := by
  by_cases h : s.dev.alive = true
  · exact ⟨_, s.sibling_dev (f s.dev), onDev_alive h, fun h' => by simp [h] at h'⟩
  · exact ⟨s, s.sibling_refl, onDev_held (by simpa using h), fun _ => rfl⟩

theorem State.acts_onState (s : State) {g : State → State} (hg : g s ∈ s.Siblings) : s.Acts (onState g s) := by
  by_cases h : s.dev.alive = true
  · exact ⟨g s, hg, by simp [onState, h], fun h' => by simp [h] at h'⟩
  · exact ⟨s, s.sibling_refl, by simp [onState, h], fun _ => rfl⟩

theorem State.acts_onHall (s : State) (f : Dev → Dev) : s.Acts (onHall f s) := s.acts_onDev _

theorem State.acts_packetRow (s : State) (opc : Nat) (a : Arrival) (p : Packet) (f : Dev → Dev) : s.Acts (packetRow opc a p f s) := s.acts_onHall _

theorem State.acts_qpRow (s : State) (op : Nat) (qp : BitVec 16) : s.Acts (qpRow op qp s) := s.acts_onDev _

theorem State.acts_ringWrite (s : State) (op r v : Nat) : s.Acts (ringWrite op r v s) := s.acts_onHall _

/-! ## The commands that act on the whole state -/

theorem State.sibling_hostWrite (s : State) (fn off width v : Nat) : s.hostWrite fn off width v ∈ s.Siblings :=
  sibling_ite s.sibling_fullReset (s.sibling_dev _)

theorem State.sibling_proxySelf (s : State) (x width : Nat) (kind : AccessKind) (data : List Byte) : s.proxySelf x width kind data ∈ s.Siblings := by
  unfold State.proxySelf
  refine sibling_ite (s.sibling_dev _) (sibling_ite (sibling_ite (s.sibling_dev _) s.sibling_refl) ?_)
  cases kind
  case write => exact s.sibling_hostWrite ..
  all_goals exact s.sibling_dev _

theorem State.sibling_applyRole (s : State) (t : Nat) : s.applyRole t ∈ s.Siblings := by
  unfold State.applyRole
  refine sibling_ite (s.sibling_dev _) ?_
  dsimp only
  split <;> exact s.sibling_dev _

/-- An instruction leaves what its effect leaves, but for the device (R386, R387). -/
theorem State.mgmt_cases {s : State} (h : MgmtHdr) (code : Nat) (f : State → State × Nat) :
    s.mgmt h code f ∈ s.Siblings ∨ s.mgmt h code f ∈ (f s).1.Siblings := by
  unfold State.mgmt
  split
  · exact .inl s.sibling_refl
  · split
    · exact .inl (s.sibling_dev _)
    · exact .inr ((f s).1.sibling_dev _)

theorem State.sibling_mgmt {s : State} (h : MgmtHdr) (code : Nat) {f : State → State × Nat} (hf : (f s).1 ∈ s.Siblings) :
    s.mgmt h code f ∈ s.Siblings :=
  (mgmt_cases h code f).elim id (sibling_trans hf)

theorem State.acts_mgmtDev (s : State) (h : MgmtHdr) (code : Nat) (f : Dev → Dev × Nat) : s.Acts (mgmtDev h code f s) :=
  s.acts_onState (sibling_mgmt h code (s.sibling_dev _))

theorem State.sibling_coolDown (s : State) : s.coolDown ∈ s.Siblings := sibling_ite (s.sibling_dev _) s.sibling_refl

theorem State.sibling_letGo (s : State) : s.letGo ∈ s.Siblings := sibling_ite (s.sibling_withElec _) s.sibling_refl

theorem State.sibling_hold (s : State) : s.hold ∈ s.Siblings := sibling_trans s.sibling_fullReset (State.sibling_withElec _ _)

theorem State.acts_mgmtReset (s : State) (h : MgmtHdr) : s.Acts (execMgmtReset h s) := by
  refine s.acts_onState ?_
  have hdone : (s.mgmt h mcReset fun s => (s, stOK)) ∈ s.Siblings := sibling_mgmt h mcReset s.sibling_refl
  exact sibling_ite (sibling_trans hdone (State.sibling_fullReset _)) hdone

theorem State.acts_mgmtHeartbeat (s : State) (h : MgmtHdr) (node : BitVec 16) (t : BitVec 64) : s.Acts (execMgmtHeartbeat h node t s) := by
  refine s.acts_onState ?_
  have hlater : ({ s with dev := s.dev.advanceTo t.toNat } : State) ∈ s.Siblings := s.sibling_dev _
  exact sibling_ite (sibling_trans hlater (sibling_mgmt h mcHeartbeat (State.sibling_dev _ _))) (sibling_ite (s.sibling_dev _) hlater)

theorem State.acts_aliasAccess (s : State) (group : Bool) (off : BitVec 24) (width : BitVec 8) (isWrite : Bool) (v : Word) :
    s.Acts (execAliasAccess group off width isWrite v s) := by
  unfold execAliasAccess
  exact s.acts_onState (sibling_ite (s.sibling_hostWrite ..) (s.sibling_dev _))

theorem State.acts_proxyAccess (s : State) (off : BitVec 35) (width : BitVec 8) (kind : AccessKind) (data : List Byte) (answer : Option Word) :
    s.Acts (execProxyAccess off width kind data answer s) := by
  refine s.acts_onState ?_
  exact sibling_ite (sibling_ite s.sibling_refl (s.sibling_dev _)) (sibling_ite (s.sibling_proxySelf ..) (s.sibling_dev _))

/-! ## One case analysis over the commands -/

/-- The commands that reach the fuses or the boot memory (R366, R384, R387, R388). -/
def storeRow : Instr → Bool
  | .svnFuse _ => true
  | i => nvmRow i

/-- A command of the device itself: the device alone changes, and only while it runs. -/
theorem exec_of_device {i : Instr} (hstore : storeRow i = false) (hboard : boardRow i = false) (s : State) : s.Acts (exec i s) := by
  cases i <;> dsimp only [exec]
  case svnFuse | nvmWrite | journalProgram | nvmProgram | nvmErase => exact Bool.noConfusion hstore
  case powerOnReset | perstAssert | i3cReset | setdasa | nvmRead | tjAlarm | thermtrip | thermtripRelease | pwrgdFall | railUndervoltage
      | sysrefLoss | sysrefReturn | strapSample => exact Bool.noConfusion hboard
  case registerWrite | cfgLockSet | glbReset => exact s.acts_onState (s.sibling_hostWrite ..)
  case aliasAccess => exact s.acts_aliasAccess ..
  case proxyAccess => exact s.acts_proxyAccess ..
  case roleImageApply => exact s.acts_onState (s.sibling_applyRole _)
  case dramOvertemp => exact s.acts_onState (s.sibling_withElec _)
  case setEpoch | peerSet | part | mapNext | pairTwin | detach | repair | takeover | admitSpare | mclass | taiLoad | place =>
    exact s.acts_mgmtDev ..
  case mgmtReset => exact s.acts_mgmtReset _
  case mgmtHeartbeat => exact s.acts_mgmtHeartbeat ..
  case write | readReq | readResp | atomic | atomicResp | reduce | mcastWrite | inval | ack | nak => exact s.acts_packetRow ..
  case fabQpWrite | fabQpRead | fabQpEnable | fabQpDrain | fabQpReset => exact s.acts_qpRow ..
  case enable | stop | resume | flush | reset => exact s.acts_ringWrite ..
  case attCoreCtlWrite | trfQpClass | trfShapeWrite | trfMeterWrite | packetHandoff | packetSpray | ackTimer | rcUpdate | portEnWrite | portTuneDone |
      ringLockLost | laserFeedLevel | linkctl | linkctlSend | linkctlTimeout | trainingTimeout | berCheck | relearnDone | uncorrectableCodeword |
      timCfgWrite | ppsEdge | ppsHoldover | zeroingDone | idxPtKeyLoad | sweepStart | rcCounterRead | proxyReadTimeout | memberHostRequest | getVersion |
      getCapabilities | negotiateAlgorithms | getDigests | getCertificate | challenge | getMeasurements | keyExchange | finish | endSession | heartbeat |
      keyUpdate | spdmSessionTimeout | bootRomDone | firmwareVerify | dramInitDone => exact s.acts_onDev _
  all_goals exact s.acts_onHall _

theorem State.sibling_nvmCmd (s : State) (addr : Nat) {f : State → State} (hf : ∀ s : State, f s ∈ s.Siblings) :
    s.nvmCmd addr f ∈ s.Siblings :=
  sibling_ite (sibling_trans (sibling_trans (s.sibling_withElec _) (hf _)) (State.sibling_withElec _ _))
    (sibling_trans (s.sibling_withElec _) (State.sibling_withElec _ _))

/-- A command of the board that does not write the boot memory: the device alone changes, whether it runs or not. -/
theorem exec_of_board {i : Instr} (hstore : storeRow i = false) (hboard : boardRow i = true) (s : State) :
    ∃ t ∈ s.Siblings, exec i s = .next t := by
  cases i
  case nvmProgram | nvmErase => exact Bool.noConfusion hstore
  case powerOnReset =>
    refine ⟨_, ?_, rfl⟩
    exact State.sibling_ite (State.sibling_trans (s.sibling_withElec _) (State.sibling_letGo _))
      (State.sibling_trans (s.sibling_withElec _) (State.sibling_trans (State.sibling_hold _) (State.sibling_coolDown _)))
  case perstAssert => exact ⟨_, State.sibling_trans (s.sibling_withElec _) (State.sibling_hold _), rfl⟩
  case pwrgdFall =>
    exact ⟨_, State.sibling_trans (s.sibling_withElec _) (State.sibling_trans (State.sibling_hold _) (State.sibling_coolDown _)), rfl⟩
  case railUndervoltage => exact ⟨_, State.sibling_ite s.sibling_hold s.sibling_refl, rfl⟩
  case sysrefLoss =>
    exact ⟨_, State.sibling_ite (State.sibling_trans (s.sibling_withElec _) (State.sibling_hold _)) s.sibling_refl, rfl⟩
  case sysrefReturn =>
    exact ⟨_, State.sibling_ite (State.sibling_trans (s.sibling_withElec _) (State.sibling_letGo _)) s.sibling_refl, rfl⟩
  case tjAlarm =>
    refine ⟨_, ?_, rfl⟩
    exact State.sibling_ite (s.sibling_dev _) (s.sibling_withElec _)
  case thermtrip =>
    refine ⟨_, ?_, rfl⟩
    exact State.sibling_ite (s.sibling_withElec _) (s.sibling_dev _)
  case thermtripRelease => exact ⟨_, State.sibling_trans (s.sibling_withElec _) (State.sibling_coolDown _), rfl⟩
  case strapSample => exact ⟨_, s.sibling_withElec _, rfl⟩
  case setdasa => exact ⟨_, State.sibling_ite (s.sibling_withElec _) s.sibling_refl, rfl⟩
  case i3cReset => exact ⟨_, State.sibling_ite (State.sibling_ite s.sibling_hold s.sibling_fullReset) s.sibling_refl, rfl⟩
  case nvmRead => exact ⟨_, s.sibling_nvmCmd _ fun s => s.sibling_withElec _, rfl⟩
  all_goals exact Bool.noConfusion hboard

/-- A command that reaches neither the fuses nor the boot memory changes the device alone. -/
theorem exec_sibling {i : Instr} (hstore : storeRow i = false) (s : State) : ∃ t ∈ s.Siblings, exec i s = .next t := by
  by_cases hboard : boardRow i = true
  · exact exec_of_board hstore hboard s
  · obtain ⟨t, ht, hexec, -⟩ := exec_of_device hstore (by simpa using hboard) s
    exact ⟨t, ht, hexec⟩

/-! ## The security version (R366) -/

/-- The version that fuses blown up to the running image's come to: 64 at most by blowing (log entry 57). -/
def State.burnt (s : State) : Nat := max s.fuse.svn (min 64 (s.dev.get Fld.SEC_BOOT_SVN_IMG))

/-- `t` is `s` but for its device and, it may be, the security version raised to at most 64. -/
def State.Burns (s t : State) : Prop :=
  t.pending = s.pending ∧ t.nvm = s.nvm
    ∧ t.fuse = { s.fuse with svn := t.fuse.svn } ∧ s.fuse.svn ≤ t.fuse.svn ∧ t.fuse.svn ≤ max 64 s.fuse.svn

theorem State.burns_of_sibling {s t : State} (h : t ∈ s.Siblings) : s.Burns t := by
  obtain ⟨d, rfl⟩ := h
  exact ⟨rfl, rfl, rfl, le_rfl, le_max_right _ _⟩

theorem State.burns_burnt (s : State) (d : Dev) : s.Burns { s with fuse := { s.fuse with svn := s.burnt }, dev := d } := by
  refine ⟨rfl, rfl, rfl, le_max_left _ _, ?_⟩
  simp only [State.burnt]
  omega

theorem State.burns_trans_sibling {s t u : State} (h : s.Burns t) (h' : u ∈ t.Siblings) : s.Burns u := by
  obtain ⟨d, rfl⟩ := h'
  exact h

theorem exec_svnFuse_burns (h : MgmtHdr) (s : State) : ∃ t, exec (.svnFuse h) s = .next t ∧ s.Burns t ∧ (s.dev.alive = false → t = s) := by
  refine ⟨_, rfl, ?_, fun hheld => if_neg (by simp [hheld])⟩
  split
  · rcases State.mgmt_cases h mcSvnFuse _ with hsame | hburnt
    · exact State.burns_of_sibling hsame
    · exact State.burns_trans_sibling (s.burns_burnt _) hburnt
  · exact State.burns_of_sibling s.sibling_refl

/-! ## The boot memory (R375, R384, R387, R388) -/

theorem nvmOk_nvmPut (bs : List Byte) : ∀ (m : Mem) (a : Nat), Mem.wf 0xFF m = true → Mem.wf 0xFF (nvmPut m a bs) = true := by
  induction bs with
  | nil => exact fun _ _ h => h
  | cons b bs ih => exact fun m a h => ih _ _ (canonical_sput a b h)

theorem nvmOk_nvmErase (a : Nat) {m : Mem} (h : Mem.wf 0xFF m = true) : Mem.wf 0xFF (nvmErase m a) = true := canonical_filter _ h

theorem nvmOk_foldl_nvmPut {α : Type} (addr : α → Nat) (bytes : α → List Byte) (rs : List α) :
    ∀ m : Mem, Mem.wf 0xFF m = true → Mem.wf 0xFF (rs.foldl (fun m r => nvmPut m (addr r) (bytes r)) m) = true := by
  induction rs with
  | nil => exact fun _ h => h
  | cons r rs ih => exact fun m h => ih _ (nvmOk_nvmPut _ m _ h)

/-- A sector taken into use is erased, counted and filled with the records that still live (R385). -/
theorem nvmOk_rotate {x : NvmDir} {m m' : Mem} {sector : Nat} (h : Mem.wf 0xFF m = true) (hrot : x.rotate m sector = some m') :
    Mem.wf 0xFF m' = true := by
  simp only [NvmDir.rotate] at hrot
  split at hrot
  · cases hrot
  · rw [← Option.some.inj hrot]
    exact nvmOk_foldl_nvmPut _ _ _ _ (nvmOk_nvmPut _ _ _ (nvmOk_nvmErase _ h))

/-- One record programmed, and by `go` those after it: at a free place, or in the sector that the journal rotates to (R385). -/
def NvmDir.programOne (x : NvmDir) (r : JRec) (go : Mem × Nat × Nat → Mem × Nat × Nat × Bool) (at' : Mem × Nat × Nat) : Mem × Nat × Nat × Bool :=
  let (m, sec, n) := at'
  match x.freeRec m sec with
  | some k => go (nvmPut m (x.recAddr sec k) (jrnlBytes r n), sec, n + 1)
  | none =>
    let next := (sec + 1) % atLeast1 x.sectors
    match x.rotate m next with
    | none => (m, sec, n, true)
    | some m => match x.freeRec m next with
      | some k => go (nvmPut m (x.recAddr next k) (jrnlBytes r n), next, n + 1)
      | none => (m, next, n, false)

-- The elaborator walks the 2,046 places of a sector that `freeRec` looks through.
set_option maxRecDepth 100000 in
theorem NvmDir.program_cons (x : NvmDir) (r : JRec) (rs : List JRec) : x.program (r :: rs) = x.programOne r (x.program rs) := by rfl

theorem nvmOk_programOne {x : NvmDir} {r : JRec} {go : Mem × Nat × Nat → Mem × Nat × Nat × Bool}
    (hgo : ∀ m sec n, Mem.wf 0xFF m = true → Mem.wf 0xFF (go (m, sec, n)).1 = true) (m : Mem) (sec n : Nat) (h : Mem.wf 0xFF m = true) :
    Mem.wf 0xFF (x.programOne r go (m, sec, n)).1 = true := by
  unfold NvmDir.programOne
  dsimp only
  split
  · exact hgo _ _ _ (nvmOk_nvmPut _ _ _ h)
  · split
    · exact h
    · rename_i hrot
      have hrotated := nvmOk_rotate h hrot
      split
      · exact hgo _ _ _ (nvmOk_nvmPut _ _ _ hrotated)
      · exact hrotated

/-- Records programmed one after the other keep the form, whether a sector has room, rotates, or is worn (R385). -/
theorem nvmOk_program (x : NvmDir) (rs : List JRec) :
    ∀ (m : Mem) (sec n : Nat), Mem.wf 0xFF m = true → Mem.wf 0xFF (x.program rs (m, sec, n)).1 = true := by
  induction rs with
  | nil => exact fun _ _ _ h => h
  | cons r rs ih => exact fun m sec n h => by simpa only [NvmDir.program_cons] using nvmOk_programOne ih m sec n h

/-- `t` is `s` but for its device and, it may be, a boot memory that has kept its form. -/
def State.Writes (s t : State) : Prop := t.pending = s.pending ∧ t.fuse = s.fuse ∧ (s.nvmOk = true → t.nvmOk = true)

theorem State.writes_of_sibling {s t : State} (h : t ∈ s.Siblings) : s.Writes t := by
  obtain ⟨d, rfl⟩ := h
  exact ⟨rfl, rfl, id⟩

theorem State.writes_nvm (s : State) (d : Dev) {m : Mem} (hm : Mem.wf 0xFF s.nvm = true → Mem.wf 0xFF m = true) :
    s.Writes { s with nvm := m, dev := d } := ⟨rfl, rfl, hm⟩

theorem State.writes_trans {s t u : State} (h : s.Writes t) (h' : t.Writes u) : s.Writes u := by
  obtain ⟨hpend, hfuse, hok⟩ := h
  obtain ⟨hpend', hfuse', hok'⟩ := h'
  exact ⟨hpend'.trans hpend, hfuse'.trans hfuse, hok' ∘ hok⟩

theorem State.writes_ite {s t u : State} {c : Prop} [Decidable c] (h : s.Writes t) (h' : s.Writes u) : s.Writes (if c then t else u) := by
  split <;> assumption

theorem State.writes_nvmCmd (s : State) (addr : Nat) {f : State → State} (hf : ∀ s : State, s.Writes (f s)) : s.Writes (s.nvmCmd addr f) :=
  writes_ite (writes_trans (writes_trans (writes_of_sibling (s.sibling_withElec _)) (hf _)) (writes_of_sibling (State.sibling_withElec _ _)))
    (writes_of_sibling (sibling_trans (s.sibling_withElec _) (State.sibling_withElec _ _)))

theorem State.writes_journalProgram (s : State) (t : Nat) : s.Writes (s.journalProgram t) := by
  unfold State.journalProgram
  dsimp only
  split
  · exact writes_of_sibling (s.sibling_dev _)
  · rename_i x _
    exact writes_ite (writes_of_sibling (s.sibling_dev _)) (s.writes_nvm _ (nvmOk_program x _ _ _ _))

theorem State.writes_nvmWrite (s : State) (h : MgmtHdr) (addr : BitVec 32) (data : List Byte) :
    s.Writes (s.mgmt h mcNvmWrite fun s =>
      if nvmSize < addr.toNat + data.length then (s, stAborted) else ({ s with nvm := nvmPut s.nvm addr.toNat data }, stOK)) := by
  rcases mgmt_cases h mcNvmWrite _ with hsame | hwritten
  · exact writes_of_sibling hsame
  · refine writes_trans ?_ (writes_of_sibling hwritten)
    split
    · exact writes_of_sibling s.sibling_refl
    · exact s.writes_nvm s.dev (nvmOk_nvmPut _ _ _)

/-- The four commands that write the boot memory: it keeps its form, and of the device's own two nothing acts on a device that does
not run. -/
theorem exec_of_nvm {i : Instr} (hnvm : nvmRow i = true) (s : State) :
    ∃ t, exec i s = .next t ∧ s.Writes t ∧ (s.dev.alive = false → boardRow i = false → t = s) := by
  cases i
  case nvmWrite h addr data =>
    exact ⟨_, rfl, State.writes_ite (s.writes_nvmWrite h addr data) (State.writes_of_sibling s.sibling_refl),
      fun hheld _ => if_neg (by simp [hheld])⟩
  case journalProgram t =>
    exact ⟨_, rfl, State.writes_ite (s.writes_journalProgram _) (State.writes_of_sibling s.sibling_refl),
      fun hheld _ => if_neg (by simp [hheld])⟩
  case nvmProgram addr buf =>
    refine ⟨_, rfl, ?_, fun _ hboard => Bool.noConfusion hboard⟩
    exact State.writes_trans (State.writes_of_sibling (s.sibling_withElec _))
      (State.writes_nvmCmd _ _ fun s => s.writes_nvm s.dev (nvmOk_nvmPut _ _ _))
  case nvmErase addr =>
    refine ⟨_, rfl, ?_, fun _ hboard => Bool.noConfusion hboard⟩
    exact s.writes_nvmCmd _ fun s => s.writes_nvm s.dev (nvmOk_nvmErase _)
  all_goals exact Bool.noConfusion hnvm

/-! ## Every command -/

/-- The three sorts of commands: the one that burns fuses, the four that write the boot memory, and those that reach the device alone. -/
theorem storeRow_cases (i : Instr) : (∃ h, i = .svnFuse h) ∨ nvmRow i = true ∨ storeRow i = false := by
  by_cases hfuse : ∃ h, i = .svnFuse h
  · exact .inl hfuse
  · have hrow : storeRow i = nvmRow i := by
      unfold storeRow
      split
      · exact absurd ⟨_, rfl⟩ hfuse
      · rfl
    rw [hrow]
    cases nvmRow i <;> simp

/-- Settles O57, by the three sorts of commands. -/
theorem execTotal : Obligations.ExecTotal := by
  intro i s
  rcases storeRow_cases i with ⟨h, rfl⟩ | hnvm | hstore
  · obtain ⟨t, hexec, ⟨hpend, -⟩, -⟩ := exec_svnFuse_burns h s
    exact ⟨t, hexec, hpend⟩
  · obtain ⟨t, hexec, ⟨hpend, -⟩, -⟩ := exec_of_nvm hnvm s
    exact ⟨t, hexec, hpend⟩
  · obtain ⟨t, ⟨d, rfl⟩, hexec⟩ := exec_sibling hstore s
    exact ⟨_, hexec, rfl⟩

/-- Settles O58: the device's own commands act on a running device only. -/
theorem heldDoesNothing : Obligations.HeldDoesNothing := by
  intro i s hheld hboard
  rcases storeRow_cases i with ⟨h, rfl⟩ | hnvm | hstore
  · obtain ⟨t, hexec, -, hsame⟩ := exec_svnFuse_burns h s
    rw [hexec, hsame hheld]
  · obtain ⟨t, hexec, -, hsame⟩ := exec_of_nvm hnvm s
    rw [hexec, hsame hheld hboard]
  · obtain ⟨t, -, hexec, hsame⟩ := exec_of_device hstore hboard s
    rw [hexec, hsame hheld]

/-! ## Every step -/

/-- A step is one of these: an idle cycle on an empty queue, or the command in front of it. -/
theorem step_cases {s t : State} (h : step s = .next t) :
    (s.pending = [] ∧ t ∈ s.Siblings) ∨ ∃ c rest, s.pending = c :: rest ∧ exec c { s with pending := rest } = .next t := by
  unfold step at h
  split at h
  case h_1 hempty =>
    obtain ⟨u, hu, hidle, -⟩ := s.acts_onDev fun d => d.advance 2
    exact .inl ⟨hempty, by rwa [← Host.Outcome.next.inj (hidle.symm.trans h)]⟩
  case h_2 c rest hfront => exact .inr ⟨c, rest, hfront, h⟩

/-- Settles O59: the command in front is `SVN_FUSE`, which burns at most up to 64, or it leaves every fuse. -/
theorem fusesOnlyBurn : Obligations.FusesOnlyBurn := by
  intro s t hstep
  rcases step_cases hstep with ⟨-, hidle⟩ | ⟨c, rest, hfront, hexec⟩
  · obtain ⟨-, -, hfuse, hle, hmax⟩ := State.burns_of_sibling hidle
    obtain ⟨d, rfl⟩ := hidle
    exact ⟨hfuse, hle, hmax, fun hne => absurd rfl hne⟩
  · rcases storeRow_cases c with ⟨h, rfl⟩ | hnvm | hstore
    · obtain ⟨u, hu, ⟨-, -, hfuse, hle, hmax⟩, -⟩ := exec_svnFuse_burns h { s with pending := rest }
      cases hu.symm.trans hexec
      exact ⟨hfuse, hle, hmax, fun _ => ⟨h, rest, hfront⟩⟩
    · obtain ⟨u, hu, ⟨-, hfuse, -⟩, -⟩ := exec_of_nvm hnvm { s with pending := rest }
      cases hu.symm.trans hexec
      exact ⟨by rw [hfuse], by rw [hfuse], by rw [hfuse]; exact le_max_right _ _, fun hne => absurd hfuse hne⟩
    · obtain ⟨u, ⟨d, rfl⟩, hu⟩ := exec_sibling hstore { s with pending := rest }
      cases hu.symm.trans hexec
      exact ⟨rfl, le_rfl, le_max_right _ _, fun hne => absurd rfl hne⟩

/-- Settles O60: the command in front is one of the four, which keep the form, or it leaves the boot memory. -/
theorem bootMemoryKept : Obligations.BootMemoryKept := by
  intro s t hok hstep
  rcases step_cases hstep with ⟨-, d, rfl⟩ | ⟨c, rest, hfront, hexec⟩
  · exact ⟨hok, fun hne => absurd rfl hne⟩
  · rcases storeRow_cases c with ⟨h, rfl⟩ | hnvm | hstore
    · obtain ⟨u, hu, ⟨-, hsame, -⟩, -⟩ := exec_svnFuse_burns h { s with pending := rest }
      cases hu.symm.trans hexec
      exact ⟨by rwa [State.nvmOk, hsame], fun hne => absurd hsame hne⟩
    · obtain ⟨u, hu, ⟨-, -, hkept⟩, -⟩ := exec_of_nvm hnvm { s with pending := rest }
      cases hu.symm.trans hexec
      exact ⟨hkept hok, fun _ => ⟨c, rest, hfront, hnvm⟩⟩
    · obtain ⟨u, ⟨d, rfl⟩, hu⟩ := exec_sibling hstore { s with pending := rest }
      cases hu.symm.trans hexec
      exact ⟨hok, fun hne => absurd rfl hne⟩

/-! ## An idle cycle (log entry 2) -/

/-- The units that time alone moves: the clock, cycle and wait counters, due points of prefetches, watches and watchdogs. -/
def Dev.SameButTime (d d' : Dev) : Prop :=
  ∃ clk regs pfs watches cmds, d' = { d with clk := clk, regs := regs, pfs := pfs, watches := watches, cmds := cmds }

theorem Dev.SameButTime.regs {d d' : Dev} (h : d.SameButTime d') (regs : List (Nat × Word)) : d.SameButTime { d' with regs := regs } := by
  obtain ⟨clk, _, pfs, watches, cmds, rfl⟩ := h
  exact ⟨clk, regs, pfs, watches, cmds, rfl⟩

theorem Dev.SameButTime.bump {d d' : Dev} (h : d.SameButTime d') (f : Fld) (n : Nat) (i : Nat := 0) : d.SameButTime (d'.bump f n i) := h.regs _

theorem Dev.SameButTime.coreCycles {d d' : Dev} (h : d.SameButTime d') (n core : Nat) : d.SameButTime (d'.coreCycles n core) := by
  unfold Dev.coreCycles
  split
  · exact h.regs _
  · split
    · exact h.regs _
    · exact h

theorem Dev.SameButTime.foldl_coreCycles {d : Dev} (n : Nat) (cores : List Nat) :
    ∀ {d' : Dev}, d.SameButTime d' → d.SameButTime (cores.foldl (Dev.coreCycles · n) d') := by
  induction cores with
  | nil => exact id
  | cons core cores ih => exact fun h => ih (h.coreCycles n core)

theorem Dev.SameButTime.ite {d a b : Dev} {c : Prop} [Decidable c] (ha : d.SameButTime a) (hb : d.SameButTime b) :
    d.SameButTime (if c then a else b) := by
  split <;> assumption

theorem Dev.sameButTime_advance (d : Dev) (dt : Nat) : d.SameButTime (d.advance dt) := by
  unfold Dev.advance
  extract_lets d₁ k rate acc n d₂ d₃
  have h₃ : d.SameButTime d₃ := SameButTime.ite ⟨_, _, _, _, _, rfl⟩ ⟨_, _, _, _, _, rfl⟩
  have hcores := h₃.foldl_coreCycles n (d₃.cmds.filterMap (·.core))
  have hwaits {c : Prop} [Decidable c] (m : Nat) := SameButTime.ite (c := c) hcores (hcores.bump Fld.HAL_QLC_LC_WAIT m)
  exact SameButTime.ite h₃ (SameButTime.ite (hwaits _) ((hwaits _).bump _ _))

theorem step_idle {s : State} (h : s.pending = []) : step s = idle s := by rw [step, h]

/-- Settles O55: the front of the queue decides, and an idle cycle is time alone. -/
theorem stepRunsFront : Obligations.StepRunsFront := by
  intro s
  refine ⟨fun c rest hfront => by rw [step, hfront], fun hempty => ?_⟩
  rw [step_idle hempty]
  refine ⟨onDev_alive, onDev_held, ?_⟩
  by_cases halive : s.dev.alive = true
  · obtain ⟨_, _, _, _, _, hframe⟩ := s.dev.sameButTime_advance 2
    exact ⟨_, onDev_alive halive, hempty, rfl, rfl, by rw [hframe], by rw [hframe]⟩
  · exact ⟨s, onDev_held (by simpa using halive), hempty, rfl, rfl, rfl, rfl⟩

/-! ## Reset (R375, R376) -/

theorem Dev.get_reset (f : Fuses) {g : Fld} (i j : Nat) (hbase : 16 < g.base) (hw : g.wreset < 2 ^ 64) :
    (Dev.reset f).get g i j = bits g.wreset g.hi g.lo := by
  have hoff : g.off i j ∉ [0, 8, 16] := by simp [Fld.off]; omega
  rw [Dev.get, Dev.word_reset f hoff hw]

/-- Settles O56: the register file holds the fused words alone, and every other part its reset value. -/
theorem resetValues : Obligations.ResetValues := by
  have hget {g : Fld} (hg : 16 < g.base ∧ g.wreset < 2 ^ 64 ∧ bits g.wreset g.hi g.lo = 0) (i : Nat) :
      State.reset.dev.get g i = 0 := (Dev.get_reset _ i 0 hg.1 hg.2.1).trans hg.2.2
  refine ⟨fun f off w => Dev.word_reset f, hget (by decide) 0, rfl, rfl, rfl, Dev.epoch_reset _, hget (by decide) 0, ?_,
    fun r => ⟨hget (by decide) r, hget (by decide) r, hget (by decide) r⟩, fun p => hget (by decide) p, fun a => ⟨rfl, rfl, rfl, rfl⟩,
    rfl, rfl, rfl, rfl, rfl, rfl, rfl, rfl⟩
  rw [Dev.flag, hget (by decide)]
  rfl

end Sys2Proof.Machine


/-! # Rings: pushes, control operations and the queue commands (chapter 9) -/

namespace Sys2Proof.Machine

/-! ## Effects of a running device -/

/-- What a command of a running device leaves, once the monitor has looked at its watches (R225). -/
theorem onHall_settled {f : Dev → Dev} {s : State} {d : Dev} (halive : s.dev.alive = true) (hf : f s.dev = d) :
    onHall f s = .next (s.settled d) := by
  rw [onHall_alive halive, hf, State.settled]

/-- Where no wait is armed afterwards, the monitor leaves the device as the command left it. -/
theorem onHall_calm {f : Dev → Dev} {s : State} {d : Dev} (halive : s.dev.alive = true) (hf : f s.dev = d) (hd : d.watches = []) :
    onHall f s = .next (s.withDev d) := by
  rw [onHall_alive halive, hf, Dev.settle_calm hd, State.withDev]

theorem onDev_withDev {f : Dev → Dev} {s : State} {d : Dev} (halive : s.dev.alive = true) (hf : f s.dev = d) :
    onDev f s = .next (s.withDev d) := by
  rw [onDev_alive halive, hf, State.withDev]

/-! ## Registers that one put leaves -/

/-- Two fields of registers in one block at one index, apart from one another: in different registers, or at different bits of one. -/
abbrev Fld.Beside (f g : Fld) : Prop :=
  f.s1 = g.s1 ∧ f.s2 = g.s2 ∧ f.lo ≤ f.hi ∧ f.hi < 64 ∧ (f.base = g.base → g.wreset = f.wreset ∧ (g.hi < f.lo ∨ f.hi < g.lo))

theorem Dev.get_put_beside (d : Dev) {f g : Fld} (h : f.Beside g) (v i j : Nat) : (d.put f v i j).get g i j = d.get g i j := by
  obtain ⟨hs1, hs2, hlo, hhi, hsame⟩ := h
  by_cases hbase : f.base = g.base
  · obtain ⟨hw, hbits⟩ := hsame hbase
    exact d.get_put_field f g v i j i j (by simp only [Fld.off, hs1, hs2, hbase]) hw hbits hlo hhi
  · refine d.get_put_other f g v i j i j ?_
    simp only [Fld.off, hs1, hs2]
    omega

theorem Dev.flag_put_beside (d : Dev) {f g : Fld} (h : f.Beside g) (v i j : Nat) : (d.put f v i j).flag g i j = d.flag g i j := by
  rw [Dev.flag, d.get_put_beside h, Dev.flag]

/-- Every register of `d'` is that of `d` but those at `offs`, and so after one more put among them. -/
theorem Dev.sameRegsBut_put {offs : List Nat} {d d' : Dev} (h : Dev.sameRegsBut offs d d') (f : Fld) (v i j : Nat) (hf : f.off i j ∈ offs) :
    Dev.sameRegsBut offs d (d'.put f v i j) :=
  fun off w hoff => (d'.word_put_other f v i j (fun heq => hoff (by rwa [heq])) w).trans (h off w hoff)

theorem Dev.sameRegsBut_refl (offs : List Nat) (d : Dev) : Dev.sameRegsBut offs d d := fun _ _ _ => rfl

/-! ## A push (R214 to R217) -/

theorem Dev.dropList_of_not_aborting {d : Dev} {r : Nat} (h : r ∉ d.aborting) (n : Nat) : d.dropList r n = d := by
  cases n with
  | zero => rfl
  | succ n => simp [Dev.dropList, h]

theorem entriesOf_one {data : List Byte} (h : data.length = 64) : entriesOf data = [data] := by
  simp [entriesOf, h, chunks, List.take_of_length_le]

theorem Dev.pushOne_quiet {d : Dev} {r : Nat} (e : Entry) (hirq : d.flag Fld.QUE_SETUP_IRQ_FULL r = false) :
    d.pushOne r e = (d.dramPut (d.slotAddr r (d.ringPI r)) e).put Fld.QUE_IDX_PI (d.ringPI r + 1) r := by
  have hmasked : ((d.dramPut (d.slotAddr r (d.ringPI r)) e).put Fld.QUE_IDX_PI (d.ringPI r + 1) r).flag Fld.QUE_SETUP_IRQ_FULL r = false := by
    rw [Dev.flag_put_beside _ (by decide)]
    exact hirq
  simp only [Dev.pushOne]
  exact if_neg fun ⟨_, hset⟩ => Bool.noConfusion (hmasked.symm.trans hset)

/-- One entry pushed into a running ring with room. -/
theorem Dev.push_one {d : Dev} {fn r : Nat} {data : List Byte} (hopen : d.open' = true) (hfn : d.assigned fn r = true)
    (hrun : d.ringState r = rsRun) (hending : r ∉ d.aborting) (hlen : data.length = 64) (hroom : d.depth r < d.ringSize r)
    (hirq : d.flag Fld.QUE_SETUP_IRQ_FULL r = false) :
    d.push fn r 0 data = (d.dramPut (d.slotAddr r (d.ringPI r)) data).put Fld.QUE_IDX_PI (d.ringPI r + 1) r := by
  have hfits : ¬ d.ringSize r < d.depth r + 1 := by omega
  have hlist : r ∉ (d.pushOne r data).aborting := by
    rwa [d.pushOne_quiet data hirq, Dev.put_aborting, Dev.dramPut_aborting]
  have hall : d.pushAll r false [data] = d.pushOne r data := by
    rw [Dev.pushAll, List.foldl_cons, List.foldl_nil]
    exact fun _ _ h => Bool.noConfusion h
  have hcount : data.length / 64 = 1 := by omega
  have hshape : ¬ (0 ≠ 0 ∨ data.length % 64 ≠ 0 ∨ 1 = 0 ∨ 4 < 1 ∨ !(d.assigned fn r) ∨ !d.open') := by simp [hlen, hopen, hfn]
  have hon : ¬ d.ringState r = rsOff := by rw [hrun]; decide
  simp only [Dev.push, hcount]
  rw [if_neg (by decide), if_neg hshape, if_neg hon, if_neg hfits, entriesOf_one hlen, hall, Dev.dropList_of_not_aborting hlist, ite_self,
    d.pushOne_quiet data hirq]

theorem exec_push (fn : BitVec 6) (ring : BitVec 16) (off : BitVec 12) (data : List Byte) (s : State) :
    exec (.push fn ring off data) s = onHall (fun d => d.push fn.toNat ring.toNat off.toNat data) s := rfl

/-- Settles O1: the push is one write of the slot and one of `PI`. -/
theorem pushOneEntry : Obligations.PushOneEntry := by
  intro s fn ring data d r hcalm hopen hfn hrun hending hlen hroom hirq
  obtain ⟨halive, hwatches⟩ := hcalm
  have hexec : exec (.push fn ring 0 data) s
      = .next (s.withDev ((d.dramPut (d.slotAddr r (d.ringPI r)) data).put Fld.QUE_IDX_PI (d.ringPI r + 1) r)) := by
    rw [exec_push, onHall_alive halive, show (0 : BitVec 12).toNat = 0 from rfl]
    rw [d.push_one hopen hfn hrun hending hlen hroom hirq, Dev.settle_calm (by rw [Dev.put_watches, Dev.dramPut_watches, hwatches])]
    rfl
  refine ⟨_, hexec, ?_, ?_, ?_, ?_, ?_, ?_⟩
  · exact Dev.get_put_same _ _ _ _ _ (by decide) (by decide)
  · exact Dev.get_put_beside _ (by decide) ..
  · have hslot : ((d.dramPut (d.slotAddr r (d.ringPI r)) data).put Fld.QUE_IDX_PI (d.ringPI r + 1) r).slotAddr r (d.ringPI r)
        = d.slotAddr r (d.ringPI r) := by
      simp only [Dev.slotAddr, Dev.ringSize]
      rw [Dev.get_put_beside _ (by decide), Dev.get_put_beside _ (by decide)]
      rfl
    have hread := Mem.readBytes_writeBytes d.dram (d.slotAddr r (d.ringPI r)) data
    rw [hlen] at hread
    exact (congrArg (fun a => (d.dram.writeBytes (d.slotAddr r (d.ringPI r)) data).readBytes a 64) hslot).trans hread
  · exact fun x hx => Mem.read_writeBytes_other data _ _ _ (by rwa [hlen])
  · exact Dev.sameRegsBut_put (Dev.sameRegsBut_refl _ _) _ _ _ _ (by simp)
  · obtain ⟨regs, dram, hframe⟩ : ∃ regs dram,
        (d.dramPut (d.slotAddr r (d.ringPI r)) data).put Fld.QUE_IDX_PI (d.ringPI r + 1) r = { d with regs := regs, dram := dram } := ⟨_, _, rfl⟩
    rw [hframe]
    rfl

/-! ### Refused pushes -/

theorem Dev.ringErr_quiet {d : Dev} {f : Fld} {r : Nat} (hf : f.Beside Fld.QUE_SETUP_IRQ_ERR) (hirq : d.flag Fld.QUE_SETUP_IRQ_ERR r = false) :
    d.ringErr f r = d.put f 1 r := by
  have hmasked : (d.put f 1 r).flag Fld.QUE_SETUP_IRQ_ERR r = false := by rwa [d.flag_put_beside hf]
  simp only [Dev.ringErr, hmasked]
  exact if_neg Bool.false_ne_true

/-- A refused push of `n` counted in `DROPPED`, with the sticky bit `f`. -/
def Dev.refused (d : Dev) (f : Fld) (n r : Nat) : Dev := (d.bump Fld.QUE_STAT_DROPPED n r).put f 1 r

theorem Dev.bump_ringErr_quiet {d : Dev} {f : Fld} {r : Nat} (n : Nat) (hf : f.Beside Fld.QUE_SETUP_IRQ_ERR)
    (hirq : d.flag Fld.QUE_SETUP_IRQ_ERR r = false) : (d.bump Fld.QUE_STAT_DROPPED n r).ringErr f r = d.refused f n r :=
  ringErr_quiet hf ((d.flag_put_beside (by decide) _ r 0).trans hirq)

theorem Dev.refused_frame (d : Dev) (f : Fld) (n r : Nat) : ∃ regs, d.refused f n r = { d with regs := regs } := ⟨_, rfl⟩

theorem Dev.refused_sameRegs (d : Dev) {f : Fld} (n r : Nat) (hf : f.off r 0 = Fld.QUE_STAT_STATE.off r 0) :
    Dev.sameRegsBut [Fld.QUE_STAT_STATE.off r 0] d (d.refused f n r) :=
  sameRegsBut_put (sameRegsBut_put (sameRegsBut_refl _ d) Fld.QUE_STAT_DROPPED _ r 0 (List.mem_singleton.2 rfl)) f 1 r 0
    (List.mem_singleton.2 hf)

theorem Dev.refused_dropped (d : Dev) {f : Fld} (n r : Nat) (hf : f.Beside Fld.QUE_STAT_DROPPED) :
    (d.refused f n r).get Fld.QUE_STAT_DROPPED r = min Fld.QUE_STAT_DROPPED.max (d.get Fld.QUE_STAT_DROPPED r + n) := by
  rw [Dev.refused, Dev.get_put_beside _ hf, d.get_bump_same _ _ _ _ (by decide) (by decide)]

/-- What a refused push leaves, whatever its sticky bit `f` in `QUE_STAT` (R217, R239). -/
theorem push_refused {s : State} {fn : BitVec 6} {ring : BitVec 16} {data : List Byte} {f : Fld} {n : Nat} (hcalm : s.calm)
    (hpush : s.dev.push fn.toNat ring.toNat 0 data = s.dev.refused f n ring.toNat)
    (hoff : f.off ring.toNat 0 = Fld.QUE_STAT_STATE.off ring.toNat 0) (hbit : f.Beside Fld.QUE_STAT_DROPPED) :
    ∃ t : State, exec (.push fn ring 0 data) s = .next t ∧ t.dev.flag f ring.toNat = true
      ∧ t.dev.get Fld.QUE_STAT_DROPPED ring.toNat = min Fld.QUE_STAT_DROPPED.max (s.dev.get Fld.QUE_STAT_DROPPED ring.toNat + n)
      ∧ t = s.withDev { s.dev with regs := t.dev.regs } ∧ Dev.sameRegsBut [Fld.QUE_STAT_STATE.off ring.toNat 0] s.dev t.dev := by
  obtain ⟨halive, hwatches⟩ := hcalm
  have ⟨_, _, hlo, hhi, _⟩ := hbit
  obtain ⟨regs, hframe⟩ := s.dev.refused_frame f n ring.toNat
  have hquiet : (s.dev.refused f n ring.toNat).watches = [] := by rw [hframe, hwatches]
  have hexec : exec (.push fn ring 0 data) s = .next (s.withDev (s.dev.refused f n ring.toNat)) := by
    rw [exec_push, onHall_alive halive, show (0 : BitVec 12).toNat = 0 from rfl, hpush, Dev.settle_calm hquiet]
    rfl
  refine ⟨_, hexec, Dev.flag_put_one _ _ _ _ hlo hhi, s.dev.refused_dropped n _ hbit, ?_, s.dev.refused_sameRegs n _ hoff⟩
  rw [hframe]
  rfl

theorem Dev.push_malformed {d : Dev} {fn r : Nat} {data : List Byte} (hlen : data.length % 64 ≠ 0)
    (hirq : d.flag Fld.QUE_SETUP_IRQ_ERR r = false) : d.push fn r 0 data = d.refused Fld.QUE_STAT_BADPUSH 1 r := by
  simp only [Dev.push]
  rw [if_neg (by decide), if_pos (.inr (.inl hlen)), Dev.badPush, bump_ringErr_quiet 1 (by decide) hirq]

theorem Dev.push_overflow {d : Dev} {fn r k : Nat} {data : List Byte} (hlen : data.length = 64 * k) (hk : 1 ≤ k) (hk4 : k ≤ 4)
    (hopen : d.open' = true) (hfn : d.assigned fn r = true) (hon : d.ringState r ≠ rsOff) (hfull : d.ringSize r < d.depth r + k)
    (hirq : d.flag Fld.QUE_SETUP_IRQ_ERR r = false) : d.push fn r 0 data = d.refused Fld.QUE_STAT_OVF k r := by
  have hcount : data.length / 64 = k := by omega
  have hshape : ¬ (0 ≠ 0 ∨ data.length % 64 ≠ 0 ∨ k = 0 ∨ 4 < k ∨ !(d.assigned fn r) ∨ !d.open') := by
    simp [hopen, hfn]
    omega
  simp only [Dev.push, hcount]
  rw [if_neg (by decide), if_neg hshape, if_neg hon, if_pos hfull, bump_ringErr_quiet k (by decide) hirq]

/-- Settles O2: both refusals are a count in `DROPPED` and a sticky bit, in one register. -/
theorem pushRefused : Obligations.PushRefused := by
  intro s fn ring data d r hcalm hirq
  exact ⟨fun hlen => push_refused hcalm (Dev.push_malformed hlen hirq) rfl (by decide),
    fun k hlen hk hk4 hopen hfn hon hfull =>
      push_refused hcalm (Dev.push_overflow hlen hk hk4 hopen hfn hon hfull hirq) rfl (by decide)⟩

/-! ## Ring control (R238) -/

theorem Dev.get_of_regs {d d' : Dev} (h : d'.regs = d.regs) (f : Fld) (i j : Nat) : d'.get f i j = d.get f i j := by
  simp only [Dev.get, Dev.word, h]

theorem Dev.mirrorMsg_frame (d : Dev) (objs : List MirrorObj) : ∃ pair spray, d.mirrorMsg objs = { d with pair := pair, spray := spray } := by
  unfold Dev.mirrorMsg
  extract_lets m full unsent waitAt pair d'
  split
  · exact ⟨_, _, rfl⟩
  · obtain ⟨spray, hctrl⟩ := d'.ctrlAs_frame d'.mirrorNode d'.node (.mirror m)
    exact ⟨_, spray, hctrl⟩

/-- A mirror message leaves the device but for the pairing unit and what waits for a port (R328, R331). -/
theorem Dev.mirror_frame (d : Dev) (objs : List MirrorObj) : ∃ pair spray, d.mirror objs = { d with pair := pair, spray := spray } := by
  unfold Dev.mirror
  split
  · exact ⟨_, _, rfl⟩
  · exact d.mirrorMsg_frame objs

@[simp] theorem Dev.mirror_regs (d : Dev) (objs : List MirrorObj) : (d.mirror objs).regs = d.regs := by
  obtain ⟨_, _, h⟩ := d.mirror_frame objs
  rw [h]

@[simp] theorem Dev.mirror_dram (d : Dev) (objs : List MirrorObj) : (d.mirror objs).dram = d.dram := by
  obtain ⟨_, _, h⟩ := d.mirror_frame objs
  rw [h]

@[simp] theorem Dev.mirror_watches (d : Dev) (objs : List MirrorObj) : (d.mirror objs).watches = d.watches := by
  obtain ⟨_, _, h⟩ := d.mirror_frame objs
  rw [h]

theorem Dev.sameRegsBut_of_regs {offs : List Nat} {d d' d'' : Dev} (h : Dev.sameRegsBut offs d d') (hregs : d''.regs = d'.regs) :
    Dev.sameRegsBut offs d d'' := by
  intro off w hoff
  rw [← h off w hoff, Dev.word, Dev.word, hregs]

/-- A write of `QUE_CTRL` from phase 5 on, where no wait is armed. -/
theorem ringWrite_open {s : State} {op r v : Nat} {d : Dev} (hcalm : s.calm) (hopen : s.dev.open' = true) (hctl : s.dev.ringCtl r op v = d)
    (hd : d.watches = []) : ringWrite op r v s = .next (s.withDev d) := by
  rw [ringWrite, onHall_alive hcalm.1, if_pos hopen, hctl, Dev.settle_calm hd]
  rfl

theorem Dev.ringEnable_off {d : Dev} {r : Nat} (h : d.ringState r = rsOff) :
    d.ringEnable r = (({ d with muted := d.muted.filter (· ≠ d.ringFunc r) } : Dev).put Fld.QUE_STAT_STATE rsRun r).mirrorRing r := if_pos h

theorem Dev.ringStop_run {d : Dev} {r : Nat} (h : d.ringState r = rsRun) (hcmds : d.cmds = []) :
    d.ringStop r = ({ (d.unwatch r) with lcWait := d.lcWait.filter (fun x => x.1 != r) } : Dev).put Fld.QUE_STAT_STATE rsStopped r := by
  simp only [Dev.ringStop]
  rw [if_pos (.inl h), Dev.put_cmds, Dev.unwatch_cmds, hcmds, List.filter_nil, List.foldl_nil]

theorem Dev.depth_put_stat (d : Dev) {f : Fld} (hPI : f.Beside Fld.QUE_IDX_PI) (hCI : f.Beside Fld.QUE_IDX_CI) (v r : Nat) :
    (d.put f v r).depth r = d.depth r := by
  simp only [Dev.depth, Dev.ringPI, Dev.ringCI, Dev.get_put_beside _ hPI, Dev.get_put_beside _ hCI]

theorem Dev.ringResume_empty {d : Dev} {r : Nat} (h : d.ringState r = rsStopped) (hcmds : d.cmds = []) (hempty : d.depth r = 0) :
    d.ringResume r = d.put Fld.QUE_STAT_STATE rsRun r := by
  have hdepth : (d.put Fld.QUE_STAT_STATE rsRun r).depth r = 0 := by rw [d.depth_put_stat (by decide) (by decide), hempty]
  have hsame : { d with cmds := [] } = d := by rw [← hcmds]
  simp only [Dev.ringResume]
  rw [if_pos h, hcmds, List.map_nil, hsame, hdepth, Dev.dropList, if_neg fun hne => hne.1 hdepth]

theorem Dev.ringFlush_stopped {d : Dev} {r : Nat} (h : d.ringState r = rsStopped) (hcmds : d.cmds = []) :
    d.ringFlush r = ((({ d with aborting := d.aborting.filter (· ≠ r), retr := d.retr.filter (fun w => w.ring != r) } : Dev).put
      Fld.QUE_IDX_CI (d.ringPI r) r).put Fld.QUE_STAT_STATE rsOff r).mirror [.ringOff (BitVec.ofNat 16 r)] := by
  have hPI : ({ d with aborting := d.aborting.filter (· ≠ r), retr := d.retr.filter (fun w => w.ring != r) } : Dev).ringPI r = d.ringPI r :=
    get_of_regs rfl _ _ _
  have hgone : d.cmds.filter (fun k => k.ring == r && decide (k.phase = .preempted true)) = [] := by rw [hcmds, List.filter_nil]
  simp only [Dev.ringFlush]
  rw [if_pos h, hgone, List.foldl_nil, hPI]

theorem Dev.ringReset_off {d : Dev} {r : Nat} (v : Nat) (h : d.ringState r = rsOff) :
    d.ringReset r v = (((d.put Fld.QUE_IDX_PI v r).put Fld.QUE_IDX_CI v r).put Fld.QUE_CQIDX_CQ_PI 0 r).put Fld.QUE_CQIDX_CQ_CI 0 r := if_pos h

theorem Dev.ringCtl_enable (d : Dev) (r v : Nat) : d.ringCtl r 1 v = d.ringEnable r := by rw [Dev.ringCtl, if_pos rfl]

theorem Dev.ringCtl_stop (d : Dev) (r v : Nat) : d.ringCtl r 2 v = d.ringStop r := by
  rw [Dev.ringCtl, if_neg (by decide), if_pos rfl]

theorem Dev.ringCtl_resume (d : Dev) (r v : Nat) : d.ringCtl r 3 v = d.ringResume r := by
  rw [Dev.ringCtl, if_neg (by decide), if_neg (by decide), if_pos rfl]

theorem Dev.ringCtl_flush (d : Dev) (r v : Nat) : d.ringCtl r 4 v = d.ringFlush r := by
  rw [Dev.ringCtl, if_neg (by decide), if_neg (by decide), if_neg (by decide), if_pos rfl]

theorem Dev.ringCtl_reset (d : Dev) (r v : Nat) : d.ringCtl r 5 v = d.ringReset r v := by
  rw [Dev.ringCtl, if_neg (by decide), if_neg (by decide), if_neg (by decide), if_neg (by decide), if_pos rfl]

theorem exec_enable (ring : BitVec 16) (s : State) : exec (.enable ring) s = ringWrite 1 ring.toNat 0 s := rfl
theorem exec_stop (ring : BitVec 16) (s : State) : exec (.stop ring) s = ringWrite 2 ring.toNat 0 s := rfl
theorem exec_resume (ring : BitVec 16) (s : State) : exec (.resume ring) s = ringWrite 3 ring.toNat 0 s := rfl
theorem exec_flush (ring : BitVec 16) (s : State) : exec (.flush ring) s = ringWrite 4 ring.toNat 0 s := rfl
theorem exec_reset (ring : BitVec 16) (v : BitVec 32) (s : State) : exec (.reset ring v) s = ringWrite 5 ring.toNat v.toNat s := rfl

/-- What holds of the device that an outcome leaves. -/
theorem exists_next {s : State} {o : Host.Outcome State Fault Refusal} {d : Dev} {P : Dev → Prop} (ho : o = .next (s.withDev d)) (hd : P d) :
    ∃ t : State, o = .next t ∧ P t.dev := ⟨_, ho, hd⟩

section Permitted

variable {s : State} {ring : BitVec 16} (hcalm : s.calm) (hopen : s.dev.open' = true)
include hcalm hopen

theorem enable_permitted (h : s.dev.ringState ring.toNat = rsOff) :
    ∃ t : State, exec (.enable ring) s = .next t ∧ t.dev.ringState ring.toNat = rsRun
      ∧ Dev.sameRegsBut [Fld.QUE_STAT_STATE.off ring.toNat 0] s.dev t.dev ∧ t.dev.dram = s.dev.dram := by
  have hctl := (s.dev.ringCtl_enable ring.toNat 0).trans (Dev.ringEnable_off h)
  refine exists_next (P := fun d => d.ringState _ = _ ∧ Dev.sameRegsBut _ _ d ∧ d.dram = _)
    ((exec_enable ring s).trans (ringWrite_open hcalm hopen hctl ?_)) ⟨?_, ?_, ?_⟩
  · rw [Dev.mirrorRing, Dev.mirror_watches, Dev.put_watches]
    exact hcalm.2
  · rw [Dev.ringState, Dev.mirrorRing, Dev.get_of_regs (Dev.mirror_regs _ _), Dev.get_put_same _ _ _ _ _ (by decide) (by decide)]
    rfl
  · refine Dev.sameRegsBut_of_regs ?_ (Dev.mirror_regs _ _)
    exact Dev.sameRegsBut_put (fun _ _ _ => rfl) _ _ _ _ (List.mem_singleton.2 rfl)
  · rw [Dev.mirrorRing, Dev.mirror_dram, Dev.put_dram]

theorem stop_permitted (hcmds : s.dev.cmds = []) (h : s.dev.ringState ring.toNat = rsRun) :
    ∃ t : State, exec (.stop ring) s = .next t ∧ t.dev.ringState ring.toNat = rsStopped
      ∧ Dev.sameRegsBut [Fld.QUE_STAT_STATE.off ring.toNat 0] s.dev t.dev ∧ t.dev.dram = s.dev.dram := by
  have hctl := (s.dev.ringCtl_stop ring.toNat 0).trans (Dev.ringStop_run h hcmds)
  refine exists_next (P := fun d => d.ringState _ = _ ∧ Dev.sameRegsBut _ _ d ∧ d.dram = _)
    ((exec_stop ring s).trans (ringWrite_open hcalm hopen hctl ?_)) ⟨?_, ?_, ?_⟩
  · rw [Dev.put_watches, Dev.unwatch_watches, hcalm.2, List.filter_nil]
  · rw [Dev.ringState, Dev.get_put_same _ _ _ _ _ (by decide) (by decide)]
    rfl
  · exact Dev.sameRegsBut_put (fun _ _ _ => rfl) _ _ _ _ (List.mem_singleton.2 rfl)
  · rw [Dev.put_dram, Dev.unwatch_dram]

theorem resume_permitted (hcmds : s.dev.cmds = []) (h : s.dev.ringState ring.toNat = rsStopped) (hempty : s.dev.depth ring.toNat = 0) :
    ∃ t : State, exec (.resume ring) s = .next t ∧ t.dev.ringState ring.toNat = rsRun
      ∧ Dev.sameRegsBut [Fld.QUE_STAT_STATE.off ring.toNat 0] s.dev t.dev ∧ t.dev.dram = s.dev.dram := by
  have hctl := (s.dev.ringCtl_resume ring.toNat 0).trans (Dev.ringResume_empty h hcmds hempty)
  refine exists_next (P := fun d => d.ringState _ = _ ∧ Dev.sameRegsBut _ _ d ∧ d.dram = _)
    ((exec_resume ring s).trans (ringWrite_open hcalm hopen hctl ?_)) ⟨?_, ?_, ?_⟩
  · rw [Dev.put_watches, hcalm.2]
  · rw [Dev.ringState, Dev.get_put_same _ _ _ _ _ (by decide) (by decide)]
    rfl
  · exact Dev.sameRegsBut_put (Dev.sameRegsBut_refl _ _) _ _ _ _ (List.mem_singleton.2 rfl)
  · rw [Dev.put_dram]

theorem flush_permitted (hcmds : s.dev.cmds = []) (h : s.dev.ringState ring.toNat = rsStopped) :
    ∃ t : State, exec (.flush ring) s = .next t ∧ t.dev.ringState ring.toNat = rsOff ∧ t.dev.ringCI ring.toNat = s.dev.ringPI ring.toNat
      ∧ Dev.sameRegsBut [Fld.QUE_STAT_STATE.off ring.toNat 0, Fld.QUE_IDX_CI.off ring.toNat 0] s.dev t.dev ∧ t.dev.dram = s.dev.dram := by
  have hctl := (s.dev.ringCtl_flush ring.toNat 0).trans (Dev.ringFlush_stopped h hcmds)
  refine exists_next (P := fun d => d.ringState _ = _ ∧ d.ringCI _ = _ ∧ Dev.sameRegsBut _ _ d ∧ d.dram = _)
    ((exec_flush ring s).trans (ringWrite_open hcalm hopen hctl ?_)) ⟨?_, ?_, ?_, ?_⟩
  · rw [Dev.mirror_watches, Dev.put_watches, Dev.put_watches]
    exact hcalm.2
  · rw [Dev.ringState, Dev.get_of_regs (Dev.mirror_regs _ _), Dev.get_put_same _ _ _ _ _ (by decide) (by decide)]
    rfl
  · rw [Dev.ringCI, Dev.get_of_regs (Dev.mirror_regs _ _), Dev.get_put_beside _ (by decide),
      Dev.get_put_same _ _ _ _ _ (by decide) (by decide)]
    exact Nat.mod_eq_of_lt (bits_lt _ _ _)
  · refine Dev.sameRegsBut_of_regs ?_ (Dev.mirror_regs _ _)
    exact Dev.sameRegsBut_put (Dev.sameRegsBut_put (fun _ _ _ => rfl) _ _ _ _ (by simp)) _ _ _ _ (by simp)
  · rw [Dev.mirror_dram, Dev.put_dram, Dev.put_dram]

theorem reset_permitted (v : BitVec 32) (h : s.dev.ringState ring.toNat = rsOff) :
    ∃ t : State, exec (.reset ring v) s = .next t ∧ t.dev.ringState ring.toNat = rsOff
      ∧ t.dev.ringPI ring.toNat = v.toNat ∧ t.dev.ringCI ring.toNat = v.toNat ∧ t.dev.get Fld.QUE_CQIDX_CQ_PI ring.toNat = 0
      ∧ t.dev.get Fld.QUE_CQIDX_CQ_CI ring.toNat = 0
      ∧ Dev.sameRegsBut [Fld.QUE_IDX_PI.off ring.toNat 0, Fld.QUE_CQIDX_CQ_PI.off ring.toNat 0] s.dev t.dev ∧ t.dev.dram = s.dev.dram := by
  have hctl := (s.dev.ringCtl_reset ring.toNat v.toNat).trans (Dev.ringReset_off v.toNat h)
  have hv : v.toNat % 2 ^ 32 = v.toNat := Nat.mod_eq_of_lt v.isLt
  refine exists_next (P := fun d => d.ringState _ = _ ∧ d.ringPI _ = _ ∧ d.ringCI _ = _ ∧ d.get _ _ = _ ∧ d.get _ _ = _ ∧ Dev.sameRegsBut _ _ d ∧ d.dram = _)
    ((exec_reset ring v s).trans (ringWrite_open hcalm hopen hctl ?_)) ⟨?_, ?_, ?_, ?_, ?_, ?_, ?_⟩
  · rw [Dev.put_watches, Dev.put_watches, Dev.put_watches, Dev.put_watches, hcalm.2]
  · rw [Dev.ringState, Dev.get_put_beside _ (by decide), Dev.get_put_beside _ (by decide), Dev.get_put_beside _ (by decide),
      Dev.get_put_beside _ (by decide)]
    exact h
  · rw [Dev.ringPI, Dev.get_put_beside _ (by decide), Dev.get_put_beside _ (by decide), Dev.get_put_beside _ (by decide),
      Dev.get_put_same _ _ _ _ _ (by decide) (by decide)]
    exact hv
  · rw [Dev.ringCI, Dev.get_put_beside _ (by decide), Dev.get_put_beside _ (by decide), Dev.get_put_same _ _ _ _ _ (by decide) (by decide)]
    exact hv
  · rw [Dev.get_put_beside _ (by decide), Dev.get_put_same _ _ _ _ _ (by decide) (by decide), Nat.zero_mod]
  · rw [Dev.get_put_same _ _ _ _ _ (by decide) (by decide), Nat.zero_mod]
  · have hidx : Fld.QUE_IDX_CI.off ring.toNat 0 ∈ [Fld.QUE_IDX_PI.off ring.toNat 0, Fld.QUE_CQIDX_CQ_PI.off ring.toNat 0] := .head _
    have hcq : Fld.QUE_CQIDX_CQ_CI.off ring.toNat 0 ∈ [Fld.QUE_IDX_PI.off ring.toNat 0, Fld.QUE_CQIDX_CQ_PI.off ring.toNat 0] :=
      .tail _ (.head _)
    have hindices := Dev.sameRegsBut_put (Dev.sameRegsBut_put (Dev.sameRegsBut_refl _ s.dev) Fld.QUE_IDX_PI v.toNat _ 0 (.head _))
      Fld.QUE_IDX_CI v.toNat _ 0 hidx
    exact Dev.sameRegsBut_put (Dev.sameRegsBut_put hindices Fld.QUE_CQIDX_CQ_PI 0 _ 0 (.tail _ (.head _))) Fld.QUE_CQIDX_CQ_CI 0 _ 0 hcq
  · rw [Dev.put_dram, Dev.put_dram, Dev.put_dram, Dev.put_dram]

end Permitted

/-- An operation that is not permitted from the ring's state, `hctl`, sets `BADPUSH`. -/
theorem ringWrite_refused {s : State} {op r v : Nat} (hcalm : s.calm) (hopen : s.dev.open' = true) (hirq : s.dev.flag Fld.QUE_SETUP_IRQ_ERR r = false)
    (hctl : s.dev.ringCtl r op v = s.dev.ringErr Fld.QUE_STAT_BADPUSH r) :
    ringWrite op r v s = .next (s.withDev (s.dev.put Fld.QUE_STAT_BADPUSH 1 r)) := by
  refine ringWrite_open hcalm hopen (hctl.trans (Dev.ringErr_quiet (by decide) hirq)) ?_
  rw [Dev.put_watches, hcalm.2]

theorem Dev.ringEnable_refused {d : Dev} {r : Nat} (h : d.ringState r ≠ rsOff) : d.ringEnable r = d.ringErr Fld.QUE_STAT_BADPUSH r := by
  rw [Dev.ringEnable, if_neg h]

theorem Dev.ringStop_refused {d : Dev} {r : Nat} (hrun : d.ringState r ≠ rsRun) (hwait : d.ringState r ≠ rsWait) :
    d.ringStop r = d.ringErr Fld.QUE_STAT_BADPUSH r := by
  rw [Dev.ringStop, if_neg fun hor => hor.elim hrun hwait]

theorem Dev.ringResume_refused {d : Dev} {r : Nat} (h : d.ringState r ≠ rsStopped) : d.ringResume r = d.ringErr Fld.QUE_STAT_BADPUSH r := by
  rw [Dev.ringResume, if_neg h]

theorem Dev.ringFlush_refused {d : Dev} {r : Nat} (h : d.ringState r ≠ rsStopped) : d.ringFlush r = d.ringErr Fld.QUE_STAT_BADPUSH r := by
  rw [Dev.ringFlush, if_neg h]

theorem Dev.ringReset_refused {d : Dev} {r : Nat} (v : Nat) (h : d.ringState r ≠ rsOff) :
    d.ringReset r v = d.ringErr Fld.QUE_STAT_BADPUSH r := by
  rw [Dev.ringReset, if_neg h]

/-- Settles O3: one effect per permitted operation, and one for all refusals. -/
theorem ringControl : Obligations.RingControl := by
  constructor
  · intro s ring d r hcalm hopen hcmds _
    exact ⟨enable_permitted hcalm hopen, stop_permitted hcalm hopen hcmds, resume_permitted hcalm hopen hcmds,
      flush_permitted hcalm hopen hcmds, reset_permitted hcalm hopen⟩
  · intro s ring v i d r hcalm hopen hirq hcase
    rcases hcase with ⟨rfl, hon⟩ | ⟨rfl, hrun, hwait⟩ | ⟨rfl, hnot⟩ | ⟨rfl, hnot⟩ | ⟨rfl, hon⟩
    · rw [exec_enable]
      exact ringWrite_refused hcalm hopen hirq ((s.dev.ringCtl_enable _ _).trans (Dev.ringEnable_refused hon))
    · rw [exec_stop]
      exact ringWrite_refused hcalm hopen hirq ((s.dev.ringCtl_stop _ _).trans (Dev.ringStop_refused hrun hwait))
    · rw [exec_resume]
      exact ringWrite_refused hcalm hopen hirq ((s.dev.ringCtl_resume _ _).trans (Dev.ringResume_refused hnot))
    · rw [exec_flush]
      exact ringWrite_refused hcalm hopen hirq ((s.dev.ringCtl_flush _ _).trans (Dev.ringFlush_refused hnot))
    · rw [exec_reset]
      exact ringWrite_refused hcalm hopen hirq ((s.dev.ringCtl_reset _ _).trans (Dev.ringReset_refused _ hon))

end Sys2Proof.Machine

/-! # Queue commands, doorbells, waits and the choice of engines (chapter 9) -/

namespace Sys2Proof.Machine

/-! ## The queue commands at the head of a ring (R220, R224, R225, R230) -/

section Head

variable {s : State} {ring : BitVec 16} (halive : s.dev.alive = true) (hready : s.dev.ready ring.toNat = true)
include halive hready

theorem exec_nop_ready (hop : opOf (s.dev.head ring.toNat) = opNop) :
    exec (.nop ring) s = .next (s.settled (s.dev.popEnd ring.toNat stOK [])) := by
  show execNop ring s = _
  refine onHall_settled halive ?_
  dsimp only
  rw [if_pos (by simp [hready, hop])]

theorem exec_wait_ready {d : Dev} (hop : opOf (s.dev.head ring.toNat) = opWait) (harm : s.dev.armWait ring.toNat = d) :
    exec (.wait ring) s = .next (s.settled d) := by
  show execWait ring s = _
  refine onHall_settled halive ?_
  dsimp only
  rw [if_pos (by simp [hready, hop]), harm]

theorem exec_signal_after (hop : opOf (s.dev.head ring.toNat) = opSignal) (hafter : bit (u8 (s.dev.head ring.toNat) 26) 0 = true) :
    exec (.signal ring) s = .next (s.settled (s.dev.take ring.toNat 8 false none .held)) := by
  show execSignal ring s = _
  refine onHall_settled halive ?_
  dsimp only
  rw [if_pos (by simp [hready, hop]), if_pos hafter]

theorem exec_signal_act {d : Dev} {st : Nat} {res : List Nat} (hop : opOf (s.dev.head ring.toNat) = opSignal)
    (hafter : bit (u8 (s.dev.head ring.toNat) 26) 0 = false)
    (hact : s.dev.signalAct ring.toNat (s.dev.head ring.toNat) = (d, st, res)) :
    exec (.signal ring) s = .next (s.settled (d.popEnd ring.toNat st res)) := by
  show execSignal ring s = _
  refine onHall_settled halive ?_
  dsimp only
  rw [if_pos (by simp [hready, hop]), hafter, if_neg Bool.false_ne_true, hact]

end Head

/-- The word that a WAIT names can be watched: aligned, in the tenant's ways, correctable. -/
structure Dev.Watchable (d : Dev) (r : Nat) : Prop where
  aligned : u32 (d.head r) 16 % 8 = 0
  allowed : d.hallOk (some (d.ringTenant r)) (u32 (d.head r) 16) 8 = true
  clean : d.badWords (u32 (d.head r) 16) 8 = []
  room : d.armed < 16384

theorem waitHolds_ne_none {e : Entry} {w : Nat} {b : Bool} (h : waitHolds e w = some b) : waitHolds e 0 ≠ none := by
  unfold waitHolds at h ⊢
  dsimp only at h ⊢
  split_ifs at h ⊢ <;> simp_all

theorem Dev.armWait_blocks {d : Dev} {r : Nat} (h : d.Watchable r) (hfalse : waitHolds (d.head r) (d.hallWord (u32 (d.head r) 16)) = some false) :
    d.armWait r = ({ d with watches := d.watches ++ [⟨r, u32 (d.head r) 16, false, d.clk.now, 0, 0⟩] } : Dev).put Fld.QUE_STAT_STATE rsWait r := by
  have hroom := h.room
  simp only [Dev.armWait]
  rw [if_neg (by simp [h.aligned, waitHolds_ne_none hfalse]), if_neg (by simp [h.allowed]), if_neg (by simp [h.clean]), if_neg (by simp [hfalse])]
  simp only [show ¬ 16384 ≤ d.armed by omega, decide_false, Bool.false_eq_true, if_false]

theorem Dev.armWait_holds {d : Dev} {r : Nat} (h : d.Watchable r) (htrue : waitHolds (d.head r) (d.hallWord (u32 (d.head r) 16)) = some true) :
    d.armWait r = d.endWait r stOK (halves (d.hallWord (u32 (d.head r) 16))) := by
  simp only [Dev.armWait]
  rw [if_neg (by simp [h.aligned, waitHolds_ne_none htrue]), if_neg (by simp [h.allowed]), if_neg (by simp [h.clean]), if_pos htrue, if_pos h.room]

/-! ### What a SIGNAL does -/

theorem Dev.signalAct_host {d : Dev} {r : Nat} {e : Entry} (hsp : u8 e 25 = 1) (hop : u8 e 24 = 0) :
    d.signalAct r e = (d.hostPut (d.ringFunc r) (u64 e 16) (toBytes 8 (u64 e 32)), stOK, []) := by
  simp only [Dev.signalAct]
  rw [if_pos ⟨hsp, hop⟩]

section Hall

variable {d : Dev} {r : Nat} {e : Entry} (hsp : u8 e 25 = 0) (hok : d.hallOk (some (d.ringTenant r)) (u64 e 16) 8 = true)
include hsp hok

theorem Dev.signalAct_write (hop : u8 e 24 = 0) :
    d.signalAct r e = (d.hallPut (u64 e 16) (toBytes 8 (u64 e 32)), stOK, []) := by
  simp only [Dev.signalAct]
  rw [if_neg (by simp [hsp]), if_neg (by simp [hsp, hop]), if_neg (by simp [hop]), if_neg (by simp [hok]), if_neg (by simp [hop]), if_pos hop]

/-- An ADD (1) or a SWAP (2) of an aligned, correctable word. -/
theorem Dev.signalAct_atomic (halign : u64 e 16 % 8 = 0) (hop : u8 e 24 = 1 ∨ u8 e 24 = 2) (hclean : d.badWords (u64 e 16) 8 = []) :
    d.signalAct r e = (d.hallPut (u64 e 16) (toBytes 8 (if u8 e 24 = 1 then d.hallWord (u64 e 16) + u64 e 32 else u64 e 32)), stOK,
      halves (d.hallWord (u64 e 16))) := by
  have hne : ¬ u8 e 24 = 0 := by omega
  simp only [Dev.signalAct]
  rw [if_neg (by simp [hsp]), if_neg (by simp [hsp]; omega), if_neg (by simp [halign]), if_neg (by simp [hok]), if_neg (by simp [hclean]),
    if_neg hne]

theorem Dev.signalAct_uncorrectable (halign : u64 e 16 % 8 = 0) (hop : u8 e 24 = 1 ∨ u8 e 24 = 2) (hbad : d.badWords (u64 e 16) 8 ≠ []) :
    d.signalAct r e = (d.meetBad mQueue (d.badWords (u64 e 16) 8), stCrcFault, []) := by
  simp only [Dev.signalAct]
  rw [if_neg (by simp [hsp]), if_neg (by simp [hsp]; omega), if_neg (by simp [halign]), if_neg (by simp [hok]), if_pos ⟨by omega, by simpa using hbad⟩]

end Hall

/-- Settles O4, command by command. -/
theorem queueCommands : Obligations.QueueCommands := by
  intro s ring d r e halive hready
  refine ⟨exec_nop_ready halive hready, fun hop halign hok hclean hroom => ?_, exec_signal_after halive hready, fun hop hafter hsp hact => ?_,
    fun hop hafter hsp halign hok => ⟨fun hact => ?_, fun hclean => ⟨fun hact => ?_, fun hact => ?_⟩, fun hact hbad => ?_⟩⟩
  · have hwatch : d.Watchable r := ⟨halign, hok, hclean, hroom⟩
    exact ⟨fun h => exec_wait_ready halive hready hop (Dev.armWait_blocks hwatch h), fun h => exec_wait_ready halive hready hop (Dev.armWait_holds hwatch h)⟩
  · exact exec_signal_act halive hready hop hafter (Dev.signalAct_host hsp hact)
  · exact exec_signal_act halive hready hop hafter (Dev.signalAct_write hsp hok hact)
  · have h := Dev.signalAct_atomic hsp hok halign (.inl hact) hclean
    rw [if_pos hact] at h
    exact exec_signal_act halive hready hop hafter h
  · have h := Dev.signalAct_atomic hsp hok halign (.inr hact) hclean
    rw [if_neg (by rw [hact]; decide)] at h
    exact exec_signal_act halive hready hop hafter h
  · exact exec_signal_act halive hready hop hafter (Dev.signalAct_uncorrectable hsp hok halign hact hbad)

end Sys2Proof.Machine

/-! # Doorbells, waits that go on, the choice of engines and pre-emption (chapter 9) -/

namespace Sys2Proof.Machine

/-! ## Doorbell pages (R218, R229) -/

section Doorbell

variable {s : State} {fn : BitVec 6} {ring : BitVec 16} (halive : s.dev.alive = true) (hfn : s.dev.assigned fn.toNat ring.toNat = true)
include halive

include hfn in
theorem exec_cqDb_assigned (v : Word) :
    exec (.cqDb fn ring v) s = .next (s.settled ((s.dev.put Fld.QUE_CQIDX_CQ_CI (v.toNat % 2 ^ 32) ring.toNat).release)) := by
  show execCqDb fn ring v s = _
  refine onHall_settled halive ?_
  dsimp only
  rw [if_pos hfn]

theorem exec_syncWordAccess {off : BitVec 12} {width : BitVec 8} {kind : AccessKind} {v : Word} {d : Dev}
    (hd : s.dev.syncAccess fn.toNat ring.toNat off.toNat width.toNat kind v.toNat = d) :
    exec (.syncWordAccess fn ring off width kind v) s = .next (s.settled d) := by
  show execSyncWordAccess fn ring off width kind v s = _
  exact onHall_settled halive hd

end Doorbell

theorem Dev.syncAccess_cas {d : Dev} {fn r off : Nat} (v : Nat) (hoff : 0x800 ≤ off) : d.syncAccess fn r off 8 .cas v = d.emit .unsupported := by
  simp only [Dev.syncAccess]
  rw [if_neg (by omega), if_pos (by simp)]

/-- A 64-bit access to a sync word of a ring that the function reaches. -/
theorem Dev.syncAccess_word {d : Dev} {fn r off : Nat} {kind : AccessKind} (v : Nat) (hoff : 0x800 ≤ off) (halign : off % 8 = 0)
    (hkind : kind ≠ .cas) (hfn : d.assigned fn r = true) :
    d.syncAccess fn r off 8 kind v = d.syncHall (d.ringTenant r) (d.get Fld.QUE_SYNC_OFF r + off - 0x800) kind v := by
  simp only [Dev.syncAccess]
  rw [if_neg (by omega), if_neg (by simp [hkind, halign]), if_neg (by simp [halign]), if_neg (by simp [hfn])]

section SyncHall

variable {d : Dev} {t a : Nat} (hok : d.hallOk (some t) a 8 = true)
include hok

theorem Dev.syncHall_write (v : Nat) : d.syncHall t a .write v = d.hallPut a (toBytes 8 v) := by
  simp [Dev.syncHall, hok, Dev.meetBad]

/-- An access that reads the word: it is correctable. -/
theorem Dev.syncHall_reads (hclean : d.badWords a 8 = []) (v : Nat) :
    d.syncHall t a .read v = d.emit (.readData (d.hallWord a))
    ∧ d.syncHall t a .fetchAdd v = (d.hallPut a (toBytes 8 (d.hallWord a + v))).emit (.readData (d.hallWord a))
    ∧ d.syncHall t a .swap v = (d.hallPut a (toBytes 8 v)).emit (.readData (d.hallWord a)) := by
  simp [Dev.syncHall, hok, hclean, Dev.meetBad]

end SyncHall

theorem doorbells (s : State) (fn : BitVec 6) (ring : BitVec 16) (v : Word) (halive : s.dev.alive = true)
    (hfn : s.dev.assigned fn.toNat ring.toNat = true) (off : BitVec 12) (hoff : 0x800 ≤ off.toNat) (halign : off.toNat % 8 = 0) :
    let d := s.dev
    let a := d.get Fld.QUE_SYNC_OFF ring.toNat + off.toNat - 0x800
    d.hallOk (some (d.ringTenant ring.toNat)) a 8 = true →
      exec (.syncWordAccess fn ring off 8 .write v) s = .next (s.settled (d.hallPut a (toBytes 8 v.toNat)))
      ∧ (d.badWords a 8 = [] → exec (.syncWordAccess fn ring off 8 .read v) s = .next (s.settled (d.emit (.readData (d.hallWord a))))
        ∧ exec (.syncWordAccess fn ring off 8 .fetchAdd v) s
            = .next (s.settled ((d.hallPut a (toBytes 8 (d.hallWord a + v.toNat))).emit (.readData (d.hallWord a))))
        ∧ exec (.syncWordAccess fn ring off 8 .swap v) s
            = .next (s.settled ((d.hallPut a (toBytes 8 v.toNat)).emit (.readData (d.hallWord a))))) := by
  intro d a hok
  have hword {kind : AccessKind} (hkind : kind ≠ .cas) := Dev.syncAccess_word v.toNat hoff halign hkind hfn
  refine ⟨exec_syncWordAccess halive ((hword (by decide)).trans (Dev.syncHall_write hok _)), fun hclean => ?_⟩
  obtain ⟨hread, hadd, hswap⟩ := Dev.syncHall_reads hok hclean v.toNat
  exact ⟨exec_syncWordAccess halive ((hword (by decide)).trans hread), exec_syncWordAccess halive ((hword (by decide)).trans hadd),
    exec_syncWordAccess halive ((hword (by decide)).trans hswap)⟩

/-! ## Waits that go on (R226 to R230) -/

theorem exec_waitPoll_due {s : State} {ring : BitVec 16} {w : Watch} (halive : s.dev.alive = true) (hw : s.dev.watches = [w])
    (hring : w.ring = ring.toNat) (hpolled : w.polled = true)
    (hdue : w.polledAt + 2 * atLeast1 (s.dev.get Fld.HAL_QCFG_POLL) ≤ s.dev.clk.now)
    (hholds : waitHolds (s.dev.head ring.toNat) (s.dev.hallWord w.addr) = some true) :
    exec (.waitPoll ring) s = .next (s.settled
      (({ s.dev with watches := [{ w with polled := false, polledAt := s.dev.clk.now }] } : Dev).endWait ring.toNat stOK
        (halves (s.dev.hallWord w.addr)))) := by
  show execWaitPoll ring s = _
  refine onHall_settled halive ?_
  have hfree : s.dev.armed = 0 := by simp [Dev.armed, hw, hpolled]
  dsimp only
  rw [if_pos (by simp [hw, hring, hpolled, hdue])]
  simp only [Dev.pollWait, hw, List.find?, hring, hpolled, hfree, BEq.rfl, Bool.and_self, List.map, if_true]
  exact if_pos hholds

theorem exec_watchdogExpiry_wait {s : State} {ring : BitVec 16} {w : Watch} {t : BitVec 64} (halive : s.dev.alive = true)
    (hw : (s.dev.advanceTo t.toNat).watches = [w]) (hring : w.ring = ring.toNat) (hcmds : (s.dev.advanceTo t.toNat).cmds = [])
    (hexp : (s.dev.advanceTo t.toNat).expired (u8 ((s.dev.advanceTo t.toNat).head ring.toNat) 21)
      (u16 ((s.dev.advanceTo t.toNat).head ring.toNat) 22) ring.toNat w.strokes w.lostT = true) :
    exec (.watchdogExpiry ring t) s = .next (s.settled ((s.dev.advanceTo t.toNat).endWait ring.toNat stWaitTimeout [])) := by
  show execWatchdogExpiry ring t s = _
  refine onHall_settled halive ?_
  dsimp only
  rw [hcmds, List.filter_nil, List.foldl_nil]
  simp only [hw, List.find?, hring, BEq.rfl]
  exact if_pos hexp

theorem exec_signalAfter_acts {s : State} {c : CmdId} {k : RunCmd} (halive : s.dev.alive = true) (hcmds : s.dev.cmds = [k])
    (hk : s.dev.cmdAs c opSignal .held = some k) (hsp : u8 k.entry 25 = 0) (hop : u8 k.entry 24 = 0)
    (hok : s.dev.hallOk (some (s.dev.ringTenant k.ring)) (u64 k.entry 16) 8 = true) :
    exec (.signalAfter c) s = .next (s.settled
      ((s.dev.hallPut (u64 k.entry 16) (toBytes 8 (u64 k.entry 32))).endCmd k
        (s.dev.hallPut (u64 k.entry 16) (toBytes 8 (u64 k.entry 32))).pair.next stOK [])) := by
  show execSignalAfter c s = _
  refine onHall_settled halive ?_
  simp only [hk]
  rw [if_neg (by simp [hcmds]), Dev.signalAct_write hsp hok hop]

/-! ## The choice of an engine (R215, R232, R233) -/

/-- Nothing runs, and no latency-critical head waits: the first best-effort head is served, if it can be. -/
theorem Dev.dispatch_first {d d' : Dev} {eng r : Nat} {rest : List Nat} (hcmds : d.cmds = []) (hlc : d.heads eng true = [])
    (hheads : d.heads eng false = r :: rest) (hserve : d.serve eng r = some d') : d.dispatch eng = d'.served eng r := by
  have hnone (lc : Bool) : d.resumables eng lc = [] := by
    simp [Dev.resumables, hcmds, distinct, Dev.inTurn, sortBy]
  have hpress : d.pressLc eng = d := by simp [Dev.pressLc, hnone]
  simp only [Dev.dispatch, hnone, firstOf, hpress, hlc, Dev.serveLc, hheads, hserve, Option.map_some, Option.getD_some]

theorem Dev.serve_served {d : Dev} {eng r : Nat} (hserved : d.unserved eng (d.head r) = false) (hhand : d.handing = false) :
    d.serve eng r = if eng = engAttn then (d.freeCore (d.ringTenant r)).map (d.startOn r)
      else if d.running eng < room eng then some (d.take r eng (d.isLc r (d.head r)) none .run) else none := by
  simp only [Dev.serve]
  rw [hserved, hhand, if_neg Bool.false_ne_true, Bool.false_and, if_neg Bool.false_ne_true]
  cases d.freeCore (d.ringTenant r) <;> rfl

theorem room_pos (eng : Nat) : 0 < room eng := by
  unfold room
  split_ifs <;> decide

theorem exec_engineDispatch_alone {s : State} {eng : BitVec 3} (halive : s.dev.alive = true) (heng : eng.toNat < 5) :
    exec (.engineDispatch eng none) s = .next (s.settled (s.dev.dispatch eng.toNat)) := by
  show execEngineDispatch eng none s = _
  refine onHall_settled halive ?_
  dsimp only
  rw [if_pos heng]

theorem exec_engineDispatch_joint {s : State} {eng : BitVec 3} (p : JointPush) (halive : s.dev.alive = true) (heng : eng.toNat < 5) :
    exec (.engineDispatch eng (some p)) s = .next (s.settled (s.dev.dispatchWith eng.toNat p)) := by
  show execEngineDispatch eng (some p) s = _
  refine onHall_settled halive ?_
  dsimp only
  rw [if_pos heng]

/-! ## The ends of saves and restores (R199, R234, R235) -/

theorem Dev.coreShow_faults (d : Dev) (n state cls faults ring index : Nat) : (d.coreShow n state cls faults ring index).faults = d.faults := by
  rw [Dev.coreShow, Dev.put_faults, Dev.put_faults, Dev.put_faults, Dev.put_faults, Dev.put_faults]

theorem Dev.coreFree_faults (d : Dev) (n : Nat) : (d.coreFree n).faults = d.faults := by
  rw [Dev.coreFree]
  split_ifs <;> rw [Dev.coreShow_faults]

theorem Dev.writeSlot_faults (d : Dev) (k : RunCmd) (n sl : Nat) : (d.writeSlot k n sl).faults = d.faults := by
  rw [Dev.writeSlot, Dev.dramPutN_faults, Dev.dramPutN_faults, Dev.dramPut_faults, Dev.putPlace]

theorem Dev.saveDone_parked {d : Dev} {k : RunCmd} {n sl : Nat} (hcmds : d.cmds = [k]) (hcore : k.core = some n) (hslot : k.slot = some sl)
    (hphase : k.phase = .saving) (hafter : k.after = afterPark) (hfaults : d.faults = [])
    (hgoing : ((d.writeSlot k n sl).coreFree n).ringState k.ring ≠ rsStopped) :
    d.saveDone n = ((d.writeSlot k n sl).coreFree n).setCmd { k with core := none, phase := .resumable, after := 0 } := by
  have hfind : d.cmds.find? (fun k => k.core == some n && decide (k.phase = .saving)) = some k := by simp [hcmds, hcore, hphase]
  have hno : ((d.writeSlot k n sl).coreFree n).faults = [] := by
    rw [Dev.coreFree_faults, Dev.writeSlot_faults, hfaults]
  simp only [Dev.saveDone, hfind, hslot]
  rw [if_pos hafter, hno, if_neg (by simp), Dev.makeResumable, if_neg fun h => hgoing h.1, hslot]

/-- The command that a restore leaves running in place of `k`, at the place that the storage of core `n` holds. -/
def Dev.restored (d : Dev) (k : RunCmd) (n : Nat) : RunCmd :=
  { k with slot := none, phase := if k.acks then .acks else .run, acks := false, pos := (d.placeOf n).1, res := (d.placeOf n).2 }

/-- The storage and the slots of core `n` after a restore from slot `sl`, before its command goes on. -/
def Dev.reloaded (d : Dev) (n sl : Nat) : Dev :=
  let e := (({ d with coreMem := Mem.copyRegion d.dram d.coreMem (d.slotBase sl) (n * slotBytes) coreBytes } : Dev).slotInvalid sl).setSlot n sl
  { e with pool := insertNat (d.slotOf n) e.pool }

theorem Dev.setCmd_only {d : Dev} {k j : RunCmd} (hcmds : d.cmds = [k]) (hring : k.ring = j.ring) (hindex : k.index = j.index) :
    (d.setCmd j).cmds = [j] := by
  simp [Dev.setCmd, hcmds, hring, hindex]

theorem Dev.restoreDone_eq {d : Dev} {k : RunCmd} {n sl : Nat} (hcmds : d.cmds = [k]) (hcore : k.core = some n) (hslot : k.slot = some sl)
    (hphase : k.phase = .restoring) :
    d.restoreDone n = ((d.reloaded n sl).setCmd ((d.reloaded n sl).restored k n)).put Fld.ATT_CORE_STAT_STATE csRun n := by
  have hfind : d.cmds.find? (fun k => k.core == some n && decide (k.phase = .restoring)) = some k := by simp [hcmds, hcore, hphase]
  simp only [Dev.restoreDone, hfind, hslot]
  rfl

theorem Dev.reloaded_cmds (d : Dev) (n sl : Nat) : (d.reloaded n sl).cmds = d.cmds := by
  simp only [Dev.reloaded, Dev.setSlot_cmds, Dev.slotInvalid, Dev.dramPutN_cmds]

theorem Dev.reloaded_pool (d : Dev) (n sl : Nat) : (d.reloaded n sl).pool = insertNat (d.slotOf n) d.pool := by
  simp only [Dev.reloaded, Dev.setSlot_pool, Dev.slotInvalid, Dev.dramPutN_pool]

theorem Dev.reloaded_slotOf (d : Dev) (n sl : Nat) : (d.reloaded n sl).slotOf n = sl := sget_sput_same _ _ _ _

theorem Dev.placeOf_of_coreMem {d d' : Dev} (h : d'.coreMem = d.coreMem) (n : Nat) : d'.placeOf n = d.placeOf n := by
  simp only [Dev.placeOf, h]

theorem Dev.slotOf_of_slots {d d' : Dev} (h : d'.slots = d.slots) (n : Nat) : d'.slotOf n = d.slotOf n := by
  simp only [Dev.slotOf, h]

/-- After a restore the slot is the core's, the core's old one is in the pool, and the command goes on from its place. -/
theorem Dev.restoreDone_restored {d : Dev} {k : RunCmd} {n sl : Nat} (hcmds : d.cmds = [k]) (hcore : k.core = some n) (hslot : k.slot = some sl)
    (hphase : k.phase = .restoring) :
    (d.restoreDone n).slotOf n = sl ∧ (d.restoreDone n).cmds = [(d.restoreDone n).restored k n]
      ∧ (d.restoreDone n).pool = insertNat (d.slotOf n) d.pool ∧ (d.restoreDone n).get Fld.ATT_CORE_STAT_STATE n = csRun := by
  rw [Dev.restoreDone_eq hcmds hcore hslot hphase]
  refine ⟨?_, ?_, ?_, ?_⟩
  · rw [Dev.slotOf_of_slots (Dev.put_slots ..), Dev.slotOf_of_slots (Dev.setCmd_slots ..), Dev.reloaded_slotOf]
  · rw [Dev.put_cmds, Dev.setCmd_only (k := k) (j := (d.reloaded n sl).restored k n) ((d.reloaded_cmds n sl).trans hcmds) rfl rfl, Dev.restored, Dev.restored,
      Dev.placeOf_of_coreMem (Dev.put_coreMem ..), Dev.placeOf_of_coreMem (Dev.setCmd_coreMem ..)]
  · rw [Dev.put_pool, Dev.setCmd_pool, Dev.reloaded_pool]
  · rw [Dev.get_put_same _ _ _ _ _ (by decide) (by decide)]
    rfl

/-- Settles O5, page by page, wait by wait, and for one choice of each sort of engine. -/
theorem doorbellsWaitsEngines : Obligations.DoorbellsWaitsEngines := by
  refine ⟨?_, ?_, ?_⟩
  · intro s fn ring v d r halive hfn
    refine ⟨exec_cqDb_assigned halive hfn v, fun off hoff halign => ⟨?_, doorbells s fn ring v halive hfn off hoff halign⟩⟩
    exact exec_syncWordAccess halive (Dev.syncAccess_cas _ hoff)
  · intro s ring halive d r
    exact ⟨fun w hw hring hpolled hdue hholds => exec_waitPoll_due halive hw hring hpolled hdue hholds,
      fun w t hw hring hcmds hexp => exec_watchdogExpiry_wait halive hw hring hcmds hexp,
      fun c k hcmds hk hsp hop hok => exec_signalAfter_acts halive hcmds hk hsp hop hok⟩
  · intro s r rest halive d
    refine ⟨fun eng heng hcmds hlc hheads hserved hhand => ?_, fun eng p heng => exec_engineDispatch_joint p halive heng,
      fun core k sl hcmds hcore hslot => ⟨fun hphase hafter hfaults hgoing => ?_, fun hphase => ?_⟩⟩
    · have hserve := Dev.serve_served hserved hhand
      rw [exec_engineDispatch_alone halive heng]
      refine ⟨fun hne => ?_, fun n hattn hfree => ?_⟩
      · rw [if_neg hne, if_pos (by simpa [Dev.running, hcmds] using room_pos _)] at hserve
        rw [Dev.dispatch_first hcmds hlc hheads hserve]
      · rw [if_pos hattn, hfree, Option.map_some] at hserve
        rw [Dev.dispatch_first hcmds hlc hheads hserve, hattn]
    · show execPreemptSaveDone core s = _
      exact onHall_settled halive (Dev.saveDone_parked hcmds hcore hslot hphase hafter hfaults hgoing)
    · have hrest := Dev.restoreDone_restored hcmds hcore hslot hphase
      have hexec : exec (.restoreDone core) s = .next (s.settled (d.restoreDone core.toNat)) := by
        show execRestoreDone core s = _
        exact onHall_settled halive rfl
      exact ⟨_, hexec, _, rfl, hrest⟩

end Sys2Proof.Machine

/-! # The host interface: register fields, latches, the lock, aliases and the proxy window (chapters 1, 16) -/

namespace Sys2Proof.Machine

/-! ## One field of a write (R11, R13, R425) -/

theorem bits_maskAll {hi lo : Nat} (h : hi < 64) : bits maskAll hi lo = 2 ^ (hi + 1 - lo) - 1 := by
  apply Nat.eq_of_testBit_eq
  intro i
  rw [testBit_bits, maskAll, Nat.testBit_two_pow_sub_one, Nat.testBit_two_pow_sub_one]
  by_cases hi' : i < hi + 1 - lo
  · simp [hi', show lo + i < 64 by omega]
  · simp [hi']

/-- A bit range taken out by its mask and replaced. -/
theorem or_xor_mask {x m n : Nat} (hx : x < 2 ^ n) (hm : m = 2 ^ n - 1) : (x ||| m) ^^^ m = 0 := by
  subst hm
  apply Nat.eq_of_testBit_eq
  intro i
  rw [Nat.testBit_xor, Nat.testBit_or, Nat.testBit_two_pow_sub_one, Nat.zero_testBit]
  by_cases hi : i < n
  · simp [hi]
  · have hlt : x < 2 ^ i := lt_of_lt_of_le hx (Nat.pow_le_pow_right Nat.two_pos (not_lt.1 hi))
    simp [hi, Nat.testBit_lt_two_pow hlt]

/-- A whole write of one field, by its access type. -/
theorem writeField_whole (locked : Bool) (v w : Nat) (viol : Bool) {f : FieldSpec} (hle : f.lo ≤ f.hi) (hhi : f.hi < 64) :
    writeField locked maskAll v (w, viol) f = match f.acc with
      | .rw => if f.admits (bits v f.hi f.lo) then (setBits w f.hi f.lo (bits v f.hi f.lo), viol) else (w, viol)
      | .rwl => if bits v f.hi f.lo = bits w f.hi f.lo ∨ !(f.admits (bits v f.hi f.lo)) then (w, viol)
          else if locked then (w, true) else (setBits w f.hi f.lo (bits v f.hi f.lo), viol)
      | .w1c => (setBits w f.hi f.lo ((bits w f.hi f.lo ||| bits v f.hi f.lo) ^^^ bits v f.hi f.lo), viol)
      | _ => (w, viol) := by
  have hm := bits_maskAll (lo := f.lo) hhi
  have hone : 1 < 2 ^ (f.hi + 1 - f.lo) := Nat.one_lt_two_pow (by omega)
  have hne : ¬ bits maskAll f.hi f.lo = 0 := by omega
  have hx : bits v f.hi f.lo &&& bits maskAll f.hi f.lo = bits v f.hi f.lo := by
    rw [hm, Nat.and_two_pow_sub_one_eq_mod, Nat.mod_eq_of_lt (bits_lt _ _ _)]
  have hnew : ((bits w f.hi f.lo ||| bits maskAll f.hi f.lo) ^^^ bits maskAll f.hi f.lo) ||| bits v f.hi f.lo = bits v f.hi f.lo := by
    rw [or_xor_mask (bits_lt _ _ _) hm, Nat.zero_or]
  simp only [writeField, hx, hnew, if_neg hne]
  cases f.acc <;> rfl

theorem bits_setBits_bits {hi lo : Nat} (h : lo ≤ hi) (w v : Nat) : bits (setBits w hi lo (bits v hi lo)) hi lo = bits v hi lo := by
  rw [bits_setBits_same h, Nat.mod_eq_of_lt (bits_lt _ _ _)]

/-- A whole write of a field leaves the word, or sets the field. -/
theorem writeField_fst (locked : Bool) (v w : Nat) (viol : Bool) {f : FieldSpec} (hle : f.lo ≤ f.hi) (hhi : f.hi < 64) :
    (writeField locked maskAll v (w, viol) f).1 = w ∨ ∃ x, (writeField locked maskAll v (w, viol) f).1 = setBits w f.hi f.lo x := by
  rw [writeField_whole locked v w viol hle hhi]
  cases f.acc
  case rw =>
    dsimp only
    split_ifs
    · exact .inr ⟨_, rfl⟩
    · exact .inl rfl
  case rwl =>
    dsimp only
    split_ifs
    · exact .inl rfl
    · exact .inl rfl
    · exact .inr ⟨_, rfl⟩
  case w1c => exact .inr ⟨_, rfl⟩
  case ro => exact .inl rfl
  case rc => exact .inl rfl
  case wo => exact .inl rfl

/-- A whole write of a field leaves the bits outside it. -/
theorem bit_writeField_outside (locked : Bool) (v w : Nat) (viol : Bool) {f : FieldSpec} (hle : f.lo ≤ f.hi) (hhi : f.hi < 64) {b : Nat}
    (hb : b < f.lo ∨ f.hi < b) : bit (writeField locked maskAll v (w, viol) f).1 b = bit w b := by
  obtain h | ⟨x, h⟩ := writeField_fst locked v w viol hle hhi
  · rw [h]
  · rw [h, bit, testBit_setBits hle, if_neg (by omega), bit]

/-- Settles O24, one access type after the other. -/
theorem writeByAccessType : Obligations.WriteByAccessType := by
  intro locked v w viol f hle hhi hv hw r cur new
  have hr : r = _ := writeField_whole locked v w viol hle hhi
  refine ⟨fun hacc hadm => ?_, fun hacc hadm hlock => ?_, fun hacc hadm hlock hne => ?_, fun hadm hacc => ?_, fun hacc b hb => ?_,
    fun hacc => ?_, fun b hb => bit_writeField_outside locked v w viol hle hhi hb⟩
  · rw [hr, hacc]
    dsimp only
    rw [if_pos hadm]
    exact ⟨bits_setBits_bits hle w v, rfl⟩
  · rw [hr, hacc]
    dsimp only
    split_ifs with hkeep hl
    · exact ⟨(hkeep.resolve_right (by simp [new] at hadm; simp [hadm])).symm, rfl⟩
    · exact absurd hl (by simp [hlock])
    · exact ⟨bits_setBits_bits hle w v, rfl⟩
  · rw [hr, hacc]
    dsimp only
    rw [if_neg (by simp only [new, cur] at hadm hne; simp [hadm, hne]), if_pos hlock]
  · rw [hr]
    simp only [new] at hadm
    rcases hacc with hacc | hacc <;> simp [hacc, hadm]
  · rw [hr, hacc]
    simp only [cur, new]
    have hlt : (bits w f.hi f.lo ||| bits v f.hi f.lo) ^^^ bits v f.hi f.lo < 2 ^ (f.hi + 1 - f.lo) :=
      Nat.xor_lt_two_pow (Nat.or_lt_two_pow (bits_lt _ _ _) (bits_lt _ _ _)) (bits_lt _ _ _)
    rw [bits_setBits_same hle, Nat.mod_eq_of_lt hlt]
    simp only [bit, Nat.testBit_xor, Nat.testBit_or]
    cases (bits w f.hi f.lo).testBit b <;> cases (bits v f.hi f.lo).testBit b <;> rfl
  · rw [hr]
    rcases hacc with hacc | hacc | hacc <;> rw [hacc]

/-! ## The register that the PF reaches (R377, R402) -/

theorem regAt_of_reached {d : Dev} {off : Nat} {r : RegSpec} (h : d.reached' off = some r) : regAt off = some r := by
  unfold Dev.reached' at h
  split_ifs at h
  exact h

theorem ne_base_of_regAt {off : Nat} {r q : RegSpec} (h : regAt off = some r) (hq : regAt q.base = some q) (hne : r.base ≠ q.base) : off ≠ q.base := by
  rintro rfl
  rw [h, Option.some.injEq] at hq
  exact hne (congrArg _ hq)

theorem regAt_glbReset : regAt Reg.GLB_RESET.base = some Reg.GLB_RESET := by decide +kernel

theorem regAt_glbCfgLock : regAt Reg.GLB_CFG_LOCK.base = some Reg.GLB_CFG_LOCK := by decide +kernel

theorem Dev.reached_glbCfgLock {d : Dev} (h : d.open' = true) : d.reached' Reg.GLB_CFG_LOCK.base = some Reg.GLB_CFG_LOCK := by
  have hfused : d.fusedBlock Reg.GLB_CFG_LOCK.base = false := rfl
  rw [Dev.reached', h, hfused, regAt_glbCfgLock]
  rfl

/-- A whole write of the PF below its tables is a write of the register reached, unless it asks for a reset. -/
theorem State.hostWrite_pf {s : State} {off : Nat} {r : RegSpec} (v : Nat) (halign : off % 8 = 0) (hoff : off < msixBase) (hr : s.dev.reached' off = some r)
    (hreset : off ≠ Reg.GLB_RESET.base) (hv : v < 2 ^ 64) :
    s.hostWrite 0 off 8 v = s.settled ((s.dev.unlatch 0 off).regWrite false r off maskAll v) := by
  have ha : aligned off 8 = true := by simp [aligned, halign]
  have hbelow : off < 0x02000000 := by simp only [msixBase] at hoff; omega
  have hmsix : ¬ (s.dev.open' = true ∧ ¬ off < msixBase ∧ off < msixBase + 0x10000) := fun ⟨_, habove, _⟩ => habove hoff
  have hpf : s.dev.hostWrite 0 off 8 v = s.dev.writePf off 8 v := by
    rw [Dev.hostWrite, ha, if_neg (by simp), if_neg (by simp), if_neg (by simpa using hbelow), if_neg hmsix]
  have hwrite : s.dev.writePf off 8 v = (s.dev.unlatch 0 off).regWrite false r off maskAll v := by
    simp only [Dev.writePf, halign, Nat.sub_zero, hr, maskOf, atPlace, if_true, Nat.mod_eq_of_lt hv]
  rw [State.hostWrite, if_neg fun h => hreset h.2.1, hpf, hwrite, State.settled]

/-- A register whose write only stores its fields. -/
theorem Dev.regWrite_plain {d : Dev} {cox : Bool} {r : RegSpec} (h : r.base ∉ writeActs) (off mask v : Nat) :
    d.regWrite cox r off mask v = d.writeReg cox r off mask v := by
  simp only [writeActs, List.map_cons, List.map_nil, List.mem_cons, List.not_mem_nil, or_false, not_or] at h
  obtain ⟨h1, h2, h3, h4, h5, h6, h7, h8, h9, h10, h11, h12, h13, h14, h15, h16, h17, h18, h19, h20, h21, -⟩ := h
  simp only [Dev.regWrite, h1, h2, h3, h4, h5, h6, h7, h8, h9, h10, h11, h12, h13, h14, h15, h16, h17, h18, h19, h20, h21, if_false, or_self]

theorem exec_registerWrite_plain {s : State} {off : BitVec 26} {r : RegSpec} (v : Word) (halive : s.dev.alive = true) (halign : off.toNat % 8 = 0)
    (hoff : off.toNat < msixBase) (hr : s.dev.reached' off.toNat = some r) (hplain : r.base ∉ writeActs) :
    exec (.registerWrite 0 off 8 v) s = .next (s.settled ((s.dev.unlatch 0 off.toNat).writeReg false r off.toNat maskAll v.toNat)) := by
  have hreset : off.toNat ≠ Reg.GLB_RESET.base :=
    ne_base_of_regAt (regAt_of_reached hr) regAt_glbReset fun h => hplain (h ▸ by decide)
  rw [exec_registerWrite _ _ _ _ halive, ← Dev.regWrite_plain hplain]
  exact congrArg _ (State.hostWrite_pf v.toNat halign hoff hr hreset v.isLt)

/-! ## `SET` of the configuration lock (R383) -/

theorem setBits_bits_self {hi lo : Nat} (h : lo ≤ hi) (x : Nat) : setBits x hi lo (bits x hi lo) = x := by
  apply Nat.eq_of_testBit_eq
  intro i
  rw [testBit_setBits h, testBit_bits]
  split_ifs with hi'
  · simp [show i - lo < hi + 1 - lo by omega, show lo + (i - lo) = i by omega]
  · rfl

/-- Writing 2 stores nothing in the lock's register: `VIOL` is not cleared, and `SET` holds no value. -/
theorem Dev.writeReg_set (d : Dev) :
    d.writeReg false Reg.GLB_CFG_LOCK Reg.GLB_CFG_LOCK.base maskAll 2 = d.setWord Reg.GLB_CFG_LOCK.base 0 (d.word Reg.GLB_CFG_LOCK.base 0) := by
  have hfold (locked : Bool) (w : Nat) : Reg.GLB_CFG_LOCK.fields.foldl (writeField locked maskAll 2) (w, false) = (w, false) := by
    simp only [Reg.GLB_CFG_LOCK, List.foldl_cons, List.foldl_nil]
    rw [writeField_whole locked 2 w false (by decide) (by decide)]
    dsimp only
    rw [show bits 2 63 63 = 0 by decide, Nat.or_zero, Nat.xor_zero, setBits_bits_self (Nat.le_refl 63)]
    rw [writeField_whole locked 2 w false (by decide) (by decide)]
    dsimp only
    rw [writeField_whole locked 2 w false (by decide) (by decide)]
    dsimp only
    rw [writeField_whole locked 2 w false (by decide) (by decide)]
  rw [Dev.writeReg, hfold]
  rfl

theorem Dev.get_setWord_self (d : Dev) (f : Fld) (i j : Nat) : (d.setWord (f.off i j) f.wreset (d.word (f.off i j) f.wreset)).get f i j = d.get f i j := by
  rw [Dev.get, Dev.word_setWord_same _ _ _ (d.word_lt _ _), Dev.get]

theorem Dev.regWrite_set (d : Dev) :
    d.regWrite false Reg.GLB_CFG_LOCK Reg.GLB_CFG_LOCK.base maskAll 2
      = (d.setWord Reg.GLB_CFG_LOCK.base 0 (d.word Reg.GLB_CFG_LOCK.base 0)).put Fld.GLB_CFG_LOCK_LOCK 1 := by
  rw [Dev.regWrite, if_pos rfl, if_pos (by decide)]
  dsimp only
  rw [Dev.writeReg_set]

theorem exec_cfgLockSet_open {s : State} (halive : s.dev.alive = true) (hopen : s.dev.open' = true) :
    exec (.cfgLockSet 0) s = .next (s.settled (((s.dev.unlatch 0 Reg.GLB_CFG_LOCK.base).setWord Reg.GLB_CFG_LOCK.base 0
      (s.dev.word Reg.GLB_CFG_LOCK.base 0)).put Fld.GLB_CFG_LOCK_LOCK 1)) := by
  show onState (fun s => s.hostWrite 0 Reg.GLB_CFG_LOCK.base 8 2) s = _
  rw [onState, if_pos halive, State.hostWrite_pf 2 (by decide) (by decide) (Dev.reached_glbCfgLock hopen) (by decide) (by decide), Dev.regWrite_set]
  rfl

/-- Settles O25: the access goes to the register reached; `SET` only puts `LOCK`. -/
theorem registerAccess : Obligations.RegisterAccess := by
  intro s off v r halive d hopen halign hoff hr
  refine ⟨fun hplain => exec_registerWrite_plain v halive halign hoff hr hplain, fun hlog => ?_, fun hcalm => ?_⟩
  · have hread := Dev.hostRead_pf (d := s.dev) (width := 8) (by simp [aligned, halign]) hoff hlog (by rw [halign, Nat.sub_zero]; exact hr)
    rw [halign, Nat.sub_zero] at hread
    rw [exec_rcCounterRead 0 off 8 halive, Dev.answerRead_eq]
    show Host.Outcome.next (s.withDev ((s.dev.hostRead 0 off.toNat 8).2.emit (.readData (s.dev.hostRead 0 off.toNat 8).1))) = _
    rw [hread]
    rfl
  · obtain ⟨-, hwatch⟩ := hcalm
    let e := (s.dev.unlatch 0 Reg.GLB_CFG_LOCK.base).setWord Reg.GLB_CFG_LOCK.base 0 (s.dev.word Reg.GLB_CFG_LOCK.base 0)
    have hsettle : (e.put Fld.GLB_CFG_LOCK_LOCK 1).settle = e.put Fld.GLB_CFG_LOCK_LOCK 1 := Dev.settle_calm hwatch
    have hget (f : Fld) (hoff : f.off 0 0 = Reg.GLB_CFG_LOCK.base) (hreset : f.wreset = 0) : e.get f = d.get f := by
      have h := (s.dev.unlatch 0 Reg.GLB_CFG_LOCK.base).get_setWord_self f 0 0
      rw [hoff, hreset] at h
      exact h
    refine ⟨s.settled (e.put Fld.GLB_CFG_LOCK_LOCK 1), exec_cfgLockSet_open halive hopen, ?_⟩
    rw [State.settled, hsettle]
    refine ⟨Dev.flag_put_one _ _ _ _ (by decide) (by decide), ?_, ?_, ?_, rfl, rfl⟩
    · exact (Dev.get_put_beside _ (by decide) _ _ _).trans (hget _ rfl rfl)
    · exact (Dev.flag_put_beside _ (by decide) _ _ _).trans (congrArg (· == 1) (hget _ rfl rfl))
    · intro x w hx
      rw [List.mem_singleton] at hx
      exact (Dev.word_put_other _ _ _ _ _ hx w).trans (Dev.word_setWord_other _ hx _ _ _)

/-! ## 32-bit reads and their latches (R424) -/

theorem find?_sins {α : Type} (k : Nat) (v : α) (m : List (Nat × α)) : (sins k v m).find? (·.1 == k) = some (k, v) := by
  induction m with
  | nil => simp [sins]
  | cons e m ih =>
    rw [sins]
    split_ifs with hlt heq
    · simp
    · simp
    · rw [List.find?_cons_of_neg (by simpa using Ne.symm heq), ih]

@[simp] theorem Dev.word_unlatch (d : Dev) (fn key off w : Nat) : (d.unlatch fn key).word off w = d.word off w := rfl

/-- A register's `RC` fields in a mask cleared by a read, which ends the register's latch. -/
def Dev.wiped (d : Dev) (fn key at' : Nat) (r : RegSpec) (mask : Nat) : Dev :=
  (d.unlatch fn key).setWord at' r.wreset (r.cleared mask (d.word at' r.wreset))

/-- The device after a read of the lower half of a register that latches. -/
def Dev.latched (d : Dev) (fn key at' : Nat) (r : RegSpec) : Dev :=
  { d.wiped fn key at' r maskAll with
    latch := sins (latchKey fn key) (r.shown (d.liveWord r at') / 2 ^ 32 % 2 ^ 32) (d.unlatch fn key).latch }

/-- A 32-bit read of a lower half. -/
theorem Dev.readReg_lower (d : Dev) (fn key at' : Nat) (r : RegSpec) {off : Nat} (h : off % 8 = 0) :
    d.readReg fn key r at' off 4 = (r.shown (d.liveWord r at') % 2 ^ 32,
      if r.latches then d.latched fn key at' r else d.wiped fn key at' r maskLow) := by
  unfold Dev.readReg
  cases r.latches
  · simp [h, halfOf, maskOf, Dev.wiped]
  · simp [h, Dev.latched, Dev.wiped, Dev.setWord]

/-- A 32-bit read of an upper half that is not latched. -/
theorem Dev.readReg_upper {d : Dev} {fn key : Nat} {r : RegSpec} (hfree : r.latches = false ∨ d.latch = []) (at' : Nat) {off : Nat} (h : off % 8 ≠ 0) :
    d.readReg fn key r at' off 4 = (r.shown (d.liveWord r at') / 2 ^ 32 % 2 ^ 32,
      d.wiped fn key at' r maskHigh) := by
  unfold Dev.readReg
  rcases hfree with hl | hl
  · simp [h, hl, halfOf, maskOf, Dev.wiped]
  · cases r.latches <;> simp [h, hl, halfOf, maskOf, Dev.wiped]

/-- A 32-bit read of an upper half that is latched: it shows the latch, and the register stays. -/
theorem Dev.readReg_latched {d : Dev} {fn key v : Nat} {r : RegSpec} (hl : r.latches = true) (hheld : d.latch.find? (·.1 == latchKey fn key) = some (latchKey fn key, v))
    (at' : Nat) {off : Nat} (h : off % 8 ≠ 0) : d.readReg fn key r at' off 4 = (v, d.unlatch fn key) := by
  unfold Dev.readReg
  simp [h, hl, hheld]

theorem Dev.word_setWord_mod (d : Dev) (off w v : Nat) : (d.setWord off w v).word off w = v % 2 ^ 64 := by
  simp [Dev.word, Dev.setWord]

/-- A 32-bit read by the PF of a register outside its tables. -/
theorem exec_rcCounterRead_half {s : State} {off : BitVec 26} {r : RegSpec} (halive : s.dev.alive = true) (halign : off.toNat % 4 = 0)
    (hoff : off.toNat < msixBase) (hlog : off.toNat < logWindow ∨ logWindow + 0x40000 ≤ off.toNat)
    (hr : s.dev.reached' (off.toNat - off.toNat % 8) = some r) {v : Nat} {e : Dev}
    (hread : s.dev.readReg 0 (off.toNat - off.toNat % 8) r (off.toNat - off.toNat % 8) off.toNat 4 = (v, e)) :
    exec (.rcCounterRead 0 off 4) s = .next (s.withDev (e.emit (.readData v))) := by
  have hpf := Dev.hostRead_pf (d := s.dev) (width := 4) (by simp [aligned, halign]) hoff hlog hr
  rw [exec_rcCounterRead 0 off 4 halive, Dev.answerRead_eq]
  show Host.Outcome.next (s.withDev ((s.dev.hostRead 0 off.toNat 4).2.emit (.readData (s.dev.hostRead 0 off.toNat 4).1))) = _
  rw [hpf, hread]

/-- Settles O28: the lower half of a latching register clears it and latches; the upper half is then read from the latch. -/
theorem latchedReads : Obligations.LatchedReads := by
  intro s off r halive d o w wiped after halign hoff hlog hr
  have hsum : (off + 4).toNat = o + 4 := by
    rw [BitVec.toNat_add, show (4 : BitVec 26).toNat = 4 from rfl, Nat.mod_eq_of_lt (by omega)]
  have hbase : o + 4 - (o + 4) % 8 = o := by omega
  have hplace : (off + 4).toNat % 4 = 0 ∧ (off + 4).toNat < msixBase ∧ ((off + 4).toNat < logWindow ∨ logWindow + 0x40000 ≤ (off + 4).toNat)
      ∧ (off + 4).toNat % 8 ≠ 0 := by
    simp only [hsum, msixBase]
    simp only [logWindow] at hlog ⊢
    omega
  obtain ⟨halign4, hoff4, hlog4, hodd⟩ := hplace
  have hword (mask : Nat) : (d.wiped 0 o o r mask).word o r.wreset = wiped mask := Dev.word_setWord_mod _ _ _ _
  have hbut (mask : Nat) : Dev.sameRegsBut [o] d (d.wiped 0 o o r mask) := fun x w' hx => Dev.word_setWord_other _ (by simpa using hx) _ _ _
  have hlower {v : Nat} {e : Dev} (hread : d.readReg 0 o r o o 4 = (v, e)) : exec (.rcCounterRead 0 off 4) s = .next (s.withDev (e.emit (.readData v))) := by
    have hat : off.toNat - off.toNat % 8 = o := by omega
    exact exec_rcCounterRead_half halive (by omega) hoff hlog (hat ▸ hr) (by rw [hat]; exact hread)
  have hupper {t : State} {v : Nat} {e : Dev} (halive : t.dev.alive = true) (hr : t.dev.reached' o = some r)
      (hread : t.dev.readReg 0 o r o (o + 4) 4 = (v, e)) : exec (.rcCounterRead 0 (off + 4) 4) t = .next (t.withDev (e.emit (.readData v))) :=
    exec_rcCounterRead_half halive halign4 hoff4 hlog4 (by rw [hsum, hbase]; exact hr) (by rw [hsum, hbase]; exact hread)
  constructor
  · by_cases hl : r.latches = true
    · have hread := d.readReg_lower 0 o o r halign
      rw [if_pos hl] at hread
      refine ⟨_, hlower hread, ⟨hbut maskAll, rfl, rfl, rfl⟩, ?_, fun _ hr' => ?_⟩
      · rw [if_pos hl]
        exact hword maskAll
      · have hemit : ((d.latched 0 o o r).emit (.readData (w % 2 ^ 32))).readReg 0 o r o (o + 4) 4
            = (w / 2 ^ 32 % 2 ^ 32, ((d.latched 0 o o r).emit (.readData (w % 2 ^ 32))).unlatch 0 o) :=
          Dev.readReg_latched hl (find?_sins _ _ _) o (hsum ▸ hodd)
        exact ⟨_, hupper halive hr' hemit, rfl, rfl⟩
    · have hread := d.readReg_lower 0 o o r halign
      rw [if_neg hl] at hread
      refine ⟨_, hlower hread, ⟨hbut maskLow, rfl, rfl, rfl⟩, ?_, fun h => absurd h hl⟩
      rw [if_neg hl]
      exact hword maskLow
  · intro hfree
    have hread := Dev.readReg_upper (d := d) (fn := 0) (key := o) hfree o (hsum ▸ hodd)
    exact ⟨_, hupper halive hr hread, ⟨hbut maskHigh, rfl, rfl, rfl⟩, hword maskHigh⟩

/-! ## The lock refuses a change (R13, R383) -/

/-- Two fields of a register that share no bit. -/
abbrev FieldSpec.Apart (f g : FieldSpec) : Prop := g.hi < f.lo ∨ f.hi < g.lo

/-- The fields of every register lie in its word, and apart from each other. -/
theorem regTable_fields_apart : ∀ r ∈ regTable, ∀ f ∈ r.fields, f.lo ≤ f.hi ∧ f.hi < 64 ∧ ∀ g ∈ r.fields, f = g ∨ f.Apart g := by decide +kernel

section Locked

variable {v : Nat} {g : FieldSpec}

/-- With the lock set, writing a field leaves an `RWL` field, that one included. -/
theorem bits_writeField_locked {f : FieldSpec} {w : Nat} {viol : Bool} (hle : f.lo ≤ f.hi) (hhi : f.hi < 64) (hapart : f.acc = .rwl ∨ f.Apart g) :
    bits (writeField true maskAll v (w, viol) f).1 g.hi g.lo = bits w g.hi g.lo := by
  rcases hapart with hacc | hapart
  · rw [writeField_whole true v w viol hle hhi, hacc]
    dsimp only
    rw [if_pos rfl]
    split_ifs <;> rfl
  · obtain h | ⟨x, h⟩ := writeField_fst true v w viol hle hhi
    · rw [h]
    · rw [h, bits_setBits_other hle hapart]

variable {fs : List FieldSpec} (hfs : ∀ f ∈ fs, f.lo ≤ f.hi ∧ f.hi < 64)
include hfs

theorem bits_foldl_locked (hapart : ∀ f ∈ fs, f.acc = .rwl ∨ f.Apart g) (r : Nat × Bool) :
    bits (fs.foldl (writeField true maskAll v) r).1 g.hi g.lo = bits r.1 g.hi g.lo := by
  induction fs generalizing r with
  | nil => rfl
  | cons f fs ih =>
    simp only [List.forall_mem_cons] at hfs hapart
    rw [List.foldl_cons, ih hfs.2 hapart.2, bits_writeField_locked hfs.1.1 hfs.1.2 hapart.1]

theorem foldl_writeField_lt (locked : Bool) {r : Nat × Bool} (hr : r.1 < 2 ^ 64) : (fs.foldl (writeField locked maskAll v) r).1 < 2 ^ 64 := by
  induction fs generalizing r with
  | nil => exact hr
  | cons f fs ih =>
    simp only [List.forall_mem_cons] at hfs
    rw [List.foldl_cons]
    apply ih hfs.2
    obtain h | ⟨x, h⟩ := writeField_fst locked v r.1 r.2 hfs.1.1 hfs.1.2
    · exact h ▸ hr
    · exact h ▸ setBits_lt hfs.1.1 hfs.1.2 hr

/-- A violation once noted stays. -/
theorem foldl_writeField_viol (w : Nat) : (fs.foldl (writeField true maskAll v) (w, true)).2 = true := by
  induction fs generalizing w with
  | nil => rfl
  | cons f fs ih =>
    simp only [List.forall_mem_cons] at hfs
    have hkeep : (writeField true maskAll v (w, true) f).2 = true := by
      rw [writeField_whole true v w true hfs.1.1 hfs.1.2]
      cases f.acc <;> dsimp only <;> split_ifs <;> rfl
    rw [List.foldl_cons, show writeField true maskAll v (w, true) f = ((writeField true maskAll v (w, true) f).1, true) from Prod.ext rfl hkeep, ih hfs.2]

/-- A change of an `RWL` field under the lock is noted. -/
theorem foldl_writeField_refused (hapart : ∀ f ∈ fs, f.acc = .rwl ∨ f.Apart g) (hg : g ∈ fs) (hacc : g.acc = .rwl)
    (hadm : g.admits (bits v g.hi g.lo) = true) (w : Nat) (viol : Bool) (hne : bits v g.hi g.lo ≠ bits w g.hi g.lo) :
    (fs.foldl (writeField true maskAll v) (w, viol)).2 = true := by
  induction fs generalizing w viol with
  | nil => cases hg
  | cons f fs ih =>
    simp only [List.forall_mem_cons] at hfs hapart
    rw [List.foldl_cons]
    rcases List.mem_cons.1 hg with rfl | hmem
    · have hstep : writeField true maskAll v (w, viol) g = (w, true) := by
        rw [writeField_whole true v w viol hfs.1.1 hfs.1.2, hacc]
        dsimp only
        rw [if_neg (by simp [hadm, hne]), if_pos rfl]
      rw [hstep, foldl_writeField_viol hfs.2]
    · have hkeep := bits_writeField_locked (v := v) (w := w) (viol := viol) hfs.1.1 hfs.1.2 hapart.1
      exact ih hfs.2 hapart.2 hmem _ _ (hkeep ▸ hne)

end Locked

/-- A record while the FIFO has room and nothing is pending. -/
theorem Dev.logEv_room {d : Dev} (hpending : d.log.pending = 0) (hfifo : d.log.fifo.length < 64) (code src data : Nat) :
    ∃ e : LogEv, d.logEv code src data = { d with log := { d.log with fifo := d.log.fifo ++ [e] } } ∧ e.code = code ∧ e.src = src ∧ e.data = data % 2 ^ 64 :=
  ⟨⟨d.clk.cnt, code, src, d.clk.ppsHold, d.strokeLost, d.stroke32, d.angle, data % 2 ^ 64⟩, by rw [Dev.logEv, if_pos ⟨hpending, hfifo⟩], rfl, rfl, rfl⟩

/-- The lock's register after a refused write of the register at `off`. -/
def Dev.noted (d : Dev) (off : Nat) : Dev :=
  (if d.flag Fld.GLB_CFG_LOCK_VIOL then d else d.put Fld.GLB_CFG_LOCK_VIOL_OFF off).put Fld.GLB_CFG_LOCK_VIOL 1

theorem Dev.lockViolation_eq (d : Dev) (off : Nat) : d.lockViolation off = (d.noted off).logEv evLockViolation mHost off := rfl

theorem Dev.noted_rest (d : Dev) (off : Nat) :
    (d.noted off).log = d.log ∧ (d.noted off).watches = d.watches ∧ (d.noted off).dram = d.dram ∧ (d.noted off).hall = d.hall := by
  rw [Dev.noted, Dev.put_log, Dev.put_watches, Dev.put_dram, Dev.put_hall]
  split_ifs
  · exact ⟨rfl, rfl, rfl, rfl⟩
  · rw [Dev.put_log, Dev.put_watches, Dev.put_dram, Dev.put_hall]
    exact ⟨rfl, rfl, rfl, rfl⟩

theorem Dev.noted_viol (d : Dev) (off : Nat) : (d.noted off).flag Fld.GLB_CFG_LOCK_VIOL = true := Dev.flag_put_one _ _ _ _ (by decide) (by decide)

theorem Dev.noted_violOff (d : Dev) {off : Nat} (hoff : off < 2 ^ 26) :
    (d.noted off).get Fld.GLB_CFG_LOCK_VIOL_OFF = (if d.flag Fld.GLB_CFG_LOCK_VIOL then d.get Fld.GLB_CFG_LOCK_VIOL_OFF else off) := by
  rw [Dev.noted, Dev.get_put_beside _ (by decide)]
  split_ifs
  · rfl
  · rw [Dev.get_put_same _ _ _ _ _ (by decide) (by decide)]
    exact Nat.mod_eq_of_lt hoff

theorem Dev.noted_regs (d : Dev) (off : Nat) : Dev.sameRegsBut [Reg.GLB_CFG_LOCK.base] d (d.noted off) := by
  intro x w hx
  have hne : x ≠ Reg.GLB_CFG_LOCK.base := by simpa using hx
  rw [Dev.noted, Dev.word_put_other _ _ _ _ _ hne]
  split_ifs
  · rfl
  · exact Dev.word_put_other _ _ _ _ _ hne w

/-- Settles O29: no `RWL` field moves, the change asked for is noted, and nothing but the register and the lock's is touched. -/
theorem lockedWrites : Obligations.LockedWrites := by
  intro s off v r f ⟨halive, hwatch⟩ d o cur hopen hoff hr hplain hlock hf hacc hadm hne hpending hfifo
  have hmem := mem_regTable_of_regAt (regAt_of_reached hr)
  have hfields := regTable_fields_apart r hmem
  have hin : ∀ f ∈ r.fields, f.lo ≤ f.hi ∧ f.hi < 64 := fun f hf => ⟨(hfields f hf).1, (hfields f hf).2.1⟩
  have hapart {g : FieldSpec} (hg : g ∈ r.fields) (hgacc : g.acc = .rwl) : ∀ f ∈ r.fields, f.acc = .rwl ∨ f.Apart g := fun f hf =>
    ((hfields f hf).2.2 g hg).imp_left fun (h : f = g) => h ▸ hgacc
  have hlockoff : o ≠ Reg.GLB_CFG_LOCK.base := ne_base_of_regAt (regAt_of_reached hr) regAt_glbCfgLock fun h => hplain (h ▸ by decide)
  obtain ⟨w, hw⟩ : ∃ w, w = (r.fields.foldl (writeField true maskAll v.toNat) (d.word o r.wreset, false)).1 := ⟨_, rfl⟩
  have hviol := foldl_writeField_refused hin (hapart hf hacc) hf hacc hadm (d.word o r.wreset) false hne
  obtain ⟨e, he⟩ : ∃ e, e = (d.unlatch 0 o).setWord o r.wreset w := ⟨_, rfl⟩
  have hwrite : (d.unlatch 0 o).writeReg false r o maskAll v.toNat = e.lockViolation o := by
    have hflag : (!false && (d.unlatch 0 o).flag Fld.GLB_CFG_LOCK_LOCK) = true := hlock
    rw [Dev.writeReg, hflag, Dev.word_unlatch]
    dsimp only
    rw [if_pos hviol, he, hw]
  have hget (g : Fld) (hg : g.off 0 0 = Reg.GLB_CFG_LOCK.base) : e.get g = d.get g := by
    rw [he, Dev.get, Dev.word_setWord_other _ (by rw [hg]; exact hlockoff.symm)]
    rfl
  obtain ⟨hnlog, hnwatch, hndram, hnhall⟩ := e.noted_rest o
  have helog : e.log = d.log := by rw [he]; rfl
  obtain ⟨ev, hev, hcode, -, hdata⟩ := Dev.logEv_room (d := e.noted o) (by rw [hnlog, helog]; exact hpending) (by rw [hnlog, helog]; exact hfifo)
    evLockViolation mHost o
  rw [e.lockViolation_eq, hev] at hwrite
  obtain ⟨n, hn⟩ : ∃ n, n = e.noted o := ⟨_, rfl⟩
  rw [← hn] at hwrite hnlog hnwatch hndram hnhall
  refine ⟨s.withDev { n with log := { n.log with fifo := n.log.fifo ++ [ev] } }, ev, ?_, ?_⟩
  · have hsettle : ({ n with log := { n.log with fifo := n.log.fifo ++ [ev] } } : Dev).settle = { n with log := { n.log with fifo := n.log.fifo ++ [ev] } } :=
      Dev.settle_calm (by rw [hnwatch, he]; exact hwatch)
    rw [exec_registerWrite_plain v halive (Nat.mod_eq_zero_of_dvd (dvd_of_regAt (regAt_of_reached hr))) hoff hr hplain]
    rw [show (s.dev.unlatch 0 off.toNat).writeReg false r off.toNat maskAll v.toNat = _ from hwrite, State.settled, hsettle]
    rfl
  have hbut : Dev.sameRegsBut [Reg.GLB_CFG_LOCK.base] e n := hn ▸ e.noted_regs o
  refine ⟨fun g hg hgacc => ?_, ?_, ?_, ?_, hcode, ?_, ?_, ?_, ?_⟩
  · have hbits := bits_foldl_locked (v := v.toNat) hin (hapart hg hgacc) (d.word o r.wreset, false)
    have hlt : w < 2 ^ 64 := hw ▸ foldl_writeField_lt hin true (d.word_lt _ _)
    show bits (n.word o r.wreset) g.hi g.lo = bits (d.word o r.wreset) g.hi g.lo
    rw [hbut o _ (by simpa using hlockoff), he, Dev.word_setWord_same _ _ _ hlt, hw, hbits]
  · show n.flag Fld.GLB_CFG_LOCK_VIOL = true
    rw [hn, Dev.noted_viol]
  · show n.get Fld.GLB_CFG_LOCK_VIOL_OFF = _
    rw [hn, Dev.noted_violOff e (by omega), Dev.flag, Dev.flag, hget _ rfl, hget _ rfl]
  · show n.log.fifo ++ [ev] = _
    rw [hnlog, helog]
  · rw [hdata, Nat.mod_eq_of_lt (by omega)]
  · intro x w' hx
    rw [List.mem_cons, not_or] at hx
    exact (hbut x w' hx.2).trans (by rw [he]; exact Dev.word_setWord_other _ hx.1 _ _ _)
  · show n.dram = _
    rw [hndram, he]
    rfl
  · show n.hall = _
    rw [hnhall, he]
    rfl

/-! ## The aliases and the proxy window (R394 to R398) -/

section Alias

variable {s : State} (halive : s.dev.alive = true) (group : Bool) {off : BitVec 24} (v : Word)

/-- The offset within BAR0 of a broadcast access, and what it selects. -/
theorem aliasOffset (off : BitVec 24) : let a := (if group then 0x03000000 else 0x02000000) + off.toNat
    ¬ a < 0x02000000 ∧ a % 0x1000000 = off.toNat ∧ a % 8 = off.toNat % 8 ∧ (!decide (a < 0x03000000)) = group := by
  have := off.isLt
  cases group <;> simp <;> omega

include halive

theorem exec_aliasAccess_write (halign : off.toNat % 8 = 0) :
    exec (.aliasAccess group off 8 true v) s
      = .next (s.settled ((s.dev.aliasOffs group off.toNat).foldl (fun (d : Dev) o => d.writePf o 8 v.toNat) s.dev)) := by
  obtain ⟨hhigh, hmod, halign', hgroup⟩ := aliasOffset group off
  have hreset : (if group then 0x03000000 else 0x02000000) + off.toNat ≠ Reg.GLB_RESET.base := fun h => hhigh (h ▸ by decide)
  have ha : aligned ((if group then 0x03000000 else 0x02000000) + off.toNat) 8 = true := by simp [aligned, halign', halign]
  show execAliasAccess group off 8 true v s = _
  rw [execAliasAccess, onState, if_pos halive, if_pos rfl]
  refine congrArg _ ?_
  show s.hostWrite 0 _ 8 v.toNat = _
  rw [State.hostWrite, if_neg fun h => hreset h.2.1, Dev.hostWrite, ha, if_neg (by simp), if_neg (by simp), if_pos hhigh, hmod, hgroup, State.settled]

theorem exec_aliasAccess_read (halign : off.toNat % 8 = 0) :
    exec (.aliasAccess group off 8 false v) s = .next (s.withDev (s.dev.emit (.readData (s.dev.readAlias group off.toNat 8)))) := by
  obtain ⟨hhigh, hmod, halign', hgroup⟩ := aliasOffset group off
  have ha : aligned ((if group then 0x03000000 else 0x02000000) + off.toNat) 8 = true := by simp [aligned, halign', halign]
  have hread : s.dev.hostRead 0 ((if group then 0x03000000 else 0x02000000) + off.toNat) 8 = (s.dev.readAlias group off.toNat 8, s.dev) := by
    rw [Dev.hostRead, ha, if_neg (by simp), if_neg (by simp), if_pos hhigh, hmod, hgroup]
  show execAliasAccess group off 8 false v s = _
  rw [execAliasAccess, onState, if_pos halive, if_neg (by simp)]
  refine congrArg _ ?_
  show s.withDev (s.dev.answerRead 0 _ 8) = _
  rw [Dev.answerRead_eq, hread]

end Alias

/-- An access of 8 bytes to a member's slot that is a plain read or write (R394, R395). -/
theorem exec_proxyAccess_member {s : State} (halive : s.dev.alive = true) (hopen : s.dev.open' = true)
    (hhead : s.dev.flag Fld.GLB_PROXY_CFG_HEAD = true) {m x : Nat} {off : BitVec 35} (hoff : off.toNat = m * 0x20000000 + x) (hm : 0 < m)
    (hx : x < 0x20000000) (kind : AccessKind) (data : List Byte) (answer : Option Word) :
    exec (.proxyAccess off 8 kind data answer) s = .next (s.withDev (s.dev.proxyMember m x 8 kind data (answer.map BitVec.toNat))) := by
  have hdiv : off.toNat / 0x20000000 = m := by omega
  have hmod : off.toNat % 0x20000000 = x := by omega
  show execProxyAccess off 8 kind data answer s = _
  rw [execProxyAccess, onState, if_pos halive]
  refine congrArg _ ?_
  dsimp only
  rw [hdiv, hmod, hopen, hhead, if_neg (by simp), if_neg (by omega)]
  rfl

theorem Dev.proxyMember_mapped {d : Dev} {m : Nat} (hmap : d.flag Fld.GLB_PROXY_MAP_VALID m = true) (x width : Nat) (data : List Byte)
    (answer : Option Nat) :
    d.proxyMember m x width .write data answer = d.ctrl (d.get Fld.GLB_PROXY_MAP_NODE m) (.proxy m x true data)
    ∧ d.proxyMember m x width .read data answer = (d.ctrl (d.get Fld.GLB_PROXY_MAP_NODE m) (.proxy m x false data)).proxyAnswer m width answer := by
  constructor
  · simp [Dev.proxyMember, hmap]
    rfl
  · simp [Dev.proxyMember, hmap]

theorem Dev.proxyMember_unmapped {d : Dev} {m : Nat} (hmap : d.flag Fld.GLB_PROXY_MAP_VALID m = false) (x width : Nat) (data : List Byte)
    (answer : Option Nat) :
    d.proxyMember m x width .write data answer = d ∧ d.proxyMember m x width .read data answer = d.emit (.readData 0) := by
  constructor <;> simp [Dev.proxyMember, hmap]

theorem exec_proxyReadTimeout_due {s : State} {slot : BitVec 6} {t : BitVec 64} {p : ProxyRead} (halive : s.dev.alive = true)
    (hproxy : (s.dev.advanceTo t.toNat).proxy = [p]) (hslot : p.slot = slot.toNat)
    (hdue : p.at' + 1000 * atLeast1 ((s.dev.advanceTo t.toNat).get Fld.GLB_PROXY_CFG_TMO) ≤ (s.dev.advanceTo t.toNat).ns) :
    exec (.proxyReadTimeout slot t) s = .next (s.withDev ((((({ s.dev.advanceTo t.toNat with proxy := [] } : Dev).emit
      (.readData (2 ^ (8 * min 8 p.width) - 1))).bump Fld.GLB_PROXY_STAT_TIMEOUTS).logEv evProxyTimeout mHost p.slot))) := by
  show execProxyReadTimeout slot t s = _
  rw [execProxyReadTimeout, onDev_alive halive]
  have hfind : (s.dev.advanceTo t.toNat).proxy.find? (fun p => p.slot == slot.toNat
      && decide (p.at' + 1000 * atLeast1 ((s.dev.advanceTo t.toNat).get Fld.GLB_PROXY_CFG_TMO) ≤ (s.dev.advanceTo t.toNat).ns)) = some p := by
    simp [hproxy, hslot, hdue]
  dsimp only
  rw [hfind, hproxy]
  dsimp only
  rw [List.erase_cons_head]
  rfl

section MemberRequest

variable {s : State} {slot : BitVec 6} (halive : s.dev.alive = true) (hhead : s.dev.flag Fld.GLB_PROXY_CFG_HEAD = true) (hslot : slot ≠ 0)
  (hmap : s.dev.flag Fld.GLB_PROXY_MAP_VALID slot.toNat = true)
include halive hhead hslot hmap

/-- A member's request in a slot that is mapped: the guard of R396 holds. -/
theorem exec_memberHostRequest_mapped (r : MemberReq) :
    exec (.memberHostRequest slot r) s = .next (s.withDev (match r with
      | .write a data => s.dev.hostPut 0 a.toNat data
      | .read _ _ => s.dev.emit (.hostRequest r slot.toNat)
      | .msix v => if v.toNat < 32 then s.dev.raise 0 (2048 + 32 * slot.toNat + v.toNat) else s.dev)) := by
  have hpos : slot.toNat ≠ 0 := fun h => hslot (BitVec.eq_of_toNat_eq h)
  show execMemberHostRequest slot r s = _
  rw [execMemberHostRequest, onDev_alive halive]
  dsimp only
  rw [if_neg (by simp [hhead, hpos, hmap])]
  cases r <;> rfl

end MemberRequest

/-- Settles O30, access by access. -/
theorem aliasesAndProxy : Obligations.AliasesAndProxy := by
  intro s halive d
  refine ⟨fun group off v halign => ⟨exec_aliasAccess_write halive group v halign, exec_aliasAccess_read halive group v halign⟩, ?_,
    fun slot t p hproxy hslot hdue => exec_proxyReadTimeout_due halive hproxy hslot hdue, ?_⟩
  · intro m x off data a hopen hhead hm _ hx hoff
    have hexec := exec_proxyAccess_member halive hopen hhead hoff hm hx
    refine ⟨fun hmap => ⟨?_, ?_⟩, fun hmap => ⟨?_, ?_⟩⟩
    · rw [hexec, (Dev.proxyMember_mapped hmap x 8 data _).1]
    · rw [hexec, (Dev.proxyMember_mapped hmap x 8 data _).2]
      rfl
    · rw [hexec, (Dev.proxyMember_unmapped hmap x 8 data _).1]
      rfl
    · rw [hexec, (Dev.proxyMember_unmapped hmap x 8 data _).2]
  · intro slot a len v data hhead hslot hmap
    have hexec := exec_memberHostRequest_mapped halive hhead hslot hmap
    exact ⟨hexec _, hexec _, fun hv => (hexec (.msix v)).trans (by simp only [hv, if_true]; rfl)⟩

end Sys2Proof.Machine

/-! # The board: power, clocks and temperatures (chapters 16, 18) -/

namespace Sys2Proof.Machine

/-! ## Full reset, held (R411, R413, R415) -/

/-- `t` is `s` in full reset and held there: what hangs on no power of the device, and what the host holds, is as it was. -/
def State.heldAs (s t : State) : Prop :=
  t.dev.elec.held = true ∧ t.nvm = s.nvm ∧ t.fuse = s.fuse ∧ t.pending = s.pending ∧ t.dev.regs = (Dev.reset s.fuse).regs ∧ t.dev.dram = [] ∧ t.dev.hall = []
    ∧ t.dev.cmds = [] ∧ t.dev.host = s.dev.host

theorem State.heldAs_hold (s : State) (f : Elec → Elec) : s.heldAs (s.withElec f).hold := ⟨rfl, rfl, rfl, rfl, rfl, rfl, rfl, rfl, rfl⟩

/-- The end of a thermal trip concerns the pins alone. -/
theorem State.coolDown_pins (s : State) : ∃ elec out, s.coolDown = { s with dev := { s.dev with elec := elec, out := out } }
    ∧ elec.held = s.dev.elec.held ∧ elec.pwrgd = s.dev.elec.pwrgd := by
  rw [State.coolDown]
  split_ifs
  · exact ⟨_, _, rfl, rfl, rfl⟩
  · exact ⟨_, _, rfl, rfl, rfl⟩

theorem State.heldAs_coolDown {s t : State} (h : s.heldAs t) : s.heldAs t.coolDown := by
  obtain ⟨elec, out, hcool, hheld, -⟩ := t.coolDown_pins
  obtain ⟨hin, hrest⟩ := h
  rw [hcool]
  exact ⟨hheld.trans hin, hrest⟩

theorem State.coolDown_pwrgd (s : State) : s.coolDown.dev.elec.pwrgd = s.dev.elec.pwrgd := by
  obtain ⟨elec, out, hcool, -, hpwrgd⟩ := s.coolDown_pins
  rw [hcool]
  exact hpwrgd

/-- Nothing holds the device any longer. -/
theorem State.letGo_free {s : State} (hheld : s.dev.elec.held = true) (hpwrgd : s.dev.elec.pwrgd = true) (hperst : s.dev.elec.perstN = true)
    (hsysref : s.dev.elec.sysref = true) (htrip : s.dev.elec.trip = false) : s.letGo = s.withElec fun e => { e with held := false, stopped := false } := by
  rw [State.letGo, if_pos (by simp [hheld, hpwrgd, hperst, hsysref, htrip])]

/-! ## The end of a thermal trip, and the refresh of a stack (R419, R420) -/

theorem State.coolDown_cold {s : State} (htrip : s.dev.elec.trip = true) (hpwrgd : s.dev.elec.pwrgd = false) (htj : s.dev.elec.tj < 95) :
    s.coolDown = (s.withElec fun e => { e with trip := false }).withDev ((s.withElec fun e => { e with trip := false }).dev.emit (.thermtrip false)) := by
  rw [State.coolDown, if_pos (by simp [htrip, hpwrgd, htj])]
  rfl

theorem exec_thermtrip_hot {s : State} {tj : BitVec 8} (hhot : 112 ≤ tj.toInt) (htrip : s.dev.elec.trip = false) :
    exec (.thermtrip tj) s = .next (s.withDev (({ s.dev with elec := { s.dev.elec with tj := tj.toInt, trip := true, stopped := true } } : Dev).emit
      (.thermtrip true))) := by
  show execThermtrip tj s = _
  rw [execThermtrip]
  dsimp only
  rw [if_neg]
  · rfl
  · rintro (hcold | hwas)
    · simp only [tripTemp] at hcold
      omega
    · exact absurd (htrip.symm.trans hwas) (by decide)

theorem exec_thermtripRelease_cold {s : State} {tj : BitVec 8} (hcold : tj.toInt < 95) (htrip : s.dev.elec.trip = true)
    (hpwrgd : s.dev.elec.pwrgd = false) :
    exec (.thermtripRelease tj) s = .next (s.withDev (({ s.dev with elec := { s.dev.elec with tj := tj.toInt, trip := false } } : Dev).emit
      (.thermtrip false))) := by
  show execThermtripRelease tj s = _
  rw [execThermtripRelease, State.coolDown_cold (s := s.withElec fun e => { e with tj := tj.toInt }) htrip hpwrgd hcold]
  rfl

/-- Settles O53, pin by pin and threshold by threshold. -/
theorem boardResetsAndTemperatures : Obligations.BoardResetsAndTemperatures := by
  refine ⟨fun s => ⟨⟨_, rfl, s.heldAs_hold _, rfl⟩, ⟨_, rfl, State.heldAs_coolDown (s.heldAs_hold _), State.coolDown_pwrgd _⟩,
    ⟨_, rfl, State.heldAs_coolDown (s.heldAs_hold _)⟩, ⟨_, rfl, State.heldAs_coolDown (s.heldAs_hold _)⟩, fun rail us hrail hus => ?_, fun ns hns => ?_, ?_⟩,
    fun s tj th => ⟨⟨fun hwas hnow => ?_, fun hnot => ?_⟩, fun hhot htrip => ?_, fun hcold htrip hpwrgd => ?_, fun stack halive hlen => ?_⟩⟩
  · exact ⟨_, congrArg Host.Outcome.next (if_pos ⟨hrail, hus⟩), s.heldAs_hold id⟩
  · exact ⟨_, congrArg Host.Outcome.next (if_pos hns), s.heldAs_hold _, rfl⟩
  · intro hheld htrip
    refine ⟨fun hsysref => ?_, fun ns hpwrgd hperst hns => ?_⟩
    · exact congrArg Host.Outcome.next (State.letGo_free (s := s.withElec fun e => { e with pwrgd := true, perstN := true }) hheld rfl rfl hsysref htrip)
    · show Host.Outcome.next _ = _
      rw [if_pos (by omega)]
      exact congrArg Host.Outcome.next (State.letGo_free (s := s.withElec fun e => { e with sysref := true }) hheld hpwrgd hperst rfl htrip)
  · exact congrArg Host.Outcome.next (if_pos ⟨hwas, hnow⟩)
  · exact congrArg Host.Outcome.next (if_neg fun h => hnot.elim (fun hle => absurd h.1 (not_lt.2 hle)) fun hlt => absurd h.2 (not_le.2 hlt))
  · exact ⟨_, exec_thermtrip_hot hhot htrip, rfl, Bool.and_false _, rfl, rfl, rfl, rfl⟩
  · exact ⟨_, exec_thermtripRelease_cold hcold htrip hpwrgd, rfl, rfl, rfl, rfl, rfl⟩
  · refine ⟨_, congrArg Host.Outcome.next (if_pos halive), ?_, rfl, rfl, rfl⟩
    show (s.dev.elec.refresh.set stack.toNat (decide (85 < tj.toInt))).getD stack.toNat false = decide (85 < tj.toInt)
    have hlt : stack.toNat < s.dev.elec.refresh.length := hlen ▸ stack.isLt
    simp [List.getD_eq_getElem?_getD, hlt]

end Sys2Proof.Machine

/-! # The fault manager's instructions (chapter 16) -/

namespace Sys2Proof.Machine

theorem provided_holds {ok : Bool} (h : ok = true) (d : Dev) (f : Dev → Dev) : provided ok d f = (f d, stOK) := if_pos h

theorem provided_fails {ok : Bool} (h : ok = false) (d : Dev) (f : Dev → Dev) : provided ok d f = (d, stAborted) := if_neg (by simp [h])

/-! ## An instruction taken in (R386, R387) -/

section Taken

variable {s : State} {h : MgmtHdr} (hacc : s.dev.accepts h = true)
include hacc

theorem State.mgmt_again {st : Nat} (hold : s.dev.answeredAs h = some st) (code : Nat) (f : State → State × Nat) :
    s.mgmt h code f = s.withDev (s.dev.emit (.mgmtAnswer h.seq.toNat st)) := by
  rw [State.mgmt, hacc, hold]
  rfl

theorem mgmtDev_fresh (halive : s.dev.alive = true) (hnew : s.dev.answeredAs h = none) {code st : Nat} {f : Dev → Dev × Nat} {d : Dev} (hf : f s.dev = (d, st)) :
    mgmtDev h code f s = .next (s.settled (d.mgmtDone h code st)) := by
  rw [mgmtDev, onState, if_pos halive, State.mgmt_fresh hacc hnew]
  simp only [hf]
  rfl

end Taken

theorem State.mgmt_stranger {s : State} {h : MgmtHdr} (hacc : s.dev.accepts h = false) (code : Nat) (f : State → State × Nat) : s.mgmt h code f = s := by
  rw [State.mgmt, hacc]
  rfl

/-! ## The instructions that act on the device (R289, R320, R325, R327, R331, R333, R335, R340) -/

section Instructions

variable {s : State} {h : MgmtHdr} (halive : s.dev.alive = true) (hacc : s.dev.accepts h = true) (hnew : s.dev.answeredAs h = none)
include halive hacc hnew

theorem exec_setEpoch_fresh (epoch : BitVec 32) :
    (epoch ≠ 0 → exec (.setEpoch h epoch) s = .next (s.settled
      ((Dev.sendWaiting (s.dev.takeEpoch epoch.toNat).pair.unsent (s.dev.takeEpoch epoch.toNat)).mgmtDone h mcSetEpoch stOK)))
    ∧ (epoch = 0 → exec (.setEpoch h epoch) s = .next (s.settled (s.dev.mgmtDone h mcSetEpoch stAborted))) := by
  refine ⟨fun hne => ?_, fun hz => ?_⟩
  · show execSetEpoch h epoch s = _
    exact mgmtDev_fresh hacc halive hnew (provided_holds (by simpa using hne) _ _)
  · show execSetEpoch h epoch s = _
    exact mgmtDev_fresh hacc halive hnew (provided_fails (by simp [hz]) _ _)

theorem exec_part_fresh (p : PartInstr) {e : Dev} {ok : Bool} (hp : s.dev.part p = (e, ok)) :
    exec (.part h p) s = .next (s.settled (e.mgmtDone h mcPart (if ok then stOK else stAborted))) := by
  show execPart h p s = _
  exact mgmtDev_fresh hacc halive hnew (by simp only [hp])

/-- The next map taken in: its bank filled, and what the catch of its stroke will need. -/
def Dev.mapPending (d : Dev) (ver : BitVec 16) (stroke : BitVec 32) (drain : BitVec 8) (es : List MapEntry) : Dev :=
  ((((d.fillBank es).put Fld.RMA_MAP_NEXT_VER ver.toNat).put Fld.RMA_MAP_NEXT_STROKE stroke.toNat).put Fld.RMA_MAP_NEXT_DRAIN drain.toNat).put
    Fld.RMA_MAP_NEXT_PEND 1

theorem exec_mapNext_fresh (ver : BitVec 16) (stroke : BitVec 32) (drain : BitVec 8) (es : List MapEntry) :
    (ver.toNat = (s.dev.get Fld.RMA_MAP_CUR_VER + 1) % 65536 →
      exec (.mapNext h ver stroke drain es) s = .next (s.settled ((s.dev.mapPending ver stroke drain es).mgmtDone h mcMapNext stOK)))
    ∧ (ver.toNat ≠ (s.dev.get Fld.RMA_MAP_CUR_VER + 1) % 65536 →
      exec (.mapNext h ver stroke drain es) s = .next (s.settled ((s.dev.logEv evMapRefused mCox ver.toNat).mgmtDone h mcMapNext stAborted))) := by
  refine ⟨fun hver => ?_, fun hver => ?_⟩
  · show execMapNext h ver stroke drain es s = _
    exact mgmtDev_fresh hacc halive hnew (if_neg (not_not.2 hver))
  · show execMapNext h ver stroke drain es s = _
    exact mgmtDev_fresh hacc halive hnew (if_pos hver)

theorem exec_pairTwin_fresh (node : BitVec 16) (hsolo : s.dev.pairState = psSolo) (hspare : s.dev.spare = false) :
    exec (.pairTwin h node) s = .next (s.settled ((s.dev.put Fld.PAIR_CFG_TWIN node.toNat).startSync.mgmtDone h mcPair stOK)) := by
  show execPairTwin h node s = _
  exact mgmtDev_fresh hacc halive hnew (provided_holds (by simp [hsolo, hspare]) _ _)

theorem exec_detach_fresh :
    (s.dev.pairState = psPaired → exec (.detach h) s = .next (s.settled (s.dev.detach.mgmtDone h mcPair stOK)))
    ∧ (s.dev.pairState ≠ psPaired → exec (.detach h) s = .next (s.settled (s.dev.mgmtDone h mcPair stAborted))) := by
  refine ⟨fun hp => ?_, fun hp => ?_⟩
  · show execDetach h s = _
    exact mgmtDev_fresh hacc halive hnew (provided_holds (by simp [hp]) _ _)
  · show execDetach h s = _
    exact mgmtDev_fresh hacc halive hnew (provided_fails (by simp [hp]) _ _)

theorem exec_repair_fresh :
    (s.dev.pairState = psDetached → exec (.repair h) s = .next (s.settled (s.dev.startSync.mgmtDone h mcPair stOK)))
    ∧ (s.dev.pairState ≠ psDetached → exec (.repair h) s = .next (s.settled (s.dev.mgmtDone h mcPair stAborted))) := by
  refine ⟨fun hp => ?_, fun hp => ?_⟩
  · show execRepair h s = _
    exact mgmtDev_fresh hacc halive hnew (provided_holds (by simp [hp]) _ _)
  · show execRepair h s = _
    exact mgmtDev_fresh hacc halive hnew (provided_fails (by simp [hp]) _ _)

theorem exec_takeover_fresh (epoch : BitVec 32) :
    (s.dev.mayTake = true → exec (.takeover h epoch) s = .next (s.settled ((s.dev.takeover epoch.toNat).mgmtDone h mcPair stOK)))
    ∧ (s.dev.mayTake = false → exec (.takeover h epoch) s = .next (s.settled (s.dev.mgmtDone h mcPair stAborted))) := by
  refine ⟨fun hp => ?_, fun hp => ?_⟩
  · show execTakeover h epoch s = _
    exact mgmtDev_fresh hacc halive hnew (provided_holds hp _ _)
  · show execTakeover h epoch s = _
    exact mgmtDev_fresh hacc halive hnew (provided_fails hp _ _)

theorem exec_admitSpare_fresh (node spare loader : BitVec 16) (epoch stroke : BitVec 32) {spareEpoch : BitVec 32} (hne : spareEpoch ≠ 0) :
    (s.dev.pairState = psServing → exec (.admitSpare h true node epoch stroke spare spareEpoch loader) s
      = .next (s.settled ((s.dev.admitLoader epoch.toNat stroke.toNat spare.toNat spareEpoch.toNat).mgmtDone h mcAdmit stOK)))
    ∧ (s.dev.pairState = psSolo → exec (.admitSpare h false node epoch stroke spare spareEpoch loader) s
      = .next (s.settled
        ((s.dev.admitSpare node.toNat epoch.toNat stroke.toNat spare.toNat spareEpoch.toNat loader.toNat).mgmtDone h mcAdmit stOK))) := by
  refine ⟨fun hp => ?_, fun hp => ?_⟩
  · show execAdmitSpare h true node epoch stroke spare spareEpoch loader s = _
    exact mgmtDev_fresh hacc halive hnew ((if_pos rfl).trans (provided_holds (by simpa [hp] using hne) _ _))
  · show execAdmitSpare h false node epoch stroke spare spareEpoch loader s = _
    exact mgmtDev_fresh hacc halive hnew ((if_neg Bool.false_ne_true).trans (provided_holds (by simpa [hp] using hne) _ _))

theorem exec_mclass_fresh (tenant : BitVec 8) (cls : BitVec 2) :
    (cls ≠ 3 → exec (.mclass h tenant cls) s = .next (s.settled ((s.dev.setClass tenant.toNat cls.toNat).mgmtDone h mcMclass stOK)))
    ∧ (cls = 3 → exec (.mclass h tenant cls) s = .next (s.settled (s.dev.mgmtDone h mcMclass stAborted))) := by
  refine ⟨fun hne => ?_, fun hc => ?_⟩
  · show execMclass h tenant cls s = _
    exact mgmtDev_fresh hacc halive hnew (provided_holds (by simpa using hne) _ _)
  · show execMclass h tenant cls s = _
    exact mgmtDev_fresh hacc halive hnew (provided_fails (by simp [hc]) _ _)

theorem exec_place_fresh (maps : List PlaceMap) (table : List (List Byte)) {e : Dev} {st : Nat} (hp : s.dev.placeAll maps = (e, st)) :
    exec (.place h maps table) s = .next (s.settled ((e.loadTable table).mgmtDone h mcPlace st)) := by
  show execPlace h maps table s = _
  exact mgmtDev_fresh hacc halive hnew (by simp only [hp])

end Instructions

/-- Settles O51, instruction by instruction. -/
theorem managerInstructions : Obligations.ManagerInstructions := by
  intro s h halive hacc hnew d ok no
  refine ⟨exec_setEpoch_fresh halive hacc hnew, fun node epoch valid => ?_, fun p e => ⟨exec_part_fresh halive hacc hnew p, exec_part_fresh halive hacc hnew p⟩,
    exec_mapNext_fresh halive hacc hnew, exec_pairTwin_fresh halive hacc hnew, (exec_detach_fresh halive hacc hnew).1, (exec_detach_fresh halive hacc hnew).2,
    (exec_repair_fresh halive hacc hnew).1, (exec_repair_fresh halive hacc hnew).2, exec_takeover_fresh halive hacc hnew,
    fun node spare loader epoch stroke spareEpoch hne => exec_admitSpare_fresh halive hacc hnew node spare loader epoch stroke hne,
    exec_mclass_fresh halive hacc hnew, fun sec => ?_, fun maps table e st hp => exec_place_fresh halive hacc hnew maps table hp⟩
  · show execPeerSet h node epoch valid s = _
    exact mgmtDev_fresh hacc halive hnew rfl
  · show execTaiLoad h sec s = _
    exact mgmtDev_fresh hacc halive hnew rfl

/-! ## The instructions that reach beyond the device (R366, R375, R386, R387) -/

theorem nvmWrite_fits {s : State} {addr : BitVec 32} {data : List Byte} (hfit : addr.toNat + data.length ≤ nvmSize) :
    (if nvmSize < addr.toNat + data.length then (s, stAborted) else ({ s with nvm := nvmPut s.nvm addr.toNat data }, stOK))
      = (({ s with nvm := nvmPut s.nvm addr.toNat data } : State), stOK) := if_neg (by omega)

section Reaching

variable {s : State} {h : MgmtHdr} (halive : s.dev.alive = true)
include halive

/-- A device that hears a stranger does nothing; one that hears an instruction again answers it again (R386). -/
theorem exec_mgmt_unheard {i : Instr} (hi : i ∈ [Instr.detach h, .repair h, .svnFuse h, .mgmtReset h]) :
    (s.dev.accepts h = false → exec i s = .next s)
    ∧ (∀ st, s.dev.accepts h = true → s.dev.answeredAs h = some st → exec i s = .next (s.withDev (s.dev.emit (.mgmtAnswer h.seq.toNat st)))) := by
  obtain ⟨code, f, hexec⟩ | rfl : (∃ code f, exec i s = onState (fun s => s.mgmt h code f) s) ∨ i = .mgmtReset h := by
    simp only [List.mem_cons, List.not_mem_nil, or_false] at hi
    rcases hi with rfl | rfl | rfl | rfl
    · exact .inl ⟨_, _, rfl⟩
    · exact .inl ⟨_, _, rfl⟩
    · exact .inl ⟨_, _, rfl⟩
    · exact .inr rfl
  · rw [hexec, onState, if_pos halive]
    exact ⟨fun hacc => by rw [State.mgmt_stranger hacc], fun st hacc hold => by rw [State.mgmt_again hacc hold]⟩
  · have hexec : exec (.mgmtReset h) s = .next (if (s.dev.accepts h && (s.dev.answeredAs h).isNone) = true
        then (s.mgmt h mcReset fun s => (s, stOK)).fullReset else s.mgmt h mcReset fun s => (s, stOK)) := by
      show execMgmtReset h s = _
      rw [execMgmtReset, onState, if_pos halive]
    rw [hexec]
    refine ⟨fun hacc => ?_, fun st hacc hold => ?_⟩
    · rw [if_neg (by simp [hacc]), State.mgmt_stranger hacc]
    · rw [if_neg (by simp [hold]), State.mgmt_again hacc hold]

theorem exec_mgmtHeartbeat_heard (node : BitVec 16) (t : BitVec 64) :
    ((s.dev.advanceTo t.toNat).accepts h = true → (s.dev.advanceTo t.toNat).answeredAs h = none →
      exec (.mgmtHeartbeat h node t) s = .next (s.settled (((s.dev.advanceTo t.toNat).mgmtHeard node.toNat).mgmtDone h mcHeartbeat stOK)))
    ∧ ((s.dev.advanceTo t.toNat).accepts h = false → (s.dev.advanceTo t.toNat).cox.mgmtOk = true →
      exec (.mgmtHeartbeat h node t) s = .next (s.settled ((s.dev.advanceTo t.toNat).mgmtHeard node.toNat))) := by
  refine ⟨fun hacc hnew => ?_, fun hacc hok => ?_⟩
  · show execMgmtHeartbeat h node t s = _
    rw [execMgmtHeartbeat, onState, if_pos halive]
    dsimp only
    rw [if_pos hacc]
    exact congrArg Host.Outcome.next (State.mgmt_fresh (s := s.withDev (s.dev.advanceTo t.toNat)) hacc hnew _ _)
  · show execMgmtHeartbeat h node t s = _
    rw [execMgmtHeartbeat, onState, if_pos halive]
    dsimp only
    rw [if_neg (by simp [hacc]), if_pos hok]
    rfl

variable (hacc : s.dev.accepts h = true) (hnew : s.dev.answeredAs h = none)
include hacc hnew

theorem exec_svnFuse_fresh :
    let n := max s.fuse.svn (min 64 (s.dev.get Fld.SEC_BOOT_SVN_IMG))
    exec (.svnFuse h) s = .next { s with fuse := { s.fuse with svn := n }, dev := ((s.dev.put Fld.SEC_BOOT_SVN_FUSE n).mgmtDone h mcSvnFuse stOK).settle } := by
  intro n
  show execSvnFuse h s = _
  rw [execSvnFuse, onState, if_pos halive, State.mgmt_fresh hacc hnew]
  rfl

theorem exec_nvmWrite_fresh {addr : BitVec 32} {data : List Byte} (hfit : addr.toNat + data.length ≤ nvmSize) :
    exec (.nvmWrite h addr data) s = .next { s with nvm := nvmPut s.nvm addr.toNat data, dev := (s.dev.mgmtDone h mcNvmWrite stOK).settle } := by
  show execNvmWrite h addr data s = _
  rw [execNvmWrite, onState, if_pos halive, State.mgmt_fresh hacc hnew, nvmWrite_fits hfit]
  rfl

end Reaching

/-- Settles O52, instruction by instruction. -/
theorem managerMemory : Obligations.ManagerMemory := by
  intro s h halive d
  refine ⟨fun hacc hnew => ⟨⟨_, exec_svnFuse_fresh halive hacc hnew, rfl, rfl, rfl⟩,
    fun addr data hfit => ⟨_, exec_nvmWrite_fresh halive hacc hnew hfit, rfl, rfl, rfl⟩, exec_mgmtReset_fresh halive hacc hnew⟩,
    fun node t => exec_mgmtHeartbeat_heard halive node t, fun i hi => exec_mgmt_unheard halive hi⟩

end Sys2Proof.Machine

/-! # The SPDM responder (chapter 15) -/

namespace Sys2Proof.Machine

/-- A record touches the logbook and its counter only. -/
theorem Dev.logEv_frame (d : Dev) (code src data : Nat) : ∃ regs log, d.logEv code src data = { d with regs := regs, log := log } := by
  rw [Dev.logEv]
  split_ifs
  · exact ⟨_, _, rfl⟩
  · exact ⟨_, _, rfl⟩

/-! ## A request heard (R369, R373) -/

section Heard

variable {d : Dev} {code : Nat} {r : SpdmReq} {ok : Bool} {f : Dev → Dev}

theorem Dev.spdm_unverified (h : r.verifies = false) : d.spdm code r ok f = (d.bump Fld.SEC_SPDM_REJECTS).spdmNo code := by
  simp [Dev.spdm, h]

theorem Dev.spdm_served (h : r.verifies = true) (hver : r.version12 = true) (hok : ok = true) : d.spdm code r ok f = f d := by
  simp [Dev.spdm, h, hver, hok]

theorem Dev.spdm_refused (h : r.verifies = true) (hok : ok = false) : d.spdm code r ok f = d.spdmNo code := by
  simp [Dev.spdm, h, hok]

end Heard

/-! ## The requests (R368 to R371) -/

theorem exec_device {i : Instr} {s : State} {f : Dev → Dev} {d : Dev} (hexec : exec i s = onDev f s) (halive : s.dev.alive = true) (hd : f s.dev = d) :
    exec i s = .next (s.withDev d) := by
  rw [hexec, onDev_alive halive, hd]
  rfl

section Requests

variable {s : State} (halive : s.dev.alive = true) {r : SpdmReq} (t : BitVec 64)
include halive

theorem onDev_spdm_served (h : r.verifies = true) (hver : r.version12 = true) {code : Nat} {ok : Bool} (hok : ok = true) {f : Dev → Dev} :
    onDev (fun d => d.spdm code r ok f) s = .next (s.withDev (f s.dev)) := by
  rw [onDev_alive halive, Dev.spdm_served h hver hok]
  rfl

/-- The requests at no time of their own are heard by the device as it stands. -/
theorem exec_spdm_now {i : Instr} {code : Nat}
    (hi : (i, code) ∈ [(Instr.getVersion r, sqVersion), (.getCapabilities r, sqCapabilities), (.negotiateAlgorithms r, sqAlgorithms), (.getDigests r, sqDigests),
      (.getCertificate r, sqCertificate), (.challenge r, sqChallenge), (.getMeasurements r, sqMeasurements), (.endSession r, sqEndSession)]) :
    ∃ r' ok f, r'.verifies = r.verifies ∧ exec i s = .next (s.withDev (s.dev.spdm code r' ok f)) := by
  simp only [List.mem_cons, Prod.mk.injEq, List.not_mem_nil, or_false] at hi
  rcases hi with ⟨rfl, rfl⟩ | ⟨rfl, rfl⟩ | ⟨rfl, rfl⟩ | ⟨rfl, rfl⟩ | ⟨rfl, rfl⟩ | ⟨rfl, rfl⟩ | ⟨rfl, rfl⟩ | ⟨rfl, rfl⟩
  · dsimp only [exec, execGetVersion]
    exact ⟨{ r with version12 := true }, _, _, rfl, onDev_alive halive⟩
  all_goals
    dsimp only [exec, execGetCapabilities, execNegotiateAlgorithms, execGetDigests, execGetCertificate, execChallenge, execGetMeasurements, execEndSession]
    exact ⟨r, _, _, rfl, onDev_alive halive⟩

/-- The requests of a session, and those that open one, are heard at their time. -/
theorem exec_spdm_timed {i : Instr} {code : Nat} (hi : (i, code) ∈ [(Instr.keyExchange r t, sqKeyExchange), (.finish r t, sqFinish), (.heartbeat r t, sqHeartbeat),
      (.keyUpdate r t, sqKeyUpdate)]) :
    ∃ ok f, exec i s = .next (s.withDev ((s.dev.advanceTo t.toNat).spdm code r ok f)) := by
  simp only [List.mem_cons, Prod.mk.injEq, List.not_mem_nil, or_false] at hi
  rcases hi with ⟨rfl, rfl⟩ | ⟨rfl, rfl⟩ | ⟨rfl, rfl⟩ | ⟨rfl, rfl⟩
  all_goals
    dsimp only [exec, execKeyExchange, execFinish, execHeartbeat, execKeyUpdate]
    exact ⟨_, _, onDev_alive halive⟩

/-- What names another slot than 0 is refused (R370). -/
theorem exec_spdm_otherSlot (h : r.verifies = true) (hslot : r.slot ≠ 0) {i : Instr} {code : Nat}
    (hi : (i, code) ∈ [(Instr.getDigests r, sqDigests), (.getCertificate r, sqCertificate), (.challenge r, sqChallenge)]) :
    exec i s = .next (s.withDev (s.dev.spdmNo code)) := by
  have hne : (r.slot == 0) = false := by simpa using hslot
  have hno {f : Dev → Dev} : s.dev.spdm code r (r.slot == 0) f = s.dev.spdmNo code := Dev.spdm_refused h hne
  simp only [List.mem_cons, Prod.mk.injEq, List.not_mem_nil, or_false] at hi
  rcases hi with ⟨rfl, rfl⟩ | ⟨rfl, rfl⟩ | ⟨rfl, rfl⟩
  all_goals
    dsimp only [exec, execGetDigests, execGetCertificate, execChallenge]
    rw [onDev_alive halive, hno]
    rfl

section Served

variable (h : r.verifies = true) (hver : r.version12 = true)
include h hver

/-- A key exchange while no session is open opens one. -/
theorem exec_keyExchange_opens (hslot : r.slot = 0) (hsession : (s.dev.advanceTo t.toNat).sec.session = false) :
    ∃ t' : State, exec (.keyExchange r t) s = .next t' ∧ t'.dev.sec.session = true ∧ t'.dev.sec.lastMsg = (s.dev.advanceTo t.toNat).ns
      ∧ t'.dev.dram = (s.dev.advanceTo t.toNat).dram := by
  obtain ⟨d, hd⟩ : ∃ d, d = s.dev.advanceTo t.toNat := ⟨_, rfl⟩
  rw [← hd] at hsession ⊢
  obtain ⟨regs, log, hlog⟩ := ({ d with sec := { d.sec with session := true } } : Dev).logEv_frame evSpdmSession mCox 1
  have hend : d.endSession = d := by rw [Dev.endSession, if_neg (by simp [hsession])]
  have hexec : exec (.keyExchange r t) s = .next (s.withDev
      ((({ d with sec := { d.sec with session := true } } : Dev).logEv evSpdmSession mCox 1).sessionHeard.spdmYes sqKeyExchange r [])) := by
    show execKeyExchange r t s = _
    rw [execKeyExchange, onDev_alive halive, ← hd, Dev.spdm_served h hver (by simp [hslot])]
    dsimp only
    rw [hend]
    rfl
  refine ⟨_, hexec, ?_⟩
  rw [hlog]
  exact ⟨rfl, rfl, rfl⟩

/-- A message of the open session. -/
theorem exec_spdm_session (hsession : (s.dev.advanceTo t.toNat).sec.session = true) :
    let dt := s.dev.advanceTo t.toNat
    exec (.finish r t) s = .next (s.withDev ((({ dt with sec := { dt.sec with finished := true } } : Dev).sessionHeard).spdmYes sqFinish r []))
    ∧ exec (.heartbeat r t) s = .next (s.withDev (dt.sessionHeard.spdmYes sqHeartbeat r []))
    ∧ exec (.keyUpdate r t) s = .next (s.withDev ((({ dt with sec := { dt.sec with keyGen := dt.sec.keyGen + 1 } } : Dev).sessionHeard).spdmYes sqKeyUpdate r [])) := by
  intro dt
  have hserved {code : Nat} {f : Dev → Dev} : dt.spdm code r dt.sec.session f = f dt := Dev.spdm_served h hver hsession
  refine ⟨?_, ?_, ?_⟩
  · exact exec_device (by dsimp only [exec]; unfold execFinish; rfl) halive hserved
  · exact exec_device (by dsimp only [exec]; unfold execHeartbeat; rfl) halive hserved
  · exact exec_device (by dsimp only [exec]; unfold execKeyUpdate; rfl) halive hserved

end Served

end Requests

/-! ## The end of a session (R371, R374) -/

theorem Dev.endSession_open {d : Dev} (h : d.sec.session = true) : d.endSession.sec.session = false ∧ d.endSession.dram = d.dram := by
  obtain ⟨regs, log, hlog⟩ := ({ d with sec := { d.sec with session := false, finished := false, keyGen := 0 } } : Dev).logEv_frame evSpdmSession mCox 0
  rw [Dev.endSession, if_pos h, hlog]
  exact ⟨rfl, rfl⟩

/-- Settles O49, request by request. -/
theorem spdmAnswers : Obligations.SpdmAnswers := by
  intro s r t halive d dt
  refine ⟨fun h => ⟨fun i code hi => ?_, fun i code hi => ?_⟩, fun h hver => ?_, fun hsession hsilent => ?_⟩
  · obtain ⟨r', ok, f, hr, hexec⟩ := exec_spdm_now halive hi
    rw [hexec, Dev.spdm_unverified (hr.trans h)]
  · obtain ⟨ok, f, hexec⟩ := exec_spdm_timed halive t hi
    rw [hexec, Dev.spdm_unverified h]
  · refine ⟨onDev_spdm_served (r := { r with version12 := true }) halive h rfl rfl, onDev_spdm_served halive h hver rfl, onDev_spdm_served halive h hver rfl,
      fun hslot => ?_, fun hslot i code hi => exec_spdm_otherSlot halive h hslot hi, fun hsession => ?_, exec_spdm_session halive t h hver, fun hsession => ?_⟩
    · have hok : (r.slot == 0) = true := by simp [hslot]
      exact ⟨onDev_spdm_served halive h hver hok, onDev_spdm_served halive h hver hok, onDev_spdm_served halive h hver hok,
        exec_keyExchange_opens halive t h hver hslot⟩
    · refine (onDev_spdm_served halive h hver rfl).trans ?_
      rw [if_neg (by simpa using hsession)]
    · have hexec : exec (.endSession r) s = .next (s.withDev (d.endSession.spdmYes sqEndSession r [])) :=
        exec_device (by dsimp only [exec]; unfold execEndSession; rfl) halive (Dev.spdm_served h hver hsession)
      exact ⟨_, hexec, (Dev.endSession_open hsession).1, (Dev.endSession_open hsession).2⟩
  · have hexec : exec (.spdmSessionTimeout t) s = .next (s.withDev dt.endSession) :=
      exec_device (by dsimp only [exec]; unfold execSpdmSessionTimeout; rfl) halive (by exact if_pos hsilent)
    exact ⟨_, hexec, (Dev.endSession_open hsession).1, (Dev.endSession_open hsession).2⟩

end Sys2Proof.Machine

/-! # The boot phases and the calibration journal (chapters 15, 16) -/

namespace Sys2Proof.Machine

/-- A record leaves every register but the logbook's counter. -/
theorem Dev.get_logEv (d : Dev) (code src data : Nat) {f : Fld} {i j : Nat} (hf : f.off i j ≠ Fld.LOG_STAT_DROPPED.off 0 0) :
    (d.logEv code src data).get f i j = d.get f i j := by
  rw [Dev.logEv]
  split_ifs
  · rfl
  · exact Dev.get_put_other _ _ _ _ _ _ _ _ hf

theorem Dev.dram_logEv (d : Dev) (code src data : Nat) : (d.logEv code src data).dram = d.dram := by
  obtain ⟨regs, log, h⟩ := d.logEv_frame code src data
  rw [h]

/-! ## A phase entered (R376, R388) -/

theorem Dev.toPhase_cases (d : Dev) (n : Nat) :
    d.toPhase n = d.put Fld.GLB_BOOT_PHASE n ∨ d.toPhase n = (d.put Fld.GLB_BOOT_PHASE n).emit (.ibi n) := by
  rw [Dev.toPhase]
  exact (ite_eq_or_eq _ _ _).symm

theorem Dev.regs_toPhase (d : Dev) (n : Nat) : (d.toPhase n).regs = (d.put Fld.GLB_BOOT_PHASE n).regs := by
  obtain h | h := d.toPhase_cases n
  · rw [h]
  · rw [h, Dev.emit_regs]

theorem Dev.get_toPhase (d : Dev) (n : Nat) (f : Fld) (i j : Nat) : (d.toPhase n).get f i j = (d.put Fld.GLB_BOOT_PHASE n).get f i j :=
  Dev.get_of_regs (d.regs_toPhase n) f i j

theorem Dev.phase_toPhase (d : Dev) {n : Nat} (hn : n < 8) : (d.toPhase n).phase = n := by
  rw [Dev.phase, Dev.get_toPhase, Dev.get_put_same _ _ _ _ _ (by decide) (by decide)]
  exact Nat.mod_eq_of_lt hn

theorem Dev.sameRegsBut_toPhase {offs : List Nat} {d d' : Dev} (h : Dev.sameRegsBut offs d d') (hin : Reg.GLB_BOOT.base ∈ offs) (n : Nat) :
    Dev.sameRegsBut offs d (d'.toPhase n) := by
  have hput := Dev.sameRegsBut_put h Fld.GLB_BOOT_PHASE n 0 0 hin
  obtain hc | hc := d'.toPhase_cases n
  · rwa [hc]
  · rw [hc]
    exact Dev.sameRegsBut_of_regs hput (Dev.emit_regs _ _)

/-- A phase entered leaves everything but its register and what is emitted. -/
theorem Dev.toPhase_rest (d : Dev) (n : Nat) : (d.toPhase n).dram = d.dram ∧ (d.toPhase n).clk = d.clk ∧ (d.toPhase n).cox = d.cox
    ∧ (d.toPhase n).sec = d.sec ∧ (d.toPhase n).kernels = d.kernels := by
  obtain h | h := d.toPhase_cases n
  · rw [h, Dev.put_dram, Dev.put_clk, Dev.put_cox, Dev.put_sec, Dev.put_kernels]
    exact ⟨rfl, rfl, rfl, rfl, rfl⟩
  · rw [h, Dev.emit_dram, Dev.emit_clk, Dev.emit_cox, Dev.emit_sec, Dev.emit_kernels, Dev.put_dram, Dev.put_clk, Dev.put_cox, Dev.put_sec, Dev.put_kernels]
    exact ⟨rfl, rfl, rfl, rfl, rfl⟩

/-- The kernel stores hang on the boats that are fitted. -/
theorem Dev.kernelStores_put (d : Dev) {f : Fld} {i j v : Nat} (hf : f.off i j ≠ Fld.GLB_BOAT_EN_BOAT.off 0 0) (img : List Byte) :
    (d.put f v i j).kernelStores img = d.kernelStores img := by
  have hfit : (d.put f v i j).boatFitted = d.boatFitted := by
    funext b
    rw [Dev.boatFitted, Dev.get_put_other _ _ _ _ _ _ _ _ (Ne.symm hf), Dev.boatFitted]
  rw [Dev.kernelStores, hfit, Dev.kernelStores]

/-! ## The ROM, the firmware and the DRAM (R366 to R368, R376) -/

section Phases

variable {s : State} (t : BitVec 64) (halive : s.dev.alive = true)
include halive

theorem exec_bootRomDone_rom (hphase : (s.dev.advanceTo t.toNat).phase = bpRom) :
    exec (.bootRomDone t) s = .next (s.withDev ((s.dev.advanceTo t.toNat).toPhase bpFw)) := by
  show execBootRomDone t s = _
  rw [execBootRomDone, onDev_alive halive]
  dsimp only
  rw [if_pos hphase]
  rfl

/-- No slot is accepted: the measurements are taken, and the phase is FAILED. -/
theorem exec_firmwareVerify_none (hphase : (s.dev.advanceTo t.toNat).phase = bpFw) (hnone : s.firmware = none) :
    ∃ d : Dev, d.regs = ((s.dev.advanceTo t.toNat).put Fld.SEC_BOOT_SVN_FUSE s.fuse.svn).regs
      ∧ exec (.firmwareVerify t) s = .next (s.withDev (((d.put Fld.SEC_BOOT_RESULT 2).put Fld.GLB_BOOT_CAUSE 1).toPhase bpFailed)) := by
  obtain ⟨d, hd⟩ : ∃ d, d = (s.dev.advanceTo t.toNat).put Fld.SEC_BOOT_SVN_FUSE s.fuse.svn := ⟨_, rfl⟩
  refine ⟨{ d with sec := { d.sec with meas := s.fuse.measure none 0 } }, by rw [hd], ?_⟩
  show execFirmwareVerify t s = _
  rw [execFirmwareVerify, onDev_alive halive, hnone]
  dsimp only
  rw [if_neg (not_not.2 hphase), ← hd]
  rfl

/-- A slot is accepted: it is measured, and loads the kernel stores. -/
theorem exec_firmwareVerify_some {slot key : Nat} {img : List Byte} (hphase : (s.dev.advanceTo t.toNat).phase = bpFw)
    (hsome : s.firmware = some (slot, img, key)) :
    ∃ d : Dev, d.regs = ((s.dev.advanceTo t.toNat).put Fld.SEC_BOOT_SVN_FUSE s.fuse.svn).regs ∧ d.sec.meas = s.fuse.measure (some img) key
      ∧ d.kernels = ((s.dev.advanceTo t.toNat).put Fld.SEC_BOOT_SVN_FUSE s.fuse.svn).kernelStores (Config.imageKernels img)
      ∧ exec (.firmwareVerify t) s = .next (s.withDev (((((d.put Fld.SEC_BOOT_RESULT 1).put Fld.SEC_BOOT_SLOT slot).put Fld.SEC_BOOT_KEY key).put
          Fld.SEC_BOOT_SVN_IMG (Config.imageSvn img).toNat).toPhase bpDram)) := by
  obtain ⟨d, hd⟩ : ∃ d, d = (s.dev.advanceTo t.toNat).put Fld.SEC_BOOT_SVN_FUSE s.fuse.svn := ⟨_, rfl⟩
  refine ⟨{ d with sec := { d.sec with meas := s.fuse.measure (some img) key }, kernels := d.kernelStores (Config.imageKernels img) }, by rw [hd], rfl,
    by rw [hd], ?_⟩
  show execFirmwareVerify t s = _
  rw [execFirmwareVerify, onDev_alive halive, hsome]
  dsimp only
  rw [if_neg (not_not.2 hphase), ← hd]
  rfl

theorem exec_dramInitDone_dram (failed : BitVec 8) (hphase : (s.dev.advanceTo t.toNat).phase = bpDram) (hruns : (s.dev.advanceTo t.toNat).clk.halted = none) :
    exec (.dramInitDone t failed) s = .next (s.withDev ((Dev.acquire { s.dev.advanceTo t.toNat with
      cox := { (s.dev.advanceTo t.toNat).cox with drams := failed.toNat }, dram := [] }).toPhase bpRole)) := by
  show execDramInitDone t failed s = _
  rw [execDramInitDone, onDev_alive halive]
  dsimp only
  rw [if_neg (not_not.2 hphase), hruns, if_neg (by simp)]
  rfl

end Phases


/-! ## The role image and the journal (R380 to R385) -/

section Role

variable {s : State} (t : BitVec 64) (halive : s.dev.alive = true)
include halive

theorem exec_roleImageApply_refused (hphase : (s.dev.advanceTo t.toNat).phase = bpRole) {cause : Nat}
    (hcheck : ({ s with dev := (s.dev.advanceTo t.toNat).measureRole s.roleImage } : State).roleCheck = .refused cause) (hc : cause ≤ 4) :
    exec (.roleImageApply t) s = .next (s.withDev (((((s.dev.advanceTo t.toNat).measureRole s.roleImage).put Fld.GLB_BOOT_CAUSE cause).logEv
      evRoleRefused mCox cause).toPhase bpUnconf)) := by
  show execRoleImageApply t s = _
  rw [execRoleImageApply, onState, if_pos halive, State.applyRole]
  dsimp only
  rw [if_neg (not_not.2 hphase), hcheck]
  dsimp only
  rw [if_pos hc]
  rfl

/-- An accepted image: the last steps are the lock, the phase and the record. -/
theorem exec_roleImageApply_good (hphase : (s.dev.advanceTo t.toNat).phase = bpRole) {e : Dev} {b : List Byte} {ss : List Section}
    (hcheck : ({ s with dev := (s.dev.advanceTo t.toNat).measureRole s.roleImage } : State).roleCheck = .good e b ss) :
    ∃ (d : Dev) (data : Nat), exec (.roleImageApply t) s = .next (s.withDev (((d.put Fld.GLB_CFG_LOCK_LOCK 1).toPhase bpReady).logEv evBootDone mCox data)) := by
  have hexec : exec (.roleImageApply t) s = execRoleImageApply t s := rfl
  rw [hexec, execRoleImageApply, onState, if_pos halive, State.applyRole]
  dsimp only
  rw [if_neg (not_not.2 hphase), hcheck]
  exact ⟨_, _, rfl⟩

/-- The journal programmed in a sector that is not worn. -/
theorem exec_journalProgram_due {x : NvmDir} {m : Mem} {sec n : Nat} (hdir : directory s.nvm = some x)
    (hdue : (s.dev.advanceTo t.toNat).cox.jlast = 0 ∨ (s.dev.advanceTo t.toNat).cox.jlast + 60000000000 ≤ (s.dev.advanceTo t.toNat).ns)
    (hdirty : (s.dev.advanceTo t.toNat).cox.dirty ≠ []) (hphase : (s.dev.advanceTo t.toNat).phase = bpReady) (hplaced : x.placed = true)
    (hworn : (s.dev.advanceTo t.toNat).flag Fld.GLB_NVM_NVM_WORN = false)
    (hprog : x.program (s.dev.advanceTo t.toNat).cox.dirty (s.nvm, (s.dev.advanceTo t.toNat).get Fld.GLB_NVM_SECTOR, (s.dev.advanceTo t.toNat).cox.jnext)
      = (m, sec, n, false)) :
    let d := s.dev.advanceTo t.toNat
    exec (.journalProgram t) s = .next { s with
      nvm := m
      dev := (({ d with cox := { d.cox with dirty := [], jnext := n, jlast := d.ns } } : Dev).put Fld.GLB_NVM_SECTOR sec).put Fld.GLB_NVM_MAX_ERASES (x.maxErases m) } := by
  intro d
  show execJournalProgram t s = _
  rw [execJournalProgram, onState, if_pos halive, State.journalProgram, hdir]
  dsimp only
  have hdue' : (decide (d.cox.jlast = 0) || decide (d.cox.jlast + 60000000000 ≤ d.ns)) = true := by simpa using hdue
  have hready : ¬ d.phase < bpLock ∧ d.phase ≠ bpFailed := by
    rw [show d.phase = bpReady from hphase]
    decide
  rw [if_neg (by rw [hdue']; simp [d, hdirty, hready.1, hready.2, hplaced, hworn]), hprog]
  rfl

end Role

/-- Settles O50, phase by phase. -/
theorem bootPhases : Obligations.BootPhases := by
  intro s t halive d s1
  refine ⟨fun hphase => ?_, fun hphase hnone => ?_, fun slot img key hphase hsome hslot hkey => ?_, fun failed hphase hruns => ?_,
    fun cause hphase hcheck hc => ?_, fun e b ss hphase hcheck => ?_, fun x m sec n hdir hdue hdirty hphase hplaced hworn hprog => ?_⟩
  · exact ⟨_, exec_bootRomDone_rom t halive hphase, Dev.phase_toPhase _ (by decide), Dev.sameRegsBut_toPhase (Dev.sameRegsBut_refl _ _) (by decide) _,
      (Dev.toPhase_rest _ _).1⟩
  · obtain ⟨e, hregs, hexec⟩ := exec_firmwareVerify_none t halive hphase hnone
    refine ⟨_, hexec, Dev.phase_toPhase _ (by decide), ?_, ?_, ?_⟩
    · show (Dev.toPhase _ _).get _ _ _ = _
      rw [Dev.get_toPhase, Dev.get_put_beside _ (by decide), Dev.get_put_same _ _ _ _ _ (by decide) (by decide)]
      rfl
    · show (Dev.toPhase _ _).get _ _ _ = _
      rw [Dev.get_toPhase, Dev.get_put_beside _ (by decide), Dev.get_put_beside _ (by decide), Dev.get_put_same _ _ _ _ _ (by decide) (by decide)]
      rfl
    · have hstart : Dev.sameRegsBut [Reg.GLB_BOOT.base, Reg.SEC_BOOT.base] d e :=
        Dev.sameRegsBut_of_regs (Dev.sameRegsBut_put (Dev.sameRegsBut_refl _ _) _ _ _ _ (by decide)) hregs
      exact Dev.sameRegsBut_toPhase (Dev.sameRegsBut_put (Dev.sameRegsBut_put hstart _ _ _ _ (by decide)) _ _ _ _ (by decide)) (by decide) _
  · obtain ⟨e, hregs, hmeas, hkernels, hexec⟩ := exec_firmwareVerify_some t halive hphase hsome
    refine ⟨_, hexec, Dev.phase_toPhase _ (by decide), ?_, ?_, ?_, ?_, ?_, ?_⟩
    · show (Dev.toPhase _ _).get _ _ _ = _
      rw [Dev.get_toPhase, Dev.get_put_beside _ (by decide), Dev.get_put_beside _ (by decide), Dev.get_put_beside _ (by decide),
        Dev.get_put_beside _ (by decide), Dev.get_put_same _ _ _ _ _ (by decide) (by decide)]
      rfl
    · show (Dev.toPhase _ _).get _ _ _ = _
      rw [Dev.get_toPhase, Dev.get_put_beside _ (by decide), Dev.get_put_beside _ (by decide), Dev.get_put_beside _ (by decide),
        Dev.get_put_same _ _ _ _ _ (by decide) (by decide)]
      exact Nat.mod_eq_of_lt hslot
    · show (Dev.toPhase _ _).get _ _ _ = _
      rw [Dev.get_toPhase, Dev.get_put_beside _ (by decide), Dev.get_put_beside _ (by decide), Dev.get_put_same _ _ _ _ _ (by decide) (by decide)]
      exact Nat.mod_eq_of_lt hkey
    · show (Dev.toPhase _ _).sec.meas = _
      rw [(Dev.toPhase_rest _ _).2.2.2.1, Dev.put_sec, Dev.put_sec, Dev.put_sec, Dev.put_sec, hmeas]
    · show (Dev.toPhase _ _).kernels = _
      rw [(Dev.toPhase_rest _ _).2.2.2.2, Dev.put_kernels, Dev.put_kernels, Dev.put_kernels, Dev.put_kernels, hkernels, Dev.kernelStores_put _ (by decide)]
    · have hstart : Dev.sameRegsBut [Reg.GLB_BOOT.base, Reg.SEC_BOOT.base] d e :=
        Dev.sameRegsBut_of_regs (Dev.sameRegsBut_put (Dev.sameRegsBut_refl _ _) _ _ _ _ (by decide)) hregs
      have hresult := Dev.sameRegsBut_put hstart Fld.SEC_BOOT_RESULT 1 0 0 (by decide)
      have hslot := Dev.sameRegsBut_put hresult Fld.SEC_BOOT_SLOT slot 0 0 (by decide)
      have hkey := Dev.sameRegsBut_put hslot Fld.SEC_BOOT_KEY key 0 0 (by decide)
      exact Dev.sameRegsBut_toPhase (Dev.sameRegsBut_put hkey _ _ _ _ (by decide)) (by decide) _
  · obtain ⟨hdram, hclk, hcox, -⟩ := Dev.toPhase_rest (Dev.acquire { d with cox := { d.cox with drams := failed.toNat }, dram := [] }) bpRole
    exact ⟨_, exec_dramInitDone_dram t halive failed hphase hruns, Dev.phase_toPhase _ (by decide), congrArg Clock.state hclk, congrArg Clock.number hclk, hdram,
      congrArg Cox.drams hcox⟩
  · refine ⟨_, exec_roleImageApply_refused t halive hphase hcheck hc, Dev.phase_toPhase _ (by decide), ?_, ?_, rfl, rfl⟩
    · show (Dev.toPhase _ _).get _ _ _ = _
      rw [Dev.get_toPhase, Dev.get_put_beside _ (by decide), Dev.get_logEv _ _ _ _ (by decide), Dev.get_put_same _ _ _ _ _ (by decide) (by decide)]
      exact Nat.mod_eq_of_lt (Nat.lt_of_le_of_lt hc (by decide))
    · show (Dev.toPhase _ _).dram = _
      rw [(Dev.toPhase_rest _ _).1, Dev.dram_logEv, Dev.put_dram]
      rfl
  · obtain ⟨d', data, hexec⟩ := exec_roleImageApply_good t halive hphase hcheck
    refine ⟨_, hexec, ?_, ?_, rfl, rfl⟩
    · show (Dev.logEv _ _ _ _).get _ _ _ = _
      rw [Dev.get_logEv _ _ _ _ (by decide)]
      exact Dev.phase_toPhase _ (by decide)
    · show ((Dev.logEv _ _ _ _).get _ _ _ == 1) = true
      rw [Dev.get_logEv _ _ _ _ (by decide), Dev.get_toPhase, Dev.get_put_beside _ (by decide), Dev.get_put_same _ _ _ _ _ (by decide) (by decide)]
      rfl
  · refine ⟨_, exec_journalProgram_due t halive hdir hdue hdirty hphase hplaced hworn hprog, rfl, rfl, ?_, ?_, ?_, ?_⟩
    · show (Dev.put _ _ _ _ _).cox.dirty = []
      rw [Dev.put_cox, Dev.put_cox]
    · show (Dev.put _ _ _ _ _).cox.jnext = n
      rw [Dev.put_cox, Dev.put_cox]
    · show (Dev.put _ _ _ _ _).cox.jlast = d.ns
      rw [Dev.put_cox, Dev.put_cox]
    · show (Dev.put _ _ _ _ _).dram = d.dram
      rw [Dev.put_dram, Dev.put_dram]

end Sys2Proof.Machine

/-! # The stroke tracker and the time counter (chapter 13) -/

namespace Sys2Proof.Machine

/-! ## What passing time leaves -/

theorem Dev.coreCycles_watches (d : Dev) (n core : Nat) : (d.coreCycles n core).watches = d.watches := by
  unfold Dev.coreCycles
  split_ifs
  · exact Dev.bump_watches ..
  · exact Dev.bump_watches ..
  · rfl

theorem Dev.foldl_coreCycles_watches (n : Nat) (cores : List Nat) (d : Dev) : (cores.foldl (Dev.coreCycles · n) d).watches = d.watches := by
  induction cores generalizing d with
  | nil => rfl
  | cons core cores ih => rw [List.foldl_cons, ih, Dev.coreCycles_watches]

theorem Dev.advance_watches_nil {d : Dev} (h : d.watches = []) (dt : Nat) : (d.advance dt).watches = [] := by
  unfold Dev.advance
  simp only [apply_ite Dev.watches, Dev.bump_watches, Dev.foldl_coreCycles_watches, ite_self, h, List.map_nil]

/-- The cycle counters that passing time advances stand at 18H and 20H of a 4 KiB block. -/
theorem Dev.get_coreCycles (d : Dev) (n core : Nat) {f : Fld} {i j : Nat} (hf : f.off i j % 0x1000 ≠ 0x18 ∧ f.off i j % 0x1000 ≠ 0x20) :
    (d.coreCycles n core).get f i j = d.get f i j := by
  have hbusy : f.off i j ≠ Fld.ATT_CORE_BUSY_CYCLES.off core 0 := fun h => hf.1 (by rw [h]; simp [Fld.off, Fld.ATT_CORE_BUSY_CYCLES])
  have hstall : f.off i j ≠ Fld.ATT_CORE_STALL_FAULT.off core 0 := fun h => hf.2 (by rw [h]; simp [Fld.off, Fld.ATT_CORE_STALL_FAULT])
  unfold Dev.coreCycles
  split_ifs
  · exact Dev.get_put_other _ _ _ _ _ _ _ _ hbusy
  · exact Dev.get_put_other _ _ _ _ _ _ _ _ hstall
  · rfl

theorem Dev.get_foldl_coreCycles (n : Nat) (cores : List Nat) (d : Dev) {f : Fld} {i j : Nat}
    (hf : f.off i j % 0x1000 ≠ 0x18 ∧ f.off i j % 0x1000 ≠ 0x20) : (cores.foldl (Dev.coreCycles · n) d).get f i j = d.get f i j := by
  induction cores generalizing d with
  | nil => rfl
  | cons core cores ih => rw [List.foldl_cons, ih, Dev.get_coreCycles _ _ _ hf]

theorem Dev.get_advance (d : Dev) (dt : Nat) {f : Fld} {i j : Nat} (hf : f.off i j % 0x1000 ≠ 0x18 ∧ f.off i j % 0x1000 ≠ 0x20) :
    (d.advance dt).get f i j = d.get f i j := by
  have hwait (d : Dev) (n : Nat) : (d.bump Fld.HAL_QLC_LC_WAIT n).get f i j = d.get f i j :=
    Dev.get_put_other _ _ _ _ _ _ _ _ fun h => hf.2 (by rw [h]; rfl)
  have hfull (d : Dev) (n : Nat) : (d.bump Fld.HAL_QLC_CQ_STALL n).get f i j = d.get f i j :=
    Dev.get_put_other _ _ _ _ _ _ _ _ fun h => hf.2 (by rw [h]; rfl)
  have hget (x y : Dev) (c : Prop) [Decidable c] : (if c then x else y).get f i j = if c then x.get f i j else y.get f i j :=
    apply_ite (fun d : Dev => d.get f i j) c x y
  unfold Dev.advance
  simp only [hget, hwait, hfull, Dev.get_foldl_coreCycles _ _ _ hf]
  split_ifs <;> rfl

/-! ## A catch on a device with nothing left to fire and no wait (R317, R318, R440) -/

/-- `e` is `d` with its clock at `c`, at a catch: no register, and no byte of memory, has changed, and no wait is armed. -/
structure Dev.CaughtAt (d : Dev) (c : Clock) (e : Dev) : Prop where
  regs    : e.regs = d.regs
  dram    : e.dram = d.dram
  hall    : e.hall = d.hall
  watches : e.watches = []
  clk     : ∃ owed, e.clk = { c with owed := owed }

theorem Dev.CaughtAt.settle {d e : Dev} {c : Clock} (h : d.CaughtAt c e) : e.settle = e := Dev.settle_calm h.watches

theorem Dev.trafficCatch_caught {d e : Dev} {c : Clock} (h : d.CaughtAt c e) : d.CaughtAt c e.trafficCatch := by
  obtain ⟨hregs, hdram, hhall, hwatch, owed, hclk⟩ := h
  rw [Dev.trafficCatch]
  split_ifs
  · exact ⟨hregs, hdram, hhall, hwatch, owed, hclk⟩
  · exact ⟨hregs, hdram, hhall, hwatch, false, by rw [Dev.takeGates, Dev.catchFlows, hclk]⟩

theorem Dev.missAdmission_unless {d : Dev} (h : d.adm ≠ admLoading) : d.missAdmission = d := by
  rw [Dev.missAdmission, if_neg fun hc => h hc.1]

theorem Dev.catchActs_caught {d : Dev} (hadm : d.adm ≠ admLoading) (hwatch : d.watches = []) : d.CaughtAt d.clk d.catchActs := by
  rw [Dev.catchActs]
  apply Dev.trafficCatch_caught
  dsimp only
  rw [Dev.missAdmission_unless]
  · exact ⟨rfl, rfl, rfl, by rw [hwatch]; rfl, true, rfl⟩
  · exact hadm

theorem Dev.endStroke_quiet {d : Dev} (h : d.unfired = []) : d.endStroke = d := by
  rw [Dev.endStroke, h]
  split_ifs <;> rfl

/-- The clock at the catch that begins stroke `number` at `at3`. -/
def Clock.begun (c : Clock) (number at3 : Nat) : Clock :=
  { c with number := number % 2 ^ 64, catchAt := at3, latched := c.period, flushed := false, scanned := false, pfIssued := [] }

theorem Dev.catch_caught {d : Dev} (hunfired : d.unfired = []) (hadm : d.adm ≠ admLoading) (hwatch : d.watches = []) (number at3 : Nat) (k : Clock → Clock) :
    d.CaughtAt ((k d.clk).begun number at3) (d.catch' number at3 k) := by
  rw [Dev.catch', Dev.endStroke_quiet hunfired]
  obtain ⟨hregs, hdram, hhall, hw, hclk⟩ := Dev.catchActs_caught (d := (({ d with clk := k d.clk } : Dev).beginStroke number at3).duePassed) hadm hwatch
  exact ⟨hregs, hdram, hhall, hw, hclk⟩

/-! ## Catches in LOCKED (R312, R314, R315) -/

theorem Dev.strokeCatch_idle {d : Dev} {edge idle line : Nat} (h : idle < idleNs) : d.strokeCatch edge idle line = d.advanceTo (edge + 800) := by
  simp only [Dev.strokeCatch]
  exact if_pos (.inl h)

/-- A good catch of the next number within the window. -/
theorem Dev.strokeCatch_next {d : Dev} {edge idle line : Nat} (hidle : idleNs ≤ idle) (hmark : markOk line = true) (hcells : cellsOk line = true)
    (htrack : (d.advanceTo (edge + 800)).tracking = true) (hruns : (d.advanceTo (edge + 800)).clk.halted = none)
    (hstate : (d.advanceTo (edge + 800)).clk.state = .locked) (hafter : (d.advanceTo (edge + 800)).clk.catchAt ≤ edgeAt edge)
    (hcrc : bits (frameOf line) 95 80 = frameCrc (frameOf line))
    (hnext : bits (frameOf line) 63 0 = ((d.advanceTo (edge + 800)).clk.number + 1) % 2 ^ 64)
    (hmin : minInterval ≤ (edgeAt edge - (d.advanceTo (edge + 800)).clk.catchAt) / 3)
    (hmax : (edgeAt edge - (d.advanceTo (edge + 800)).clk.catchAt) / 3 ≤ maxInterval)
    (hlow : (d.advanceTo (edge + 800)).clk.period ≤ (edgeAt edge - (d.advanceTo (edge + 800)).clk.catchAt) / 3 + (d.advanceTo (edge + 800)).winNs)
    (hhigh : (edgeAt edge - (d.advanceTo (edge + 800)).clk.catchAt) / 3 ≤ (d.advanceTo (edge + 800)).clk.period + (d.advanceTo (edge + 800)).winNs) :
    ∃ hold, d.strokeCatch edge idle line
      = Dev.catch' { d.advanceTo (edge + 800) with clk := { (d.advanceTo (edge + 800)).clk with srcHold := hold } } (bits (frameOf line) 63 0) (edgeAt edge)
        fun c => { c with
          period := (((d.advanceTo (edge + 800)).clk.period : Int)
            + (((edgeAt edge - (d.advanceTo (edge + 800)).clk.catchAt) / 3 : Nat) - ((d.advanceTo (edge + 800)).clk.period : Int)) / 8).toNat
          lastOut := none } := by
  refine ⟨bit (frameOf line) 64, ?_⟩
  unfold Dev.strokeCatch
  generalize d.advanceTo (edge + 800) = d at *
  dsimp only
  rw [if_neg (by rw [htrack, hruns]; simp; omega), hmark, hcells, decide_eq_true hcrc, Bool.and_self, Bool.and_self, if_pos rfl, if_neg (by rw [hstate]; decide),
    if_neg fun h => h.elim (fun h => absurd hmin (not_le.2 h)) fun h => absurd hmax (not_le.2 h), if_pos hstate, Dev.lockedCatch]
  have hin : (decide (d.clk.period ≤ (edgeAt edge - d.clk.catchAt) / 3 + d.winNs) && decide ((edgeAt edge - d.clk.catchAt) / 3 ≤ d.clk.period + d.winNs)) = true := by
    simp [hlow, hhigh]
  have hwin (c : Clock) : ({ d with clk := c } : Dev).winNs = d.winNs := rfl
  dsimp only
  rw [if_neg (by simp), hwin, hin, if_pos rfl, Dev.takeGood]
  dsimp only
  rw [if_pos hnext]

/-- The events of a stroke hang on none of the tracker's counters. -/
theorem Dev.unfired_bump_missed (d : Dev) : (d.bump Fld.TIM_ERR_MISSED).unfired = d.unfired := by
  have hget {f : Fld} (hf : f.off 0 0 ≠ Fld.TIM_ERR_MISSED.off 0 0) : (d.bump Fld.TIM_ERR_MISSED).get f = d.get f :=
    Dev.get_put_other _ _ _ _ _ _ _ _ hf
  have haddr (i : Nat) : (d.bump Fld.TIM_ERR_MISSED).pfAddr i = d.pfAddr i := by rw [Dev.pfAddr, hget (by decide), Dev.pfAddr]
  have hentry (i : Nat) : (d.bump Fld.TIM_ERR_MISSED).pfEntry i = d.pfEntry i := by rw [Dev.pfEntry, haddr, Dev.bump_dram, Dev.pfEntry]
  have hpending : (d.bump Fld.TIM_ERR_MISSED).pfPending = d.pfPending := by
    funext i
    rw [Dev.pfPending, hentry, hget (by decide), Dev.bump_clk, Dev.pfPending]
  have hcmd : (d.bump Fld.TIM_ERR_MISSED).cmd = d.cmd := by
    funext r i
    rw [Dev.cmd, Dev.bump_cmds, Dev.cmd]
  rw [Dev.unfired, haddr, hpending, hcmd, hget (f := Fld.MOV_XFER_CFG_LFLUSH_ANGLE) (by decide), hget (f := Fld.SMP_CFG_SCAN_ANGLE) (by decide),
    hget (f := Fld.MEM_PF_ENTRIES_ENTRIES) (by decide), Dev.bump_clk, Dev.bump_dram, Dev.bump_pfs, Dev.bump_retr, Dev.unfired]

/-- A catch inserted that does not lose the stroke. -/
theorem Dev.insertCatch_locked {d : Dev} (hstate : d.clk.state = .locked) (hfew : d.clk.inserted < d.get Fld.TIM_CFG_FREE_MAX) :
    d.insertCatch = (d.bump Fld.TIM_ERR_MISSED).catch' (d.clk.number + 1) (d.clk.catchAt + 3 * d.clk.period) fun c =>
      { c with state := .freerun, inserted := d.clk.inserted + 1, lastOut := none } := by
  have hkeeps : (decide (d.clk.state ≠ .lost) && decide (d.get Fld.TIM_CFG_FREE_MAX + 1 ≤ d.clk.inserted + 1)) = false := by
    simp only [Bool.and_eq_false_iff, decide_eq_false_iff_not]
    omega
  rw [Dev.insertCatch, hkeeps, if_neg Bool.false_ne_true, if_neg (by simp [hstate])]
  simp only [Bool.or_false]

theorem exec_catchInsert_due {s : State} {t : BitVec 64} (halive : s.dev.alive = true) (hruns : (s.dev.advanceTo t.toNat).clk.halted = none)
    (hstate : (s.dev.advanceTo t.toNat).clk.state = .locked)
    (hdue : (s.dev.advanceTo t.toNat).clk.catchAt + 3 * ((s.dev.advanceTo t.toNat).clk.period + (s.dev.advanceTo t.toNat).winNs)
      ≤ (s.dev.advanceTo t.toNat).clk.now) :
    exec (.catchInsert t) s = .next (s.settled (s.dev.advanceTo t.toNat).insertCatch) := by
  show execCatchInsert t s = _
  refine onHall_settled halive ?_
  dsimp only
  have hfiring : (s.dev.advanceTo t.toNat).firing = true := by simp [Dev.firing, hruns, hstate]
  rw [if_pos hstate, hfiring, if_neg]
  rintro (h | h)
  · exact absurd h (by decide)
  · omega

theorem Dev.adm_advanceTo (d : Dev) (t : Nat) : (d.advanceTo t).adm = d.adm := Dev.get_advance d _ (by decide)

/-- Settles O40: the stroke that ends has nothing left to fire, so a catch moves the clock and nothing else. -/
theorem lockedTracker : Obligations.LockedTracker := by
  intro s edge idle line t halive hwatch hadm
  refine ⟨?_, ?_, ?_⟩
  · intro d p at3 i frame hidle hmark hcells htrack hruns hstate hafter hunfired hcrc hnext hmin hmax hlow hhigh
    obtain ⟨hold, hcatch⟩ := Dev.strokeCatch_next (d := s.dev) hidle hmark hcells htrack hruns hstate hafter hcrc hnext hmin hmax hlow hhigh
    have hcaught := Dev.catch_caught (d := { d with clk := { d.clk with srcHold := hold } }) hunfired (by rw [← s.dev.adm_advanceTo (edge.toNat + 800)] at hadm; exact hadm)
      (Dev.advance_watches_nil hwatch _) (bits frame 63 0) at3 fun c => { c with period := ((p : Int) + ((i : Int) - (p : Int)) / 8).toNat, lastOut := none }
    rw [← hcatch] at hcaught
    refine ⟨s.withDev (s.dev.strokeCatch edge.toNat idle.toNat line.toNat), ?_, ?_⟩
    · show execStrokeCatch edge idle line s = _
      refine (onHall_settled halive rfl).trans ?_
      rw [State.settled, hcaught.settle]
      rfl
    · obtain ⟨hregs, hdram, hhall, -, owed, hclk⟩ := hcaught
      show (s.dev.strokeCatch edge.toNat idle.toNat line.toNat).clk.number = _ ∧ (s.dev.strokeCatch edge.toNat idle.toNat line.toNat).clk.catchAt = _
        ∧ (s.dev.strokeCatch edge.toNat idle.toNat line.toNat).clk.period = _
        ∧ (s.dev.strokeCatch edge.toNat idle.toNat line.toNat).clk.latched = (s.dev.strokeCatch edge.toNat idle.toNat line.toNat).clk.period
        ∧ (s.dev.strokeCatch edge.toNat idle.toNat line.toNat).clk.state = _ ∧ (s.dev.strokeCatch edge.toNat idle.toNat line.toNat).clk.lost = _
        ∧ (s.dev.strokeCatch edge.toNat idle.toNat line.toNat).clk.cnt = _ ∧ _
      rw [hclk]
      exact ⟨Nat.mod_eq_of_lt (bits_lt _ _ _), rfl, rfl, rfl, hstate, rfl, rfl, hregs, hdram, hhall⟩
  · intro d hshort
    show execStrokeCatch edge idle line s = _
    exact onHall_settled halive (Dev.strokeCatch_idle hshort)
  · intro d hruns hstate hdue hunfired hfew
    have hcaught := Dev.catch_caught (d := d.bump Fld.TIM_ERR_MISSED) (d.unfired_bump_missed.trans hunfired)
      (by rw [← s.dev.adm_advanceTo t.toNat] at hadm; rw [Dev.adm, Dev.bump, Dev.get_put_other _ _ _ _ _ _ _ _ (by decide)]; exact hadm)
      ((Dev.bump_watches ..).trans (Dev.advance_watches_nil hwatch _)) (d.clk.number + 1) (d.clk.catchAt + 3 * d.clk.period) fun c =>
      { c with state := .freerun, inserted := d.clk.inserted + 1, lastOut := none }
    rw [← Dev.insertCatch_locked hstate hfew] at hcaught
    obtain ⟨e, he⟩ : ∃ e, e = d.insertCatch := ⟨_, rfl⟩
    rw [← he] at hcaught
    refine ⟨s.withDev e, ?_, ?_⟩
    · rw [exec_catchInsert_due halive hruns hstate hdue, State.settled, ← he, hcaught.settle]
      rfl
    · obtain ⟨hregs, hdram, hhall, -, owed, hclk⟩ := hcaught
      show e.clk.number = _ ∧ e.clk.catchAt = _ ∧ e.clk.period = _ ∧ e.clk.state = _ ∧ e.clk.inserted = _ ∧ e.clk.lost = _ ∧ _
      rw [hclk, Dev.bump_clk]
      refine ⟨rfl, rfl, rfl, rfl, rfl, rfl, ?_, ?_, hdram.trans (Dev.bump_dram ..), hhall.trans (Dev.bump_hall ..)⟩
      · exact (Dev.get_of_regs hregs _ _ _).trans (Dev.get_bump_same _ _ _ _ _ (by decide) (by decide))
      · exact Dev.sameRegsBut_of_regs (Dev.sameRegsBut_put (Dev.sameRegsBut_refl _ _) _ _ _ _ (by decide)) hregs

/-! ## The tracker lost, halted and started again (R313, R438) -/

theorem exec_acquireTimeout_due {s : State} {t : BitVec 64} (halive : s.dev.alive = true) (hwatch : s.dev.watches = [])
    (htrack : (s.dev.advanceTo t.toNat).tracking = true) (hruns : (s.dev.advanceTo t.toNat).clk.halted = none)
    (hstate : (s.dev.advanceTo t.toNat).clk.state = .acquire)
    (hdue : (s.dev.advanceTo t.toNat).clk.entered
      + ((s.dev.advanceTo t.toNat).get Fld.TIM_CFG_FREE_MAX + 1) * (s.dev.advanceTo t.toNat).get Fld.TIM_CFG_SELF_PERIOD ≤ (s.dev.advanceTo t.toNat).ns) :
    ∃ t' : State, exec (.acquireTimeout t) s = .next t' ∧ t'.dev.clk.state = .lost ∧ t'.dev.clk.lost = true ∧ t'.dev.clk.number = 0
      ∧ t'.dev.clk.period = (s.dev.advanceTo t.toNat).get Fld.TIM_CFG_SELF_PERIOD ∧ t'.dev.dram = (s.dev.advanceTo t.toNat).dram := by
  have hcalm := Dev.advance_watches_nil hwatch (3 * t.toNat - s.dev.clk.now)
  rw [← Dev.advanceTo] at hcalm
  obtain ⟨d, hd⟩ : ∃ d, d = s.dev.advanceTo t.toNat := ⟨_, rfl⟩
  rw [← hd] at htrack hruns hstate hdue hcalm ⊢
  obtain ⟨b, hb⟩ : ∃ b : Dev, b = (Dev.beginStroke { d with clk := { d.clk with state := .lost, lost := true, period := d.get Fld.TIM_CFG_SELF_PERIOD, inserted := 0, refGood := none } } 0
    (3 * (d.clk.entered + (d.get Fld.TIM_CFG_FREE_MAX + 1) * d.get Fld.TIM_CFG_SELF_PERIOD))).duePassed := ⟨_, rfl⟩
  obtain ⟨regs, log, hlog⟩ := b.logEv_frame evStrokeLost mTiming (d.get Fld.TIM_CFG_SELF_PERIOD)
  have hexec : exec (.acquireTimeout t) s = .next (s.settled (b.logEv evStrokeLost mTiming (d.get Fld.TIM_CFG_SELF_PERIOD))) := by
    show execAcquireTimeout t s = _
    refine onHall_settled halive ?_
    dsimp only
    rw [← hd, if_neg (by simp [htrack, hruns, hstate]; omega), hb]
  have hsettle : (b.logEv evStrokeLost mTiming (d.get Fld.TIM_CFG_SELF_PERIOD)).settle = b.logEv evStrokeLost mTiming (d.get Fld.TIM_CFG_SELF_PERIOD) :=
    Dev.settle_calm (by rw [hlog, hb]; exact hcalm)
  refine ⟨_, hexec, ?_⟩
  rw [State.settled, hsettle, hlog, hb]
  exact ⟨rfl, rfl, rfl, rfl, rfl⟩

theorem exec_timCfgWrite_open {s : State} (v : Word) (halive : s.dev.alive = true) (hphase : s.dev.get Fld.GLB_BOOT_PHASE = 5) :
    exec (.timCfgWrite v) s
      = .next (s.withDev ((s.dev.writeReg false Reg.TIM_CFG Reg.TIM_CFG.base maskAll v.toNat).timEn (s.dev.flag Fld.TIM_CFG_EN))) := by
  show execTimCfgWrite v s = _
  rw [execTimCfgWrite, onDev_alive halive]
  dsimp only
  rw [if_pos hphase]
  rfl

theorem Dev.timEn_cases (e : Dev) (was : Bool) :
    (was = true → e.flag Fld.TIM_CFG_EN = false → e.timEn was = { e with clk := { e.clk with halted := some e.angle, lost := true } })
    ∧ (was = false → e.flag Fld.TIM_CFG_EN = true → e.timEn was = e.acquire)
    ∧ (was = e.flag Fld.TIM_CFG_EN → e.timEn was = e) := by
  refine ⟨fun hw hon => ?_, fun hw hon => ?_, fun hw => ?_⟩
  · simp [Dev.timEn, hw, hon]
  · simp [Dev.timEn, hw, hon]
  · simp [Dev.timEn, hw]

/-! ## The edges of the time counter (R320 to R322) -/

/-- A signed value that fits a field reads back. -/
theorem ofField_toField32 {x : Int} (hlow : -2147483648 ≤ x) (hhigh : x < 2147483648) : ofField 32 (toField 32 x % 2 ^ 32) = x := by
  simp only [ofField, toField]
  split_ifs <;> omega

theorem ppsOffset_bounds (c : Nat) : -500000000 < ppsOffset c ∧ ppsOffset c ≤ 500000000 := by
  simp only [ppsOffset]
  split_ifs <;> omega

/-- An edge at least half a second after the last one, with no load of TAI seconds pending. -/
theorem Dev.ppsEdge_accepted {d : Dev} (hapart : ∀ a, d.clk.lastPps = some a → a + 500000000 ≤ d.ns) (hpend : d.flag Fld.TIM_TAI_PEND = false) :
    d.ppsEdge =
      let d1 := { d with clk := { d.clk with lastPps := some d.ns } }
      let e := ppsOffset d.clk.cnt
      let d2 := d1.put Fld.TIM_PPS_STAT_OFFSET (toField 32 e)
      if d2.clk.ppsHold ∨ d2.get Fld.TIM_PPS_CFG_STEP_TH < e.natAbs then
        let d := { d2 with clk := { d2.clk with cnt := toField 64 ((d2.clk.cnt : Int) - e), slew := 0 } }
        let d := (d.put Fld.TIM_STAT_STEPPED 1).logEv evTimeStep mTiming (toField 64 e)
        { d with clk := { d.clk with ppsHold := false } }
      else
        let f := max (-100000) (min 100000 (ofField 32 (d2.get Fld.TIM_PPS_STAT_FREQ) + (-e) / 16))
        let m : Int := d2.get Fld.TIM_PPS_CFG_SLEW_MAX
        let d := d2.put Fld.TIM_PPS_STAT_FREQ (toField 32 f)
        { d with clk := { d.clk with slew := max (-m) (min m (-e)), ppsHold := false } } := by
  have hload : ¬ ({ d with clk := { d.clk with lastPps := some d.ns } } : Dev).flag Fld.TIM_TAI_PEND = true := by
    rw [show ({ d with clk := { d.clk with lastPps := some d.ns } } : Dev).flag Fld.TIM_TAI_PEND = d.flag Fld.TIM_TAI_PEND from rfl, hpend]
    simp
  unfold Dev.ppsEdge
  refine (if_neg ?_).trans (if_neg hload)
  cases hlast : d.clk.lastPps with
  | none => simp
  | some a => simpa using hapart a hlast

section Edge

variable {d : Dev} (hapart : ∀ a, d.clk.lastPps = some a → a + 500000000 ≤ d.ns) (hpend : d.flag Fld.TIM_TAI_PEND = false)
include hapart hpend

/-- An edge near the second moves the frequency by a sixteenth of its offset and slews the rest away (R321). -/
theorem Dev.ppsEdge_slews (hrunning : d.clk.ppsHold = false) (hnear : (ppsOffset d.clk.cnt).natAbs ≤ d.get Fld.TIM_PPS_CFG_STEP_TH) :
    let e := ppsOffset d.clk.cnt
    d.ppsEdge.clk.cnt = d.clk.cnt ∧ ofField 32 (d.ppsEdge.get Fld.TIM_PPS_STAT_OFFSET) = e
      ∧ ofField 32 (d.ppsEdge.get Fld.TIM_PPS_STAT_FREQ) = max (-100000) (min 100000 (ofField 32 (d.get Fld.TIM_PPS_STAT_FREQ) + (-e) / 16))
      ∧ d.ppsEdge.clk.slew = max (-(d.get Fld.TIM_PPS_CFG_SLEW_MAX : Int)) (min (d.get Fld.TIM_PPS_CFG_SLEW_MAX : Int) (-e))
      ∧ d.ppsEdge.clk.lastPps = some d.ns ∧ Dev.sameRegsBut [Reg.TIM_PPS_STAT.base] d d.ppsEdge := by
  intro e
  obtain ⟨d1, hd1⟩ : ∃ d1 : Dev, d1 = { d with clk := { d.clk with lastPps := some d.ns } } := ⟨_, rfl⟩
  have hregs : d1.regs = d.regs := by rw [hd1]
  obtain ⟨d2, hd2⟩ : ∃ d2, d2 = d1.put Fld.TIM_PPS_STAT_OFFSET (toField 32 e) := ⟨_, rfl⟩
  have hclk : d2.clk = d1.clk := by rw [hd2, Dev.put_clk]
  have hget {f : Fld} (hf : Fld.TIM_PPS_STAT_OFFSET.Beside f) : d2.get f = d.get f := by
    rw [hd2, Dev.get_put_beside _ hf, Dev.get_of_regs hregs]
  obtain ⟨f, hf⟩ : ∃ f, f = max (-100000) (min 100000 (ofField 32 (d.get Fld.TIM_PPS_STAT_FREQ) + (-e) / 16)) := ⟨_, rfl⟩
  obtain ⟨d3, hd3⟩ : ∃ d3, d3 = d2.put Fld.TIM_PPS_STAT_FREQ (toField 32 f) := ⟨_, rfl⟩
  have hclk3 : d3.clk = { d.clk with lastPps := some d.ns } := by rw [hd3, Dev.put_clk, hclk, hd1]
  have hedge : d.ppsEdge = { d3 with clk := { d3.clk with
      slew := max (-(d.get Fld.TIM_PPS_CFG_SLEW_MAX : Int)) (min (d.get Fld.TIM_PPS_CFG_SLEW_MAX : Int) (-e)), ppsHold := false } } := by
    rw [Dev.ppsEdge_accepted hapart hpend]
    dsimp only
    rw [← hd1, ← hd2, hclk, hget (f := Fld.TIM_PPS_CFG_STEP_TH) (by decide), hget (f := Fld.TIM_PPS_STAT_FREQ) (by decide),
      hget (f := Fld.TIM_PPS_CFG_SLEW_MAX) (by decide), ← hf, ← hd3, if_neg]
    rw [hd1]
    rintro (h | h)
    · exact absurd (hrunning.symm.trans h) (by decide)
    · exact absurd h (not_lt.2 hnear)
  have hoffset := ppsOffset_bounds d.clk.cnt
  rw [hedge]
  refine ⟨?_, ?_, ?_, rfl, ?_, ?_⟩
  · show d3.clk.cnt = _
    rw [hclk3]
  · show ofField 32 (d3.get Fld.TIM_PPS_STAT_OFFSET) = e
    rw [hd3, Dev.get_put_beside _ (by decide), hd2, Dev.get_put_same _ _ _ _ _ (by decide) (by decide)]
    exact ofField_toField32 (by omega) (by omega)
  · show ofField 32 (d3.get Fld.TIM_PPS_STAT_FREQ) = _
    rw [← hf, hd3, Dev.get_put_same _ _ _ _ _ (by decide) (by decide)]
    exact ofField_toField32 (by omega) (by omega)
  · show d3.clk.lastPps = _
    rw [hclk3]
  · have hstart : Dev.sameRegsBut [Reg.TIM_PPS_STAT.base] d d1 := Dev.sameRegsBut_of_regs (Dev.sameRegsBut_refl _ _) hregs
    have h3 : Dev.sameRegsBut [Reg.TIM_PPS_STAT.base] d d3 := by
      rw [hd3, hd2]
      exact Dev.sameRegsBut_put (Dev.sameRegsBut_put hstart _ _ _ _ (by decide)) _ _ _ _ (by decide)
    exact h3

/-- An edge in holdover, or off by more than the threshold, steps the counter to the second (R321). -/
theorem Dev.ppsEdge_steps (hstep : d.clk.ppsHold = true ∨ d.get Fld.TIM_PPS_CFG_STEP_TH < (ppsOffset d.clk.cnt).natAbs) :
    d.ppsEdge.clk.cnt = toField 64 ((d.clk.cnt : Int) - ppsOffset d.clk.cnt) ∧ d.ppsEdge.clk.slew = 0 ∧ d.ppsEdge.clk.ppsHold = false
      ∧ d.ppsEdge.flag Fld.TIM_STAT_STEPPED = true ∧ d.ppsEdge.dram = d.dram := by
  obtain ⟨e, he⟩ : ∃ e, e = ppsOffset d.clk.cnt := ⟨_, rfl⟩
  obtain ⟨d1, hd1⟩ : ∃ d1 : Dev, d1 = { d with clk := { d.clk with lastPps := some d.ns } } := ⟨_, rfl⟩
  have hregs : d1.regs = d.regs := by rw [hd1]
  obtain ⟨d2, hd2⟩ : ∃ d2, d2 = d1.put Fld.TIM_PPS_STAT_OFFSET (toField 32 e) := ⟨_, rfl⟩
  have hclk : d2.clk = d1.clk := by rw [hd2, Dev.put_clk]
  have hdram : d2.dram = d.dram := by rw [hd2, Dev.put_dram, hd1]
  have hth : d2.get Fld.TIM_PPS_CFG_STEP_TH = d.get Fld.TIM_PPS_CFG_STEP_TH := by
    rw [hd2, Dev.get_put_beside _ (by decide), Dev.get_of_regs hregs]
  obtain ⟨d3, hd3⟩ : ∃ d3 : Dev, d3 = Dev.put { d2 with clk := { d2.clk with cnt := toField 64 ((d2.clk.cnt : Int) - e), slew := 0 } } Fld.TIM_STAT_STEPPED 1 := ⟨_, rfl⟩
  have hclk3 : d3.clk = { d2.clk with cnt := toField 64 ((d2.clk.cnt : Int) - e), slew := 0 } := by rw [hd3, Dev.put_clk]
  obtain ⟨regs, log, hlog⟩ := d3.logEv_frame evTimeStep mTiming (toField 64 e)
  obtain ⟨d4, hd4⟩ : ∃ d4, d4 = d3.logEv evTimeStep mTiming (toField 64 e) := ⟨_, rfl⟩
  have hedge : d.ppsEdge = { d4 with clk := { d4.clk with ppsHold := false } } := by
    rw [Dev.ppsEdge_accepted hapart hpend]
    dsimp only
    rw [← he, ← hd1, ← hd2, if_pos, ← hd3, ← hd4]
    rw [hth, hclk, hd1, he]
    exact hstep
  have hclk4 : d4.clk = d3.clk := by rw [hd4, hlog]
  rw [hedge, ← he]
  refine ⟨?_, ?_, rfl, ?_, ?_⟩
  · show d4.clk.cnt = _
    rw [hclk4, hclk3, hclk, hd1]
  · show d4.clk.slew = 0
    rw [hclk4, hclk3]
  · show (d4.get Fld.TIM_STAT_STEPPED == 1) = true
    rw [hd4, Dev.get_logEv _ _ _ _ (by decide), hd3, Dev.get_put_same _ _ _ _ _ (by decide) (by decide)]
    rfl
  · show d4.dram = _
    rw [hd4, Dev.dram_logEv, hd3, Dev.put_dram, hdram]

end Edge

/-- Settles O41, event by event. -/
theorem timeCounter : Obligations.TimeCounter := by
  intro s t halive d
  have hexec : exec (.ppsEdge t) s = .next (s.withDev d.ppsEdge) := by
    show execPpsEdge t s = _
    rw [execPpsEdge, onDev_alive halive]
    rfl
  refine ⟨fun htrack hruns hstate hdue hwatch => exec_acquireTimeout_due halive hwatch htrack hruns hstate hdue, fun v hphase => ?_, fun hapart hpend => ?_,
    fun a hlast hsoon => ?_, fun hlong => ?_⟩
  · intro e
    obtain ⟨hstop, hstart, hkeep⟩ := e.timEn_cases (s.dev.flag Fld.TIM_CFG_EN)
    have hwrite := exec_timCfgWrite_open v halive hphase
    exact ⟨fun hw hon => hwrite.trans (by rw [← hstop hw hon]), fun hw hon => hwrite.trans (by rw [← hstart hw hon]), fun hw => hwrite.trans (by rw [hkeep hw])⟩
  · exact ⟨fun hrunning hnear => ⟨_, hexec, Dev.ppsEdge_slews hapart hpend hrunning hnear⟩, fun hstep => ⟨_, hexec, Dev.ppsEdge_steps hapart hpend hstep⟩⟩
  · rw [hexec]
    refine congrArg (fun e => Host.Outcome.next (s.withDev e)) ?_
    unfold Dev.ppsEdge
    refine if_pos ?_
    rw [hlast]
    exact decide_eq_true hsoon
  · show execPpsHoldover t s = _
    rw [execPpsHoldover, onDev_alive halive]
    dsimp only
    rw [if_neg (not_lt.2 hlong)]
    rfl

end Sys2Proof.Machine

/-! # Ports and link control (chapter 10) -/

namespace Sys2Proof.Machine

/-! ## A port's place and its registers -/

theorem Dev.get_put_index (d : Dev) {f g : Fld} {i j : Nat} (v : Nat) (hbase : f.base = g.base) (hs1 : f.s1 = g.s1) (hpos : 0 < f.s1) (hne : i ≠ j) :
    (d.put f v i).get g j = d.get g j := by
  refine Dev.get_put_other _ _ _ _ _ _ _ _ fun h => hne ?_
  simp only [Fld.off, hbase, hs1, Nat.mul_zero, Nat.add_zero, Nat.add_left_cancel_iff] at h
  exact (Nat.eq_of_mul_eq_mul_left (hs1 ▸ hpos) h).symm

theorem Dev.get_setPort (d : Dev) (p : Nat) (x : Port) (f : Fld) (i j : Nat) : (d.setPort p x).get f i j = d.get f i j := rfl

theorem Dev.flag_setPort (d : Dev) (p : Nat) (x : Port) (f : Fld) (i j : Nat) : (d.setPort p x).flag f i j = d.flag f i j := rfl

theorem Dev.sameRegsBut_setPort {offs : List Nat} {d e : Dev} (h : Dev.sameRegsBut offs e d) (p : Nat) (x : Port) :
    Dev.sameRegsBut offs e (d.setPort p x) := Dev.sameRegsBut_of_regs (d' := d) (d'' := d.setPort p x) h rfl

theorem Dev.port_of_ports {d d' : Dev} (h : d'.ports = d.ports) (p : Nat) : d'.port p = d.port p := by rw [Dev.port, h, Dev.port]

theorem Dev.port_setPort {d : Dev} {p : Nat} (hp : p < d.ports.length) (x : Port) : (d.setPort p x).port p = x := by
  simp [Dev.port, Dev.setPort, List.getD_eq_getElem?_getD, hp]

/-- A port moved: its storage, then two fields of its control register. -/
theorem Dev.portTo_eq (d : Dev) (p state : Nat) : ∃ x : Port, x.fails = (d.port p).fails ∧ x.codes = (d.port p).codes
    ∧ d.portTo p state = ((d.setPort p x).put Fld.FAB_PORT_CTL_MISCABLE 0 p).put Fld.FAB_PORT_CTL_STATE state p := by
  rw [Dev.portTo]
  refine ⟨_, ?_, ?_, rfl⟩
  · split_ifs <;> rfl
  · split_ifs <;> rfl

section PortTo

variable (d : Dev) (p state : Nat)

theorem Dev.portState_portTo (h : state < 8) : (d.portTo p state).portState p = state := by
  obtain ⟨x, -, -, hx⟩ := d.portTo_eq p state
  rw [hx, Dev.portState, Dev.get_put_same _ _ _ _ _ (by decide) (by decide)]
  exact Nat.mod_eq_of_lt h

theorem Dev.portState_portTo_other {q : Nat} (h : p ≠ q) : (d.portTo p state).portState q = d.portState q := by
  obtain ⟨x, -, -, hx⟩ := d.portTo_eq p state
  rw [hx, Dev.portState, Dev.get_put_index (f := Fld.FAB_PORT_CTL_STATE) _ _ rfl rfl (by decide) h,
    Dev.get_put_index (f := Fld.FAB_PORT_CTL_MISCABLE) (g := Fld.FAB_PORT_CTL_STATE) _ _ rfl rfl (by decide) h, Dev.get_setPort, Dev.portState]

theorem Dev.get_portTo {f : Fld} {i j : Nat} (h : f.off i j ≠ Fld.FAB_PORT_CTL_STATE.off p 0) : (d.portTo p state).get f i j = d.get f i j := by
  obtain ⟨x, -, -, hx⟩ := d.portTo_eq p state
  rw [hx, Dev.get_put_other _ _ _ _ _ _ _ _ h, Dev.get_put_other _ Fld.FAB_PORT_CTL_MISCABLE _ _ _ _ _ _ h, Dev.get_setPort]

theorem Dev.portEn_portTo : (d.portTo p state).flag Fld.FAB_PORT_CTL_EN p = d.flag Fld.FAB_PORT_CTL_EN p := by
  obtain ⟨x, -, -, hx⟩ := d.portTo_eq p state
  rw [hx, Dev.flag_put_beside _ (by decide), Dev.flag_put_beside _ (by decide), Dev.flag, Dev.get_setPort, Dev.flag]

theorem Dev.dram_portTo : (d.portTo p state).dram = d.dram := by
  obtain ⟨x, -, -, hx⟩ := d.portTo_eq p state
  rw [hx, Dev.put_dram, Dev.put_dram, Dev.setPort]

theorem Dev.port_portTo (hp : p < d.ports.length) :
    ((d.portTo p state).port p).fails = (d.port p).fails ∧ ((d.portTo p state).port p).codes = (d.port p).codes := by
  obtain ⟨x, hfails, hcodes, hx⟩ := d.portTo_eq p state
  rw [hx, Dev.port_of_ports (Dev.put_ports ..), Dev.port_of_ports (Dev.put_ports ..), Dev.port_setPort hp]
  exact ⟨hfails, hcodes⟩

variable {d p}

theorem Dev.sameRegsBut_portTo {offs : List Nat} {e : Dev} (h : Dev.sameRegsBut offs e d) (hin : Fld.FAB_PORT_CTL_STATE.off p 0 ∈ offs) :
    Dev.sameRegsBut offs e (d.portTo p state) := by
  obtain ⟨x, -, -, hx⟩ := d.portTo_eq p state
  rw [hx]
  exact Dev.sameRegsBut_put (Dev.sameRegsBut_put (Dev.sameRegsBut_setPort h p x) Fld.FAB_PORT_CTL_MISCABLE 0 p 0 hin) Fld.FAB_PORT_CTL_STATE state p 0 hin

end PortTo

/-! ## `EN` written (R250) -/

/-- The device after `EN` of a port is written. -/
def Dev.enabled (d : Dev) (p v : Nat) : Dev := d.put Fld.FAB_PORT_CTL_EN v p

theorem Dev.portState_enabled (d : Dev) (p v : Nat) : (d.enabled p v).portState p = d.portState p := Dev.get_put_beside _ (by decide) _ _ _

theorem Dev.flag_enabled_one (d : Dev) (p : Nat) : (d.enabled p 1).flag Fld.FAB_PORT_CTL_EN p = true := Dev.flag_put_one _ _ _ _ (by decide) (by decide)

theorem Dev.flag_enabled_zero (d : Dev) (p : Nat) : (d.enabled p 0).flag Fld.FAB_PORT_CTL_EN p = false := by
  rw [Dev.flag, Dev.enabled, Dev.get_put_same _ _ _ _ _ (by decide) (by decide)]
  rfl

theorem Dev.sameRegsBut_enabled (d : Dev) {offs : List Nat} {p : Nat} (hin : Fld.FAB_PORT_CTL_STATE.off p 0 ∈ offs) (v : Nat) :
    Dev.sameRegsBut offs d (d.enabled p v) := Dev.sameRegsBut_put (Dev.sameRegsBut_refl _ _) Fld.FAB_PORT_CTL_EN v p 0 hin

theorem Dev.feedPower_enabled (d : Dev) (p v : Nat) {k : Nat} (hk : k < 8) : (d.enabled p v).feedPower k = d.feedPower k := by
  have hne : Fld.FAB_LASER_POWER.off k 0 ≠ Fld.FAB_PORT_CTL_EN.off p 0 := by
    simp only [Fld.off, Fld.FAB_LASER_POWER, Fld.FAB_PORT_CTL_EN]
    omega
  rw [Dev.feedPower, Dev.enabled, Dev.get_put_other _ _ _ _ _ _ _ _ hne, Dev.feedPower]

theorem tunes_off_ne (p : Nat) : Fld.FAB_PORT_BER_TUNES.off p 0 ≠ Fld.FAB_PORT_CTL_STATE.off p 0 := by
  simp only [Fld.off, Fld.FAB_PORT_BER_TUNES, Fld.FAB_PORT_CTL_STATE]
  omega

/-- A port taken to TUNING, and counted. -/
theorem Dev.toTuning_moves (d : Dev) (p : Nat) : (d.toTuning p).portState p = poTuning
    ∧ (d.toTuning p).flag Fld.FAB_PORT_CTL_EN p = d.flag Fld.FAB_PORT_CTL_EN p
    ∧ (d.toTuning p).get Fld.FAB_PORT_BER_TUNES p = min Fld.FAB_PORT_BER_TUNES.max (d.get Fld.FAB_PORT_BER_TUNES p + 1) ∧ (d.toTuning p).dram = d.dram := by
  have hother {f : Fld} (hf : f.off p 0 = Fld.FAB_PORT_CTL_STATE.off p 0) : (d.toTuning p).get f p = (d.portTo p poTuning).get f p :=
    Dev.get_put_other _ _ _ _ _ _ _ _ (hf ▸ (tunes_off_ne p).symm)
  refine ⟨?_, ?_, ?_, ?_⟩
  · rw [Dev.portState, hother (f := Fld.FAB_PORT_CTL_STATE) rfl]
    exact Dev.portState_portTo _ _ _ (by decide)
  · rw [Dev.flag, hother (f := Fld.FAB_PORT_CTL_EN) rfl]
    exact Dev.portEn_portTo _ _ _
  · rw [Dev.toTuning, Dev.get_bump_same _ _ _ _ _ (by decide) (by decide), Dev.get_portTo _ _ _ (tunes_off_ne p)]
  · rw [Dev.toTuning, Dev.bump_dram, Dev.dram_portTo]

theorem Dev.sameRegsBut_toTuning {offs : List Nat} {d e : Dev} {p : Nat} (h : Dev.sameRegsBut offs e d) (hin : Fld.FAB_PORT_CTL_STATE.off p 0 ∈ offs)
    (hin' : Fld.FAB_PORT_BER_TUNES.off p 0 ∈ offs) : Dev.sameRegsBut offs e (d.toTuning p) :=
  Dev.sameRegsBut_put (Dev.sameRegsBut_portTo _ h hin) _ _ _ _ hin'

section EnWrite

variable {s : State} {port : BitVec 5} (halive : s.dev.alive = true) (hport : port.toNat < 24) (hopen : s.dev.open' = true)
include halive hport hopen

theorem exec_portEnWrite_open (en : Bool) : exec (.portEnWrite port en) s = .next (s.withDev (s.dev.writePortEn port.toNat en)) := by
  show execPortEnWrite port en s = _
  rw [execPortEnWrite, onDev_alive halive]
  rw [if_pos ⟨hopen, hport⟩]
  rfl

/-- A DOWN port with light that is enabled tunes. -/
theorem exec_portEnWrite_tunes (hdown : s.dev.portState port.toNat = poDown) (hlight : 300 < s.dev.feedPower (port.toNat / 3)) :
    ∃ x : Port, exec (.portEnWrite port true) s = .next (s.withDev (((s.dev.enabled port.toNat 1).setPort port.toNat x).toTuning port.toNat)) := by
  have hstate := (s.dev.portState_enabled port.toNat 1).trans hdown
  have hpower : 300 < (s.dev.enabled port.toNat 1).feedPower (feedOf port.toNat) := by
    rw [Dev.feedPower_enabled _ _ _ (by unfold feedOf; omega)]
    exact hlight
  have hwrite : s.dev.writePortEn port.toNat true = (s.dev.enabled port.toNat 1).tryTune port.toNat := rfl
  rw [exec_portEnWrite_open halive hport hopen, hwrite, Dev.tryTune, if_pos ⟨hstate, s.dev.flag_enabled_one _, hpower⟩]
  exact ⟨_, rfl⟩

/-- `EN` 0 takes a port DOWN. -/
theorem exec_portEnWrite_down :
    ∃ t : State, exec (.portEnWrite port false) s = .next t ∧ t.dev.portState port.toNat = poDown ∧ t.dev.flag Fld.FAB_PORT_CTL_EN port.toNat = false
      ∧ Dev.sameRegsBut [Fld.FAB_PORT_CTL_STATE.off port.toNat 0] s.dev t.dev ∧ t.dev.dram = s.dev.dram := by
  obtain ⟨p, hp⟩ : ∃ p, p = port.toNat := ⟨_, rfl⟩
  have hsame := s.dev.sameRegsBut_enabled (offs := [Fld.FAB_PORT_CTL_STATE.off p 0]) (p := p) (by simp) 0
  have hdram : (s.dev.enabled p 0).dram = s.dev.dram := Dev.put_dram ..
  have hexec := exec_portEnWrite_open halive hport hopen false
  rw [← hp] at hexec ⊢
  have hwrite : s.dev.writePortEn p false
      = if (s.dev.enabled p 0).portState p = poDown then s.dev.enabled p 0 else (s.dev.enabled p 0).portTo p poDown := rfl
  by_cases hdown : (s.dev.enabled p 0).portState p = poDown
  · rw [hwrite, if_pos hdown] at hexec
    exact ⟨_, hexec, hdown, s.dev.flag_enabled_zero p, hsame, hdram⟩
  · rw [hwrite, if_neg hdown] at hexec
    exact ⟨_, hexec, Dev.portState_portTo _ _ _ (by decide), (Dev.portEn_portTo _ _ _).trans (s.dev.flag_enabled_zero p),
      Dev.sameRegsBut_portTo _ hsame (by simp), (Dev.dram_portTo _ _ _).trans hdram⟩

end EnWrite

/-! ## Tuning and the laser feeds (R243, R245, R246) -/

/-- What is learned touches the calibration journal only. -/
theorem Dev.foldl_learn_frame (key value : Nat → Nat) (ks : List Nat) (d : Dev) :
    ∃ cox, ks.foldl (fun (d : Dev) k => d.learn 1 (key k) (value k)) d = { d with cox := cox } := by
  induction ks generalizing d with
  | nil => exact ⟨_, rfl⟩
  | cons k ks ih =>
    obtain ⟨cox, hcox⟩ := ih (d.learn 1 (key k) (value k))
    exact ⟨cox, by rw [List.foldl_cons, hcox]; rfl⟩

section Tuned

variable {s : State} {port : BitVec 5} (halive : s.dev.alive = true) (htunable : port.toNat ∈ s.dev.tunable)
include halive htunable

theorem exec_portTuneDone_locked (codes : List (BitVec 16)) :
    ∃ cox, exec (.portTuneDone port true codes) s = .next (s.withDev ((({ s.dev with cox := cox } : Dev).setPort port.toNat
      { (s.dev.port port.toNat) with fails := 0, codes := (List.range 16).map fun k => (codes.getD k 0).toNat }).portTo port.toNat poTraining)) := by
  obtain ⟨cox, hcox⟩ := Dev.foldl_learn_frame (fun k => heaterKey port.toNat k (tempBin (s.dev.elec.temps.getD (port.toNat / 3) 0)))
    (fun k => (codes.getD k 0).toNat) (List.range codes.length) s.dev
  have hexec : exec (.portTuneDone port true codes) s = execPortTuneDone port true codes s := rfl
  refine ⟨cox, ?_⟩
  rw [hexec, execPortTuneDone, onDev_alive halive]
  dsimp only
  rw [if_neg (by simpa using htunable), if_pos rfl, hcox]
  rfl

theorem exec_portTuneDone_again (hfew : (s.dev.port port.toNat).fails + 1 < tuneLimit) :
    exec (.portTuneDone port false []) s
      = .next (s.withDev (s.dev.setPort port.toNat { (s.dev.port port.toNat) with fails := (s.dev.port port.toNat).fails + 1, since := s.dev.ns })) := by
  have hexec : exec (.portTuneDone port false []) s = execPortTuneDone port false [] s := rfl
  rw [hexec, execPortTuneDone, onDev_alive halive]
  dsimp only
  rw [if_neg (by simpa using htunable), if_neg Bool.false_ne_true, if_pos hfew]
  rfl

theorem exec_portTuneDone_third (hthird : tuneLimit ≤ (s.dev.port port.toNat).fails + 1) :
    ∃ d : Dev, exec (.portTuneDone port false []) s = .next (s.withDev ((d.portTo port.toNat poFailed).logEv evUnitFailed mCox (3 * 256 + port.toNat))) := by
  have hexec : exec (.portTuneDone port false []) s = execPortTuneDone port false [] s := rfl
  rw [hexec, execPortTuneDone, onDev_alive halive]
  dsimp only
  rw [if_neg (by simpa using htunable), if_neg Bool.false_ne_true, if_neg (not_lt.2 hthird)]
  exact ⟨_, rfl⟩

end Tuned

/-- One port of a feed that is too weak: it goes DOWN, unless it is DOWN or FAILED already (R243). -/
def Dev.feedLost (d : Dev) (p : Nat) : Dev := if d.portState p = poDown ∨ d.portState p = poFailed then d else d.portTo p poDown

theorem Dev.portState_feedLost_other (d : Dev) {p q : Nat} (h : p ≠ q) : (d.feedLost p).portState q = d.portState q := by
  rw [Dev.feedLost]
  split_ifs
  · rfl
  · exact Dev.portState_portTo_other _ _ _ h

theorem Dev.portState_feedLost (d : Dev) {p : Nat} (h : d.portState p ≠ poFailed) : (d.feedLost p).portState p = poDown := by
  rw [Dev.feedLost]
  split_ifs with hc
  · exact hc.resolve_right h
  · exact Dev.portState_portTo _ _ _ (by decide)

theorem Dev.get_feedLost (d : Dev) (p : Nat) {f : Fld} {i j : Nat} (h : f.off i j ≠ Fld.FAB_PORT_CTL_STATE.off p 0) :
    (d.feedLost p).get f i j = d.get f i j := by
  rw [Dev.feedLost]
  split_ifs
  · rfl
  · exact Dev.get_portTo _ _ _ h

theorem Dev.get_foldl_feedLost (ps : List Nat) (d : Dev) {f : Fld} {i j : Nat} (h : ∀ p ∈ ps, f.off i j ≠ Fld.FAB_PORT_CTL_STATE.off p 0) :
    (ps.foldl Dev.feedLost d).get f i j = d.get f i j := by
  induction ps generalizing d with
  | nil => rfl
  | cons p ps ih =>
    rw [List.forall_mem_cons] at h
    rw [List.foldl_cons, ih _ h.2, Dev.get_feedLost _ _ h.1]

/-- Each of a feed's ports that is not FAILED goes DOWN. -/
theorem Dev.portState_foldl_feedLost {ps : List Nat} {p : Nat} (hp : p ∈ ps) {d : Dev} (h : d.portState p ≠ poFailed) :
    (ps.foldl Dev.feedLost d).portState p = poDown := by
  induction ps generalizing d with
  | nil => cases hp
  | cons q ps ih =>
    have hlost : (d.feedLost p).portState p = poDown := Dev.portState_feedLost d h
    rw [List.foldl_cons]
    by_cases hmem : p ∈ ps
    · refine ih hmem ?_
      by_cases hqp : q = p
      · rw [hqp, hlost]
        decide
      · rwa [Dev.portState_feedLost_other d hqp]
    · have hqp : q = p := ((List.mem_cons.1 hp).resolve_right hmem).symm
      have hrest : ∀ r ∈ ps, Fld.FAB_PORT_CTL_STATE.off p 0 ≠ Fld.FAB_PORT_CTL_STATE.off r 0 := by
        rintro r hr heq
        simp only [Fld.off, Fld.FAB_PORT_CTL_STATE] at heq
        exact hmem ((show p = r by omega) ▸ hr)
      rw [Dev.portState, Dev.get_foldl_feedLost _ _ hrest, hqp]
      exact hlost

/-- The device with a feed's measured power, below 6 dBm. -/
def Dev.lowFeed (d : Dev) (k power : Nat) : Dev :=
  let e := (d.put Fld.FAB_LASER_POWER power k).put Fld.FAB_LASER_LOW 1 k
  if !(d.flag Fld.FAB_LASER_LOW k) then e.logEv evLaserLow mCox (k * 65536 + power) else e

theorem exec_laserFeedLevel_weak {s : State} {feed : BitVec 3} {power : BitVec 16} (halive : s.dev.alive = true) (hweak : ofField 16 power.toNat < 300) :
    exec (.laserFeedLevel feed power) s
      = .next (s.withDev ([3 * feed.toNat, 3 * feed.toNat + 1, 3 * feed.toNat + 2].foldl Dev.feedLost (s.dev.lowFeed feed.toNat power.toNat))) := by
  have hexec : exec (.laserFeedLevel feed power) s = execLaserFeedLevel feed power s := rfl
  have hlow : decide (ofField 16 power.toNat < 600) = true := decide_eq_true (by omega)
  rw [hexec, execLaserFeedLevel, onDev_alive halive]
  simp only [hlow, hweak, if_true, true_and]
  rfl

theorem Dev.get_lowFeed (d : Dev) (k power : Nat) {f : Fld} {i j : Nat} (hf : f.off i j ≠ Fld.LOG_STAT_DROPPED.off 0 0) :
    (d.lowFeed k power).get f i j = ((d.put Fld.FAB_LASER_POWER power k).put Fld.FAB_LASER_LOW 1 k).get f i j := by
  rw [Dev.lowFeed]
  split_ifs
  · exact Dev.get_logEv _ _ _ _ hf
  · rfl

/-- A feed below 3 dBm takes its ports DOWN (R243). -/
theorem exec_laserFeedLevel_down {s : State} {feed : BitVec 3} {power : BitVec 16} {p : Nat} (halive : s.dev.alive = true) (hp : p < 24)
    (hfeed : feed.toNat = p / 3) (hweak : ofField 16 power.toNat < 300) (hstate : s.dev.portState p ≠ poFailed) :
    ∃ t : State, exec (.laserFeedLevel feed power) s = .next t ∧ t.dev.portState p = poDown ∧ t.dev.flag Fld.FAB_LASER_LOW feed.toNat = true
      ∧ t.dev.get Fld.FAB_LASER_POWER feed.toNat = power.toNat := by
  have hk : feed.toNat < 8 := feed.isLt
  have hlaser : ∀ q ∈ [3 * feed.toNat, 3 * feed.toNat + 1, 3 * feed.toNat + 2],
      Fld.FAB_LASER_POWER.off feed.toNat 0 ≠ Fld.FAB_PORT_CTL_STATE.off q 0 := by
    intro q _
    simp only [Fld.off, Fld.FAB_LASER_POWER, Fld.FAB_PORT_CTL_STATE]
    omega
  have hlog : Fld.FAB_LASER_POWER.off feed.toNat 0 ≠ Fld.LOG_STAT_DROPPED.off 0 0 := by
    simp only [Fld.off, Fld.FAB_LASER_POWER, Fld.LOG_STAT_DROPPED]
    omega
  have hstate' : (s.dev.lowFeed feed.toNat power.toNat).portState p ≠ poFailed := by
    have hctl : Fld.FAB_PORT_CTL_STATE.off p 0 ≠ Fld.LOG_STAT_DROPPED.off 0 0 ∧ Fld.FAB_PORT_CTL_STATE.off p 0 ≠ Fld.FAB_LASER_LOW.off feed.toNat 0 := by
      simp only [Fld.off, Fld.FAB_PORT_CTL_STATE, Fld.LOG_STAT_DROPPED, Fld.FAB_LASER_LOW]
      omega
    rw [Dev.portState, Dev.get_lowFeed _ _ _ hctl.1, Dev.get_put_other _ _ _ _ _ _ _ _ hctl.2, Dev.get_put_other _ Fld.FAB_LASER_POWER _ _ _ _ _ _ hctl.2]
    exact hstate
  have hget {f : Fld} (hf : f.off feed.toNat 0 = Fld.FAB_LASER_POWER.off feed.toNat 0) :
      ([3 * feed.toNat, 3 * feed.toNat + 1, 3 * feed.toNat + 2].foldl Dev.feedLost (s.dev.lowFeed feed.toNat power.toNat)).get f feed.toNat
        = ((s.dev.put Fld.FAB_LASER_POWER power.toNat feed.toNat).put Fld.FAB_LASER_LOW 1 feed.toNat).get f feed.toNat := by
    rw [Dev.get_foldl_feedLost _ _ (hf ▸ hlaser), Dev.get_lowFeed _ _ _ (hf ▸ hlog)]
  refine ⟨_, exec_laserFeedLevel_weak halive hweak, Dev.portState_foldl_feedLost (by simp; omega) hstate', ?_, ?_⟩
  · refine (congrArg (· == 1) (hget (f := Fld.FAB_LASER_LOW) rfl)).trans ?_
    rw [Dev.get_put_same _ _ _ _ _ (by decide) (by decide)]
    rfl
  · refine (hget (f := Fld.FAB_LASER_POWER) rfl).trans ?_
    rw [Dev.get_put_beside _ (by decide), Dev.get_put_same _ _ _ _ _ (by decide) (by decide)]
    exact Nat.mod_eq_of_lt power.isLt

/-! ## Link control and the errors of the lanes (R250, R251, R253) -/

section Link

variable {s : State} {port : BitVec 5} (halive : s.dev.alive = true) (hport : port.toNat < 24)
include halive hport

section Linkctl

variable {t : BitVec 64} (credits : List (BitVec 16)) (node : BitVec 16) (far : BitVec 8) (sw : Bool) (beat : BitVec 32)

theorem exec_linkctl_training (hstate : (s.dev.advanceTo t.toNat).portState port.toNat = poTraining) :
    let d := s.dev.advanceTo t.toNat
    let d1 := d.setPort port.toNat { ((d.port port.toNat).credit credits) with lastCtl := d.ns }
    exec (.linkctl port credits node far sw beat t) s = .next (s.withDev (
      if sw = true ∧ far.toNat = port.toNat then d1.portTo port.toNat poUp else d1.put Fld.FAB_PORT_CTL_MISCABLE 1 port.toNat)) := by
  intro d d1
  have hexec : exec (.linkctl port credits node far sw beat t) s = execLinkctl port credits node far sw beat t s := rfl
  rw [hexec, execLinkctl, onDev_alive halive]
  dsimp only
  rw [if_neg (by simp [hstate]; omega), if_pos hstate]
  rfl

/-- While a port is up, its credits and the time of the message are taken. -/
theorem exec_linkctl_up (hstate : (s.dev.advanceTo t.toNat).portState port.toNat = poUp ∨ (s.dev.advanceTo t.toNat).portState port.toNat = poRelearn)
    (hspray : (s.dev.advanceTo t.toNat).spray = []) (hegress : ((s.dev.advanceTo t.toNat).port port.toNat).egress = []) :
    let d := s.dev.advanceTo t.toNat
    exec (.linkctl port credits node far sw beat t) s
      = .next (s.withDev (d.setPort port.toNat { ((d.port port.toNat).credit credits) with lastCtl := d.ns })) := by
  intro d
  obtain ⟨d1, hd1⟩ : ∃ d1, d1 = d.setPort port.toNat { ((d.port port.toNat).credit credits) with lastCtl := d.ns } := ⟨_, rfl⟩
  have hnotTraining : d.portState port.toNat ≠ poTraining := by
    rcases hstate with h | h <;> rw [show d.portState port.toNat = _ from h] <;> decide
  have hempty : (d1.port port.toNat).egress.length = 0 := by
    by_cases hp : port.toNat < d.ports.length
    · rw [hd1, Dev.port_setPort hp]
      exact List.length_eq_zero_iff.2 hegress
    · have hsame : d1.ports = d.ports := by rw [hd1, Dev.setPort, List.set_eq_of_length_le (not_lt.1 hp)]
      rw [Dev.port_of_ports hsame]
      exact List.length_eq_zero_iff.2 hegress
  have hspray1 : d1.spray.length = 0 := by
    rw [hd1]
    exact List.length_eq_zero_iff.2 hspray
  have hexec : exec (.linkctl port credits node far sw beat t) s = execLinkctl port credits node far sw beat t s := rfl
  rw [hexec, execLinkctl, onDev_alive halive]
  dsimp only
  rw [if_neg (by rcases hstate with h | h <;> simp [h] <;> omega), if_neg hnotTraining, ← hd1, hempty, Dev.drainPort, hspray1, Dev.sprayWaiting]
  rfl

end Linkctl

theorem exec_linkctlSend_counts
    (hstate : s.dev.portState port.toNat = poUp ∨ s.dev.portState port.toNat = poRelearn ∨ s.dev.portState port.toNat = poTraining) :
    exec (.linkctlSend port) s = .next (s.withDev ((s.dev.setPort port.toNat { (s.dev.port port.toNat) with
      beat := ((s.dev.port port.toNat).beat + 1) % 2 ^ 32, freed := [0, 0, 0, 0] }).emit
        (.linkctl port.toNat s.dev.node false (s.dev.port port.toNat).beat (s.dev.port port.toNat).freed))) := by
  have hexec : exec (.linkctlSend port) s = execLinkctlSend port s := rfl
  rw [hexec, execLinkctlSend, onDev_alive halive]
  dsimp only
  rw [if_neg (by rcases hstate with h | h | h <;> simp [h] <;> omega)]
  rfl

theorem exec_linkctlTimeout_late {t : BitVec 64} (hstate : (s.dev.advanceTo t.toNat).portState port.toNat = poUp ∨ (s.dev.advanceTo t.toNat).portState port.toNat = poRelearn)
    (hlate : ((s.dev.advanceTo t.toNat).port port.toNat).lastCtl + 10000 ≤ (s.dev.advanceTo t.toNat).ns) :
    exec (.linkctlTimeout port t) s = .next (s.withDev ((s.dev.advanceTo t.toNat).portTo port.toNat poTraining)) := by
  have hexec : exec (.linkctlTimeout port t) s = execLinkctlTimeout port t s := rfl
  rw [hexec, execLinkctlTimeout, onDev_alive halive]
  dsimp only
  rw [if_neg (by rcases hstate with h | h <;> simp [h] <;> omega)]
  rfl

theorem exec_trainingTimeout_late {t : BitVec 64} (hstate : (s.dev.advanceTo t.toNat).portState port.toNat = poTraining)
    (hcable : (s.dev.advanceTo t.toNat).flag Fld.FAB_PORT_CTL_MISCABLE port.toNat = false)
    (hlate : ((s.dev.advanceTo t.toNat).port port.toNat).since + 1000000 ≤ (s.dev.advanceTo t.toNat).ns) :
    exec (.trainingTimeout port t) s = .next (s.withDev ((s.dev.advanceTo t.toNat).toTuning port.toNat)) := by
  have hexec : exec (.trainingTimeout port t) s = execTrainingTimeout port t s := rfl
  rw [hexec, execTrainingTimeout, onDev_alive halive]
  dsimp only
  rw [if_neg (by simp [hstate, hcable]; omega)]
  rfl

theorem exec_berCheck_due {t : BitVec 64} (lanes : List (BitVec 16))
    (hlate : ((s.dev.advanceTo t.toNat).port port.toNat).lastBer + 1000000 ≤ (s.dev.advanceTo t.toNat).ns) :
    let d := s.dev.advanceTo t.toNat
    let d1 := d.chargeLanes port.toNat (lanes.map BitVec.toNat)
    let x := d1.port port.toNat
    let d2 := d1.setPort port.toNat { x with lastBer := d1.ns, uncorrMs := 0, corr := List.replicate 16 0 }
    (d.portState port.toNat = poUp → exec (.berCheck port lanes t) s = .next (s.withDev (d2.judgePort port.toNat x)))
    ∧ (d.portState port.toNat = poTraining ∨ d.portState port.toNat = poRelearn → exec (.berCheck port lanes t) s = .next (s.withDev d2)) := by
  intro d d1 x d2
  have hexec : exec (.berCheck port lanes t) s = execBerCheck port lanes t s := rfl
  rw [hexec, execBerCheck, onDev_alive halive]
  dsimp only
  refine ⟨fun hup => ?_, fun hstate => ?_⟩
  · rw [if_neg (by simp [d] at hup; simp [hup]; omega), if_pos hup]
    rfl
  · have hnotUp : d.portState port.toNat ≠ poUp := by
      rcases hstate with h | h <;> rw [h] <;> decide
    rw [if_neg (by simp [d] at hstate; rcases hstate with h | h <;> simp [h] <;> omega), if_neg hnotUp]
    rfl

theorem exec_uncorrectableCodeword_up (symbols : List (BitVec 10))
    (hstate : s.dev.portState port.toNat = poUp ∨ s.dev.portState port.toNat = poRelearn ∨ s.dev.portState port.toNat = poTraining) :
    (rsDecode (symbols.map BitVec.toNat) = none → exec (.uncorrectableCodeword port symbols) s = .next (s.withDev
      ((s.dev.bump Fld.FAB_PORT_FEC_UNCORR 1 port.toNat).setPort port.toNat { (s.dev.port port.toNat) with
        uncorrMs := if s.dev.portState port.toNat = poUp then (s.dev.port port.toNat).uncorrMs + 1 else (s.dev.port port.toNat).uncorrMs, resync := true })))
    ∧ (∀ w errs, rsDecode (symbols.map BitVec.toNat) = some (w, errs) → exec (.uncorrectableCodeword port symbols) s = .next (s.withDev
      (s.dev.chargeLanes port.toNat ((List.range 16).map fun k => (errs.filter fun j => rsLane j == k).length)))) := by
  have hexec : exec (.uncorrectableCodeword port symbols) s = execUncorrectableCodeword port symbols s := rfl
  rw [hexec, execUncorrectableCodeword, onDev_alive halive]
  dsimp only
  rw [if_neg (by rcases hstate with h | h | h <;> simp [h] <;> omega)]
  exact ⟨fun h => by rw [h]; rfl, fun w errs h => by rw [h]; rfl⟩

end Link

/-- What a millisecond's counts do to a port (R250). -/
theorem Dev.judgePort_cases (d : Dev) (p : Nat) (x : Port) :
    let recent := x.relearns.filter fun r => decide (d.ns < r + 100000000)
    let d1 := (d.bump Fld.FAB_PORT_BER_RELEARNS 1 p).setPort p { (d.port p) with relearns := recent ++ [d.ns] }
    (d.get Fld.FAB_PORT_BER_UNCORR_MAX p < x.uncorrMs → d.judgePort p x = d.toTuning p)
    ∧ (x.uncorrMs ≤ d.get Fld.FAB_PORT_BER_UNCORR_MAX p → (∀ c ∈ x.corr, c ≤ d.get Fld.FAB_PORT_BER_TH p) → d.judgePort p x = d)
    ∧ (x.uncorrMs ≤ d.get Fld.FAB_PORT_BER_UNCORR_MAX p → (∃ c ∈ x.corr, d.get Fld.FAB_PORT_BER_TH p < c) →
        (recent.length < 2 → d.judgePort p x = d1.portTo p poRelearn) ∧ (2 ≤ recent.length → d.judgePort p x = d1.toTuning p)) := by
  intro recent d1
  refine ⟨fun hmany => if_pos hmany, fun hfew hcorr => ?_, fun hfew hcorr => ?_⟩
  · rw [Dev.judgePort, if_neg (not_lt.2 hfew), if_neg (by simpa using hcorr)]
  · have hjudge : d.judgePort p x = if 2 ≤ recent.length then d1.toTuning p else d1.portTo p poRelearn := by
      have hns : (d.bump Fld.FAB_PORT_BER_RELEARNS 1 p).ns = d.ns := by rw [Dev.ns, Dev.bump_clk, Dev.ns]
      rw [Dev.judgePort, if_neg (not_lt.2 hfew), if_pos (by simpa using hcorr)]
      dsimp only
      rw [hns, Dev.port_of_ports (Dev.bump_ports ..)]
    exact ⟨fun hlt => hjudge.trans (if_neg (not_le.2 hlt)), fun hle => hjudge.trans (if_pos hle)⟩

/-- Settles O31, event by event. -/
theorem portsAndLinkControl : Obligations.PortsAndLinkControl := by
  refine ⟨fun s port halive hport => ?_, fun s port t halive hport => ?_, Dev.judgePort_cases⟩
  · intro d p
    refine ⟨fun hopen hdown _ hlight => ?_, exec_portEnWrite_down halive hport, fun htunable => ⟨fun hlen codes => ?_, fun hfew => ?_, fun hthird => ?_⟩,
      fun hstate => ?_, fun feed power hfeed hweak hstate => exec_laserFeedLevel_down halive hport hfeed hweak hstate⟩
    · obtain ⟨x, hexec⟩ := exec_portEnWrite_tunes halive hport hopen hdown hlight
      obtain ⟨hstate, hen, htunes, hdram⟩ := ((d.enabled p 1).setPort p x).toTuning_moves p
      rw [Dev.flag_setPort, d.flag_enabled_one p] at hen
      have hcount : (d.enabled p 1).get Fld.FAB_PORT_BER_TUNES p = d.get Fld.FAB_PORT_BER_TUNES p := Dev.get_put_other _ _ _ _ _ _ _ _ (tunes_off_ne p)
      rw [Dev.get_setPort, hcount] at htunes
      refine ⟨_, hexec, hstate, hen, htunes, ?_, hdram.trans (d.put_dram Fld.FAB_PORT_CTL_EN 1 p 0)⟩
      · have hsame := d.sameRegsBut_enabled (offs := [Fld.FAB_PORT_CTL_STATE.off p 0, Fld.FAB_PORT_BER_TUNES.off p 0]) (p := p) (by simp) 1
        exact Dev.sameRegsBut_toTuning (Dev.sameRegsBut_setPort hsame p x) List.mem_cons_self (List.mem_cons_of_mem _ List.mem_cons_self)
    · obtain ⟨cox, hexec⟩ := exec_portTuneDone_locked halive htunable codes
      refine ⟨_, hexec, Dev.portState_portTo _ _ _ (by decide), ?_⟩
      have hp : p < ({ s.dev with cox := cox } : Dev).ports.length := by
        rw [show ({ s.dev with cox := cox } : Dev).ports.length = 24 from hlen]
        exact hport
      obtain ⟨hfails, hcodes⟩ := Dev.port_portTo (({ s.dev with cox := cox } : Dev).setPort p
        { (s.dev.port p) with fails := 0, codes := (List.range 16).map fun k => (codes.getD k 0).toNat }) p poTraining (by simpa [Dev.setPort] using hp)
      rw [Dev.port_setPort hp] at hfails hcodes
      exact ⟨hfails, hcodes⟩
    · exact exec_portTuneDone_again halive htunable hfew
    · obtain ⟨e, hexec⟩ := exec_portTuneDone_third halive htunable hthird
      refine ⟨_, hexec, ?_⟩
      have hlog : Fld.FAB_PORT_CTL_STATE.off p 0 ≠ Fld.LOG_STAT_DROPPED.off 0 0 := by
        simp only [Fld.off, Fld.FAB_PORT_CTL_STATE, Fld.LOG_STAT_DROPPED]
        omega
      exact (Dev.get_logEv _ _ _ _ hlog).trans (Dev.portState_portTo _ _ _ (by decide))
    · have hexec : exec (.ringLockLost port) s = execRingLockLost port s := rfl
      rw [hexec, execRingLockLost, onDev_alive halive]
      dsimp only
      rw [if_pos ⟨hport, hstate⟩]
      rfl
  · intro p d
    refine ⟨fun cr node far beat hstate => ?_, fun cr node far sw beat hstate hspray hegress => exec_linkctl_up halive hport cr node far sw beat hstate hspray hegress,
      fun hstate hlen => ?_, exec_linkctlTimeout_late halive hport, exec_trainingTimeout_late halive hport, exec_berCheck_due halive hport, fun hstate => ?_,
      exec_uncorrectableCodeword_up halive hport⟩
    · intro d1
      have hexec (sw : Bool) := exec_linkctl_training halive hport cr node far sw beat hstate
      exact ⟨fun hfar => (hexec true).trans (by rw [if_pos ⟨rfl, hfar⟩]), fun hfar => (hexec true).trans (by rw [if_neg fun h => hfar h.2]),
        (hexec false).trans (by rw [if_neg (by simp)])⟩
    · have hp : p < s.dev.ports.length := by
        rw [hlen]
        exact hport
      have hget := Dev.port_setPort hp { (s.dev.port p) with beat := ((s.dev.port p).beat + 1) % 2 ^ 32, freed := [0, 0, 0, 0] }
      exact ⟨_, exec_linkctlSend_counts halive hport hstate, congrArg Port.beat hget, congrArg Port.freed hget, rfl, rfl, rfl⟩
    · have hexec : exec (.relearnDone port) s = execRelearnDone port s := rfl
      rw [hexec, execRelearnDone, onDev_alive halive]
      rw [if_pos ⟨hport, hstate⟩]
      rfl

end Sys2Proof.Machine

/-! # Packets received: their checks, requests and answers (chapters 10, 11) -/

namespace Sys2Proof.Machine

/-! ## Transport state -/

theorem Dev.qpt_ids (d : Dev) (q n : Nat) : (d.qpt q n).qp = q ∧ (d.qpt q n).node = n := by
  rw [Dev.qpt]
  cases h : d.qpts.find? fun t => t.qp == q && t.node == n with
  | none => exact ⟨rfl, rfl⟩
  | some t => simpa using List.find?_some h

theorem Dev.qpt_setQpt {q n : Nat} {t : QpT} (d : Dev) (hq : t.qp = q) (hn : t.node = n) : (d.setQpt t).qpt q n = t := by
  have hnone : (d.qpts.filter fun u => !(u.qp == t.qp && u.node == t.node)).find? (fun u => u.qp == q && u.node == n) = none := by
    rw [List.find?_eq_none]
    intro u hu
    rw [List.mem_filter] at hu
    simpa [hq, hn, imp_iff_not_or] using hu.2
  rw [Dev.qpt, Dev.setQpt, List.find?_append, hnone]
  simp [hq, hn]

theorem Dev.qpt_of_qpts {d d' : Dev} (h : d'.qpts = d.qpts) {q n : Nat} (hin : (d.qpts.find? fun t => t.qp == q && t.node == n).isSome) :
    d'.qpt q n = d.qpt q n := by
  obtain ⟨t, ht⟩ := Option.isSome_iff_exists.1 hin
  rw [Dev.qpt, Dev.qpt, h, ht]
  rfl

/-! ## The checks of a received packet (R256, R264) -/

theorem packetRow_taken {s : State} (halive : s.dev.alive = true) {op : Nat} {a : Arrival} {p : Packet} {f : Dev → Dev}
    (hop : p.opc.toNat = op ∨ (op = pkWrite ∧ knownOpc p.opc.toNat = false)) :
    packetRow op a p f s = .next (s.settled (f (s.dev.arrive a p))) := by
  refine onHall_settled halive ?_
  rw [if_pos (hop.imp_right (And.imp_right (by simp)))]

/-- The rows of received packets, and the opcode of each. -/
def packetRows (a : Arrival) (p : Packet) : List (Instr × Nat) :=
  [(Instr.write a p, pkWrite), (.readReq a p, pkReadReq), (.readResp a p, pkReadResp), (.atomic a p, pkAtomic), (.atomicResp a p, pkAtomicResp),
    (.reduce a p, pkReduce), (.mcastWrite a p, pkMcast), (.inval a p, pkInval), (.ack a p, pkAck), (.nak a p, pkNak)]

/-- Every row begins with the checks of R264. -/
theorem exec_packet_checks {s : State} (halive : s.dev.alive = true) {a : Arrival} {p : Packet} {i : Instr} {op : Nat} (hi : (i, op) ∈ packetRows a p)
    (hop : p.opc.toNat = op ∨ (op = pkWrite ∧ knownOpc p.opc.toNat = false)) :
    ∃ go, exec i s = .next (s.settled (((s.dev.arrive a p).checkPkt p).then' go)) := by
  simp only [packetRows, List.mem_cons, Prod.mk.injEq, List.not_mem_nil, or_false] at hi
  rcases hi with ⟨rfl, rfl⟩ | ⟨rfl, rfl⟩ | ⟨rfl, rfl⟩ | ⟨rfl, rfl⟩ | ⟨rfl, rfl⟩ | ⟨rfl, rfl⟩ | ⟨rfl, rfl⟩ | ⟨rfl, rfl⟩ | ⟨rfl, rfl⟩ | ⟨rfl, rfl⟩
  all_goals
    dsimp only [exec, execWrite, execReadReq, execReadResp, execAtomic, execAtomicResp, execReduce, execMcastWrite, execInval, execAck, execNak, Dev.receivePkt]
    exact ⟨_, packetRow_taken halive hop⟩

/-- A packet that the checks end. -/
theorem exec_packet_done {s : State} (halive : s.dev.alive = true) {a : Arrival} {p : Packet} {i : Instr} {op : Nat} (hi : (i, op) ∈ packetRows a p)
    (hop : p.opc.toNat = op ∨ (op = pkWrite ∧ knownOpc p.opc.toNat = false)) {d : Dev} (hd : (s.dev.arrive a p).checkPkt p = .done d) :
    exec i s = .next (s.settled d) := by
  obtain ⟨go, hexec⟩ := exec_packet_checks halive hi hop
  rw [hexec, hd, Checked.then']

theorem knownOpc_of_row {a : Arrival} {p : Packet} {i : Instr} {op : Nat} (hi : (i, op) ∈ packetRows a p) : knownOpc op = true := by
  simp only [packetRows, List.mem_cons, Prod.mk.injEq, List.not_mem_nil, or_false] at hi
  rcases hi with ⟨-, rfl⟩ | ⟨-, rfl⟩ | ⟨-, rfl⟩ | ⟨-, rfl⟩ | ⟨-, rfl⟩ | ⟨-, rfl⟩ | ⟨-, rfl⟩ | ⟨-, rfl⟩ | ⟨-, rfl⟩ | ⟨-, rfl⟩ <;> decide

section Checks

variable {d : Dev} {p : Packet}

theorem Dev.checkPkt_head (h : p.hcrc.toNat ≠ pktHeadCrc p) : d.checkPkt p = .done (d.bump Fld.FAB_STAT0_HCRC) := if_pos h

variable (hhead : p.hcrc.toNat = pktHeadCrc p)
include hhead

theorem Dev.checkPkt_opcode (h : knownOpc p.opc.toNat = false) : d.checkPkt p = .done (d.bump Fld.FAB_STAT0_BADOPC) := by
  rw [Dev.checkPkt, if_neg (not_not.2 hhead), if_pos (by rw [h]; rfl)]

variable (hknown : knownOpc p.opc.toNat = true)
include hknown

theorem Dev.checkPkt_node (hnode : p.dstNode.toNat ≠ d.node) (hserves : d.serves p.dstNode.toNat = false) :
    d.checkPkt p = .done (d.bump Fld.FAB_STAT0_MISROUTE) := by
  rw [Dev.checkPkt, if_neg (not_not.2 hhead), hknown, if_neg (by simp), if_pos (by simp [hnode, hserves])]

variable (hnode : p.dstNode.toNat = d.node)
include hnode

theorem Dev.checkPkt_body (hbody : p.icrc.toNat ≠ pktBodyCrc p) : d.checkPkt p = .done (d.nak p stCrcFault) := by
  rw [Dev.checkPkt, if_neg (not_not.2 hhead), hknown, if_neg (by simp), if_neg fun h => h.1 hnode, if_pos (.inl hbody)]

theorem Dev.checkPkt_epoch (hbody : p.icrc.toNat = pktBodyCrc p) (hlen : p.payload.length = p.len.toNat)
    (hahead : d.peerEpoch p.srcNode.toNat < p.epoch.toNat) : d.checkPkt p = .done (d.bump Fld.FAB_STAT0_EPOCH_AHEAD) := by
  rw [Dev.checkPkt, if_neg (not_not.2 hhead), hknown, if_neg (by simp), if_neg fun h => h.1 hnode, if_neg fun h => h.elim (fun h => h hbody) fun h => h hlen,
    if_pos (.inr hahead)]

end Checks

/-- Settles O33, check by check. -/
theorem packetChecks : Obligations.PacketChecks := by
  intro s a p i op halive d hi
  refine ⟨fun hop hhead => exec_packet_done halive hi (.inl hop) (Dev.checkPkt_head hhead), fun hhead hunknown => ?_, fun hop hhead hnode hserves => ?_,
    fun hop hhead hnode => ⟨fun hbody => ?_, fun hbody hlen _ hahead => ?_⟩⟩
  · exact exec_packet_done halive (op := pkWrite) List.mem_cons_self (.inr ⟨rfl, hunknown⟩) (Dev.checkPkt_opcode hhead hunknown)
  all_goals have hknown : knownOpc p.opc.toNat = true := hop ▸ knownOpc_of_row hi
  · exact exec_packet_done halive hi (.inl hop) (Dev.checkPkt_node hhead hknown hnode hserves)
  · exact exec_packet_done halive hi (.inl hop) (Dev.checkPkt_body hhead hknown hnode hbody)
  · exact exec_packet_done halive hi (.inl hop) (Dev.checkPkt_epoch hhead hknown hnode hbody hlen hahead)

/-! ## An accepted packet (R265, R290) -/

/-- An accepted packet is acted on by the device that has heard it. -/
theorem Dev.receivePkt_accepted {d d0 : Dev} {p : Packet} (h : Accepted d p d0) (go : Dev → Dev) : d.receivePkt p go = go (d0.heard p) := by
  obtain ⟨hpass, hwindow, hgot, hmap⟩ := h
  have hbit : bit (subMod 32 p.psn.toNat (d0.qpt p.dstQp.toNat p.srcNode.toNat).rpsn) 31 = false :=
    Nat.testBit_lt_two_pow (lt_of_lt_of_le hwindow (by decide))
  have hmap' : (d0.heard p).mapOk p.mapVer.toNat = true := hmap
  have hold : ¬ ((d0.qpt p.dstQp.toNat p.srcNode.toNat).got.contains p.psn.toNat = true
      ∨ bit (subMod 32 p.psn.toNat (d0.qpt p.dstQp.toNat p.srcNode.toNat).rpsn) 31 = true) := by
    rw [hgot, hbit]
    simp
  rw [Dev.receivePkt, hpass, Checked.then']
  dsimp only
  rw [if_neg hold, if_neg (not_not.2 hwindow), ← Dev.heard, hmap', if_neg (by simp)]

/-- A packet that the meter and the placement queue pass. -/
theorem Dev.metered_passes {d d1 : Dev} {a : Arrival} {p : Packet} {mark : Bool} (h : d.Passes a p d1 mark) (go : Dev → Bool → Dev) :
    d.metered a p go = go d1 mark := by
  obtain ⟨hres, rfl, rfl⟩ | ⟨hres, m, hmeter, rfl⟩ := h
  · rw [Dev.metered, hres, if_pos rfl]
  · rw [Dev.metered, hres, if_neg Bool.false_ne_true, hmeter]
    exact if_pos rfl

end Sys2Proof.Machine

/-! # Requests from the fabric are served (chapters 10, 11) -/

namespace Sys2Proof.Machine

section Accepted

variable {s : State} {a : Arrival} {p : Packet} {d0 : Dev} (halive : s.dev.alive = true) (hacc : Accepted (s.dev.arrive a p) p d0)
include halive hacc

theorem packetRow_accepted {op : Nat} (hop : p.opc.toNat = op) (go : Dev → Dev) :
    packetRow op a p (fun d => d.receivePkt p go) s = .next (s.settled (go (d0.heard p))) := by
  rw [packetRow_taken halive (.inl hop), Dev.receivePkt_accepted hacc]

theorem exec_write_accepted (hop : p.opc.toNat = pkWrite) :
    exec (.write a p) s = .next (s.settled (if pktHas p pfWin then (d0.heard p).winWrite a p else (d0.heard p).placeQp a p)) := by
  dsimp only [exec, execWrite]
  exact packetRow_accepted halive hacc hop _

/-- The access through a window that a request other than INVAL asks for. -/
def Dev.winRequest (d : Dev) (a : Arrival) (p : Packet) (op : Nat) : Dev :=
  if op = pkReadReq then d.winReadReq a p else if op = pkAtomic then d.winAtomic a p else if op = pkReduce then d.winReduce a p else d.winWrite a p

/-- The rows of the requests that pass through windows. -/
def windowRows (a : Arrival) (p : Packet) : List (Instr × Nat) :=
  [(Instr.write a p, pkWrite), (.mcastWrite a p, pkMcast), (.readReq a p, pkReadReq), (.atomic a p, pkAtomic), (.reduce a p, pkReduce)]

theorem exec_request_window {i : Instr} {op : Nat} (hi : (i, op) ∈ windowRows a p) (hop : p.opc.toNat = op) (hwin : pktHas p pfWin = true) :
    exec i s = .next (s.settled ((d0.heard p).winRequest a p op)) := by
  simp only [windowRows, List.mem_cons, Prod.mk.injEq, List.not_mem_nil, or_false] at hi
  rcases hi with ⟨rfl, rfl⟩ | ⟨rfl, rfl⟩ | ⟨rfl, rfl⟩ | ⟨rfl, rfl⟩ | ⟨rfl, rfl⟩
  all_goals
    dsimp only [exec, execWrite, execMcastWrite, execReadReq, execAtomic, execReduce]
    rw [packetRow_accepted halive hacc hop]
    exact congrArg (fun d => Host.Outcome.next (s.settled d)) (if_pos hwin)

/-- A request that needs a window and names none. -/
theorem exec_request_bare {i : Instr} {op : Nat} (hi : (i, op) ∈ windowRows a p) (hop : p.opc.toNat = op) (hwin : pktHas p pfWin = false) (hne : op ≠ pkWrite) :
    exec i s = .next (s.settled ((d0.heard p).refuse p stAborted)) := by
  simp only [windowRows, List.mem_cons, Prod.mk.injEq, List.not_mem_nil, or_false] at hi
  rcases hi with ⟨rfl, rfl⟩ | ⟨rfl, rfl⟩ | ⟨rfl, rfl⟩ | ⟨rfl, rfl⟩ | ⟨rfl, rfl⟩
  · exact absurd rfl hne
  all_goals
    dsimp only [exec, execMcastWrite, execReadReq, execAtomic, execReduce]
    rw [packetRow_accepted halive hacc hop]
    exact congrArg (fun d => Host.Outcome.next (s.settled d)) (if_neg (by simp [hwin]))

end Accepted

/-! ## Windows at the target (R274, R275) -/

section Window

variable {d d1 : Dev} {a : Arrival} {p : Packet}

/-- An access that the window's checks refuse. -/
theorem Dev.winAccess_refused {st : Nat} (hcheck : d.winCheck p = (d1, st)) (hst : st ≠ stOK) (go : WinE → Dev → Bool → Dev) :
    d.winAccess a p go = d1.refuse p st := by
  rw [Dev.winAccess, hcheck]
  exact if_pos hst

/-- An access that the window's checks, the meter and the placement queue pass. -/
theorem Dev.winAccess_passes {mark : Bool} (hcheck : d.winCheck p = (d, stOK)) (hpass : d.Passes a p d1 mark) (go : WinE → Dev → Bool → Dev) :
    d.winAccess a p go = (go (d1.win p.window.toNat) (d1.fly p.window.toNat) mark).land p.window.toNat := by
  rw [Dev.winAccess, hcheck]
  exact (if_neg (not_not.2 rfl)).trans (Dev.metered_passes hpass _)

theorem Dev.winRequest_refused {st : Nat} (hcheck : d.winCheck p = (d1, st)) (hst : st ≠ stOK) (op : Nat) : d.winRequest a p op = d1.refuse p st := by
  rw [Dev.winRequest]
  split_ifs
  · rw [Dev.winReadReq]
    exact Dev.winAccess_refused hcheck hst _
  · rw [Dev.winAtomic]
    exact Dev.winAccess_refused hcheck hst _
  · rw [Dev.winReduce]
    exact Dev.winAccess_refused hcheck hst _
  · rw [Dev.winWrite]
    exact Dev.winAccess_refused hcheck hst _

end Window

/-! ## Placement (R264, R277) -/

/-- The ingress meter counts the packet; the base of the contexts and DRAM stay. -/
theorem Dev.meter_keeps (d : Dev) (n b : Nat) :
    (d.meter n b).1.dram = d.dram ∧ (d.meter n b).1.get Fld.FAB_QP_BASE_GRAN = d.get Fld.FAB_QP_BASE_GRAN := by
  have hcount (d' : Dev) {f : Fld} (hf : f.base > Fld.FAB_QP_BASE_GRAN.base) :
      (d'.bump f 1 n).get Fld.FAB_QP_BASE_GRAN = d'.get Fld.FAB_QP_BASE_GRAN :=
    Dev.get_put_other d' f Fld.FAB_QP_BASE_GRAN _ n 0 0 0 (by
      have hoff : Fld.FAB_QP_BASE_GRAN.off 0 0 = Fld.FAB_QP_BASE_GRAN.base := by decide
      rw [hoff, Fld.off]
      omega)
  rw [Dev.meter]
  split_ifs
  · exact ⟨Dev.bump_dram .., hcount d (by decide)⟩
  · dsimp only
    split_ifs
    · exact ⟨Dev.bump_dram .., hcount _ (by decide)⟩
    · exact ⟨Dev.bump_dram .., hcount _ (by decide)⟩
    · exact ⟨Dev.bump_dram .., hcount _ (by decide)⟩

theorem Dev.qget_passes {d d1 : Dev} {a : Arrival} {p : Packet} {mark : Bool} (h : d.Passes a p d1 mark) (q w hi lo : Nat) :
    d1.qget q w hi lo = d.qget q w hi lo := by
  obtain ⟨-, rfl, -⟩ | ⟨-, m, hmeter, -⟩ := h
  · rfl
  · obtain ⟨hdram, hbase⟩ := d.meter_keeps (d.qTenant p.dstQp.toNat) (pktWire p)
    rw [hmeter] at hdram hbase
    rw [Dev.qget, Dev.qget, Dev.qw, Dev.qw, Dev.qpAddr, Dev.qpAddr, Dev.dramWord, Dev.dramWord, hdram, hbase]

theorem Dev.placeQp_passes {d d1 : Dev} {a : Arrival} {p : Packet} {mark : Bool} (hlen : p.raddr.toNat + p.len.toNat ≤ d.qget p.dstQp.toNat 3 63 32)
    (hspace : d.qget p.dstQp.toNat 2 63 62 < 2 ∨ (d.qget p.dstQp.toNat 2 63 62 = 2 ∧ qReserved p.dstQp.toNat = true)) (hpass : d.Passes a p d1 mark) :
    d.placeQp a p = d1.settlePlaced p mark (Dev.placeRuns mRx (ownerOf p) (if qReserved p.dstQp.toNat then none else some (d.qTenant p.dstQp.toNat))
      (d.qget p.dstQp.toNat 2 63 62) (d.qget p.dstQp.toNat 2 51 0 + p.raddr.toNat) (byteRuns (enabledBytes p)) d1) := by
  have hallowed : ¬ (d.qget p.dstQp.toNat 2 63 62 = 3 ∨ (d.qget p.dstQp.toNat 2 63 62 = 2 ∧ (!qReserved p.dstQp.toNat) = true)) := by
    rintro (h | ⟨h, hres⟩)
    · omega
    · obtain hlow | ⟨-, hyes⟩ := hspace
      · omega
      · rw [hyes] at hres
        exact absurd hres (by decide)
  rw [Dev.placeQp]
  dsimp only
  rw [if_neg (not_lt.2 hlen), if_neg hallowed, Dev.metered_passes hpass, Dev.qget_passes hpass]

theorem Dev.placeQp_beyond {d : Dev} (a : Arrival) {p : Packet} (hlen : d.qget p.dstQp.toNat 3 63 32 < p.raddr.toNat + p.len.toNat) :
    d.placeQp a p = d.refuse p stBoundsFault := by
  rw [Dev.placeQp]
  exact if_pos hlen

theorem Dev.settlePlaced_cases (d d1 : Dev) (p : Packet) (mark : Bool) :
    (d1.hallLost.any (fun x => decide (x.1 = ownerOf p)) = false → d.settlePlaced p mark (.ok d1) = d1.placed p mark)
    ∧ (d1.hallLost.any (fun x => decide (x.1 = ownerOf p)) = true → d.settlePlaced p mark (.ok d1) = (d1.forgetLost (ownerOf p)).refuse p stWriteLost)
    ∧ (∀ st, d.settlePlaced p mark (.bad d1 st) = ({ d with regs := d1.regs, log := d1.log } : Dev).refuse p st)
    ∧ d.settlePlaced p mark .later = d :=
  ⟨fun h => if_neg (by simp [h]), fun h => if_pos h, fun _ => rfl, rfl⟩

/-! ## Reads, atomics and reductions through a window (R277, R280, R281) -/

section Served

variable {d d1 : Dev} {a : Arrival} {p : Packet} {mark : Bool} (hcheck : d.winCheck p = (d, stOK)) (hpass : d.Passes a p d1 mark)
include hcheck hpass

theorem Dev.winReadReq_found {bs : List Byte} {d2 : Dev}
    (hread : ∃ d3, (d1.fly p.window.toNat).winRead (d1.win p.window.toNat) p.raddr.toNat p.aux.toNat = (d3, .ok bs d2)) :
    d.winReadReq a p = (((List.range (ceilDiv p.aux.toNat 4096)).foldl (fun (d : Dev) j =>
      d.respond p (d.respPkt p pkReadResp (4096 * j) j (ceilDiv p.aux.toNat 4096) (slice bs (4096 * j) 4096)) false) d2).placed p mark).land p.window.toNat := by
  obtain ⟨d3, hread⟩ := hread
  rw [Dev.winReadReq, Dev.winAccess_passes hcheck hpass]
  dsimp only
  rw [hread]

theorem Dev.winAtomic_done (hok : (d1.fly p.window.toNat).hallOk (some (d1.win p.window.toNat).tenant) ((d1.win p.window.toNat).base + p.raddr.toNat) 8 = true)
    (hclean : (d1.fly p.window.toNat).badWords ((d1.win p.window.toNat).base + p.raddr.toNat) 8 = []) :
    let w := p.window.toNat
    let b := (d1.win w).base + p.raddr.toNat
    let old := d1.hallWord b
    let d2 := (d1.fly w).hallPut b (toBytes 8 (fabricWord (p.aux.toNat % 4) old (ofBytes (p.payload.take 8)) (ofBytes (slice p.payload 8 8))))
    d.winAtomic a p = ((d2.respond p (d2.respPkt p pkAtomicResp 0 0 1 (toBytes 8 old)) true).placed p mark).land w := by
  intro w b old d2
  rw [Dev.winAtomic, Dev.winAccess_passes hcheck hpass]
  dsimp only
  rw [hok, if_neg (by simp), hclean, if_neg (by simp)]
  rfl

theorem Dev.winReduce_done (hok : (d1.fly p.window.toNat).hallOk (some (d1.win p.window.toNat).tenant) ((d1.win p.window.toNat).base + p.raddr.toNat) p.len.toNat = true)
    (hclean : (d1.fly p.window.toNat).badWords ((d1.win p.window.toNat).base + p.raddr.toNat) p.len.toNat = []) :
    let w := p.window.toNat
    let b := (d1.win w).base + p.raddr.toNat
    let d2 := (List.range (p.len.toNat / 8)).foldl (fun (d : Dev) k =>
      d.hallPut (b + 8 * k) (toBytes 8 (reduceWord (p.aux.toNat % 4) (d.hallWord (b + 8 * k)) (ofBytes (slice p.payload (8 * k) 8))))) (d1.fly w)
    d.winReduce a p = ((d2.respond p (d2.respPkt p pkAtomicResp 0 p.pkt.toNat (p.pktsM1.toNat + 1) []) true).placed p mark).land w := by
  intro w b d2
  rw [Dev.winReduce, Dev.winAccess_passes hcheck hpass]
  dsimp only
  rw [hok, if_neg (by simp), hclean, if_neg (by simp)]

end Served

/-- Settles O34, request by request. -/
theorem requestsReceived : Obligations.RequestsReceived := by
  refine ⟨fun s a p d0 halive hacc => ?_, Dev.settlePlaced_cases, fun s a p d0 halive hacc => ?_⟩
  · intro d q w
    refine ⟨fun d1 mark hop hwin hlen hspace hpass => ?_, fun hop hwin hlen => ?_, fun i d1 mark hi hwin hcheck hpass => ?_,
      fun i op hi hop => ⟨fun d1 st hwin hcheck hst => ?_, exec_request_bare halive hacc hi hop⟩⟩
    · rw [exec_write_accepted halive hacc hop, if_neg (by simp [hwin]), Dev.placeQp_passes hlen hspace hpass]
    · rw [exec_write_accepted halive hacc hop, if_neg (by simp [hwin]), Dev.placeQp_beyond a hlen]
    · have hrequest : (d0.heard p).winWrite a p = _ := Dev.winAccess_passes hcheck hpass _
      obtain ⟨rfl, hop⟩ | ⟨rfl, hop⟩ := hi
      · rw [exec_request_window halive hacc (op := pkWrite) List.mem_cons_self hop hwin]
        exact congrArg (fun d => Host.Outcome.next (s.settled d)) hrequest
      · rw [exec_request_window halive hacc (op := pkMcast) (List.mem_cons_of_mem _ List.mem_cons_self) hop hwin]
        exact congrArg (fun d => Host.Outcome.next (s.settled d)) hrequest
    · rw [exec_request_window halive hacc hi hop hwin, Dev.winRequest_refused hcheck hst]
  · intro d q w
    refine ⟨fun d1 mark hpass hwin hcheck => ?_, fun hop => ?_⟩
    · intro e b
      have hexec {i : Instr} {op : Nat} (hi : (i, op) ∈ windowRows a p) (hop : p.opc.toNat = op) := exec_request_window halive hacc hi hop hwin
      refine ⟨fun bs d2 hop hread => ?_, fun hop hok hclean => ?_, fun hop hok hclean => ?_⟩
      · intro n
        rw [hexec (op := pkReadReq) (by simp [windowRows]) hop]
        exact congrArg (fun d => Host.Outcome.next (s.settled d)) (Dev.winReadReq_found hcheck hpass hread)
      · intro old d2
        rw [hexec (op := pkAtomic) (by simp [windowRows]) hop]
        exact congrArg (fun d => Host.Outcome.next (s.settled d)) (Dev.winAtomic_done hcheck hpass hok hclean)
      · intro d2
        rw [hexec (op := pkReduce) (by simp [windowRows]) hop]
        exact congrArg (fun d => Host.Outcome.next (s.settled d)) (Dev.winReduce_done hcheck hpass hok hclean)
    · intro mine
      have hexec : exec (.inval a p) s = .next (s.settled (
          let (lo, n) := if p.aux.toNat = wholeWindow then (0, 2 ^ 64) else (p.raddr.toNat, p.aux.toNat)
          ((d.bump Fld.RMA_STAT1_INVAL).dropRange p.srcNode.toNat w lo n mine).placed p false)) := by
        dsimp only [exec, execInval]
        exact packetRow_accepted halive hacc hop _
      refine ⟨fun hpart => ?_, fun hwhole => ?_⟩
      · rw [hexec, if_neg hpart]
      · rw [hexec, if_pos hwhole]


end Sys2Proof.Machine

/-! # Answers from the fabric are taken up (chapters 10, 11) -/

namespace Sys2Proof.Machine

theorem State.settled_calm (s : State) {d : Dev} (h : d.watches = []) : s.settled d = s.withDev d := by
  rw [State.settled, Dev.settle_calm h, State.withDev]

/-! ## Responses (R269, R277, R280, R435) -/

section Responses

variable {s : State} {a : Arrival} {p : Packet} {d0 d1 : Dev} {mark : Bool} (halive : s.dev.alive = true) (hacc : Accepted (s.dev.arrive a p) p d0)
include halive hacc

theorem exec_readResp_none (hop : p.opc.toNat = pkReadResp) (hnone : (d0.heard p).opOfResp p = none) :
    exec (.readResp a p) s = .next (s.settled ((d0.heard p).bump Fld.FAB_STAT0_NOQP)) := by
  dsimp only [exec, execReadResp]
  rw [packetRow_accepted halive hacc hop, hnone]

theorem exec_atomicResp_none (hop : p.opc.toNat = pkAtomicResp) (hnone : (d0.heard p).opOfResp p = none) :
    exec (.atomicResp a p) s = .next (s.settled ((d0.heard p).bump Fld.FAB_STAT0_NOQP)) := by
  dsimp only [exec, execAtomicResp]
  rw [packetRow_accepted halive hacc hop, hnone]

variable {o : Op} (hop : (d0.heard p).opOfResp p = some o) (hpass : (d0.heard p).Passes a p d1 mark)
include hop hpass

theorem exec_readResp_delivers (hopc : p.opc.toNat = pkReadResp) : exec (.readResp a p) s = .next (s.settled (d1.deliverResp o p mark)) := by
  dsimp only [exec, execReadResp]
  rw [packetRow_accepted halive hacc hopc, hop]
  dsimp only
  rw [Dev.metered_passes hpass]

/-- The command of an operation takes the old word of an atomic's response. -/
def Dev.atomicAnswer (d : Dev) (o : Op) (p : Packet) : Dev :=
  match o.cmd.bind fun c => d.cmd c.1 c.2 with
  | some k => if opOf k.entry = opRmOp ∧ decide (o.kind = OpKind.atomic) then d.setCmd { k with res := halves (ofBytes (p.payload.take 8)) } else d
  | none => d

theorem exec_atomicResp_delivers (hopc : p.opc.toNat = pkAtomicResp) : exec (.atomicResp a p) s =
    .next (s.settled ((((d1.setOp { o with resp := o.resp + 1 }).atomicAnswer o p).placed p mark).checkOp o.id)) := by
  dsimp only [exec, execAtomicResp]
  rw [packetRow_accepted halive hacc hopc, hop]
  dsimp only
  rw [Dev.metered_passes hpass]
  rfl

end Responses

section Destinations

variable {d d2 : Dev} {o : Op} {p : Packet} {mark : Bool}

theorem Dev.deliverResp_fill (h : o.space = spFill) :
    d.deliverResp o p mark = (((d.fillLines o p).setOp { o with resp := o.resp + 1 }).placed p mark).checkOp o.id := if_pos h

theorem Dev.deliverResp_cellar (h : o.space = spCellar) :
    d.deliverResp o p mark = ((d.setOp { o with resp := o.resp + 1 }).placed p mark).checkOp o.id :=
  (if_neg (by rw [h]; decide)).trans (if_pos h)

theorem Dev.deliverResp_va (h : o.space = spVa) (hwrite : d.vaWrite none (d.qTenant o.qp) (o.laddr + p.raddr.toNat) p.payload = .ok () d2) :
    d.deliverResp o p mark = ((d2.setOp { o with resp := o.resp + 1 }).placed p mark).checkOp o.id := by
  rw [Dev.deliverResp, if_neg (by rw [h]; decide), if_neg (by rw [h]; decide), if_pos h, hwrite]

theorem Dev.deliverResp_hall (h : o.space = spHall) (hok : d.hallOk (some (d.qTenant o.qp)) (o.laddr + p.raddr.toNat) p.payload.length = true)
    (hkept : d.hallLost.any (fun x => decide (x.1 = ownerOf p)) = false)
    (hstore : d.hallStoreFor (ownerOf p) mRx (o.laddr + p.raddr.toNat) p.payload = (d2, false)) :
    d.deliverResp o p mark = ((d2.setOp { o with resp := o.resp + 1 }).placed p mark).checkOp o.id := by
  rw [Dev.deliverResp, if_neg (by rw [h]; decide), if_neg (by rw [h]; decide), if_neg (by rw [h]; decide), hok, if_neg (by simp), hstore]
  dsimp only
  rw [hkept, if_neg (by simp)]

end Destinations

/-! ## ACK and NAK (R265, R266, R268) -/

section Acks

variable {s : State} {a : Arrival} {p : Packet} {d : Dev} (halive : s.dev.alive = true) (hpass : (s.dev.arrive a p).checkPkt p = .pass d)
include halive hpass

theorem exec_ack (hop : p.opc.toNat = pkAck) :
    exec (.ack a p) s = .next (s.settled (if d.mapOk p.mapVer.toNat then d.onAck p else d.bump Fld.RMA_STAT1_MAP_STALE)) := by
  dsimp only [exec, execAck]
  rw [packetRow_taken halive (.inl hop), hpass, Checked.then']

theorem exec_nak (hop : p.opc.toNat = pkNak) :
    exec (.nak a p) s = .next (s.settled (if d.mapOk p.mapVer.toNat then d.onNak p else d.bump Fld.RMA_STAT1_MAP_STALE)) := by
  dsimp only [exec, execNak]
  rw [packetRow_taken halive (.inl hop), hpass, Checked.then']

end Acks

/-- The packets of a pair that an ACK takes off. -/
def QpT.ackHits (t : QpT) (p : Packet) : List OutPkt := t.out.filter fun o => o.sent && ackCovers p o.pkt.psn.toNat

/-- A pair after an ACK (R265, R266, R270). -/
def QpT.acked' (t : QpT) (p : Packet) : QpT :=
  { t with out := t.out.filter (fun o => !(o.sent && ackCovers p o.pkt.psn.toNat)), tmo := 0, acked := t.acked + (t.ackHits p).length,
           marked := t.marked + p.stat.toNat }

theorem Dev.onAck_nothing {d : Dev} {p : Packet}
    (h : ((d.qpt p.dstQp.toNat p.srcNode.toNat).out.any fun o => o.sent && ackCovers p o.pkt.psn.toNat) = false) : d.onAck p = d := by
  have hempty : ((d.qpt p.dstQp.toNat p.srcNode.toNat).out.filter fun o => o.sent && ackCovers p o.pkt.psn.toNat) = [] := by
    simpa [List.filter_eq_nil_iff] using h
  rw [Dev.onAck, hempty]
  rfl

/-- With no operation outstanding, an ACK only takes packets off. -/
theorem Dev.onAck_idle {d : Dev} {p : Packet} (hops : d.ops = [])
    (h : ((d.qpt p.dstQp.toNat p.srcNode.toNat).out.any fun o => o.sent && ackCovers p o.pkt.psn.toNat) = true) :
    d.onAck p = (d.setQpt ((d.qpt p.dstQp.toNat p.srcNode.toNat).acked' p)).unqueue p.dstQp.toNat p.srcNode.toNat
      fun x => ((d.qpt p.dstQp.toNat p.srcNode.toNat).ackHits p).any fun o => o.pkt.psn.toNat == x := by
  have hempty : ((d.qpt p.dstQp.toNat p.srcNode.toNat).out.filter fun o => o.sent && ackCovers p o.pkt.psn.toNat).isEmpty = false := by
    simpa [List.filter_eq_nil_iff] using h
  obtain ⟨d', hd'⟩ : ∃ d', d' = (d.setQpt ((d.qpt p.dstQp.toNat p.srcNode.toNat).acked' p)).unqueue p.dstQp.toNat p.srcNode.toNat
    fun x => ((d.qpt p.dstQp.toNat p.srcNode.toNat).ackHits p).any fun o => o.pkt.psn.toNat == x := ⟨_, rfl⟩
  have hops' : d'.ops = [] := by
    rw [hd']
    exact hops
  rw [Dev.onAck]
  dsimp only
  rw [hempty, if_neg (by simp)]
  refine (congrArg (fun d => List.foldl _ d _) hd'.symm).trans ((List.foldl_fixed' (fun o => ?_) _).trans hd')
  rw [hops', List.find?_nil]

/-- Taking packets off the queues leaves the pairs' states. -/
theorem Dev.qpt_unqueue {d : Dev} {t : QpT} {q n : Nat} (hq : t.qp = q) (hn : t.node = n) (q' n' : Nat) (gone : Nat → Bool) :
    ((d.setQpt t).unqueue q' n' gone).qpt q n = t := Dev.qpt_setQpt d hq hn

section Naks

variable {d : Dev} {p : Packet} {o : OutPkt} (hops : d.ops = [])
  (hfind : (d.qpt p.dstQp.toNat p.srcNode.toNat).out.find? (fun o => o.sent && o.pkt.psn == p.psn) = some o)
include hops hfind

theorem Dev.onNak_crc (hst : nakStatus p = stCrcFault) :
    d.onNak p = (d.setQpt { (d.qpt p.dstQp.toNat p.srcNode.toNat) with
      out := (d.qpt p.dstQp.toNat p.srcNode.toNat).out.map fun (y : OutPkt) => if y.pkt.psn = o.pkt.psn then { o with crc := o.crc + 1 } else y }).resend
        p.dstQp.toNat p.srcNode.toNat { o with crc := o.crc + 1 } := by
  rw [Dev.onNak]
  dsimp only
  rw [hfind]
  dsimp only
  rw [if_pos hst, hops, List.find?_nil, ite_self]

theorem Dev.onNak_other (hst : nakStatus p ≠ stCrcFault) (hepoch : nakStatus p ≠ stStaleEpoch) :
    d.onNak p = (d.setQpt { (d.qpt p.dstQp.toNat p.srcNode.toNat) with
      out := (d.qpt p.dstQp.toNat p.srcNode.toNat).out.filter fun (y : OutPkt) => y.pkt.psn != o.pkt.psn }).unqueue
        p.dstQp.toNat p.srcNode.toNat (· == o.pkt.psn.toNat) := by
  rw [Dev.onNak]
  dsimp only
  rw [hfind]
  dsimp only
  rw [if_neg hst, hops, List.find?_nil, ite_self, if_neg fun h => hepoch h.1]

end Naks

/-- Settles O35: responses by the destination of their operation, then ACK, then NAK. -/
theorem answersReceived : Obligations.AnswersReceived := by
  refine ⟨fun s a p d0 halive hacc => ?_, fun s a p d halive hpass => ?_⟩
  · refine ⟨exec_readResp_none halive hacc, exec_atomicResp_none halive hacc, fun o d1 mark hop hpass => ?_⟩
    refine ⟨exec_readResp_delivers halive hacc hop hpass, fun d2 hspace hok hkept hstore => Dev.deliverResp_hall hspace hok hkept hstore,
      fun hspace => Dev.deliverResp_fill hspace, fun hspace => Dev.deliverResp_cellar hspace, fun d2 hspace hwrite => Dev.deliverResp_va hspace hwrite,
      fun hopc hnone => ?_, fun k hopc hsome hentry hkind => ?_⟩
    · have hnone' : (o.cmd.bind fun c => (d1.setOp { o with resp := o.resp + 1 }).cmd c.1 c.2) = none := hnone
      rw [exec_atomicResp_delivers halive hacc hop hpass hopc, Dev.atomicAnswer, hnone']
    · have hsome' : (o.cmd.bind fun c => (d1.setOp { o with resp := o.resp + 1 }).cmd c.1 c.2) = some k := hsome
      rw [exec_atomicResp_delivers halive hacc hop hpass hopc, Dev.atomicAnswer, hsome']
      dsimp only
      rw [if_pos ⟨hentry, decide_eq_true hkind⟩]
  · intro q n x
    refine ⟨fun hmap => ⟨fun hop => ?_, fun hop => ?_⟩, fun hmap hop hnothing => ?_, fun hmap hops hwatches => ⟨fun hop hsome => ?_, fun o hop hfind => ⟨fun hst hepoch => ?_, fun hst => ?_⟩⟩⟩
    · rw [exec_ack halive hpass hop, hmap, if_neg (by simp)]
    · rw [exec_nak halive hpass hop, hmap, if_neg (by simp)]
    · rw [exec_ack halive hpass hop, hmap, if_pos rfl, Dev.onAck_nothing hnothing]
    · obtain ⟨hq, hn⟩ := d.qpt_ids q n
      have hqpt := Dev.qpt_unqueue (d := d) (t := x.acked' p) (q := q) (n := n) hq hn q n fun y => (x.ackHits p).any fun o => o.pkt.psn.toNat == y
      refine ⟨s.withDev ((d.setQpt (x.acked' p)).unqueue q n fun y => (x.ackHits p).any fun o => o.pkt.psn.toNat == y),
        (exec_ack halive hpass hop).trans ?_, ?_⟩
      · rw [hmap, if_pos rfl, Dev.onAck_idle hops hsome]
        exact congrArg _ (State.settled_calm s hwatches)
      · rw [State.withDev, hqpt]
        exact ⟨rfl, rfl, rfl, rfl, rfl, rfl, rfl⟩
    · obtain ⟨hq, hn⟩ := d.qpt_ids q n
      have hpsn : o.pkt.psn = p.psn := by
        have := List.find?_some hfind
        simp only [Bool.and_eq_true, beq_iff_eq] at this
        exact this.2
      have hqpt := Dev.qpt_unqueue (d := d) (t := { x with out := x.out.filter fun (y : OutPkt) => y.pkt.psn != o.pkt.psn }) (q := q) (n := n) hq hn q n
        (· == o.pkt.psn.toNat)
      refine ⟨s.withDev ((d.setQpt { x with out := x.out.filter fun (y : OutPkt) => y.pkt.psn != o.pkt.psn }).unqueue q n (· == o.pkt.psn.toNat)),
        (exec_nak halive hpass hop).trans ?_, ?_⟩
      · rw [hmap, if_pos rfl, Dev.onNak_other hops hfind hst hepoch]
        exact congrArg _ (State.settled_calm s hwatches)
      · rw [State.withDev, hqpt, hpsn]
        exact ⟨rfl, rfl, rfl⟩
    · rw [exec_nak halive hpass hop, hmap, if_pos rfl, Dev.onNak_crc hops hfind hst]

end Sys2Proof.Machine

/-! # Packets leave, and the timers of a queue pair (chapters 10, 12) -/

namespace Sys2Proof.Machine

/-! ## Handoff (R261, R298) -/

/-- The queues of packets, the pairs' states and DRAM are those of `d`. -/
def Dev.SameQueues (d d' : Dev) : Prop := d'.txq = d.txq ∧ d'.spray = d.spray ∧ d'.qpts = d.qpts ∧ d'.dram = d.dram

theorem Dev.SameQueues.trans {d d' d'' : Dev} (h : d.SameQueues d') (h' : d'.SameQueues d'') : d.SameQueues d'' :=
  ⟨h'.1.trans h.1, h'.2.1.trans h.2.1, h'.2.2.1.trans h.2.2.1, h'.2.2.2.trans h.2.2.2⟩

theorem Dev.sameQueues_put (d : Dev) (f : Fld) (v i j : Nat) : d.SameQueues (d.put f v i j) :=
  ⟨Dev.put_txq .., Dev.put_spray .., Dev.put_qpts .., Dev.put_dram ..⟩

theorem Dev.sameQueues_useCtx (d : Dev) (q : Nat) : d.SameQueues (d.useCtx q) := by
  have hmiss : d.SameQueues (d.bump Fld.FAB_STAT1_CTX_MISS) := Dev.sameQueues_put ..
  rw [Dev.useCtx]
  generalize d.bump Fld.FAB_STAT1_CTX_MISS = d1 at hmiss ⊢
  split
  · exact ⟨rfl, rfl, rfl, rfl⟩
  · refine hmiss.trans ?_
    dsimp only [Dev.choose]
    split
    · exact ⟨rfl, rfl, rfl, rfl⟩
    · exact ⟨rfl, rfl, rfl, rfl⟩

theorem Dev.sameQueues_setFlow (d : Dev) (k : Nat) (f : Flow) : d.SameQueues (d.setFlow k f) := ⟨rfl, rfl, rfl, rfl⟩

theorem Dev.sameQueues_logEv (d : Dev) (code src data : Nat) : d.SameQueues (d.logEv code src data) := by
  obtain ⟨regs, log, h⟩ := d.logEv_frame code src data
  rw [h]
  exact ⟨rfl, rfl, rfl, rfl⟩

theorem Dev.sameQueues_setVt (d : Dev) (s v : Nat) : d.SameQueues (d.setVt s v) := ⟨rfl, rfl, rfl, rfl⟩

theorem Dev.sameQueues_retag (d : Dev) (s f q : Nat) : d.SameQueues (d.retag s f q) := by
  rw [Dev.retag]
  dsimp only
  refine (d.sameQueues_setVt s (later64 (d.vt s) (d.flow (flowKey s f)).start)).trans ?_
  generalize d.setVt s (later64 (d.vt s) (d.flow (flowKey s f)).start) = d1
  split
  · exact d1.sameQueues_setFlow ..
  · split
    · exact d1.sameQueues_setFlow ..
    · exact (d1.sameQueues_setFlow ..).trans (Dev.sameQueues_setFlow ..)

theorem Dev.sameQueues_sojourn (d : Dev) (t : TxPkt) : d.SameQueues (d.sojourn t) := by
  rw [Dev.sojourn]
  dsimp only
  split_ifs
  · exact d.sameQueues_put ..
  · exact (d.sameQueues_put ..).trans (Dev.sameQueues_put ..)
  · exact (d.sameQueues_put ..).trans ((Dev.sameQueues_put ..).trans ((Dev.sameQueues_setFlow ..).trans (Dev.sameQueues_logEv ..)))

theorem Dev.spsn_of_qpts {d d' : Dev} (h : d'.qpts = d.qpts) (q n : Nat) : (d'.qpt q n).spsn = (d.qpt q n).spsn := by
  rw [Dev.qpt, Dev.qpt, h]
  cases d.qpts.find? fun t => t.qp == q && t.node == n with
  | none => rfl
  | some t => rfl

theorem Dev.qpt_of_setQpt {d d' : Dev} {t : QpT} {q n : Nat} (hq : t.qp = q) (hn : t.node = n) (h : d'.qpts = (d.setQpt t).qpts) : d'.qpt q n = t := by
  have hfound : ((d.setQpt t).qpts.find? fun u => u.qp == q && u.node == n).isSome := by
    rw [List.find?_isSome]
    exact ⟨t, by simp [Dev.setQpt], by simp [hq, hn]⟩
  rw [Dev.qpt_of_qpts h hfound, Dev.qpt_setQpt d hq hn]

/-- A packet, numbered, leaves its flow for spraying, its pair's state `q`. -/
def Dev.leaveFlow (d : Dev) (q : QpT) (t : TxPkt) (flow qp : Nat) : Dev :=
  let d := (d.setQpt q).retag (schedOf t.lc) flow qp
  { (d.sojourn t) with spray := d.spray ++ [t] }

theorem Dev.leaveFlow_keeps (d : Dev) (q : QpT) (t : TxPkt) (flow qp : Nat) :
    (d.leaveFlow q t flow qp).txq = d.txq ∧ (d.leaveFlow q t flow qp).spray = d.spray ++ [t] ∧ (d.leaveFlow q t flow qp).dram = d.dram
      ∧ (d.leaveFlow q t flow qp).qpts = (d.setQpt q).qpts := by
  obtain ⟨htxq, hspray, hqpts, hdram⟩ := (d.setQpt q).sameQueues_retag (schedOf t.lc) flow qp
  unfold Dev.leaveFlow
  generalize (d.setQpt q).retag (schedOf t.lc) flow qp = d2 at *
  obtain ⟨htxq', -, hqpts', hdram'⟩ := d2.sameQueues_sojourn t
  dsimp only
  rw [htxq', hqpts', hdram', htxq, hspray, hqpts, hdram]
  exact ⟨rfl, rfl, rfl, rfl⟩

/-- The pair's state that a packet's number leaves, paced. -/
def Dev.numbered (d : Dev) (t : TxPkt) : QpT :=
  let q := ((d.qpt t.qp t.node).number t).1
  { q with paceAt := max q.paceAt d.clk.now + pktWire { t.pkt with psn := BitVec.ofNat 32 (d.qpt t.qp t.node).spsn } * 3000 / atLeast1 q.rate }

/-- A packet of the system flow that is not sent again takes its pair's next number. -/
theorem Dev.handOff_numbered {d : Dev} {t : TxPkt} (hretx : t.retx = false) (hflow : t.flow = 256) :
    let d1 := ({ d with txq := d.txq.erase t } : Dev).useCtx t.qp
    d.handOff t = d1.leaveFlow (d1.numbered t) { t with pkt := { t.pkt with psn := BitVec.ofNat 32 (d1.qpt t.qp t.node).spsn } } t.flow t.qp := by
  intro d1
  have hnumber (q : QpT) : q.number t = _ := if_neg (by simp [hretx])
  rw [Dev.handOff, Dev.leaveFlow, Dev.numbered]
  dsimp only
  rw [if_pos (.inl hflow), hnumber]

theorem Dev.numbered_pair (d : Dev) {t : TxPkt} (hretx : t.retx = false) :
    (d.numbered t).qp = t.qp ∧ (d.numbered t).node = t.node ∧ (d.numbered t).spsn = ((d.qpt t.qp t.node).spsn + 1) % 2 ^ 32 := by
  obtain ⟨hqp, hnode⟩ := d.qpt_ids t.qp t.node
  rw [Dev.numbered, QpT.number, hretx, if_neg (by simp)]
  exact ⟨hqp, hnode, rfl⟩

/-- A packet of the system flow handed over for the first time. -/
theorem Dev.handOff_first {d : Dev} {t : TxPkt} (hretx : t.retx = false) (hflow : t.flow = 256) :
    (d.handOff t).txq = d.txq.erase t ∧ (d.handOff t).dram = d.dram
      ∧ (d.handOff t).spray = d.spray ++ [{ t with pkt := { t.pkt with psn := BitVec.ofNat 32 (d.qpt t.qp t.node).spsn } }]
      ∧ ((d.handOff t).qpt t.qp t.node).spsn = ((d.qpt t.qp t.node).spsn + 1) % 2 ^ 32 := by
  have hleave := Dev.handOff_numbered (d := d) hretx hflow
  obtain ⟨htxq, hspray, hqpts, hdram⟩ := Dev.sameQueues_useCtx { d with txq := d.txq.erase t } t.qp
  have hsame := Dev.spsn_of_qpts hqpts t.qp t.node
  dsimp only at hleave
  generalize ({ d with txq := d.txq.erase t } : Dev).useCtx t.qp = d1 at *
  obtain ⟨hqp, hnode, hspsn⟩ := d1.numbered_pair hretx
  have hstart : (d1.qpt t.qp t.node).spsn = (d.qpt t.qp t.node).spsn := hsame
  rw [hstart] at hspsn hleave
  obtain ⟨htxq', hspray', hdram', hqpts'⟩ := d1.leaveFlow_keeps (d1.numbered t)
    { t with pkt := { t.pkt with psn := BitVec.ofNat 32 (d.qpt t.qp t.node).spsn } } t.flow t.qp
  rw [hleave]
  refine ⟨htxq'.trans htxq, hdram'.trans hdram, hspray'.trans (congrArg (· ++ _) hspray), ?_⟩
  rw [Dev.qpt_of_setQpt hqp hnode hqpts', hspsn]

theorem exec_handoff {s : State} (halive : s.dev.alive = true) {lc : Bool} {t : TxPkt} (hpick : s.dev.pick (schedOf lc) = some t) :
    exec (.packetHandoff lc) s = .next (s.withDev (s.dev.handOff t)) := by
  refine exec_device (by dsimp only [exec]; unfold execPacketHandoff; rfl) halive ?_
  rw [hpick]

/-! ## Spraying (R262, R340) -/

theorem Dev.sprayOne_alone {d : Dev} {t : TxPkt} {p : Nat} (hepoch : d.epoch ≠ 0) (hspray : d.spray = [t]) (hmay : d.sprayable t = true)
    (hport : d.nextPort (laneOf t) = some p) : d.sprayOne = d.sprayTo t p := by
  have hpick : (d.spray.filter d.sprayable).findSome? (fun t => (d.nextPort (laneOf t)).map fun p => (t, p)) = some (t, p) := by
    simp [hspray, hmay, hport]
  rw [Dev.sprayOne, if_neg hepoch, hpick]

theorem Dev.sprayOne_early {d : Dev} (hepoch : d.epoch = 0) : d.sprayOne = d := if_pos hepoch

/-! ## Timers (R265, R266, R270) -/

section Timers

variable {s : State} {qp node : BitVec 16} {t : BitVec 64} (halive : s.dev.alive = true)
include halive

theorem exec_ackTimer (hfresh : ((s.dev.advanceTo t.toNat).qpt qp.toNat node.toNat).fresh ≠ 0)
    (hdue : ((s.dev.advanceTo t.toNat).qpt qp.toNat node.toNat).firstAt + 1000 ≤ (s.dev.advanceTo t.toNat).ns) :
    exec (.ackTimer qp node t) s = .next (s.withDev ((s.dev.advanceTo t.toNat).sendAck qp.toNat node.toNat)) := by
  refine exec_device (by dsimp only [exec]; unfold execAckTimer; rfl) halive ?_
  exact if_neg (not_or.2 ⟨hfresh, not_lt.2 hdue⟩)

/-- What a retransmission timeout comes to once it is counted. -/
def Dev.timedOut (d : Dev) (q n : Nat) (o : OutPkt) (limit tmo : Nat) : Dev :=
  if tmo < limit then d.resend q n o else if q < 16 then d.resetToward q n else d.errorPair q

theorem exec_retransmitTimeout {psn : BitVec 32} {o : OutPkt}
    (hfind : ((s.dev.advanceTo t.toNat).qpt qp.toNat node.toNat).out.find? (fun o => o.sent && o.pkt.psn == psn) = some o)
    (hdue : o.sentAt + 1000 * atLeast1 ((s.dev.advanceTo t.toNat).get Fld.FAB_XPORT_CFG_RTO) ≤ (s.dev.advanceTo t.toNat).ns) :
    let d := s.dev.advanceTo t.toNat
    let x := d.qpt qp.toNat node.toNat
    exec (.retransmitTimeout qp node psn t) s = .next (s.settled
      ((d.setQpt { x with tmo := x.tmo + 1, rate := max (d.get Fld.FAB_RC_CFG_RMIN) (x.rate / 2) }).timedOut qp.toNat node.toNat o
        (atLeast1 (d.get Fld.FAB_XPORT_CFG_RETRY_MAX)) (x.tmo + 1))) := by
  intro d x
  show execRetransmitTimeout qp node psn t s = _
  refine onHall_settled halive ?_
  dsimp only
  rw [hfind]
  exact if_neg (not_lt.2 hdue)

/-- The pair's state that a rate update leaves. -/
def Dev.rateUpdated (d : Dev) (q n : Nat) : QpT :=
  ({ (d.qpt q n) with rcAt := d.ns } : QpT).rcUpdate (d.get Fld.FAB_RC_CFG_RMIN) (d.get Fld.FAB_RC_RATE_RMAX) (d.get Fld.FAB_RC_CFG_RAI) (d.get Fld.FAB_RC_CFG_FAST)

theorem exec_rcUpdate (hout : ((s.dev.advanceTo t.toNat).qpt qp.toNat node.toNat).out ≠ [])
    (hdue : ((s.dev.advanceTo t.toNat).qpt qp.toNat node.toNat).rcAt + 100 * atLeast1 ((s.dev.advanceTo t.toNat).get Fld.FAB_RC_CFG_PERIOD)
      ≤ (s.dev.advanceTo t.toNat).ns) :
    exec (.rcUpdate qp node t) s = .next (s.withDev ((s.dev.advanceTo t.toNat).setQpt ((s.dev.advanceTo t.toNat).rateUpdated qp.toNat node.toNat))) := by
  refine exec_device (by dsimp only [exec]; unfold execRcUpdate; rfl) halive ?_
  exact if_neg (not_or.2 ⟨fun h => hout (List.isEmpty_iff.1 h.1), not_lt.2 hdue⟩)

end Timers

/-- A rate update empties the period's counts and leaves the pair's name. -/
theorem QpT.rcUpdate_counts (x : QpT) (rmin rmax rai fast : Nat) :
    (x.rcUpdate rmin rmax rai fast).qp = x.qp ∧ (x.rcUpdate rmin rmax rai fast).node = x.node ∧ (x.rcUpdate rmin rmax rai fast).rcAt = x.rcAt
      ∧ (x.rcUpdate rmin rmax rai fast).acked = 0 ∧ (x.rcUpdate rmin rmax rai fast).marked = 0 := by
  rw [QpT.rcUpdate]
  dsimp only
  split
  · exact ⟨rfl, rfl, rfl, rfl, rfl⟩
  · exact ⟨rfl, rfl, rfl, rfl, rfl⟩

theorem QpT.rcUpdate_recovers {x : QpT} {rmin rmax rai fast : Nat} (hmarked : x.marked = 0) (hquiet : x.quiet < fast) (hfast : fast ≤ 31) :
    (x.rcUpdate rmin rmax rai fast).target = x.target ∧ (x.rcUpdate rmin rmax rai fast).quiet = x.quiet + 1
      ∧ (x.rcUpdate rmin rmax rai fast).rate = min rmax ((x.rate + x.target + 1) / 2) := by
  have hmin : min 31 (x.quiet + 1) = x.quiet + 1 := by omega
  rw [QpT.rcUpdate, if_neg (by omega)]
  dsimp only
  rw [hmin, if_neg (by omega)]
  exact ⟨rfl, rfl, rfl⟩

theorem QpT.rcUpdate_marked {x : QpT} {rmin rmax rai fast : Nat} (hmarked : 0 < x.marked) :
    (x.rcUpdate rmin rmax rai fast).target = x.rate ∧ (x.rcUpdate rmin rmax rai fast).quiet = 0 := by
  rw [QpT.rcUpdate, if_pos hmarked]
  exact ⟨rfl, rfl⟩

/-- Settles O32: the handoff and the spraying of a packet, then the three timers. -/
theorem packetsLeaveAndTimers : Obligations.PacketsLeaveAndTimers := by
  refine ⟨fun s halive => ⟨fun lc t hpick hretx hflow => ?_, fun t p hepoch hspray hmay hport => ?_, fun hepoch => ?_⟩, fun s qp node psn t halive => ?_⟩
  · obtain ⟨htxq, hdram, hspray, hspsn⟩ := Dev.handOff_first (d := s.dev) hretx hflow
    exact ⟨_, exec_handoff halive hpick, htxq, hspray, hspsn, hdram⟩
  · exact exec_device (by dsimp only [exec]; unfold execPacketSpray; rfl) halive (Dev.sprayOne_alone hepoch hspray hmay hport)
  · exact exec_device (by dsimp only [exec]; unfold execPacketSpray; rfl) halive (Dev.sprayOne_early hepoch)
  · intro d q n x
    refine ⟨exec_ackTimer halive, fun o hfind hdue => ?_, fun hout hdue => ?_⟩
    · intro d1
      have hexec := exec_retransmitTimeout halive hfind hdue
      refine ⟨fun hmore => ?_, fun hlast => ⟨fun hq => ?_, fun hq => ?_⟩⟩
      · rw [hexec, Dev.timedOut, if_pos hmore]
      · rw [hexec, Dev.timedOut, if_neg (not_lt.2 hlast), if_pos hq]
      · rw [hexec, Dev.timedOut, if_neg (not_lt.2 hlast), if_neg (not_lt.2 hq)]
    · obtain ⟨hqp, hnode, hat, hacked, hmarked⟩ := QpT.rcUpdate_counts ({ x with rcAt := d.ns } : QpT)
        (d.get Fld.FAB_RC_CFG_RMIN) (d.get Fld.FAB_RC_RATE_RMAX) (d.get Fld.FAB_RC_CFG_RAI) (d.get Fld.FAB_RC_CFG_FAST)
      have hids := d.qpt_ids q n
      have hqpt : (d.setQpt (d.rateUpdated q n)).qpt q n = d.rateUpdated q n := Dev.qpt_setQpt d (hqp.trans hids.1) (hnode.trans hids.2)
      refine ⟨_, exec_rcUpdate halive hout hdue, ?_⟩
      rw [State.withDev, hqpt]
      exact ⟨hat, hacked, hmarked, rfl, rfl, rfl, 
        fun hmarked hquiet hfast => QpT.rcUpdate_recovers hmarked hquiet hfast, fun hmarked => QpT.rcUpdate_marked hmarked⟩

end Sys2Proof.Machine

/-! # Queue pair operations and the traffic unit's writes (chapters 10, 12) -/

namespace Sys2Proof.Machine

/-! ## Queue pair operations (R260) -/

section Operations

variable {d : Dev} {q : Nat}

theorem Dev.qpOp_read : d.qpOp 2 q =
    ((List.range 16).foldl (fun (d : Dev) k => d.put Fld.FAB_QP_STAGE_WORD (d.contextWord q k) k) d).put Fld.FAB_QP_OP_RESULT 0 := rfl

/-- An operation of a pair that is not reserved, in a state that does not permit it. -/
theorem Dev.qpOp_forbidden {op : Nat} (hop : op ≠ 2) (h1 : ¬ (op = 1 ∧ d.qState q = qsReset)) (h3 : ¬ (op = 3 ∧ d.qState q = qsInit))
    (h4 : ¬ (op = 4 ∧ d.qState q = qsActive)) (h5 : ¬ (op = 5 ∧ (d.qState q = qsError ∨ d.qState q = qsInit))) :
    d.qpOp op q = d.put Fld.FAB_QP_OP_RESULT 1 := by
  rw [Dev.qpOp]
  dsimp only
  rw [if_neg hop, if_neg h1, if_neg h3, if_neg h4, if_neg h5, ite_self]
  rfl

theorem Dev.qpOp_reserved {op : Nat} (hop : op ≠ 2) (hq : q < 64) : d.qpOp op q = d.put Fld.FAB_QP_OP_RESULT 1 :=
  (if_neg hop).trans (if_pos (decide_eq_true hq))

variable (hq : 64 ≤ q)
include hq

theorem qReserved_of_le : ¬ (qReserved q = true) := by simpa [qReserved] using hq

theorem Dev.qpOp_write (h : d.qState q = qsReset) : d.qpOp 1 q =
    (((List.range 16).foldl (fun (d : Dev) k => d.dramPutN 8 (d.qpAddr q + 8 * k) (d.get Fld.FAB_QP_STAGE_WORD k)) d).qput q 0 63 61 qsInit).put
      Fld.FAB_QP_OP_RESULT 0 := by
  rw [Dev.qpOp]
  dsimp only
  rw [if_neg (by decide), if_neg (qReserved_of_le hq), if_pos ⟨rfl, h⟩]
  rfl

theorem Dev.qpOp_enable (h : d.qState q = qsInit) : d.qpOp 3 q = (d.enableQp q).put Fld.FAB_QP_OP_RESULT 0 := by
  rw [Dev.qpOp]
  dsimp only
  rw [if_neg (by decide), if_neg (qReserved_of_le hq), if_neg (by simp), if_pos ⟨rfl, h⟩]
  rfl

theorem Dev.qpOp_drain (h : d.qState q = qsActive) : d.qpOp 4 q = ((d.qput q 0 63 61 qsDraining).drainCheck q).put Fld.FAB_QP_OP_RESULT 0 := by
  rw [Dev.qpOp]
  dsimp only
  rw [if_neg (by decide), if_neg (qReserved_of_le hq), if_neg (by simp), if_neg (by simp), if_pos ⟨rfl, h⟩]
  rfl

theorem Dev.qpOp_reset (h : d.qState q = qsError ∨ d.qState q = qsInit) : d.qpOp 5 q = (d.qput q 0 63 61 qsReset).put Fld.FAB_QP_OP_RESULT 0 := by
  rw [Dev.qpOp]
  dsimp only
  rw [if_neg (by decide), if_neg (qReserved_of_le hq), if_neg (by simp), if_neg (by simp), if_neg (by simp), if_pos ⟨rfl, h⟩]
  rfl

end Operations

section Rows

variable {s : State} (halive : s.dev.alive = true) (hopen : s.dev.open' = true)
include halive hopen

/-- The rows of the queue pair operations, with the code of each. -/
def qpRows (qp : BitVec 16) : List (Instr × Nat) :=
  [(.fabQpWrite qp, 1), (.fabQpRead qp, 2), (.fabQpEnable qp, 3), (.fabQpDrain qp, 4), (.fabQpReset qp, 5)]

theorem exec_qpRow {qp : BitVec 16} {i : Instr} {op : Nat} (hi : (i, op) ∈ qpRows qp) {d : Dev} (hd : s.dev.qpOp op qp.toNat = d) :
    exec i s = .next (s.withDev d) := by
  simp only [qpRows, List.mem_cons, Prod.mk.injEq, List.not_mem_nil, or_false] at hi
  have hrow : qpRow op qp s = .next (s.withDev d) := onDev_withDev halive ((if_pos hopen).trans hd)
  rcases hi with ⟨rfl, rfl⟩ | ⟨rfl, rfl⟩ | ⟨rfl, rfl⟩ | ⟨rfl, rfl⟩ | ⟨rfl, rfl⟩
  all_goals
    rw [← hrow]
    rfl

end Rows

/-! ## Writes of the traffic unit (R302, R304) -/

/-- The registers that a write of two fields of one register leaves. -/
theorem Dev.put_put_reads (d : Dev) {f g : Fld} (hf : f.lo ≤ f.hi ∧ f.hi < 64) (hg : g.lo ≤ g.hi ∧ g.hi < 64) (hbeside : g.Beside f) {v w n : Nat}
    (hv : v < 2 ^ (f.hi + 1 - f.lo)) (hw : w < 2 ^ (g.hi + 1 - g.lo)) :
    ((d.put f v n).put g w n).get f n = v ∧ ((d.put f v n).put g w n).get g n = w := by
  refine ⟨?_, ?_⟩
  · rw [Dev.get_put_beside _ hbeside, Dev.get_put_same _ _ _ _ _ hf.1 hf.2, Nat.mod_eq_of_lt hv]
  · rw [Dev.get_put_same _ _ _ _ _ hg.1 hg.2, Nat.mod_eq_of_lt hw]

theorem Dev.put_frame (d : Dev) (f : Fld) (v i j : Nat) : ∃ regs, d.put f v i j = { d with regs := regs } := ⟨_, rfl⟩

/-- Two puts change the registers only. -/
theorem Dev.put_put_frame (d : Dev) (f g : Fld) (v w n : Nat) : ∃ regs, (d.put f v n).put g w n = { d with regs := regs } := by
  obtain ⟨regs, h⟩ := d.put_frame f v n 0
  rw [h]
  exact Dev.put_frame _ g w n 0

/-- A shaper's write takes its rate and burst, and its bucket is empty. -/
theorem Dev.writeShape_takes (d : Dev) (k v : Nat) :
    (d.writeShape k v).get Fld.TRF_SHAPE_RATE k = bits v 63 40 ∧ (d.writeShape k v).get Fld.TRF_SHAPE_BURST k = bits v 39 24
      ∧ sget Bucket.empty k (d.writeShape k v).shapers = ⟨0, 0, d.ns / 10⟩ ∧ Dev.sameRegsBut [Fld.TRF_SHAPE_RATE.off k 0] d (d.writeShape k v)
      ∧ d.writeShape k v = { d with regs := (d.writeShape k v).regs, shapers := (d.writeShape k v).shapers } := by
  obtain ⟨hrate, hburst⟩ := d.put_put_reads (f := Fld.TRF_SHAPE_RATE) (g := Fld.TRF_SHAPE_BURST) (n := k) (by decide) (by decide) (by decide)
    (bits_lt v 63 40) (bits_lt v 39 24)
  have hsame := Dev.sameRegsBut_put (Dev.sameRegsBut_put (Dev.sameRegsBut_refl [Fld.TRF_SHAPE_RATE.off k 0] d)
    Fld.TRF_SHAPE_RATE (bits v 63 40) k 0 List.mem_cons_self) Fld.TRF_SHAPE_BURST (bits v 39 24) k 0 List.mem_cons_self
  obtain ⟨regs, hframe⟩ := d.put_put_frame Fld.TRF_SHAPE_RATE Fld.TRF_SHAPE_BURST (bits v 63 40) (bits v 39 24) k
  rw [Dev.writeShape]
  dsimp only
  rw [hframe] at hrate hburst hsame ⊢
  exact ⟨hrate, hburst, sget_sput_same .., hsame, rfl⟩

/-- A meter's write fills both buckets to the caps that it leaves. -/
theorem Dev.fillMeter_fills (d : Dev) (k : Nat) :
    sget (Bucket.empty, Bucket.empty) k (d.fillMeter k).meters
      = (⟨d.get Fld.TRF_METER1_CBS k * 1024, 0, d.ns / 10⟩, ⟨d.get Fld.TRF_METER1_PBS k * 1024, 0, d.ns / 10⟩) := by
  rw [Dev.fillMeter]
  exact sget_sput_same ..

theorem Dev.writeMeter_word0 (d : Dev) (k v : Nat) :
    (d.writeMeter k false v).get Fld.TRF_METER0_CIR k = bits v 63 40 ∧ (d.writeMeter k false v).get Fld.TRF_METER0_PIR k = bits v 39 16
      ∧ sget (Bucket.empty, Bucket.empty) k (d.writeMeter k false v).meters
        = (⟨d.get Fld.TRF_METER1_CBS k * 1024, 0, d.ns / 10⟩, ⟨d.get Fld.TRF_METER1_PBS k * 1024, 0, d.ns / 10⟩)
      ∧ Dev.sameRegsBut [Fld.TRF_METER0_CIR.off k 0] d (d.writeMeter k false v)
      ∧ d.writeMeter k false v = { d with regs := (d.writeMeter k false v).regs, meters := (d.writeMeter k false v).meters } := by
  obtain ⟨d1, hd1⟩ : ∃ d1, d1 = ((d.put Fld.TRF_METER0_CIR (bits v 63 40) k).put Fld.TRF_METER0_PIR (bits v 39 16) k).put Fld.TRF_METER0_RED_ACT (bits v 0 0) k :=
    ⟨_, rfl⟩
  obtain ⟨hcir, hpir⟩ := d.put_put_reads (f := Fld.TRF_METER0_CIR) (g := Fld.TRF_METER0_PIR) (n := k) (by decide) (by decide) (by decide)
    (bits_lt v 63 40) (bits_lt v 39 16)
  have hsame : Dev.sameRegsBut [Fld.TRF_METER0_CIR.off k 0] d d1 := by
    rw [hd1]
    exact Dev.sameRegsBut_put (Dev.sameRegsBut_put (Dev.sameRegsBut_put (Dev.sameRegsBut_refl [Fld.TRF_METER0_CIR.off k 0] d)
      Fld.TRF_METER0_CIR (bits v 63 40) k 0 List.mem_cons_self) Fld.TRF_METER0_PIR (bits v 39 16) k 0 List.mem_cons_self)
      Fld.TRF_METER0_RED_ACT (bits v 0 0) k 0 List.mem_cons_self
  have hcbs : d1.get Fld.TRF_METER1_CBS k = d.get Fld.TRF_METER1_CBS k := by
    rw [hd1, Dev.get_put_beside _ (by decide), Dev.get_put_beside _ (by decide), Dev.get_put_beside _ (by decide)]
  have hpbs : d1.get Fld.TRF_METER1_PBS k = d.get Fld.TRF_METER1_PBS k := by
    rw [hd1, Dev.get_put_beside _ (by decide), Dev.get_put_beside _ (by decide), Dev.get_put_beside _ (by decide)]
  have hcir1 : d1.get Fld.TRF_METER0_CIR k = bits v 63 40 := by rw [hd1, Dev.get_put_beside _ (by decide), hcir]
  have hpir1 : d1.get Fld.TRF_METER0_PIR k = bits v 39 16 := by rw [hd1, Dev.get_put_beside _ (by decide), hpir]
  obtain ⟨regs, hframe⟩ : ∃ regs, d1 = { d with regs := regs } := by
    obtain ⟨regs, h⟩ := d.put_put_frame Fld.TRF_METER0_CIR Fld.TRF_METER0_PIR (bits v 63 40) (bits v 39 16) k
    rw [hd1, h]
    exact Dev.put_frame _ Fld.TRF_METER0_RED_ACT (bits v 0 0) k 0
  have hwrite : d.writeMeter k false v = d1.fillMeter k := by
    rw [Dev.writeMeter, if_neg (by decide), hd1]
  have hfill := d1.fillMeter_fills k
  rw [hcbs, hpbs] at hfill
  have hns : d1.ns = d.ns := by rw [hframe]; rfl
  rw [hwrite]
  refine ⟨hcir1, hpir1, by rw [hfill, hns], hsame, ?_⟩
  rw [hframe]
  rfl

theorem Dev.writeMeter_word1 (d : Dev) (k v : Nat) :
    (d.writeMeter k true v).get Fld.TRF_METER1_CBS k = bits v 63 48 ∧ (d.writeMeter k true v).get Fld.TRF_METER1_PBS k = bits v 47 32
      ∧ sget (Bucket.empty, Bucket.empty) k (d.writeMeter k true v).meters = (⟨bits v 63 48 * 1024, 0, d.ns / 10⟩, ⟨bits v 47 32 * 1024, 0, d.ns / 10⟩)
      ∧ Dev.sameRegsBut [Fld.TRF_METER1_CBS.off k 0] d (d.writeMeter k true v) := by
  obtain ⟨d1, hd1⟩ : ∃ d1, d1 = (d.put Fld.TRF_METER1_CBS (bits v 63 48) k).put Fld.TRF_METER1_PBS (bits v 47 32) k := ⟨_, rfl⟩
  obtain ⟨hcbs, hpbs⟩ := d.put_put_reads (f := Fld.TRF_METER1_CBS) (g := Fld.TRF_METER1_PBS) (n := k) (by decide) (by decide) (by decide)
    (bits_lt v 63 48) (bits_lt v 47 32)
  have hsame := Dev.sameRegsBut_put (Dev.sameRegsBut_put (Dev.sameRegsBut_refl [Fld.TRF_METER1_CBS.off k 0] d)
    Fld.TRF_METER1_CBS (bits v 63 48) k 0 List.mem_cons_self) Fld.TRF_METER1_PBS (bits v 47 32) k 0 List.mem_cons_self
  rw [← hd1] at hcbs hpbs hsame
  have hns : d1.ns = d.ns := by rw [hd1, Dev.ns, Dev.put_clk, Dev.put_clk, Dev.ns]
  have hwrite : d.writeMeter k true v = d1.fillMeter k := by
    rw [Dev.writeMeter, if_pos rfl, hd1]
  rw [hwrite]
  exact ⟨hcbs, hpbs, by rw [d1.fillMeter_fills, hcbs, hpbs, hns], hsame⟩

theorem Dev.writeQpClass_reclass {d : Dev} {v : Nat} (hq : 64 ≤ bits v 15 0) (hc : bits v 49 48 = 1 ∨ bits v 49 48 = 2) :
    d.writeQpClass v = d.reclass (bits v 15 0) (bits v 49 48 == 1) := by
  rw [Dev.writeQpClass]
  exact if_neg (not_or.2 ⟨qReserved_of_le hq, by omega⟩)

/-- Settles O36: the operations in the states of R260, then the three writes. -/
theorem queuePairsAndTraffic : Obligations.QueuePairsAndTraffic := by
  refine ⟨fun s qp halive hopen => ?_, fun s n v halive hopen => ?_⟩
  · intro d q ok
    have hrow {i : Instr} {op : Nat} (hi : (i, op) ∈ qpRows qp) {d' : Dev} := exec_qpRow halive hopen hi (d := d')
    have hwrite : (Instr.fabQpWrite qp, 1) ∈ qpRows qp := by simp [qpRows]
    have henable : (Instr.fabQpEnable qp, 3) ∈ qpRows qp := by simp [qpRows]
    have hdrain : (Instr.fabQpDrain qp, 4) ∈ qpRows qp := by simp [qpRows]
    have hreset : (Instr.fabQpReset qp, 5) ∈ qpRows qp := by simp [qpRows]
    refine ⟨hrow (op := 2) (by simp [qpRows]) Dev.qpOp_read, fun hq => ⟨fun h => ?_, fun h => ?_, fun h => ?_, fun h => ?_⟩, fun i hi => ?_⟩
    · exact hrow hwrite (Dev.qpOp_write hq h)
    · exact hrow henable (Dev.qpOp_enable hq h)
    · exact hrow hdrain (Dev.qpOp_drain hq h)
    · exact hrow hreset (Dev.qpOp_reset hq h)
    · obtain ⟨rfl, h⟩ | ⟨rfl, h⟩ | ⟨rfl, h⟩ | ⟨rfl, h, h'⟩ | ⟨hq, hi⟩ := hi
      · exact hrow hwrite (Dev.qpOp_forbidden (by decide) (fun x => h x.2) (by simp) (by simp) (by simp))
      · exact hrow henable (Dev.qpOp_forbidden (by decide) (by simp) (fun x => h x.2) (by simp) (by simp))
      · exact hrow hdrain (Dev.qpOp_forbidden (by decide) (by simp) (by simp) (fun x => h x.2) (by simp))
      · exact hrow hreset (Dev.qpOp_forbidden (by decide) (by simp) (by simp) (by simp) fun x => x.2.elim h h')
      · simp only [List.mem_cons, List.not_mem_nil, or_false] at hi
        obtain rfl | rfl | rfl | rfl := hi
        · exact hrow hwrite (Dev.qpOp_reserved (by decide) hq)
        · exact hrow henable (Dev.qpOp_reserved (by decide) hq)
        · exact hrow hdrain (Dev.qpOp_reserved (by decide) hq)
        · exact hrow hreset (Dev.qpOp_reserved (by decide) hq)
  · intro d k
    refine ⟨?_, ?_, ?_, fun hq hc => ?_⟩
    · obtain ⟨hrate, hburst, hbucket, hsame, hframe⟩ := d.writeShape_takes k v.toNat
      exact ⟨_, exec_device (by dsimp only [exec]; unfold execTrfShapeWrite; rfl) halive (if_pos hopen), hrate, hburst, hbucket, hsame,
        congrArg s.withDev hframe⟩
    · obtain ⟨hcir, hpir, hbuckets, hsame, hframe⟩ := d.writeMeter_word0 k v.toNat
      exact ⟨_, exec_device (by dsimp only [exec]; unfold execTrfMeterWrite; rfl) halive (if_pos hopen), hcir, hpir, hbuckets, hsame,
        congrArg s.withDev hframe⟩
    · exact ⟨_, exec_device (by dsimp only [exec]; unfold execTrfMeterWrite; rfl) halive (if_pos hopen), d.writeMeter_word1 k v.toNat⟩
    · exact exec_device (by dsimp only [exec]; unfold execTrfQpClass; rfl) halive ((if_pos hopen).trans (Dev.writeQpClass_reclass hq hc))

end Sys2Proof.Machine

/-! # Numbers in memory, and the fields of a sequence's record (R8, R33) -/

namespace Sys2Proof.Machine

/-! ## Little-endian numbers (R8) -/

@[simp] theorem length_toBytes (n x : Nat) : (toBytes n x).length = n := by simp [toBytes]

theorem toBytes_succ (n x : Nat) : toBytes (n + 1) x = byteOf x 0 :: toBytes n (x >>> 8) := by
  rw [toBytes, List.range_succ_eq_map, List.map_cons, List.map_map, toBytes]
  refine congrArg (List.cons _) (List.map_congr_left fun k _ => ?_)
  simp only [Function.comp, byteOf, ← Nat.shiftRight_add]
  congr 2
  omega

theorem ofBytes_toBytes (n : Nat) : ∀ x, ofBytes (toBytes n x) = x % 256 ^ n := by
  induction n with
  | zero => intro x; simp [toBytes, ofBytes, Nat.mod_one]
  | succ n ih =>
    intro x
    have hpow : 256 ^ (n + 1) = 256 * 256 ^ n := Nat.pow_succ'
    rw [toBytes_succ, ofBytes, ih, byteOf, Nat.mul_zero, Nat.shiftRight_zero, BitVec.toNat_ofNat, Nat.shiftRight_eq_div_pow, hpow, Nat.mod_mul]

theorem Mem.readN_writeN_same (m : Mem) (n a v : Nat) : (m.writeN n a v).readN n a = v % 256 ^ n := by
  have h := m.readBytes_writeBytes a (toBytes n v)
  rw [length_toBytes] at h
  rw [Mem.readN, Mem.writeN, h, ofBytes_toBytes]

/-- Bytes outside those written. -/
theorem Mem.readBytes_writeBytes_apart {m : Mem} {bs : List Byte} {a b n : Nat} (h : b + n ≤ a ∨ a + bs.length ≤ b) :
    (m.writeBytes a bs).readBytes b n = m.readBytes b n :=
  List.map_congr_left fun k hk => Mem.read_writeBytes_other bs m a _ (by have := List.mem_range.1 hk; omega)

theorem Mem.readN_writeN_apart {m : Mem} {k n a b v : Nat} (h : b + n ≤ a ∨ a + k ≤ b) : (m.writeN k a v).readN n b = m.readN n b := by
  rw [Mem.readN, Mem.writeN, Mem.readBytes_writeBytes_apart (by rwa [length_toBytes]), Mem.readN]

theorem Mem.read_writeN_apart {m : Mem} {k a b v : Nat} (h : b < a ∨ a + k ≤ b) : (m.writeN k a v).read b = m.read b :=
  Mem.read_writeBytes_other _ _ _ _ (by rwa [length_toBytes])

theorem ofBytes_lt : ∀ l : List Byte, ofBytes l < 256 ^ l.length
  | [] => by simp [ofBytes]
  | b :: l => by
    have := ofBytes_lt l
    have := b.isLt
    rw [ofBytes, List.length_cons, Nat.pow_succ]
    omega

theorem Mem.readN_lt (m : Mem) (n a : Nat) : m.readN n a < 256 ^ n := by
  simpa [Mem.readN, Mem.readBytes] using ofBytes_lt (m.readBytes a n)

/-! ## The words of a record (R33) -/

section Record

variable (d : Dev) (i : Nat)

/-- A record stays where it is while DRAM alone changes. -/
@[simp] theorem Dev.recAddr_rput (w hi lo v j : Nat) : (d.rput i w hi lo v).recAddr j = d.recAddr j := rfl

theorem Dev.rword_lt (w : Nat) : d.rword i w < 2 ^ 64 := lt_of_lt_of_eq (d.dram.readN_lt 8 _) (by norm_num)

theorem Dev.rword_rput_same (w v : Nat) {hi lo : Nat} (h : lo ≤ hi) (h' : hi < 64) : (d.rput i w hi lo v).rword i w = setBits (d.rword i w) hi lo v := by
  have hlt : setBits (d.rword i w) hi lo v < 256 ^ 8 := lt_of_lt_of_eq (setBits_lt h h' (d.rword_lt i w)) (by norm_num)
  rw [Dev.rword, Dev.recAddr_rput, Dev.rput, Dev.dramWord, Dev.dramPutN_dram, Mem.readN_writeN_same, Nat.mod_eq_of_lt hlt]

theorem Dev.rword_rput_other {w x : Nat} (h : x ≠ w) (hi lo v : Nat) : (d.rput i w hi lo v).rword i x = d.rword i x := by
  rw [Dev.rword, Dev.recAddr_rput, Dev.rput, Dev.dramWord, Dev.dramPutN_dram, Mem.readN_writeN_apart (by omega), Dev.rword, Dev.dramWord]

theorem Dev.rget_rput_same (w v : Nat) {hi lo : Nat} (h : lo ≤ hi) (h' : hi < 64) : (d.rput i w hi lo v).rget i w hi lo = v % 2 ^ (hi + 1 - lo) := by
  rw [Dev.rget, d.rword_rput_same i w v h h', bits_setBits_same h]

theorem Dev.rget_rput_word {w x : Nat} (h : x ≠ w) (hi lo v hi' lo' : Nat) : (d.rput i w hi lo v).rget i x hi' lo' = d.rget i x hi' lo' := by
  rw [Dev.rget, d.rword_rput_other i h, Dev.rget]

theorem Dev.rget_rput_field (w v : Nat) {hi lo hi' lo' : Nat} (h : lo ≤ hi) (h' : hi < 64) (hd : hi' < lo ∨ hi < lo') :
    (d.rput i w hi lo v).rget i w hi' lo' = d.rget i w hi' lo' := by
  rw [Dev.rget, d.rword_rput_same i w v h h', bits_setBits_other h hd, Dev.rget]

theorem Dev.read_rput_apart {w a : Nat} (h : a < d.recAddr i + 8 * w ∨ d.recAddr i + 8 * w + 8 ≤ a) (hi lo v : Nat) :
    (d.rput i w hi lo v).dram.read a = d.dram.read a := by
  rw [Dev.rput, Dev.dramPutN_dram, Mem.read_writeN_apart h]

end Record

/-! ## A committed token (R144, R152) -/

/-- The token and the count of a commit. -/
def Dev.countToken (d : Dev) (i token : Nat) : Dev := (d.rput i 15 31 0 token).rput i 9 31 0 (d.sTokens i + 1)

theorem Dev.commitToken_none {d : Dev} {i : Nat} {x : Decided} (h : x.next = none) : d.commitToken i x = d.countToken i x.token := by
  rw [Dev.commitToken, h, Dev.countToken]

theorem Dev.commitToken_some {d : Dev} {i : Nat} {x : Decided} {g : Nat} (h : x.next = some g) :
    d.commitToken i x = (d.countToken i x.token).rput i 9 63 32 g := by
  rw [Dev.commitToken, h, Dev.countToken]

theorem Dev.countToken_token (d : Dev) (i token : Nat) : (d.countToken i token).rget i 15 31 0 = token % 2 ^ 32 := by
  rw [Dev.countToken, Dev.rget_rput_word _ _ (by decide), Dev.rget_rput_same _ _ _ _ (by decide) (by decide)]

theorem Dev.countToken_count (d : Dev) (i token : Nat) : (d.countToken i token).sTokens i = (d.sTokens i + 1) % 2 ^ 32 := by
  rw [Dev.sTokens, Dev.countToken, Dev.rget_rput_same _ _ _ _ (by decide) (by decide)]

theorem Dev.countToken_state (d : Dev) (i token : Nat) : (d.countToken i token).sGstate i = d.sGstate i := by
  rw [Dev.sGstate, Dev.countToken, Dev.rget_rput_field _ _ _ _ (by decide) (by decide) (by decide), Dev.rget_rput_word _ _ (by decide), Dev.sGstate]

theorem Dev.countToken_bytes (d : Dev) (i token : Nat) {a : Nat} (h9 : a < d.recAddr i + 72 ∨ d.recAddr i + 80 ≤ a)
    (h15 : a < d.recAddr i + 120 ∨ d.recAddr i + 128 ≤ a) : (d.countToken i token).dram.read a = d.dram.read a := by
  rw [Dev.countToken, Dev.read_rput_apart _ _ (by rw [Dev.recAddr_rput]; omega), Dev.read_rput_apart _ _ (by omega)]

theorem Dev.countToken_frame (d : Dev) (i token : Nat) : d.countToken i token = { d with dram := (d.countToken i token).dram } := rfl

/-- Settles O17: two or three writes of the record's words 9 and 15. -/
theorem tokenCommit : Obligations.TokenCommit := by
  intro d i x d'
  cases hnext : x.next with
  | none =>
    have hd' : d' = d.countToken i x.token := Dev.commitToken_none hnext
    rw [hd']
    exact ⟨d.countToken_token i _, d.countToken_count i _, fun g h => absurd h (by simp), fun _ => d.countToken_state i _,
      fun a h9 h15 => d.countToken_bytes i _ h9 h15, d.countToken_frame i _⟩
  | some g =>
    have hd' : d' = (d.countToken i x.token).rput i 9 63 32 g := Dev.commitToken_some hnext
    rw [hd']
    refine ⟨?_, ?_, fun g' h => ?_, fun h => absurd h (by simp), fun a h9 h15 => ?_, rfl⟩
    · rw [Dev.rget_rput_word _ _ (by decide), d.countToken_token i]
    · rw [Dev.sTokens, Dev.rget_rput_field _ _ _ _ (by decide) (by decide) (by decide)]
      exact d.countToken_count i _
    · obtain rfl := Option.some.inj h
      exact Dev.rget_rput_same _ _ _ _ (by decide) (by decide)
    · rw [Dev.read_rput_apart _ _ (by simp only [Dev.countToken, Dev.recAddr_rput]; omega), d.countToken_bytes i _ h9 h15]

end Sys2Proof.Machine

/-! # Choosing a token (R147) -/

namespace Sys2Proof.Machine

/-! ## Values that are not NaN, in a linear order -/

/-- The place of a value among the rationals and the two infinities; both zeros at one place. -/
def FVal.rank : FVal → WithBot (WithTop ℚ)
  | .nan => ⊥
  | .inf true => ⊥
  | .inf false => ((⊤ : WithTop ℚ) : WithBot (WithTop ℚ))
  | .fin n m e => (((if n then -(m : ℚ) else m) * 2 ^ e : ℚ) : WithTop ℚ)

theorem atExp_fin {e0 e : Int} (h : e0 ≤ e) (n : Bool) (m : Nat) : ((atExp e0 (.fin n m e) : Int) : ℚ) * 2 ^ e0 = (if n then -(m : ℚ) else m) * 2 ^ e := by
  obtain ⟨k, rfl⟩ := Int.le.dest h
  have hk : (e0 + (k : Int) - e0).toNat = k := by omega
  have hpow : (2 : ℚ) ^ (e0 + (k : Int)) = 2 ^ k * 2 ^ e0 := by rw [zpow_add₀ (by norm_num), zpow_natCast, mul_comm]
  rw [atExp, hk, hpow, Nat.shiftLeft_eq]
  cases n
  · simp [mul_assoc]
  · simp [mul_assoc]

theorem fcmp_fin_lt (n n' : Bool) (m m' : Nat) (e e' : Int) :
    fcmp (.fin n m e) (.fin n' m' e') = .lt ↔ (if n then -(m : ℚ) else m) * 2 ^ e < (if n' then -(m' : ℚ) else m') * 2 ^ e' := by
  have hpos : (0 : ℚ) < 2 ^ min e e' := by positivity
  rw [← atExp_fin (min_le_left e e') n m, ← atExp_fin (min_le_right e e') n' m', mul_lt_mul_iff_left₀ hpos, Int.cast_lt, ← Int.compare_eq_lt]
  rfl

theorem flt_iff {a b : FVal} (ha : a.isNan = false) (hb : b.isNan = false) : flt a b = true ↔ a.rank < b.rank := by
  have hflt : flt a b = true ↔ fcmp a b = .lt := by simp [flt, ha, hb]
  rw [hflt]
  cases a with
  | nan => exact absurd ha (by decide)
  | inf x =>
    cases b with
    | nan => exact absurd hb (by decide)
    | inf y => cases x <;> cases y <;> simp [fcmp, FVal.rank]
    | fin n m e => cases x <;> simp [fcmp, FVal.rank]
  | fin n m e =>
    cases b with
    | nan => exact absurd hb (by decide)
    | inf y =>
      cases y with
      | true => simp [fcmp, FVal.rank]
      | false => exact iff_of_true rfl (WithBot.coe_lt_coe.2 (WithTop.coe_lt_top _))
    | fin n' m' e' => rw [fcmp_fin_lt, FVal.rank, FVal.rank, WithBot.coe_lt_coe, WithTop.coe_lt_coe]

/-! ## The first of the greatest -/

/-- The better of two elements, the former among equals. -/
def better {α : Type} (lt : α → α → Bool) (x y : α) : α := if lt x y then y else x

/-- A fold that keeps the better element keeps the first of the greatest. -/
theorem foldl_better {α β : Type} [LinearOrder β] (lt : α → α → Bool) (key : α → β) : ∀ (xs : List α) (x : α),
    (∀ a ∈ x :: xs, ∀ b ∈ x :: xs, lt a b = true ↔ key a < key b) →
    ∃ pre y post, x :: xs = pre ++ y :: post ∧ xs.foldl (better lt) x = y ∧ (∀ z ∈ pre, key z < key y) ∧ ∀ z ∈ post, key z ≤ key y
  | [], x, _ => ⟨[], x, [], rfl, rfl, by simp, by simp⟩
  | a :: xs, x, hlt => by
    have hx : x ∈ x :: a :: xs := List.mem_cons_self
    have ha : a ∈ x :: a :: xs := List.mem_cons_of_mem _ List.mem_cons_self
    have hstep := hlt x hx a ha
    rw [List.foldl_cons, better]
    by_cases h : lt x a = true
    · obtain ⟨pre, y, post, hsplit, hfold, hpre, hpost⟩ := foldl_better lt key xs a fun u hu v hv =>
        hlt u (List.mem_cons_of_mem _ hu) v (List.mem_cons_of_mem _ hv)
      have hay : key a ≤ key y := by
        have hmem : a ∈ pre ++ y :: post := hsplit ▸ List.mem_cons_self
        rcases List.mem_append.1 hmem with hin | hin
        · exact (hpre a hin).le
        · rcases List.mem_cons.1 hin with rfl | hin
          · exact le_rfl
          · exact hpost a hin
      rw [if_pos h]
      exact ⟨x :: pre, y, post, by rw [hsplit, List.cons_append], hfold, List.forall_mem_cons.2 ⟨(hstep.1 h).trans_le hay, hpre⟩, hpost⟩
    · have hsub : ∀ u ∈ x :: xs, u ∈ x :: a :: xs := fun u hu => by
        rcases List.mem_cons.1 hu with rfl | hu
        · exact List.mem_cons_self
        · exact List.mem_cons_of_mem _ (List.mem_cons_of_mem _ hu)
      obtain ⟨pre, y, post, hsplit, hfold, hpre, hpost⟩ := foldl_better lt key xs x fun u hu v hv => hlt u (hsub u hu) v (hsub v hv)
      have hax : key a ≤ key x := not_lt.1 fun hlt' => h (hstep.2 hlt')
      rw [if_neg h]
      cases pre with
      | nil =>
        obtain ⟨rfl, rfl⟩ := List.cons.inj hsplit
        exact ⟨[], x, a :: xs, rfl, hfold, by simp, List.forall_mem_cons.2 ⟨hax, hpost⟩⟩
      | cons p pre =>
        obtain ⟨rfl, rfl⟩ := List.cons.inj hsplit
        have hxy := hpre x List.mem_cons_self
        refine ⟨x :: a :: pre, y, post, rfl, hfold, ?_, hpost⟩
        exact List.forall_mem_cons.2 ⟨hxy, List.forall_mem_cons.2 ⟨hax.trans_lt hxy, fun z hz => hpre z (List.mem_cons_of_mem _ hz)⟩⟩

/-- A split of the elements kept by a filter comes from one of the whole list. -/
theorem split_of_filter {α : Type} {p : α → Bool} {l pre post : List α} {y : α} (h : l.filter p = pre ++ y :: post) :
    ∃ pre' post', l = pre' ++ y :: post' ∧ (∀ z ∈ pre', p z = false ∨ z ∈ pre) ∧ ∀ z ∈ post', p z = false ∨ z ∈ post := by
  obtain ⟨l1, l2, rfl, hpre, hrest⟩ := List.filter_eq_append_iff.1 h
  obtain ⟨l3, l4, rfl, hskip, hy, hpost⟩ := List.filter_eq_cons_iff.1 hrest
  have hkept {l k : List α} (hk : l.filter p = k) {z : α} (hz : z ∈ l) : p z = false ∨ z ∈ k := by
    cases hp : p z with
    | false => exact .inl rfl
    | true => exact .inr (hk ▸ List.mem_filter.2 ⟨hz, hp⟩)
  refine ⟨l1 ++ l3, l4, (List.append_assoc ..).symm, fun z hz => ?_, fun z hz => hkept hpost hz⟩
  rcases List.mem_append.1 hz with hz | hz
  · exact hkept hpre hz
  · exact .inl (by simpa using hskip z hz)

/-! ## The special cases of the choice -/

section Choice

variable {lg : List (Nat × Nat)} {temp topK topP seed pos : Nat}

theorem chooseToken_nan (h : ∃ x ∈ lg, (dec32 x.2).isNan = true) : chooseToken lg temp topK topP seed pos = .outcome ocNonfinite :=
  if_pos (List.any_eq_true.2 h)

variable (hnan : ∀ x ∈ lg, (dec32 x.2).isNan = false)
include hnan

theorem not_any_nan : ¬ (lg.any (fun x => (dec32 x.2).isNan) = true) := by
  simpa using hnan

theorem chooseToken_empty (h : ∀ x ∈ lg, x.2 = negInf32) : chooseToken lg temp topK topP seed pos = .outcome ocEmptyMask := by
  have hnone : (lg.filter fun x => x.2 != negInf32) = [] := by simpa [List.filter_eq_nil_iff] using h
  rw [chooseToken, if_neg (not_any_nan hnan), hnone]

theorem chooseToken_posInf {x : Nat × Nat} (hx : x ∈ lg) (hinf : x.2 = posInf32) :
    ∃ y ∈ lg, y.2 = posInf32 ∧ chooseToken lg temp topK topP seed pos = .token y.1 := by
  have hmem : x ∈ lg.filter fun x => x.2 != negInf32 := List.mem_filter.2 ⟨hx, by rw [hinf]; decide⟩
  obtain ⟨y, hy⟩ := Option.isSome_iff_exists.1 (List.find?_isSome.2 ⟨x, hmem, by rw [hinf]; decide⟩ :
    ((lg.filter fun x => x.2 != negInf32).find? fun x => x.2 == posInf32).isSome)
  refine ⟨y, (List.mem_filter.1 (List.mem_of_find?_eq_some hy)).1, by simpa using List.find?_some hy, ?_⟩
  rw [chooseToken, if_neg (not_any_nan hnan)]
  dsimp only
  cases hl : lg.filter fun x => x.2 != negInf32 with
  | nil => rw [hl] at hmem; simp at hmem
  | cons a as =>
    rw [hl] at hy
    dsimp only
    rw [hy]

/-- With no infinity to take, a temperature of 0 or `TOP_K` 1 takes the fold's choice. -/
theorem chooseToken_greedy {a : Nat × Nat} {as : List (Nat × Nat)} (hl : (lg.filter fun x => x.2 != negInf32) = a :: as)
    (hfin : ∀ x ∈ lg, x.2 ≠ posInf32) (hgreedy : (dec32 temp).isZero = true ∨ topK = 1) :
    chooseToken lg temp topK topP seed pos = .token (as.foldl (better fun b y => lt32 b.2 y.2) a).1 := by
  have hnone : (a :: as).find? (fun x => x.2 == posInf32) = none := by
    rw [List.find?_eq_none]
    intro x hx
    have hin : x ∈ lg := (List.mem_filter.1 (hl ▸ hx)).1
    simpa using hfin x hin
  rw [chooseToken, if_neg (not_any_nan hnan), hl]
  dsimp only
  rw [hnone]
  dsimp only
  rw [if_pos hgreedy]
  rfl

theorem chooseToken_greatest (hsome : ∃ x ∈ lg, x.2 ≠ negInf32) (hfin : ∀ x ∈ lg, x.2 ≠ posInf32) (hgreedy : (dec32 temp).isZero = true ∨ topK = 1) :
    ∃ pre y post, lg = pre ++ y :: post ∧ chooseToken lg temp topK topP seed pos = .token y.1
      ∧ (∀ z ∈ pre, z.2 = negInf32 ∨ lt32 z.2 y.2 = true) ∧ ∀ z ∈ post, lt32 y.2 z.2 = false := by
  obtain ⟨x, hx, hne⟩ := hsome
  have hmem : x ∈ lg.filter fun x => x.2 != negInf32 := List.mem_filter.2 ⟨hx, by simpa using hne⟩
  obtain ⟨a, as, hl⟩ := List.exists_cons_of_ne_nil (List.ne_nil_of_mem hmem)
  have hin : ∀ z ∈ a :: as, z ∈ lg := fun z hz => (List.mem_filter.1 (hl ▸ hz)).1
  obtain ⟨pre, y, post, hsplit, hfold, hpre, hpost⟩ := foldl_better (fun b y : Nat × Nat => lt32 b.2 y.2) (fun z => (dec32 z.2).rank) as a
    fun u hu v hv => flt_iff (hnan u (hin u hu)) (hnan v (hin v hv))
  obtain ⟨pre', post', hlg, hpre', hpost'⟩ := split_of_filter (hl.trans hsplit)
  have hy : (dec32 y.2).isNan = false := hnan y (hlg ▸ List.mem_append_right _ List.mem_cons_self)
  refine ⟨pre', y, post', hlg, by rw [chooseToken_greedy hnan hl hfin hgreedy, hfold], fun z hz => ?_, fun z hz => ?_⟩
  · have hz' := hnan z (hlg ▸ List.mem_append_left _ hz)
    exact (hpre' z hz).imp (fun h => by simpa using h) fun h => (flt_iff hz' hy).2 (hpre z h)
  · have hz' := hnan z (hlg ▸ List.mem_append_right _ (List.mem_cons_of_mem _ hz))
    have hrank : (dec32 z.2).rank ≤ (dec32 y.2).rank := by
      rcases hpost' z hz with h | h
      · have hinf : z.2 = negInf32 := by simpa using h
        have hbot : (dec32 negInf32).rank = ⊥ := by
          have : dec32 negInf32 = .inf true := by decide
          rw [this, FVal.rank]
        rw [hinf, hbot]
        exact bot_le
      · exact hpost z h
    exact Bool.eq_false_iff.2 fun h => absurd ((flt_iff hy hz').1 h) (not_lt.2 hrank)

end Choice

/-- Settles O18, case by case. -/
theorem chooseToken_cases : Obligations.ChooseToken := by
  intro lg temp topK topP seed pos _
  exact ⟨chooseToken_nan, fun hnan => ⟨chooseToken_empty hnan, fun _ hx hinf => chooseToken_posInf hnan hx hinf,
    fun hsome hfin hgreedy => chooseToken_greatest hnan hsome hfin hgreedy⟩⟩

end Sys2Proof.Machine

/-! # The pair: liveness, takeovers and admission (chapter 14) -/

namespace Sys2Proof.Machine

/-! ## Messages heard (R264) -/

section Heard

variable {d : Dev} {m : Ctrl} {node : Nat} {go : Dev → Dev}

theorem Dev.hear_taken (h : d.hears (pairOf m) node = true) : d.hear m node go = go (d.took m node) := if_pos h

theorem Dev.hear_dropped (h : d.hears (pairOf m) node = false) : d.hear m node go = d.bump Fld.FAB_STAT0_NOQP := if_neg (by simp [h])

end Heard

/-! ## Takeovers (R335, R339) -/

section Takeovers

variable {s : State} (halive : s.dev.alive = true)
include halive

theorem exec_autoTakeover {t : BitVec 64} {a : Nat} (hsilent : (s.dev.advanceTo t.toNat).pair.silentAt = some a)
    (hmay : (s.dev.advanceTo t.toNat).mayTake = true) (hauto : (s.dev.advanceTo t.toNat).flag Fld.PAIR_CFG_AUTO = true)
    (hlong : a + (s.dev.advanceTo t.toNat).get Fld.PAIR_CFG_AUTO_MS * 1000000 ≤ (s.dev.advanceTo t.toNat).ns)
    (hfm : (s.dev.advanceTo t.toNat).pair.fmAt + (s.dev.advanceTo t.toNat).get Fld.PAIR_CFG_AUTO_MS * 1000000 ≤ (s.dev.advanceTo t.toNat).ns) :
    let d := s.dev.advanceTo t.toNat
    exec (.autoTakeover t) s = .next (s.settled (d.takeover ((d.peerEpoch (d.get Fld.PAIR_CFG_TWIN) + 1) % 2 ^ 32))) := by
  intro d
  show execAutoTakeover t s = _
  refine onHall_settled halive ?_
  dsimp only
  rw [hsilent]
  exact if_neg (by simp [hmay, hauto, hlong, hfm])

variable {sender node : BitVec 16} {epoch senderEpoch : BitVec 32} {listed : Bool}

theorem exec_takeoverNotice_heard (hhears : s.dev.hears 8 sender.toNat = true) :
    let d := s.dev.took (.notice node.toNat epoch.toNat) sender.toNat
    exec (.takeoverNotice sender node epoch senderEpoch listed) s = .next (s.settled
      (if listed ∧ d.epochOk sender.toNat senderEpoch.toNat ∧ d.peerEpoch node.toNat < epoch.toNat then d.peerPut node.toNat epoch.toNat true else d)) := by
  intro d
  show execTakeoverNotice sender node epoch senderEpoch listed s = _
  exact onHall_settled halive (Dev.hear_taken hhears)

theorem exec_takeoverNotice_dropped (hhears : s.dev.hears 8 sender.toNat = false) :
    exec (.takeoverNotice sender node epoch senderEpoch listed) s = .next (s.settled (s.dev.bump Fld.FAB_STAT0_NOQP)) := by
  show execTakeoverNotice sender node epoch senderEpoch listed s = _
  exact onHall_settled halive (Dev.hear_dropped hhears)

end Takeovers

/-! ## SEQ_HOT (R334) -/

/-- The entries of a record's named layers. -/
def Dev.hotEntries (d : Dev) (e : Entry) : List Nat := (d.usedEntries (hIndex (u32 e 16))).filter (d.inLayers (hIndex (u32 e 16)) (u8 e 20) (u8 e 21))

/-- A page marked, and the number of pages changed. -/
def markOne (set : Bool) (r : Dev × Nat) (p : Nat) : Dev × Nat := if (r.1.page p).hot = set then r else (r.1.markHot p set, r.2 + 1)

section SeqHot

variable {s : State} {c : CmdId} {k : RunCmd} (halive : s.dev.alive = true) (hact : s.dev.act c opSeqHot = some k)
include halive hact

theorem exec_seqHot_handle (hst : s.dev.checkHandle (u32 k.entry 16) k.tenant k.order ≠ stOK) :
    exec (.seqHot c) s = .next (s.settled (s.dev.endCmd k s.dev.pair.next (s.dev.checkHandle (u32 k.entry 16) k.tenant k.order) [])) := by
  show execSeqHot c s = _
  refine onHall_settled halive ?_
  rw [hact]
  exact if_pos hst

variable (hst : s.dev.checkHandle (u32 k.entry 16) k.tenant k.order = stOK)
include hst

theorem exec_seqHot_fields (h : s.dev.rLayers (hIndex (u32 k.entry 16)) < u8 k.entry 20 + u8 k.entry 21 ∨ 1 < u8 k.entry 22) :
    exec (.seqHot c) s = .next (s.settled (s.dev.endCmd k s.dev.pair.next stAborted [])) := by
  show execSeqHot c s = _
  refine onHall_settled halive ?_
  rw [hact]
  exact (if_neg (not_not.2 hst)).trans (if_pos h)

variable (hlayers : u8 k.entry 20 + u8 k.entry 21 ≤ s.dev.rLayers (hIndex (u32 k.entry 16))) (hset : u8 k.entry 22 ≤ 1)
include hlayers hset

theorem exec_seqHot_stale {r : PEntry} (hstale : ((s.dev.hotEntries k.entry).map (s.dev.entry (hIndex (u32 k.entry 16)))).find? s.dev.staleRef = some r) :
    exec (.seqHot c) s = .next (s.settled ((s.dev.tagMismatch mMover r.page r.vtag).endCmd k s.dev.pair.next stAborted [])) := by
  rw [Dev.hotEntries] at hstale
  show execSeqHot c s = _
  refine onHall_settled halive ?_
  rw [hact]
  dsimp only
  rw [if_neg (not_not.2 hst), if_neg (by omega), hstale]

theorem exec_seqHot_done (hfresh : ∀ x ∈ s.dev.hotEntries k.entry, s.dev.staleRef (s.dev.entry (hIndex (u32 k.entry 16)) x) = false) :
    let r := ((((s.dev.hotEntries k.entry).map (s.dev.entry (hIndex (u32 k.entry 16)))).filter fun r => r.loc == 1).map (·.page)).foldl
      (markOne (u8 k.entry 22 == 1)) (s.dev.touch (hIndex (u32 k.entry 16)), 0)
    exec (.seqHot c) s = .next (s.settled (r.1.endCmd k s.dev.pair.next stOK [r.2])) := by
  intro r
  have hnone : ((s.dev.hotEntries k.entry).map (s.dev.entry (hIndex (u32 k.entry 16)))).find? s.dev.staleRef = none := by
    simpa [List.find?_eq_none] using hfresh
  rw [Dev.hotEntries] at hnone
  show execSeqHot c s = _
  refine onHall_settled halive ?_
  rw [hact]
  dsimp only
  rw [if_neg (not_not.2 hst), if_neg (by omega), hnone]
  rfl

end SeqHot

/-- Settles O45: the automatic takeover, the notices, then `SEQ_HOT`. -/
theorem takeovers : Obligations.Takeovers := by
  intro s halive
  refine ⟨fun t a hsilent hmay hauto hlong hfm => exec_autoTakeover halive hsilent hmay hauto hlong hfm, fun sender node epoch senderEpoch => ?_, fun c k => ?_⟩
  · intro d
    refine ⟨fun hhears => ⟨fun hok hnew => ?_, fun hnot => ?_, ?_⟩, fun hhears listed => exec_takeoverNotice_dropped halive hhears⟩
    · rw [exec_takeoverNotice_heard halive hhears, if_pos ⟨rfl, hok, hnew⟩]
    · rw [exec_takeoverNotice_heard halive hhears, if_neg fun h => ?_]
      obtain hbad | hold := hnot
      · exact absurd h.2.1 (by simp [d, hbad])
      · exact absurd h.2.2 (not_lt.2 hold)
    · rw [exec_takeoverNotice_heard halive hhears, if_neg fun h => absurd h.1 (by decide)]
  · intro d e i st xs hact
    refine ⟨exec_seqHot_handle halive hact, exec_seqHot_fields halive hact, fun r hst hlayers hset hstale => exec_seqHot_stale halive hact hst hlayers hset hstale,
      fun x hst hlayers hset hxs hfresh hloc => ?_, fun hst hlayers hset hfresh hloc => ?_⟩
    · intro d1 p set
      have hxs' : d.hotEntries e = [x] := hxs
      have hdone := exec_seqHot_done halive hact hst hlayers hset (by
        intro y hy
        have hy' : y ∈ d.hotEntries e := hy
        rw [hxs', List.mem_singleton] at hy'
        rw [hy']
        exact hfresh)
      have hps : (((d.hotEntries e).map (d.entry i)).filter fun r => r.loc == 1).map (·.page) = [p] := by
        rw [hxs', List.map_singleton, List.filter_cons_of_pos (by simp [hloc]), List.filter_nil, List.map_singleton]
      refine ⟨fun hne => hdone.trans ?_, fun heq => hdone.trans ?_⟩
      · rw [hps, List.foldl_cons, List.foldl_nil, markOne, if_neg hne]
      · rw [hps, List.foldl_cons, List.foldl_nil, markOne, if_pos heq]
    · have hps : (((d.hotEntries e).map (d.entry i)).filter fun r => r.loc == 1) = [] := by
        simp only [List.filter_eq_nil_iff, List.mem_map]
        rintro r ⟨x, hx, rfl⟩
        simpa using hloc x hx
      refine (exec_seqHot_done halive hact hst hlayers hset hfresh).trans ?_
      rw [hps]
      rfl

/-! ## Admission (R342 to R345) -/

section Admission

variable {s : State} (halive : s.dev.alive = true)
include halive

theorem exec_spareTestDone (hadm : s.dev.adm = admTesting) (pass : Bool) :
    exec (.spareTestDone pass) s = .next (s.settled (if !pass then (s.dev.setAdm admFailed).logAdm else if s.dev.flag Fld.PAIR_ADMIT_LOADER then s.dev.startLoad
      else ({ s.dev with pair := { s.dev.pair.renumber with returned := [] } } : Dev).setAdm admLoading)) := by
  show execSpareTestDone pass s = _
  exact onHall_settled halive (if_neg (not_not.2 hadm))

variable (src : BitVec 16) (ph : BitVec 32) (i : BitVec 15) (ws hs : List Word) (pages : List XferPage) (rows : List Byte)

theorem exec_admissionRecordLoad_heard (hhears : s.dev.hears 12 src.toNat = true) :
    let d := s.dev.took (.load ph.toNat i.toNat ws hs pages rows) src.toNat
    exec (.admissionRecordLoad src ph i ws hs pages rows) s
      = .next (s.settled (if !d.spare ∨ d.adm ≠ admLoading then d else d.placeReturned ph.toNat i.toNat ws hs pages rows)) := by
  intro d
  show execAdmissionRecordLoad src ph i ws hs pages rows s = _
  exact onHall_settled halive (Dev.hear_taken hhears)

theorem exec_admissionRecordLoad_dropped (hhears : s.dev.hears 12 src.toNat = false) :
    exec (.admissionRecordLoad src ph i ws hs pages rows) s = .next (s.settled (s.dev.bump Fld.FAB_STAT0_NOQP)) := by
  show execAdmissionRecordLoad src ph i ws hs pages rows s = _
  exact onHall_settled halive (Dev.hear_dropped hhears)

theorem exec_admissionLoadDone (hadm : s.dev.adm = admLoading)
    (hcovered : s.dev.flag Fld.PAIR_ADMIT_LOADER = false ∨ (s.dev.pair.syncTo ≤ s.dev.pair.acked ∧ s.dev.pair.short = false)) :
    exec .admissionLoadDone s = .next (s.settled (s.dev.setAdm admReady)) := by
  show execAdmissionLoadDone s = _
  refine onHall_settled halive ?_
  rw [if_neg (not_not.2 hadm), if_neg]
  rintro ⟨hloader, hopen⟩
  obtain hnot | ⟨hacked, hshort⟩ := hcovered
  · exact absurd hloader (by simp [hnot])
  · exact absurd hopen (by simp [hshort, hacked])

theorem exec_admissionHandover (hadm : s.dev.adm ≠ admLoading) :
    exec .admissionHandover s = .next (s.settled (if !s.dev.handoverDue then s.dev else
      (if s.dev.flag Fld.PAIR_ADMIT_LOADER then s.dev.handOver else s.dev.takeOver).trafficCatch)) := by
  show execAdmissionHandover s = _
  refine onHall_settled halive ?_
  dsimp only
  rw [Dev.missAdmission_unless hadm]

end Admission

/-- Settles O46, stage by stage. -/
theorem admission : Obligations.Admission := by
  intro s halive d
  refine ⟨fun hadm => ⟨?_, fun hloader => ?_, fun hloader => ?_⟩, fun src ph i ws hs pages rows => ?_, fun hadm hcovered => exec_admissionLoadDone halive hadm hcovered,
    fun hadm hhanding => ?_, fun hadm hhanding => ?_⟩
  · rw [exec_spareTestDone halive hadm, if_pos (by decide)]
  · rw [exec_spareTestDone halive hadm, if_neg (by decide), if_pos hloader]
  · rw [exec_spareTestDone halive hadm, if_neg (by decide), if_neg (by simp [hloader, d])]
  · intro d1
    refine ⟨fun hhears hspare hloading => ?_, fun hhears hnot => ?_, exec_admissionRecordLoad_dropped halive src ph i ws hs pages rows⟩
    · rw [exec_admissionRecordLoad_heard halive src ph i ws hs pages rows hhears, if_neg ?_]
      rintro (h | h)
      · exact Bool.noConfusion (hspare.symm.trans (Bool.not_eq_true' _ ▸ h))
      · exact h hloading
    · rw [exec_admissionRecordLoad_heard halive src ph i ws hs pages rows hhears, if_pos (hnot.imp_left (Bool.not_eq_true' _).mpr)]
  · have hready : d.adm ≠ admLoading := by rw [hadm]; decide
    refine ⟨fun hloader => ?_, fun hloader hcmds => ?_⟩
    · have hdue : d.handoverDue = true := by simp [Dev.handoverDue, hhanding, hloader]
      rw [exec_admissionHandover halive hready, if_neg (by simp [hdue, d]), if_neg (by simp [hloader, d])]
    · have hdue : d.handoverDue = true := by simp [Dev.handoverDue, hhanding, hcmds]
      rw [exec_admissionHandover halive hready, if_neg (by simp [hdue, d]), if_pos hloader]
  · have hdue : d.handoverDue = false := by simp [Dev.handoverDue, hhanding]
    rw [exec_admissionHandover halive hadm, if_pos (by simp [hdue, d])]

end Sys2Proof.Machine

/-! # The pair: indications and mirror messages (chapter 14) -/

namespace Sys2Proof.Machine

/-! ## The indications (R326) -/

/-- Messages sent again only wait for spraying. -/
theorem foldl_ctrl_frame (msgs : List MirrorMsg) : ∀ d : Dev, ∃ spray, msgs.foldl (fun (d : Dev) m => d.ctrl d.mirrorNode (.mirror m)) d = { d with spray := spray } := by
  induction msgs with
  | nil => exact fun d => ⟨d.spray, rfl⟩
  | cons m msgs ih =>
    intro d
    obtain ⟨spray, h⟩ := d.ctrlAs_frame d.mirrorNode d.node (.mirror m)
    obtain ⟨spray', h'⟩ := ih (d.ctrl d.mirrorNode (.mirror m))
    rw [List.foldl_cons, h', Dev.ctrl, h]
    exact ⟨spray', rfl⟩

theorem Dev.judge_keeps (d : Dev) : d.judge.regs = d.regs ∧ d.judge.dram = d.dram ∧ d.judge.watches = d.watches := ⟨rfl, rfl, rfl⟩

/-- The link judged up: no silence is measured. -/
theorem Dev.judge_up {d : Dev} (h : d.flag Fld.PAIR_STAT_LINK_UP = true) : d.judge = { d with pair := { d.pair with silentAt := none } } := by
  rw [Dev.judge, h]
  rfl

/-- The link seen up. -/
def Dev.linkSeen (d : Dev) : Dev := ({ d with pair := { d.pair with twinAt := d.ns } } : Dev).put Fld.PAIR_STAT_LINK_UP 1

theorem Dev.linkSeen_keeps (d : Dev) :
    d.linkSeen.pair.twinAt = d.ns ∧ d.linkSeen.dram = d.dram ∧ d.linkSeen.watches = d.watches ∧ d.linkSeen.flag Fld.PAIR_STAT_LINK_UP = true
      ∧ Dev.sameRegsBut [Reg.PAIR_STAT.base] d d.linkSeen := by
  rw [Dev.linkSeen]
  refine ⟨?_, Dev.put_dram .., Dev.put_watches .., Dev.flag_put_one _ _ _ _ (by decide) (by decide), ?_⟩
  · rw [Dev.put_pair]
  · exact Dev.sameRegsBut_put (fun _ _ _ => rfl) Fld.PAIR_STAT_LINK_UP 1 0 0 (by decide)

/-- A packet of the twin shows the link up (R326). -/
theorem Dev.heardTwin_up {d : Dev} {src : Nat} (hsrc : src = d.get Fld.PAIR_CFG_TWIN) (hpair : d.pairState ≠ psSolo) :
    ∃ spray, d.heardTwin src = { d.linkSeen with pair := { d.linkSeen.pair with silentAt := none }, spray := spray } := by
  obtain ⟨-, -, -, hup, -⟩ := d.linkSeen_keeps
  rw [Dev.heardTwin, if_neg (by simp [hpair, hsrc])]
  dsimp only
  rw [← Dev.linkSeen, Dev.judge_up hup]
  generalize d.linkSeen = d2
  split
  · exact foldl_ctrl_frame _ _
  · exact ⟨_, rfl⟩

theorem Dev.heardTwin_reads {d : Dev} {src : Nat} (hsrc : src = d.get Fld.PAIR_CFG_TWIN) (hpair : d.pairState ≠ psSolo) :
    (d.heardTwin src).flag Fld.PAIR_STAT_LINK_UP = true ∧ (d.heardTwin src).pair.twinAt = d.ns ∧ (d.heardTwin src).pair.silentAt = none
      ∧ Dev.sameRegsBut [Reg.PAIR_STAT.base] d (d.heardTwin src) ∧ (d.heardTwin src).dram = d.dram ∧ (d.heardTwin src).watches = d.watches := by
  obtain ⟨spray, hheard⟩ := Dev.heardTwin_up hsrc hpair
  obtain ⟨hat, hdram, hwatch, hup, hsame⟩ := d.linkSeen_keeps
  rw [hheard]
  generalize d.linkSeen = d2 at *
  exact ⟨hup, hat, rfl, Dev.sameRegsBut_of_regs hsame rfl, hdram, hwatch⟩

theorem Dev.heardTwin_other {d : Dev} {src : Nat} (h : src ≠ d.get Fld.PAIR_CFG_TWIN ∨ d.pairState = psSolo) : d.heardTwin src = d :=
  if_pos h.symm

section Indications

variable {s : State} {t : BitVec 64} (halive : s.dev.alive = true)
include halive

theorem exec_pairHeartbeatSend (hdue : (s.dev.advanceTo t.toNat).pair.hbAt + (s.dev.advanceTo t.toNat).hbNs ≤ (s.dev.advanceTo t.toNat).ns) :
    let d := s.dev.advanceTo t.toNat
    let e := if d.pairState = psSolo ∨ d.pair.sentSince then d else d.ctrl (d.get Fld.PAIR_CFG_TWIN) .heartbeat
    exec (.pairHeartbeatSend t) s = .next (s.settled { e with pair := { e.pair with hbAt := e.ns, sentSince := false } }) := by
  intro d e
  show execPairHeartbeatSend t s = _
  exact onHall_settled halive (if_neg (not_lt.2 hdue))

theorem exec_heartbeat_heard {src : BitVec 16} (hhears : (s.dev.advanceTo t.toNat).hears 8 src.toNat = true) :
    exec (.heartbeatCtrlPacket src t) s = .next (s.settled (((s.dev.advanceTo t.toNat).took .heartbeat src.toNat).heardTwin src.toNat)) := by
  show execHeartbeatCtrlPacket src t s = _
  exact onHall_settled halive (Dev.hear_taken hhears)

theorem exec_heartbeat_dropped {src : BitVec 16} (hhears : (s.dev.advanceTo t.toNat).hears 8 src.toNat = false) :
    exec (.heartbeatCtrlPacket src t) s = .next (s.settled ((s.dev.advanceTo t.toNat).bump Fld.FAB_STAT0_NOQP)) := by
  show execHeartbeatCtrlPacket src t s = _
  exact onHall_settled halive (Dev.hear_dropped hhears)

theorem exec_heartbeat_twin {src : BitVec 16} (hhears : (s.dev.advanceTo t.toNat).hears 8 src.toNat = true)
    (hsrc : src.toNat = ((s.dev.advanceTo t.toNat).took .heartbeat src.toNat).get Fld.PAIR_CFG_TWIN)
    (hpair : ((s.dev.advanceTo t.toNat).took .heartbeat src.toNat).pairState ≠ psSolo)
    (hwatch : ((s.dev.advanceTo t.toNat).took .heartbeat src.toNat).watches = []) :
    let d1 := (s.dev.advanceTo t.toNat).took .heartbeat src.toNat
    ∃ t' : State, exec (.heartbeatCtrlPacket src t) s = .next t' ∧ t'.dev.flag Fld.PAIR_STAT_LINK_UP = true ∧ t'.dev.pair.twinAt = d1.ns
      ∧ t'.dev.pair.silentAt = none ∧ Dev.sameRegsBut [Reg.PAIR_STAT.base] d1 t'.dev ∧ t'.dev.dram = d1.dram := by
  intro d1
  obtain ⟨hup, hat, hquiet, hsame, hdram, hwatch'⟩ := Dev.heardTwin_reads hsrc hpair
  exact ⟨_, (exec_heartbeat_heard halive hhears).trans (congrArg Host.Outcome.next (State.settled_calm s (hwatch'.trans hwatch))), hup, hat, hquiet, hsame, hdram⟩

theorem exec_linkUpTimeout (hup : (s.dev.advanceTo t.toNat).flag Fld.PAIR_STAT_LINK_UP = true)
    (hsilent : (s.dev.advanceTo t.toNat).pair.twinAt + atLeast1 ((s.dev.advanceTo t.toNat).get Fld.PAIR_CFG_HB_MISS) * (s.dev.advanceTo t.toNat).hbNs
      ≤ (s.dev.advanceTo t.toNat).ns) :
    exec (.linkUpTimeout t) s = .next (s.settled (((s.dev.advanceTo t.toNat).put Fld.PAIR_STAT_LINK_UP 0).bump Fld.PAIR_CNT_LINK_LOSS).judge) := by
  show execLinkUpTimeout t s = _
  exact onHall_settled halive (if_neg (by simp [hup, hsilent]))

theorem exec_peerMgmtTimeout (hup : (s.dev.advanceTo t.toNat).flag Fld.PAIR_STAT_PEER_MGMT = true)
    (hsilent : (s.dev.advanceTo t.toNat).pair.peerAt + mgmtSilence ≤ (s.dev.advanceTo t.toNat).ns) :
    exec (.peerMgmtTimeout t) s = .next (s.settled ((s.dev.advanceTo t.toNat).put Fld.PAIR_STAT_PEER_MGMT 0).judge) := by
  show execPeerMgmtTimeout t s = _
  exact onHall_settled halive (if_neg (by simp [hup, hsilent]))

theorem exec_mgmtHeartbeatSend (hdue : (s.dev.advanceTo t.toNat).pair.mgmtHbAt + mgmtPeriod ≤ (s.dev.advanceTo t.toNat).ns) :
    let d := s.dev.advanceTo t.toNat
    exec (.mgmtHeartbeatSend t) s = .next (s.settled (({ d with pair := { d.pair with mgmtHbAt := d.ns } } : Dev).emit .mgmtHeartbeat)) := by
  intro d
  show execMgmtHeartbeatSend t s = _
  exact onHall_settled halive (if_neg (not_lt.2 hdue))

theorem exec_mgmtLinkState (up : Bool) :
    let d := s.dev.advanceTo t.toNat
    exec (.mgmtLinkState up t) s = .next (s.settled
      ((({ d with pair := { d.pair with linkUp := up } } : Dev).put Fld.PAIR_STAT_MGMT_UP (if up && d.othersHeard then 1 else 0)).judge)) := by
  intro d
  have hothers : ({ d with pair := { d.pair with linkUp := up } } : Dev).othersHeard = d.othersHeard := rfl
  show execMgmtLinkState up t s = _
  refine onHall_settled halive ?_
  dsimp only
  rw [Dev.mgmtJudge, hothers]

theorem exec_mgmtUpTimeout :
    let d := s.dev.advanceTo t.toNat
    exec (.mgmtUpTimeout t) s = .next (s.settled ((d.put Fld.PAIR_STAT_MGMT_UP (if d.pair.linkUp && d.othersHeard then 1 else 0)).judge)) := by
  intro d
  show execMgmtUpTimeout t s = _
  exact onHall_settled halive rfl

end Indications

/-- The link judged lost and counted. -/
theorem Dev.linkLost_reads (d : Dev) :
    let e := ((d.put Fld.PAIR_STAT_LINK_UP 0).bump Fld.PAIR_CNT_LINK_LOSS).judge
    e.flag Fld.PAIR_STAT_LINK_UP = false ∧ e.get Fld.PAIR_CNT_LINK_LOSS = min Fld.PAIR_CNT_LINK_LOSS.max (d.get Fld.PAIR_CNT_LINK_LOSS + 1)
      ∧ Dev.sameRegsBut [Reg.PAIR_STAT.base, Reg.PAIR_CNT.base] d e ∧ e.dram = d.dram ∧ e.watches = d.watches := by
  intro e
  obtain ⟨hregs, hdram, hwatch⟩ := ((d.put Fld.PAIR_STAT_LINK_UP 0).bump Fld.PAIR_CNT_LINK_LOSS).judge_keeps
  refine ⟨?_, ?_, ?_, hdram.trans ?_, hwatch.trans ?_⟩
  · rw [Dev.flag, Dev.get_of_regs hregs, Dev.bump, Dev.get_put_beside _ (by decide), Dev.get_put_same _ _ _ _ _ (by decide) (by decide)]
    rfl
  · rw [Dev.get_of_regs hregs, Dev.get_bump_same _ _ _ _ _ (by decide) (by decide), Dev.get_put_beside _ (by decide)]
  · refine Dev.sameRegsBut_of_regs ?_ hregs
    exact Dev.sameRegsBut_put (Dev.sameRegsBut_put (Dev.sameRegsBut_refl _ d) Fld.PAIR_STAT_LINK_UP 0 0 0 (by decide)) Fld.PAIR_CNT_LINK_LOSS _ 0 0 (by decide)
  · rw [Dev.bump_dram, Dev.put_dram]
  · rw [Dev.bump_watches, Dev.put_watches]

/-- Settles O44, row by row. -/
theorem liveness : Obligations.Liveness := by
  intro s t halive d
  refine ⟨fun hdue => ⟨fun hpair hquiet => ?_, fun hnot => ?_⟩, fun src => ?_, fun hup hsilent hwatch => ?_, exec_mgmtHeartbeatSend halive,
    exec_peerMgmtTimeout halive, exec_mgmtLinkState halive, exec_mgmtUpTimeout halive⟩
  · rw [exec_pairHeartbeatSend halive hdue, if_neg (not_or.2 ⟨hpair, ?_⟩)]
    exact fun h => Bool.noConfusion (hquiet.symm.trans h)
  · rw [exec_pairHeartbeatSend halive hdue, if_pos hnot]
  · intro d1
    refine ⟨fun hhears hsrc hpair hwatch => exec_heartbeat_twin halive hhears hsrc hpair hwatch, fun hhears hnot => ?_, exec_heartbeat_dropped halive⟩
    rw [exec_heartbeat_heard halive hhears, Dev.heardTwin_other hnot]
  · obtain ⟨hdown, hcount, hsame, hdram, hwatch'⟩ := d.linkLost_reads
    have hcalm : d.watches = [] := Dev.advance_watches_nil hwatch _
    exact ⟨_, (exec_linkUpTimeout halive hup hsilent).trans (congrArg Host.Outcome.next (State.settled_calm s (hwatch'.trans hcalm))), hdown, hcount, hsame, hdram⟩

end Sys2Proof.Machine

/-! # Mirror messages and their acknowledgements (R331, R332) -/

namespace Sys2Proof.Machine

section Messages

variable {s : State} (halive : s.dev.alive = true) {src : BitVec 16}
include halive

/-- What a mirror message comes to on the device that heard it. -/
def Dev.mirrorHeard (d : Dev) (src : Nat) (m : MirrorMsg) : Dev :=
  if d.takesMirror ∧ src = d.mirrorNode then (if m.number.toNat ≤ d.pair.applied then d else d.keepAhead m).takeAhead
  else if d.keepsMirror src then
    if m.number = 1 then ({ d with pair := { d.pair with ahead := [], aheadFrom := src } } : Dev).keepAhead m
    else if src = d.pair.aheadFrom then d.keepAhead m
    else d
  else d

theorem exec_mirrorMessage_heard {m : MirrorMsg} (hhears : s.dev.hears 8 src.toNat = true) :
    exec (.mirrorMessage src m) s = .next (s.settled (((s.dev.took (.mirror m) src.toNat).heardTwin src.toNat).mirrorHeard src.toNat m)) := by
  show execMirrorMessage src m s = _
  exact onHall_settled halive (Dev.hear_taken hhears)

theorem exec_mirrorMessage_dropped {m : MirrorMsg} (hhears : s.dev.hears 8 src.toNat = false) :
    exec (.mirrorMessage src m) s = .next (s.settled (s.dev.bump Fld.FAB_STAT0_NOQP)) := by
  show execMirrorMessage src m s = _
  exact onHall_settled halive (Dev.hear_dropped hhears)

/-- What an acknowledgement covers taken off (R331, R332). -/
def Dev.ackCovered (d : Dev) (number skips : Nat) (short : Bool) : Dev :=
  let n := min number (d.pair.next - 1)
  let p := { d.pair with acked := max d.pair.acked n, unacked := d.pair.unacked.filter fun m => decide (n < m.number.toNat), short := short }
  let d := if short && !d.pair.short then d.emit (.mgmtReport 1) else d
  ({ d with pair := p } : Dev).bump Fld.PAIR_CNT_PAGE_SKIP skips

/-- SYNCING ended once the first copy is covered (R327). -/
def Dev.endSync (d : Dev) : Dev :=
  if d.pairState = psSyncing ∧ d.pair.syncTo ≤ d.pair.acked ∧ !d.pair.short then d.setPairState psPaired else d

/-- What an acknowledgement comes to on the device that heard it. -/
def Dev.ackHeard (d : Dev) (src number skips : Nat) (short : Bool) : Dev :=
  if !d.sendsMirror ∨ src ≠ d.mirrorNode then d
  else
    let d := d.ackCovered number skips short
    (Dev.sendWaiting d.pair.unsent d).endSync.unhold

theorem exec_mirrorAck_heard {number : BitVec 64} {skips : BitVec 16} {short : Bool} (hhears : s.dev.hears 8 src.toNat = true) :
    exec (.mirrorAck src number skips short) s = .next (s.settled
      (((s.dev.took (.mirrorAck number.toNat skips.toNat short) src.toNat).heardTwin src.toNat).ackHeard src.toNat number.toNat skips.toNat short)) := by
  show execMirrorAck src number skips short s = _
  exact onHall_settled halive (Dev.hear_taken hhears)

theorem exec_mirrorAck_dropped {number : BitVec 64} {skips : BitVec 16} {short : Bool} (hhears : s.dev.hears 8 src.toNat = false) :
    exec (.mirrorAck src number skips short) s = .next (s.settled (s.dev.bump Fld.FAB_STAT0_NOQP)) := by
  show execMirrorAck src number skips short s = _
  exact onHall_settled halive (Dev.hear_dropped hhears)

end Messages

/-! ## Where nothing waits -/

/-- With nothing held, waiting or committed, nothing becomes visible. -/
theorem Dev.unhold_nothing {d : Dev} (hheld : d.held = []) (hgroups : d.groups = []) (hcommitted : d.committed = []) :
    d.unhold = { d with committed := [] } := by
  have hrelease : d.release = d := by rw [Dev.release, hheld, List.length_nil, Dev.flushHeld]
  have htell : d.tellCommits = { d with committed := [] } := by
    rw [Dev.tellCommits, hcommitted]
    rfl
  have hgroups' : ({ d with committed := [] } : Dev).groups = [] := hgroups
  rw [Dev.unhold, hrelease, htell, Dev.releaseGroups, hgroups']
  rfl

/-- The pair once every message up to number `n` is acknowledged in full. -/
def Pair.covered (p : Pair) (n : Nat) : Pair :=
  { p with acked := max p.acked n, unacked := p.unacked.filter (fun m => decide (n < m.number.toNat)), short := false }

/-- An acknowledgement counts the pages skipped, and covers every message up to its number. -/
theorem Dev.ackCovered_reads (d : Dev) (number skips : Nat) :
    let e := d.ackCovered number skips false
    let n := min number (d.pair.next - 1)
    e.pair = d.pair.covered n
      ∧ e.get Fld.PAIR_CNT_PAGE_SKIP = min Fld.PAIR_CNT_PAGE_SKIP.max (d.get Fld.PAIR_CNT_PAGE_SKIP + skips) ∧ e.pairState = d.pairState
      ∧ e.held = d.held ∧ e.groups = d.groups ∧ e.committed = d.committed ∧ e.watches = d.watches ∧ e.dram = d.dram ∧ e.hall = d.hall := by
  intro e n
  obtain ⟨d1, hd1⟩ : ∃ d1 : Dev, d1 = { d with pair := d.pair.covered n } := ⟨_, rfl⟩
  have hregs : d1.regs = d.regs := by rw [hd1]
  have he : e = d1.bump Fld.PAIR_CNT_PAGE_SKIP skips := by rw [hd1]; rfl
  rw [he, Dev.bump_pair, Dev.bump_held, Dev.bump_groups, Dev.bump_committed, Dev.bump_watches, Dev.bump_dram, Dev.bump_hall,
    Dev.get_bump_same _ _ _ _ _ (by decide) (by decide), Dev.pairState, Dev.bump, Dev.get_put_beside _ (by decide), Dev.get_of_regs hregs, Dev.get_of_regs hregs, hd1]
  exact ⟨rfl, rfl, rfl, rfl, rfl, rfl, rfl, rfl, rfl⟩

theorem Dev.setPairState_reads (d : Dev) {n : Nat} (hn : n < 8) :
    (d.setPairState n).pairState = n ∧ (d.setPairState n).get Fld.PAIR_CNT_PAGE_SKIP = d.get Fld.PAIR_CNT_PAGE_SKIP ∧ (d.setPairState n).pair = d.pair
      ∧ (d.setPairState n).held = d.held ∧ (d.setPairState n).groups = d.groups ∧ (d.setPairState n).committed = d.committed
      ∧ (d.setPairState n).watches = d.watches ∧ (d.setPairState n).dram = d.dram ∧ (d.setPairState n).hall = d.hall := by
  rw [Dev.setPairState]
  split_ifs with h
  · exact ⟨h, rfl, rfl, rfl, rfl, rfl, rfl, rfl, rfl⟩
  · have hlog := Dev.get_logEv d evPairState mPair (d.pairState * 256 + n) (f := Fld.PAIR_CNT_PAGE_SKIP) (i := 0) (j := 0) (by decide)
    obtain ⟨regs, log, hframe⟩ := d.logEv_frame evPairState mPair (d.pairState * 256 + n)
    refine ⟨?_, (Dev.get_put_beside _ (by decide) ..).trans hlog, ?_, ?_, ?_, ?_, ?_, ?_, ?_⟩
    · rw [Dev.pairState, Dev.get_put_same _ _ _ _ _ (by decide) (by decide)]
      exact Nat.mod_eq_of_lt hn
    · rw [Dev.put_pair, hframe]
    · rw [Dev.put_held, hframe]
    · rw [Dev.put_groups, hframe]
    · rw [Dev.put_committed, hframe]
    · rw [Dev.put_watches, hframe]
    · rw [Dev.put_dram, hframe]
    · rw [Dev.put_hall, hframe]

/-- The end of SYNCING changes the pair's state only. -/
theorem Dev.endSync_reads (d : Dev) :
    (d.pairState = psSyncing → d.pair.syncTo ≤ d.pair.acked → d.pair.short = false → d.endSync.pairState = psPaired)
      ∧ (d.pair.acked < d.pair.syncTo → d.endSync.pairState = d.pairState)
      ∧ d.endSync.get Fld.PAIR_CNT_PAGE_SKIP = d.get Fld.PAIR_CNT_PAGE_SKIP ∧ d.endSync.pair = d.pair
      ∧ d.endSync.held = d.held ∧ d.endSync.groups = d.groups ∧ d.endSync.committed = d.committed
      ∧ d.endSync.watches = d.watches ∧ d.endSync.dram = d.dram ∧ d.endSync.hall = d.hall := by
  rw [Dev.endSync]
  split_ifs with h
  · obtain ⟨hstate, hrest⟩ := d.setPairState_reads (n := psPaired) (by decide)
    exact ⟨fun _ _ _ => hstate, fun hlt => absurd h.2.1 (not_le.2 hlt), hrest⟩
  · exact ⟨fun hs hle hshort => absurd ⟨hs, hle, by rw [hshort]; rfl⟩ h, fun _ => rfl, rfl, rfl, rfl, rfl, rfl, rfl, rfl, rfl⟩

/-- An acknowledgement of the node mirrored with, where nothing waits. -/
theorem Dev.ackHeard_reads {d : Dev} {src : Nat} (number skips : Nat) (hsends : d.sendsMirror = true) (hsrc : src = d.mirrorNode) (hheld : d.held = [])
    (hgroups : d.groups = []) (hcommitted : d.committed = []) (hunsent : d.pair.unsent = 0) :
    let e := d.ackHeard src number skips false
    let n := min number (d.pair.next - 1)
    e.pair = d.pair.covered n ∧ e.dram = d.dram ∧ e.hall = d.hall ∧ e.watches = d.watches
      ∧ e.get Fld.PAIR_CNT_PAGE_SKIP = min Fld.PAIR_CNT_PAGE_SKIP.max (d.get Fld.PAIR_CNT_PAGE_SKIP + skips)
      ∧ (d.pairState = psSyncing → d.pair.syncTo ≤ max d.pair.acked n → e.pairState = psPaired)
      ∧ (d.pairState = psSyncing → max d.pair.acked n < d.pair.syncTo → e.pairState = psSyncing) := by
  intro e n
  obtain ⟨hpair1, hskip1, hstate1, hheld1, hgroups1, hcommitted1, hwatch1, hdram1, hhall1⟩ := d.ackCovered_reads number skips
  have he : e = (d.ackCovered number skips false).endSync.unhold := by
    have hwait : (d.ackCovered number skips false).pair.unsent = 0 := by
      rw [hpair1]
      exact hunsent
    refine (if_neg (by simp [hsends, hsrc])).trans ?_
    dsimp only
    rw [hwait, Dev.sendWaiting]
  generalize d.ackCovered number skips false = d1 at *
  obtain ⟨hpaired, hsyncing, hskip2, hpair2, hheld2, hgroups2, hcommitted2, hwatch2, hdram2, hhall2⟩ := d1.endSync_reads
  have hunhold := Dev.unhold_nothing (hheld2.trans (hheld1.trans hheld)) (hgroups2.trans (hgroups1.trans hgroups)) (hcommitted2.trans (hcommitted1.trans hcommitted))
  generalize d1.endSync = d2 at *
  rw [hunhold] at he
  rw [he]
  refine ⟨hpair2.trans hpair1, hdram2.trans hdram1, hhall2.trans hhall1, hwatch2.trans hwatch1, hskip2.trans hskip1, fun hs hle => ?_, fun hs hlt => ?_⟩
  · exact hpaired (hstate1.trans hs) (by rw [hpair1]; exact hle) (by rw [hpair1]; rfl)
  · exact (hsyncing (by rw [hpair1]; exact hlt)).trans (hstate1.trans hs)

/-- Settles O43: messages by their turn, then acknowledgements. -/
theorem mirrorMessages : Obligations.MirrorMessages := by
  intro s src halive
  refine ⟨fun m => ?_, fun number skips short => ?_⟩
  · intro n d
    have hheard (hhears : s.dev.hears 8 src.toNat = true) : exec (.mirrorMessage src m) s = .next (s.settled (d.mirrorHeard src.toNat m)) :=
      exec_mirrorMessage_heard halive hhears
    refine ⟨exec_mirrorMessage_dropped halive, fun hhears htakes hsrc => ⟨fun hnew => ?_, fun hold => ?_⟩, fun hhears hnot => ?_⟩
    · rw [hheard hhears, Dev.mirrorHeard, if_pos ⟨htakes, hsrc⟩, if_neg (not_le.2 hnew)]
    · rw [hheard hhears, Dev.mirrorHeard, if_pos ⟨htakes, hsrc⟩, if_pos hold]
    · have helse : ¬ (d.takesMirror = true ∧ src.toNat = d.mirrorNode) := fun h => hnot.elim (fun hno => Bool.noConfusion (hno.symm.trans h.1)) fun hno => hno h.2
      refine ⟨fun hkeeps => ?_, fun hkeeps hfirst => ?_, fun hkeeps hlater hfrom => ?_, fun hkeeps hlater hfrom => ?_⟩
      · rw [hheard hhears, Dev.mirrorHeard, if_neg helse, hkeeps, if_neg (by simp)]
      · rw [hheard hhears, Dev.mirrorHeard, if_neg helse, if_pos hkeeps, if_pos hfirst]
      · rw [hheard hhears, Dev.mirrorHeard, if_neg helse, if_pos hkeeps, if_neg hlater, if_pos hfrom]
      · rw [hheard hhears, Dev.mirrorHeard, if_neg helse, if_pos hkeeps, if_neg hlater, if_neg hfrom]
  · intro d
    refine ⟨exec_mirrorAck_dropped halive, fun hhears hnot => ?_, fun hhears hsends hsrc hheld hgroups hcommitted hunsent _ hfull hwatch => ?_⟩
    · rw [exec_mirrorAck_heard halive hhears, Dev.ackHeard, if_pos (hnot.imp_left (Bool.not_eq_true' _).mpr)]
    · intro n
      subst hfull
      obtain ⟨hpair, hdram, hhall, hwatch', hskip, hpaired, hsyncing⟩ :=
        Dev.ackHeard_reads number.toNat skips.toNat hsends hsrc hheld hgroups hcommitted hunsent
      refine ⟨_, (exec_mirrorAck_heard halive hhears).trans (congrArg Host.Outcome.next (State.settled_calm s (hwatch'.trans hwatch))), ?_⟩
      rw [State.withDev, hpair]
      exact ⟨rfl, rfl, rfl, hdram, hhall, hskip, hpaired, hsyncing⟩

end Sys2Proof.Machine

/-! # Failed stacks, and scrubs of boats and ways (R347, R360 to R363) -/

namespace Sys2Proof.Machine

/-! ## Bytes zeroed -/

theorem sget_filter {α : Type} (dflt : α) (x : Nat) (p : Nat → Bool) (m : List (Nat × α)) :
    sget dflt x (m.filter fun e => p e.1) = if p x then sget dflt x m else dflt := by
  induction m with
  | nil => simp [sget]
  | cons e m ih =>
    obtain ⟨j, v⟩ := e
    by_cases hx : x = j
    · subst hx
      by_cases hp : p x = true
      · simp [hp, sget]
      · simp [hp, ih]
    · by_cases hp : p j = true
      · simp [hp, sget, hx, ih]
      · simp [hp, sget, hx, ih]

theorem Mem.read_zero_inside {m : Mem} {a n x : Nat} (h : a ≤ x) (h' : x < a + n) : (m.zero a n).read x = 0 := by
  rw [Mem.read, Mem.zero, sget_filter 0 x fun y => !(decide (a ≤ y) && decide (y < a + n))]
  simp [h, h']

theorem Mem.read_zero_at {m : Mem} {a n x : Nat} (h : x < n) : (m.zero a n).read (a + x) = 0 :=
  Mem.read_zero_inside (Nat.le_add_right a x) (Nat.add_lt_add_left h a)

theorem Mem.sameBut_zero (m : Mem) (a n : Nat) : Mem.sameBut a n m (m.zero a n) := by
  intro x h
  rw [Mem.read, Mem.zero, sget_filter 0 x fun y => !(decide (a ≤ y) && decide (y < a + n)), if_pos (by simp; omega), Mem.read]

/-! ## What shows and counts, and leaves the storage -/

/-- The storage and the scrubs under way are those of `d`, and no slot is being released. -/
structure Dev.Showed (d d' : Dev) : Prop where
  scrubs : d'.scrubs = d.scrubs
  wayScrubs : d'.wayScrubs = d.wayScrubs
  dram : d'.dram = d.dram
  hall : d'.hall = d.hall
  coreMem : d'.coreMem = d.coreMem
  boatBuf : d'.boatBuf = d.boatBuf
  watches : d'.watches = d.watches
  parts : ∀ k < 64, d'.partState k ≠ ptReleasing

theorem Dev.Showed.refl {d : Dev} (h : ∀ k < 64, d.partState k ≠ ptReleasing) : d.Showed d := ⟨rfl, rfl, rfl, rfl, rfl, rfl, rfl, h⟩

theorem Dev.Showed.put {d d' : Dev} (h : d.Showed d') {f : Fld} {i j : Nat} (hoff : ∀ k < 64, Fld.SEC_PART0_STATE.off k 0 ≠ f.off i j) (v : Nat) :
    d.Showed (d'.put f v i j) where
  scrubs := (Dev.put_scrubs ..).trans h.scrubs
  wayScrubs := (Dev.put_wayScrubs ..).trans h.wayScrubs
  dram := (Dev.put_dram ..).trans h.dram
  hall := (Dev.put_hall ..).trans h.hall
  coreMem := (Dev.put_coreMem ..).trans h.coreMem
  boatBuf := (Dev.put_boatBuf ..).trans h.boatBuf
  watches := (Dev.put_watches ..).trans h.watches
  parts k hk := by
    rw [Dev.partState, Dev.get_put_other d' f Fld.SEC_PART0_STATE v i j k 0 (hoff k hk)]
    exact h.parts k hk

theorem Dev.Showed.logEv {d d' : Dev} (h : d.Showed d') (code src data : Nat) : d.Showed (d'.logEv code src data) := by
  have hparts (k : Nat) : (d'.logEv code src data).partState k = d'.partState k :=
    d'.get_logEv code src data (f := Fld.SEC_PART0_STATE) (i := k) (j := 0) (by simp only [Fld.off, Fld.SEC_PART0_STATE, Fld.LOG_STAT_DROPPED]; omega)
  obtain ⟨regs, log, hlog⟩ := d'.logEv_frame code src data
  refine ⟨?_, ?_, ?_, ?_, ?_, ?_, ?_, fun k hk => by rw [hparts k]; exact h.parts k hk⟩
  all_goals rw [hlog]
  · exact h.scrubs
  · exact h.wayScrubs
  · exact h.dram
  · exact h.hall
  · exact h.coreMem
  · exact h.boatBuf
  · exact h.watches

/-- A slot made active. -/
theorem Dev.Showed.setPart {d d' : Dev} (h : d.Showed d') (k : Nat) : d.Showed (d'.setPart k ptActive) := by
  rw [Dev.setPart]
  split
  · exact h
  · have hlog := h.logEv evPartState mCox (k * 2 ^ 40 + d'.partTenant k * 2 ^ 32 + d'.partState k * 256 + ptActive)
    generalize d'.logEv evPartState mCox (k * 2 ^ 40 + d'.partTenant k * 2 ^ 32 + d'.partState k * 256 + ptActive) = d1 at hlog
    refine ⟨(Dev.put_scrubs ..).trans hlog.scrubs, (Dev.put_wayScrubs ..).trans hlog.wayScrubs, (Dev.put_dram ..).trans hlog.dram, (Dev.put_hall ..).trans hlog.hall,
      (Dev.put_coreMem ..).trans hlog.coreMem, (Dev.put_boatBuf ..).trans hlog.boatBuf, (Dev.put_watches ..).trans hlog.watches, fun j hj => ?_⟩
    by_cases hjk : j = k
    · subst hjk
      rw [Dev.partState, Dev.get_put_same _ _ _ _ _ (by decide) (by decide)]
      decide
    · rw [Dev.partState, Dev.get_put_other d1 Fld.SEC_PART0_STATE Fld.SEC_PART0_STATE _ k 0 j 0 (by simp only [Fld.off, Fld.SEC_PART0_STATE]; omega)]
      exact hlog.parts j hj

/-- Where no slot is being released, the end of a scrub may only make slots active. -/
theorem Dev.Showed.partCheck {d d' : Dev} (h : d.Showed d') : d.Showed d'.partCheck := by
  refine List.foldlRecOn _ _ h fun d1 h1 k hk => ?_
  split
  · exact h1.setPart k
  · rw [Dev.releaseCheck, if_pos (h1.parts k (List.mem_range.1 hk))]
    exact h1

/-- The registers of a core lie below those of the partitions. -/
theorem part_ne_core {f : Fld} (hs1 : f.s1 = 0x1000) (hbase : f.base ≤ 0x900010) {n : Nat} (hn : n < 512) (k : Nat) :
    Fld.SEC_PART0_STATE.off k 0 ≠ f.off n 0 := by
  simp only [Fld.off, Fld.SEC_PART0_STATE, hs1]
  omega

theorem Dev.Showed.coreShow {d d' : Dev} (h : d.Showed d') {n : Nat} (hn : n < 512) (st : Nat) : d.Showed (d'.coreShow n st 0 0 0 0) := by
  rw [Dev.coreShow]
  exact ((((h.put (fun k _ => part_ne_core rfl (by decide) hn k) _).put (fun k _ => part_ne_core rfl (by decide) hn k) _).put
    (fun k _ => part_ne_core rfl (by decide) hn k) _).put (fun k _ => part_ne_core rfl (by decide) hn k) _).put (fun k _ => part_ne_core rfl (by decide) hn k) _

/-- A core back in use after its boat's scrub. -/
def Dev.coreScrubbed (d : Dev) (n : Nat) : Dev :=
  (if d.get Fld.ATT_CORE_STAT_STATE n = csFailed then d else d.coreShow n csIdle 0 0 0 0).put Fld.ATT_CORE_CTL_DRAIN 0 n

theorem Dev.Showed.coreScrubbed {d d' : Dev} (h : d.Showed d') {n : Nat} (hn : n < 512) : d.Showed (d'.coreScrubbed n) := by
  rw [Dev.coreScrubbed]
  refine Dev.Showed.put ?_ (fun k _ => part_ne_core rfl (by decide) hn k) _
  split
  · exact h
  · exact h.coreShow hn _

/-! ## The ends of scrubs -/

/-- A boat scrub that ends well. -/
theorem Dev.scrubDone_well (d : Dev) (x : BoatScrub) :
    d.scrubDone x false = ((((coresOf x.boat).foldl Dev.coreScrubbed
      { (d.clearBoat x.boat).bump Fld.SEC_SCRUB_BOATS with scrubs := ((d.clearBoat x.boat).bump Fld.SEC_SCRUB_BOATS).scrubs.filter (·.boat != x.boat) }).put
        Fld.SEC_PART1_BOATS (setBits (((coresOf x.boat).foldl Dev.coreScrubbed
          { (d.clearBoat x.boat).bump Fld.SEC_SCRUB_BOATS with
            scrubs := ((d.clearBoat x.boat).bump Fld.SEC_SCRUB_BOATS).scrubs.filter (·.boat != x.boat) }).get Fld.SEC_PART1_BOATS x.slot) x.boat x.boat 0) x.slot)).partCheck := rfl

theorem Dev.scrubDone_showed {d : Dev} {x : BoatScrub} (hboat : x.boat < 64) (hparts : ∀ k < 64, d.partState k ≠ ptReleasing) :
    ({ (d.clearBoat x.boat) with scrubs := d.scrubs.filter (·.boat != x.boat) } : Dev).Showed (d.scrubDone x false) := by
  have hstart : ({ (d.clearBoat x.boat) with scrubs := d.scrubs.filter (·.boat != x.boat) } : Dev).Showed
      { (d.clearBoat x.boat).bump Fld.SEC_SCRUB_BOATS with scrubs := ((d.clearBoat x.boat).bump Fld.SEC_SCRUB_BOATS).scrubs.filter (·.boat != x.boat) } := by
    have hput := (Dev.Showed.refl (d := d.clearBoat x.boat) hparts).put (f := Fld.SEC_SCRUB_BOATS) (i := 0) (j := 0)
      (fun k _ => by simp only [Fld.off, Fld.SEC_PART0_STATE, Fld.SEC_SCRUB_BOATS]; omega)
      (min Fld.SEC_SCRUB_BOATS.max ((d.clearBoat x.boat).get Fld.SEC_SCRUB_BOATS + 1))
    rw [← Dev.bump] at hput
    generalize (d.clearBoat x.boat).bump Fld.SEC_SCRUB_BOATS = d1 at hput ⊢
    exact ⟨by rw [hput.scrubs]; rfl, hput.wayScrubs, hput.dram, hput.hall, hput.coreMem, hput.boatBuf, hput.watches, hput.parts⟩
  rw [Dev.scrubDone_well]
  generalize { (d.clearBoat x.boat).bump Fld.SEC_SCRUB_BOATS with
    scrubs := ((d.clearBoat x.boat).bump Fld.SEC_SCRUB_BOATS).scrubs.filter (·.boat != x.boat) } = d1 at hstart ⊢
  have hcores := List.foldlRecOn (coresOf x.boat) Dev.coreScrubbed hstart fun d2 h2 n hn => h2.coreScrubbed (n := n) (by
    simp only [coresOf, List.mem_map, List.mem_range] at hn
    omega)
  exact (hcores.put (fun k _ => by simp only [Fld.off, Fld.SEC_PART0_STATE, Fld.SEC_PART1_BOATS]; omega) _).partCheck

section Rows

variable {s : State} (halive : s.dev.alive = true)
include halive

theorem exec_boatDrained {boat : BitVec 6} (hdrain : (s.dev.scrubs.any fun x => x.boat == boat.toNat && x.drain) = true) (hidle : s.dev.boatIdle boat.toNat = true) :
    exec (.boatDrained boat) s = .next (s.settled (s.dev.beginScrub boat.toNat)) := by
  show execBoatDrained boat s = _
  exact onHall_settled halive (if_pos ⟨hdrain, hidle⟩)

theorem exec_boatScrubDone {boat : BitVec 6} {x : BoatScrub} (hscrubs : s.dev.scrubs = [x]) (hboat : x.boat = boat.toNat) (hdrain : x.drain = false) :
    exec (.boatScrubDone boat false) s = .next (s.settled (s.dev.scrubDone x false)) := by
  have hfind : (s.dev.scrubs.find? fun x => x.boat == boat.toNat && !x.drain) = some x := by simp [hscrubs, hboat, hdrain]
  show execBoatScrubDone boat false s = _
  refine onHall_settled halive ?_
  rw [hfind]

/-- The way whose scrub ends, its bytes zero. -/
def Dev.clearWay (d : Dev) (w : Nat) (rest : List (Nat × Nat)) : Dev :=
  { d with hall := d.hall.zero (w * wayBytes) wayBytes,
           hallBad := d.hallBad.filter (fun a => !(decide (w * wayBytes ≤ a) && decide (a < (w + 1) * wayBytes))), wayScrubs := rest }

theorem exec_wayScrubDone {w k : Nat} {rest : List (Nat × Nat)} (hscrubs : s.dev.wayScrubs = (w, k) :: rest) :
    exec .wayScrubDone s = .next (s.settled ((s.dev.clearWay w rest).bump Fld.SEC_SCRUB_WAYS).partCheck) := by
  show execWayScrubDone s = _
  refine onHall_settled halive ?_
  rw [hscrubs]
  rfl

end Rows

theorem Dev.clearWay_showed {d : Dev} {w : Nat} {rest : List (Nat × Nat)} (hparts : ∀ k < 64, d.partState k ≠ ptReleasing) :
    (d.clearWay w rest).Showed ((d.clearWay w rest).bump Fld.SEC_SCRUB_WAYS).partCheck :=
  ((Dev.Showed.refl (d := d.clearWay w rest) hparts).put
    (fun k _ => by simp only [Fld.off, Fld.SEC_PART0_STATE, Fld.SEC_SCRUB_WAYS]; omega) _).partCheck

/-! ## A failed stack (R347) -/

section Stack

variable {s : State} (halive : s.dev.alive = true) {stack : BitVec 3} {copies : List (BitVec 15 × XferPage)}
include halive

theorem exec_dramStackFailure_pinned
    (hheld : ((s.dev.logEv evUnitFailed mCox (2 * 256 + stack.toNat)).pinnedRegions ++ (s.dev.logEv evUnitFailed mCox (2 * 256 + stack.toNat)).ringRegions).any
      (inStack stack.toNat) = true) :
    let d := s.dev.logEv evUnitFailed mCox (2 * 256 + stack.toNat)
    exec (.dramStackFailure stack copies) s = .next (s.settled
      (((d.liveRings.filter fun r => d.ringState r == rsRun || d.ringState r == rsWait).foldl Dev.ringStop d).emit (.mgmtReport 2))) := by
  intro d
  show execDramStackFailure stack copies s = _
  exact onHall_settled halive (if_pos hheld)

theorem exec_dramStackFailure_empty
    (hheld : ((s.dev.logEv evUnitFailed mCox (2 * 256 + stack.toNat)).pinnedRegions ++ (s.dev.logEv evUnitFailed mCox (2 * 256 + stack.toNat)).ringRegions).any
      (inStack stack.toNat) = false)
    (hpages : (s.dev.logEv evUnitFailed mCox (2 * 256 + stack.toNat)).listedPages = []) (hrecs : (s.dev.logEv evUnitFailed mCox (2 * 256 + stack.toNat)).ownRecs = []) :
    let d := s.dev.logEv evUnitFailed mCox (2 * 256 + stack.toNat)
    exec (.dramStackFailure stack copies) s = .next (s.settled
      (({ d with runs := d.runs ++ [(⟨stack.toNat * stackGrans, stackGrans, none, .table⟩ : Run)] } : Dev).writeTko [])) := by
  intro d
  show execDramStackFailure stack copies s = _
  refine onHall_settled halive ?_
  dsimp only
  rw [hheld, if_neg (by simp), hpages, hrecs]
  rfl

end Stack

/-- Settles O48: a failed stack, then the scrubs. -/
theorem stackFailureAndScrubs : Obligations.StackFailureAndScrubs := by
  refine ⟨fun s stack copies halive => ⟨exec_dramStackFailure_pinned halive, exec_dramStackFailure_empty halive⟩, fun s boat halive => ?_⟩
  intro d b
  refine ⟨exec_boatDrained halive, fun x hscrubs hboat hdrain hwatch hparts => ?_, fun w k rest hscrubs hwatch hparts => ?_⟩
  · have hshowed := Dev.scrubDone_showed (d := d) (x := x) (by rw [hboat]; exact boat.isLt) hparts
    refine ⟨_, (exec_boatScrubDone halive hscrubs hboat hdrain).trans (congrArg Host.Outcome.next (State.settled_calm s (hshowed.watches.trans hwatch))), ?_⟩
    subst b
    rw [State.withDev, hshowed.scrubs, hshowed.dram, hshowed.hall, hshowed.coreMem, hshowed.boatBuf, hboat, hscrubs]
    refine ⟨by simp [hboat], rfl, rfl, fun a ha => Mem.read_zero_at ha, Mem.sameBut_zero _ _ _, fun a ha => ?_,
      Mem.sameBut_zero _ _ _⟩
    exact Mem.read_zero_at ha
  · have hshowed := Dev.clearWay_showed (d := d) (w := w) (rest := rest) hparts
    refine ⟨_, (exec_wayScrubDone halive hscrubs).trans (congrArg Host.Outcome.next (State.settled_calm s (hshowed.watches.trans hwatch))), ?_⟩
    rw [State.withDev, hshowed.wayScrubs, hshowed.dram, hshowed.hall]
    exact ⟨rfl, rfl, fun a ha => Mem.read_zero_at ha, Mem.sameBut_zero _ _ _⟩

end Sys2Proof.Machine

/-! # The hall bank's grants (R109 to R117) -/

namespace Sys2Proof.Machine

theorem State.dev_withDev (s : State) (d : Dev) : (s.withDev d).dev = d := rfl

theorem bankAddr_aligned (bank row : Nat) : bankAddr bank row % 8 = 0 := Nat.mul_mod_right _ _

theorem one_le_atLeast1 (n : Nat) : 1 ≤ atLeast1 n := by
  rw [atLeast1]
  split <;> omega

/-! ## Words stored -/

/-- A store that starts a word and replaces every uncorrectable word it meets (R116, R117). -/
theorem Dev.hallPut_whole (d : Dev) {a : Nat} {bs : List Byte} (ha : a % 8 = 0) (hbad : d.badPart a bs.length = []) :
    ∃ hallBad, d.hallPut a bs = { d with hall := d.hall.writeBytes a bs, hallBad := hallBad } := by
  simp only [Dev.hallPut, hbad, List.foldl_nil, Dev.rotated_aligned _ _ ha]
  exact ⟨_, rfl⟩

theorem Dev.badPart_of_clean {d : Dev} {a n : Nat} (h : d.badWords a n = []) : d.badPart a n = [] := by
  rw [Dev.badPart, h, List.filter_nil]

theorem Dev.badPart_of_whole {d : Dev} {a : Nat} (h : d.badWords a 8 = [] ∨ d.badWords a 8 = [a]) : d.badPart a 8 = [] := by
  obtain h | h := h
  · exact Dev.badPart_of_clean h
  · simp [Dev.badPart, h]

/-- A word stored reads back. -/
theorem Dev.hallWord_written (d : Dev) {a v : Nat} {hallBad : List Nat} (hv : v < 2 ^ 64) :
    ({ d with hall := d.hall.writeBytes a (toBytes 8 v), hallBad := hallBad } : Dev).hallWord a = v := by
  have hpow : v % 256 ^ 8 = v := Nat.mod_eq_of_lt (lt_of_lt_of_eq hv (by norm_num))
  exact (d.hall.readN_writeN_same 8 a v).trans hpow

theorem Mem.sameBut_writeBytes (m : Mem) (a : Nat) (bs : List Byte) : Mem.sameBut a bs.length m (m.writeBytes a bs) :=
  fun _ h => Mem.read_writeBytes_other bs m a _ h

theorem mergeWord_whole (old new : Nat) (h : new < 2 ^ 64) : mergeWord old new 255 = new := by
  have hbytes : ((List.range 8).map fun k => if bit 255 k then byteOf new k else byteOf old k) = toBytes 8 new := by
    refine List.map_congr_left fun k hk => if_pos ?_
    have hk8 := List.mem_range.1 hk
    interval_cases k <;> rfl
  rw [mergeWord, hbytes, ofBytes_toBytes, Nat.mod_eq_of_lt (lt_of_lt_of_eq h (by norm_num))]

/-! ## One cycle of a bank (R111) -/

/-- The stalls and aged grants of a cycle counted, and the requests that stall. -/
def Dev.counted (d : Dev) (stalls aged : Nat) (stalled : List BankReq) : Dev :=
  { (d.bump Fld.HAL_CONFLICT_STALLS stalls).bump Fld.HAL_ROTATE_AGED aged with stalled := stalled }

theorem Dev.counted_keeps (d : Dev) (n m : Nat) (l : List BankReq) :
    (d.counted n m l).hall = d.hall ∧ (d.counted n m l).hallBad = d.hallBad ∧ (d.counted n m l).dram = d.dram ∧ (d.counted n m l).host = d.host
      ∧ (d.counted n m l).out = d.out ∧ (d.counted n m l).cmds = d.cmds ∧ (d.counted n m l).watches = d.watches ∧ (d.counted n m l).stalled = l := by
  rw [Dev.counted, Dev.bump_hall, Dev.bump_hall, Dev.bump_hallBad, Dev.bump_hallBad, Dev.bump_dram, Dev.bump_dram, Dev.bump_host, Dev.bump_host,
    Dev.bump_out, Dev.bump_out, Dev.bump_cmds, Dev.bump_cmds, Dev.bump_watches, Dev.bump_watches]
  exact ⟨rfl, rfl, rfl, rfl, rfl, rfl, rfl, rfl⟩

theorem Dev.counted_regs (d : Dev) (n m : Nat) (l : List BankReq) :
    (d.counted n m l).regs = ((d.bump Fld.HAL_CONFLICT_STALLS n).bump Fld.HAL_ROTATE_AGED m).regs := by
  rw [Dev.counted]

theorem Dev.get_counted (d : Dev) (n m : Nat) (l : List BankReq) {f : Fld} {i j : Nat}
    (hf : f.off i j ≠ Fld.HAL_CONFLICT_STALLS.off 0 0 ∧ f.off i j ≠ Fld.HAL_ROTATE_AGED.off 0 0) : (d.counted n m l).get f i j = d.get f i j := by
  rw [Dev.get_of_regs (d.counted_regs n m l), Dev.bump, Dev.get_put_other _ _ _ _ _ _ _ _ hf.2, Dev.bump, Dev.get_put_other _ _ _ _ _ _ _ _ hf.1]

theorem Dev.counted_stalls (d : Dev) (n m : Nat) (l : List BankReq) :
    (d.counted n m l).get Fld.HAL_CONFLICT_STALLS = min Fld.HAL_CONFLICT_STALLS.max (d.get Fld.HAL_CONFLICT_STALLS + n) := by
  rw [Dev.get_of_regs (d.counted_regs n m l), Dev.bump, Dev.get_put_beside _ (by decide), Dev.get_bump_same _ _ _ _ _ (by decide) (by decide)]

theorem Dev.counted_aged (d : Dev) (n m : Nat) (l : List BankReq) :
    (d.counted n m l).get Fld.HAL_ROTATE_AGED = min Fld.HAL_ROTATE_AGED.max (d.get Fld.HAL_ROTATE_AGED + m) := by
  rw [Dev.get_of_regs (d.counted_regs n m l), Dev.get_bump_same _ _ _ _ _ (by decide) (by decide), Dev.bump, Dev.get_put_beside _ (by decide)]

/-- The counters of a cycle lie below the ways' registers. -/
theorem Dev.reqOk_counted (d : Dev) (n m : Nat) (l : List BankReq) (bank : Nat) (q : HallReq) : (d.counted n m l).reqOk bank q = d.reqOk bank q := by
  have hten (w : Nat) : (d.counted n m l).flag Fld.HAL_WAY_TEN w = d.flag Fld.HAL_WAY_TEN w := by
    rw [Dev.flag, d.get_counted n m l (by simp only [Fld.off, Fld.HAL_WAY_TEN, Fld.HAL_CONFLICT_STALLS, Fld.HAL_ROTATE_AGED]; omega), Dev.flag]
  have htenant (w : Nat) : (d.counted n m l).get Fld.HAL_WAY_TENANT w = d.get Fld.HAL_WAY_TENANT w :=
    d.get_counted n m l (by simp only [Fld.off, Fld.HAL_WAY_TENANT, Fld.HAL_CONFLICT_STALLS, Fld.HAL_ROTATE_AGED]; omega)
  rw [Dev.reqOk, Dev.reqOk, Dev.hallOk, Dev.hallOk]
  simp only [hten, htenant]

theorem Dev.bankCycle_grants {d : Dev} {bank : Nat} {reqs : List HallReq} {all served rest : List BankReq} {r : BankReq} (hall : d.readyAt bank reqs = all)
    (hpick : pickReq (atLeast1 (d.get Fld.HAL_CFG_AGE)) all = some r) (hserved : d.servedBy bank r all = served) (hrest : served.foldl List.erase all = rest) :
    d.bankCycle bank reqs = (d.counted rest.length (served.filter fun q => decide (atLeast1 (d.get Fld.HAL_CFG_AGE) ≤ q.age)).length
      ((d.stalled.filter fun (q : BankReq) => q.bank != bank) ++ rest.map fun (q : BankReq) => { q with age := q.age + 1 })).grant bank r.req served := by
  subst hall hserved hrest
  rw [Dev.bankCycle]
  dsimp only
  rw [hpick]
  dsimp only
  rw [Dev.counted, Dev.bump_stalled, Dev.bump_stalled]

theorem exec_hallBankGrant {s : State} (halive : s.dev.alive = true) (bank : BitVec 8) (reqs : List HallReq) {d : Dev}
    (hd : s.dev.bankCycle bank.toNat reqs = d) (hwatch : d.watches = []) : exec (.hallBankGrant bank reqs []) s = .next (s.withDev d) := by
  show execHallBankGrant bank reqs [] s = _
  exact onHall_calm halive hd hwatch

/-! ## Choosing the request (R111) -/

/-- The order of the masters of two requests. -/
abbrev BankReq.below (a b : BankReq) : Bool := decide (a.req.master.toNat < b.req.master.toNat)

theorem pickReq_one {age : Nat} (hage : 1 ≤ age) (bank : Nat) (q : HallReq) : pickReq age [⟨bank, 0, q⟩] = some ⟨bank, 0, q⟩ := by
  simp [pickReq, sortBy, insertBy, Nat.not_le.2 hage]

theorem sortBy_two {p q : BankReq} (h : p.req.master.toNat < q.req.master.toNat) : sortBy BankReq.below [p, q] = [p, q] := by
  simp [sortBy, insertBy, BankReq.below, Nat.not_lt.2 h.le]

theorem pickReq_two {age : Nat} (hage : 1 ≤ age) (bank : Nat) {p q : HallReq} (h : p.master.toNat < q.master.toNat) :
    pickReq age [⟨bank, 0, p⟩, ⟨bank, 0, q⟩] = some ⟨bank, 0, p⟩ := by
  simp [pickReq, sortBy, insertBy, Nat.not_le.2 hage, Nat.not_lt.2 h.le]

theorem pickReq_aged {age n : Nat} (hage : 1 ≤ age) (hn : age ≤ n) (bank : Nat) (p q : HallReq) :
    pickReq age [⟨bank, n, q⟩, ⟨bank, 0, p⟩] = some ⟨bank, n, q⟩ := by
  simp [pickReq, sortBy, insertBy, hn, Nat.not_le.2 hage]

theorem Dev.readyAt_fresh {d : Dev} {bank : Nat} (h : d.stalled.filter (fun (x : BankReq) => x.bank == bank) = []) (reqs : List HallReq) :
    d.readyAt bank reqs = reqs.map fun r => ⟨bank, 0, r⟩ := by
  rw [Dev.readyAt, h, List.nil_append]

theorem stalled_elsewhere {l : List BankReq} {bank : Nat} (h : l.filter (fun (x : BankReq) => x.bank == bank) = []) :
    l.filter (fun (x : BankReq) => x.bank != bank) = l := by
  rw [List.filter_eq_self]
  intro x hx
  have hnot := List.filter_eq_nil_iff.1 h x hx
  simpa using hnot

theorem Dev.servedBy_plain {d : Dev} {bank : Nat} {r : BankReq} (h : r.req.kind ≠ .write) (all : List BankReq) : d.servedBy bank r all = [r] :=
  if_neg fun hw => h hw.1

theorem Dev.servedBy_one (d : Dev) (bank : Nat) (q : HallReq) : d.servedBy bank ⟨bank, 0, q⟩ [⟨bank, 0, q⟩] = [⟨bank, 0, q⟩] := by
  rw [Dev.servedBy]
  split
  · rename_i h
    have hkind : q.kind = .write := h.1
    rw [Dev.mergeGroup, List.filter_cons_of_pos (by simp [hkind, h.2.1, h.2.2]), List.filter_nil]
    rfl
  · rfl

/-! ## One request (R109, R115) -/

section Grant

variable {d : Dev} {bank : Nat} {q : HallReq} {served : List BankReq}

theorem Dev.grant_denied (h : d.reqOk bank q = false) : d.grant bank q served = d.deny.emit (.hallStatus q.master.toNat stTenantMismatch 0) :=
  if_pos (by simp [h])

variable (hok : d.reqOk bank q = true) (hclean : d.hallBad.contains (bankAddr bank q.row.toNat) = false)
include hok hclean

theorem Dev.grant_read (h : q.kind = .read) : d.grant bank q served = d.emit (.hallStatus q.master.toNat stOK (d.hallWord (bankAddr bank q.row.toNat))) := by
  rw [Dev.grant]
  rw [hok, if_neg (by simp), if_neg (by simp [h]), hclean, if_neg (by simp), if_pos h]

/-- An atomic leaves its word and answers the old one. -/
theorem Dev.grant_atomic (h : q.kind = .add ∨ q.kind = .swap) : d.grant bank q served =
    (d.hallPut (bankAddr bank q.row.toNat) (toBytes 8 (atomicWord q.kind (d.hallWord (bankAddr bank q.row.toNat)) q.data.toNat q.compare.toNat))).emit
      (.hallStatus q.master.toNat stOK (d.hallWord (bankAddr bank q.row.toNat))) := by
  have hwrite : q.kind ≠ .write := by rcases h with h | h <;> simp [h]
  have hread : q.kind ≠ .read := by rcases h with h | h <;> simp [h]
  have hcswap : ¬ (q.kind = .cswap ∧ q.master.toNat ≠ mRma) := by rcases h with h | h <;> simp [h]
  rw [Dev.grant]
  rw [hok, if_neg (by simp), if_neg hwrite, hclean, if_neg (by simp), if_neg hread, if_neg hcswap]

end Grant

/-- The grant of one request on a correctable word: nothing but a refusal counted, or its word stored, and its answer. -/
theorem Dev.grant_one_cases {d : Dev} {bank : Nat} {q : HallReq} (hclean : d.hallBad.contains (bankAddr bank q.row.toNat) = false) :
    ∃ e o, d.grant bank q [⟨bank, 0, q⟩] = e.emit o ∧ (e = d.deny ∨ e = d ∨ ∃ v, e = d.hallPut (bankAddr bank q.row.toNat) (toBytes 8 v)) := by
  have hwrite : d.writeOk bank q = true := by rw [Dev.writeOk, hclean, Bool.not_false, Bool.or_true]
  rw [Dev.grant, hclean, hwrite, if_pos rfl]
  split
  · exact ⟨_, _, rfl, .inl rfl⟩
  · split
    · exact ⟨_, _, rfl, .inr (.inr ⟨_, rfl⟩)⟩
    · rw [if_neg (by simp)]
      split
      · exact ⟨_, _, rfl, .inr (.inl rfl)⟩
      · split
        · exact ⟨_, _, rfl, .inr (.inl rfl)⟩
        · exact ⟨_, _, rfl, .inr (.inr ⟨_, rfl⟩)⟩

theorem Dev.not_bad_of_clean {d : Dev} {a : Nat} (h : d.badWords a 8 = []) : d.hallBad.contains a = false := by
  have hnot := List.filter_eq_nil_iff.1 h
  rw [Bool.eq_false_iff]
  intro hin
  have hmem : a ∈ d.hallBad := by simpa using hin
  exact hnot a hmem (by simp)

/-- One request granted where no other is ready. -/
theorem exec_grant_one {s : State} {bank : BitVec 8} {q : HallReq} (hcalm : s.calm) (hclean : s.dev.badWords (bankAddr bank.toNat q.row.toNat) 8 = [])
    (hfresh : s.dev.stalled.filter (fun (x : BankReq) => x.bank == bank.toNat) = []) :
    ∃ d1 : Dev, d1 = s.dev.counted 0 0 s.dev.stalled
      ∧ exec (.hallBankGrant bank [q] []) s = .next (s.withDev (d1.grant bank.toNat q [⟨bank.toNat, 0, q⟩]))
      ∧ (d1.grant bank.toNat q [⟨bank.toNat, 0, q⟩]).dram = s.dev.dram ∧ (d1.grant bank.toNat q [⟨bank.toNat, 0, q⟩]).host = s.dev.host
      ∧ Mem.sameBut (bankAddr bank.toNat q.row.toNat) 8 s.dev.hall (d1.grant bank.toNat q [⟨bank.toNat, 0, q⟩]).hall := by
  obtain ⟨halive, hwatch⟩ := hcalm
  obtain ⟨d1, hd1⟩ : ∃ d1 : Dev, d1 = s.dev.counted 0 0 s.dev.stalled := ⟨_, rfl⟩
  obtain ⟨hhall, hbad, hdram, hhost, -, -, hwatch1, -⟩ := s.dev.counted_keeps 0 0 s.dev.stalled
  rw [← hd1] at hhall hbad hdram hhost hwatch1
  have hall : s.dev.readyAt bank.toNat [q] = [⟨bank.toNat, 0, q⟩] := Dev.readyAt_fresh hfresh [q]
  have hage := one_le_atLeast1 (s.dev.get Fld.HAL_CFG_AGE)
  have hcycle := Dev.bankCycle_grants hall (pickReq_one hage _ q) (s.dev.servedBy_one bank.toNat q) (rest := []) (by simp)
  have haged : (([⟨bank.toNat, 0, q⟩] : List BankReq).filter fun q => decide (atLeast1 (s.dev.get Fld.HAL_CFG_AGE) ≤ q.age)) = [] := by
    simp [Nat.not_le.2 hage]
  rw [haged, stalled_elsewhere hfresh, List.map_nil, List.append_nil, List.length_nil, ← hd1] at hcycle
  have hclean1 : d1.badWords (bankAddr bank.toNat q.row.toNat) 8 = [] := by rw [Dev.badWords, hbad]; exact hclean
  obtain ⟨e, o, hgrant, he⟩ := Dev.grant_one_cases (q := q) (bank := bank.toNat) (Dev.not_bad_of_clean hclean1)
  have hkept : e.dram = s.dev.dram ∧ e.host = s.dev.host ∧ e.watches = [] ∧ Mem.sameBut (bankAddr bank.toNat q.row.toNat) 8 s.dev.hall e.hall := by
    obtain rfl | rfl | ⟨v, rfl⟩ := he
    · rw [Dev.deny, Dev.bump_dram, Dev.bump_host, Dev.bump_watches, Dev.bump_hall, hhall]
      exact ⟨hdram, hhost, hwatch1.trans hwatch, fun _ _ => rfl⟩
    · rw [hhall]
      exact ⟨hdram, hhost, hwatch1.trans hwatch, fun _ _ => rfl⟩
    · obtain ⟨hallBad, hput⟩ := d1.hallPut_whole (bankAddr_aligned bank.toNat q.row.toNat) (bs := toBytes 8 v)
        (by rw [length_toBytes]; exact Dev.badPart_of_clean hclean1)
      rw [hput]
      have hsame := d1.hall.sameBut_writeBytes (bankAddr bank.toNat q.row.toNat) (toBytes 8 v)
      rw [length_toBytes, hhall] at hsame
      exact ⟨hdram, hhost, hwatch1.trans hwatch, by rw [hhall]; exact hsame⟩
  obtain ⟨hedram, hehost, hewatch, hehall⟩ := hkept
  refine ⟨d1, hd1, ?_, ?_, ?_, ?_⟩
  · exact exec_hallBankGrant halive bank [q] hcycle (by rw [hgrant, Dev.emit_watches, hewatch])
  · rw [hgrant, Dev.emit_dram, hedram]
  · rw [hgrant, Dev.emit_host, hehost]
  · rw [hgrant, Dev.emit_hall]
    exact hehall

/-! ## Two writes of one word (R112, R113) -/

/-- A write lost to a lower master's. -/
def Dev.writeLost (d : Dev) (q : HallReq) (a : Nat) : Dev :=
  let d := ((d.bump Fld.HAL_WLOST_ALL).loses q.owner a).emit (.hallStatus q.master.toNat stWriteLost 0)
  if q.master.toNat = mHost then d.bump Fld.HAL_WLOST_HOST else d

theorem Dev.grantWrites_two (d : Dev) (bank : Nat) {p q : HallReq} (hp : p.be.toNat = 255) (hq : q.be.toNat = 255) :
    d.grantWrites bank p [⟨bank, 0, p⟩, ⟨bank, 0, q⟩] =
      let e := (d.hallPut (bankAddr bank p.row.toNat) (toBytes 8 p.data.toNat)).emit (.hallStatus p.master.toNat stOK 0)
      if q.data = p.data then e.emit (.hallStatus q.master.toNat stOK 0) else e.writeLost q (bankAddr bank p.row.toNat) := by
  have hword (r : HallReq) (hr : r.be.toNat = 255) (old : Nat) : mergeWord old r.data.toNat r.be.toNat = r.data.toNat := by
    rw [hr, mergeWord_whole _ _ r.data.isLt]
  have hsame : ([p.data.toNat, q.data.toNat].all fun x => x == p.data.toNat) = decide (q.data = p.data) := by
    have hbeq : (q.data.toNat == p.data.toNat) = decide (q.data = p.data) := decide_eq_decide.2 BitVec.toNat_inj
    rw [List.all_cons, List.all_cons, List.all_nil, beq_self_eq_true, Bool.true_and, Bool.and_true, hbeq]
  have hmap (old : Nat) : ([⟨bank, 0, p⟩, ⟨bank, 0, q⟩] : List BankReq).map (fun q => mergeWord old q.req.data.toNat q.req.be.toNat)
      = [p.data.toNat, q.data.toNat] := by
    rw [List.map_cons, List.map_cons, List.map_nil, hword p hp, hword q hq]
  have hzip : (List.range 2).zip [(⟨bank, 0, p⟩ : BankReq), ⟨bank, 0, q⟩] = [(0, ⟨bank, 0, p⟩), (1, ⟨bank, 0, q⟩)] := rfl
  rw [Dev.grantWrites]
  dsimp only
  rw [hmap, List.headD_cons, hsame]
  dsimp only [List.length_cons, List.length_nil]
  rw [hzip, List.foldl_cons, List.foldl_cons, List.foldl_nil]
  dsimp only
  rw [if_pos (show 0 = 0 ∨ decide (q.data = p.data) = true from .inl rfl)]
  by_cases h : q.data = p.data
  · rw [if_pos h, if_pos (.inr (decide_eq_true h))]
  · rw [if_neg h, if_neg (by simp [h]), Dev.writeLost]

theorem Dev.mergeGroup_two {d : Dev} {bank : Nat} {p q : HallReq} (hp : p.kind = .write) (hq : q.kind = .write) (hrow : q.row = p.row)
    (hpbe : p.be.toNat = 255) (hqbe : q.be.toNat = 255) (hmaster : p.master.toNat < q.master.toNat) (hpok : d.reqOk bank p = true) (hqok : d.reqOk bank q = true) :
    d.servedBy bank ⟨bank, 0, p⟩ [⟨bank, 0, p⟩, ⟨bank, 0, q⟩] = [⟨bank, 0, p⟩, ⟨bank, 0, q⟩] := by
  have hwrite (r : HallReq) (hr : r.be.toNat = 255) : d.writeOk bank r = true := by simp [Dev.writeOk, hr]
  have hfilter : ([⟨bank, 0, p⟩, ⟨bank, 0, q⟩] : List BankReq).filter
      (fun x => decide (x.req.kind = .write) && x.req.row == p.row && d.reqOk bank x.req && d.writeOk bank x.req) = [⟨bank, 0, p⟩, ⟨bank, 0, q⟩] := by
    simp [hp, hq, hrow, hpok, hqok, hwrite p hpbe, hwrite q hqbe]
  rw [Dev.servedBy, if_pos ⟨hp, hpok, hwrite p hpbe⟩, Dev.mergeGroup, hfilter]
  exact sortBy_two hmaster

/-- What a lost write leaves: its command has lost a write, it is counted, and answered. -/
theorem Dev.writeLost_reads (d : Dev) (q : HallReq) (a : Nat) :
    (d.writeLost q a).hall = d.hall ∧ (d.writeLost q a).watches = d.watches
      ∧ (d.writeLost q a).out = d.out ++ [.hallStatus q.master.toNat stWriteLost 0]
      ∧ (d.writeLost q a).get Fld.HAL_WLOST_ALL = min Fld.HAL_WLOST_ALL.max (d.get Fld.HAL_WLOST_ALL + 1)
      ∧ (q.master.toNat = mHost → (d.writeLost q a).get Fld.HAL_WLOST_HOST = min Fld.HAL_WLOST_HOST.max (d.get Fld.HAL_WLOST_HOST + 1))
      ∧ ∀ c, q.owner = .cmd c → ∀ k ∈ (d.writeLost q a).cmds, k.ring = c.ring.toNat → k.index = c.index.toNat → k.lost = true := by
  obtain ⟨d1, hd1⟩ : ∃ d1, d1 = d.bump Fld.HAL_WLOST_ALL := ⟨_, rfl⟩
  obtain ⟨d2, hd2⟩ : ∃ d2, d2 = (d1.loses q.owner a).emit (.hallStatus q.master.toNat stWriteLost 0) := ⟨_, rfl⟩
  have hloses : d2.regs = d1.regs ∧ d2.hall = d1.hall ∧ d2.watches = d1.watches ∧ d2.out = d1.out ++ [.hallStatus q.master.toNat stWriteLost 0]
      ∧ ∀ c, q.owner = .cmd c → ∀ k ∈ d2.cmds, k.ring = c.ring.toNat → k.index = c.index.toNat → k.lost = true := by
    rw [hd2]
    unfold Dev.loses
    cases q.owner with
    | unit => exact ⟨rfl, rfl, rfl, rfl, fun c h => HallOwner.noConfusion h⟩
    | packet _ _ _ => exact ⟨rfl, rfl, rfl, rfl, fun c h => HallOwner.noConfusion h⟩
    | cmd c' =>
      refine ⟨rfl, rfl, rfl, rfl, fun c h k hk hring hindex => ?_⟩
      obtain rfl := HallOwner.cmd.inj h
      obtain ⟨k', -, rfl⟩ := List.mem_map.1 hk
      by_cases hof : k'.ring = c'.ring.toNat ∧ k'.index = c'.index.toNat
      · rw [if_pos hof]
      · rw [if_neg hof] at hring hindex
        exact absurd ⟨hring, hindex⟩ hof
  obtain ⟨hregs, hhall, hwatch, hout, hcmds⟩ := hloses
  have hall1 : d2.get Fld.HAL_WLOST_ALL = min Fld.HAL_WLOST_ALL.max (d.get Fld.HAL_WLOST_ALL + 1) := by
    rw [Dev.get_of_regs hregs, hd1, Dev.get_bump_same _ _ _ _ _ (by decide) (by decide)]
  have hhost1 : d2.get Fld.HAL_WLOST_HOST = d.get Fld.HAL_WLOST_HOST := by
    rw [Dev.get_of_regs hregs, hd1, Dev.bump, Dev.get_put_beside _ (by decide)]
  have hbase : d1.hall = d.hall ∧ d1.watches = d.watches ∧ d1.out = d.out := by
    rw [hd1]
    exact ⟨Dev.bump_hall .., Dev.bump_watches .., Dev.bump_out ..⟩
  obtain ⟨hhall1, hwatch1, hout1⟩ := hbase
  rw [Dev.writeLost, ← hd1, ← hd2]
  split
  · refine ⟨?_, ?_, ?_, ?_, fun _ => ?_, ?_⟩
    · rw [Dev.bump_hall, hhall, hhall1]
    · rw [Dev.bump_watches, hwatch, hwatch1]
    · rw [Dev.bump_out, hout, hout1]
    · rw [Dev.bump, Dev.get_put_beside _ (by decide), hall1]
    · rw [Dev.get_bump_same _ _ _ _ _ (by decide) (by decide), hhost1]
    · rw [Dev.bump_cmds]
      exact hcmds
  · rename_i hnot
    exact ⟨hhall.trans hhall1, hwatch.trans hwatch1, hout.trans (congrArg (· ++ _) hout1), hall1, fun h => absurd h hnot, hcmds⟩

/-! ## Requests that do not merge (R111) -/

/-- The grant of a request that is no write: at most its word and its counters change, and it is answered. -/
theorem Dev.grant_accessed {d : Dev} {bank : Nat} {q : HallReq} {served : List BankReq} (h : q.kind ≠ .write) :
    ∃ e o, d.grant bank q served = e.emit o ∧ d.AccessedTo e := by
  rw [Dev.grant, if_neg h]
  split
  · exact ⟨_, _, rfl, d.accessedTo_deny⟩
  · split
    · exact ⟨_, _, rfl, d.accessedTo_meetBad _ _⟩
    · split
      · exact ⟨_, _, rfl, .refl d⟩
      · split
        · exact ⟨_, _, rfl, .refl d⟩
        · exact ⟨_, _, rfl, d.accessedTo_hallPut _ _⟩

theorem Dev.AccessedTo.stalled {d d' : Dev} (h : d.AccessedTo d') : d'.stalled = d.stalled := by rw [h.frame]

theorem Dev.stalled_elsewhere_one {d : Dev} {bank n : Nat} {q : HallReq} (h : d.stalled = [⟨bank, n, q⟩]) :
    d.stalled.filter (fun (x : BankReq) => x.bank == bank) = [⟨bank, n, q⟩] ∧ d.stalled.filter (fun (x : BankReq) => x.bank != bank) = [] := by
  rw [h]
  simp

/-- The younger of two requests that cannot merge stalls, one cycle older. -/
theorem exec_grant_stalls {s : State} {bank : BitVec 8} {p q : HallReq} (hcalm : s.calm) (hp : p.kind ≠ .write) (hmaster : p.master.toNat < q.master.toNat)
    (hfresh : s.dev.stalled.filter (fun (x : BankReq) => x.bank == bank.toNat) = []) :
    ∃ t : State, exec (.hallBankGrant bank [p, q] []) s = .next t ∧ t.dev.stalled = s.dev.stalled ++ [⟨bank.toNat, 1, q⟩]
      ∧ t.dev.get Fld.HAL_CONFLICT_STALLS = min Fld.HAL_CONFLICT_STALLS.max (s.dev.get Fld.HAL_CONFLICT_STALLS + 1) := by
  obtain ⟨halive, hwatch⟩ := hcalm
  have hage := one_le_atLeast1 (s.dev.get Fld.HAL_CFG_AGE)
  have hall : s.dev.readyAt bank.toNat [p, q] = [⟨bank.toNat, 0, p⟩, ⟨bank.toNat, 0, q⟩] := Dev.readyAt_fresh hfresh [p, q]
  have hrest : ([⟨bank.toNat, 0, p⟩] : List BankReq).foldl List.erase [⟨bank.toNat, 0, p⟩, ⟨bank.toNat, 0, q⟩] = [⟨bank.toNat, 0, q⟩] := by
    rw [List.foldl_cons, List.foldl_nil, List.erase_cons_head]
  have hcycle := Dev.bankCycle_grants hall (pickReq_two hage _ hmaster) (Dev.servedBy_plain hp _) hrest
  rw [stalled_elsewhere hfresh] at hcycle
  obtain ⟨d1, hd1⟩ : ∃ d1, d1 = s.dev.counted 1 (([⟨bank.toNat, 0, p⟩] : List BankReq).filter fun q => decide (atLeast1 (s.dev.get Fld.HAL_CFG_AGE) ≤ q.age)).length
      (s.dev.stalled ++ [⟨bank.toNat, 1, q⟩]) := ⟨_, rfl⟩
  obtain ⟨e, o, hgrant, hacc⟩ := d1.grant_accessed (served := [⟨bank.toNat, 0, p⟩]) (bank := bank.toNat) hp
  have hd : s.dev.bankCycle bank.toNat [p, q] = e.emit o := by
    rw [hcycle, ← hgrant, hd1]
    rfl
  obtain ⟨-, -, -, -, -, -, hwatch1, hstalled1⟩ := s.dev.counted_keeps 1
    (([⟨bank.toNat, 0, p⟩] : List BankReq).filter fun q => decide (atLeast1 (s.dev.get Fld.HAL_CFG_AGE) ≤ q.age)).length (s.dev.stalled ++ [⟨bank.toNat, 1, q⟩])
  rw [← hd1] at hwatch1 hstalled1
  refine ⟨_, exec_hallBankGrant halive bank [p, q] hd ?_, ?_, ?_⟩
  · rw [Dev.emit_watches, hacc.watches, hwatch1, hwatch]
  · rw [State.dev_withDev, Dev.emit_stalled, hacc.stalled, hstalled1]
  · rw [State.dev_withDev, Dev.get_of_regs (Dev.emit_regs ..), hacc.get (by decide), hd1, Dev.counted_stalls]

/-- A request that has stalled long enough is granted first (R111). -/
theorem exec_grant_aged {s : State} {bank : BitVec 8} {p q : HallReq} {n : Nat} (hcalm : s.calm) (hstalled : s.dev.stalled = [⟨bank.toNat, n, q⟩])
    (hn : atLeast1 (s.dev.get Fld.HAL_CFG_AGE) ≤ n) (hread : q.kind = .read) (hok : s.dev.reqOk bank.toNat q = true)
    (hclean : s.dev.badWords (bankAddr bank.toNat q.row.toNat) 8 = []) :
    ∃ t : State, exec (.hallBankGrant bank [p] []) s = .next t ∧ t.dev.stalled = [⟨bank.toNat, 1, p⟩]
      ∧ t.dev.out = s.dev.out ++ [.hallStatus q.master.toNat stOK (s.dev.hallWord (bankAddr bank.toNat q.row.toNat))]
      ∧ t.dev.get Fld.HAL_ROTATE_AGED = min Fld.HAL_ROTATE_AGED.max (s.dev.get Fld.HAL_ROTATE_AGED + 1) := by
  obtain ⟨halive, hwatch⟩ := hcalm
  have hage := one_le_atLeast1 (s.dev.get Fld.HAL_CFG_AGE)
  obtain ⟨hhere, helse⟩ := Dev.stalled_elsewhere_one hstalled
  have hall : s.dev.readyAt bank.toNat [p] = [⟨bank.toNat, n, q⟩, ⟨bank.toNat, 0, p⟩] := by
    rw [Dev.readyAt, hhere]
    rfl
  have hrest : ([⟨bank.toNat, n, q⟩] : List BankReq).foldl List.erase [⟨bank.toNat, n, q⟩, ⟨bank.toNat, 0, p⟩] = [⟨bank.toNat, 0, p⟩] := by
    rw [List.foldl_cons, List.foldl_nil, List.erase_cons_head]
  have hcycle := Dev.bankCycle_grants hall (pickReq_aged hage hn _ p q) (Dev.servedBy_plain (by rw [hread]; decide) _) hrest
  have haged : (([⟨bank.toNat, n, q⟩] : List BankReq).filter fun q => decide (atLeast1 (s.dev.get Fld.HAL_CFG_AGE) ≤ q.age)) = [⟨bank.toNat, n, q⟩] :=
    List.filter_cons_of_pos (decide_eq_true hn)
  rw [haged, helse, List.nil_append] at hcycle
  obtain ⟨d1, hd1⟩ : ∃ d1, d1 = s.dev.counted 1 1 [⟨bank.toNat, 1, p⟩] := ⟨_, rfl⟩
  obtain ⟨hhall, hbad, -, -, hout, -, hwatch1, hstalled1⟩ := s.dev.counted_keeps 1 1 [⟨bank.toNat, 1, p⟩]
  rw [← hd1] at hhall hbad hout hwatch1 hstalled1
  have hok1 : d1.reqOk bank.toNat q = true := by rw [hd1, Dev.reqOk_counted, hok]
  have hclean1 : d1.hallBad.contains (bankAddr bank.toNat q.row.toNat) = false := by rw [hbad]; exact Dev.not_bad_of_clean hclean
  have hword : d1.hallWord (bankAddr bank.toNat q.row.toNat) = s.dev.hallWord (bankAddr bank.toNat q.row.toNat) := by rw [Dev.hallWord, hhall, Dev.hallWord]
  have hd : s.dev.bankCycle bank.toNat [p] = d1.emit (.hallStatus q.master.toNat stOK (s.dev.hallWord (bankAddr bank.toNat q.row.toNat))) := by
    rw [hcycle, ← hword, ← Dev.grant_read (served := [⟨bank.toNat, n, q⟩]) hok1 hclean1 hread, hd1]
    rfl
  refine ⟨_, exec_hallBankGrant halive bank [p] hd ?_, ?_, ?_, ?_⟩
  · rw [Dev.emit_watches, hwatch1, hwatch]
  · rw [State.dev_withDev, Dev.emit_stalled, hstalled1]
  · rw [State.dev_withDev, Dev.emit_out, hout]
  · rw [State.dev_withDev, Dev.get_of_regs (Dev.emit_regs ..), hd1, Dev.counted_aged]

/-! ## The two writes as a step -/

/-- The state after two whole-word writes of one word, ready together. -/
theorem exec_grant_writes {s : State} {bank : BitVec 8} {p q : HallReq} (hcalm : s.calm) (hp : p.kind = .write) (hq : q.kind = .write) (hrow : q.row = p.row)
    (hpbe : p.be.toNat = 255) (hqbe : q.be.toNat = 255) (hmaster : p.master.toNat < q.master.toNat)
    (hclean : s.dev.badWords (bankAddr bank.toNat p.row.toNat) 8 = [] ∨ s.dev.badWords (bankAddr bank.toNat p.row.toNat) 8 = [bankAddr bank.toNat p.row.toNat])
    (hfresh : s.dev.stalled.filter (fun (x : BankReq) => x.bank == bank.toNat) = []) (hpok : s.dev.reqOk bank.toNat p = true) (hqok : s.dev.reqOk bank.toNat q = true) :
    ∃ e : Dev, exec (.hallBankGrant bank [p, q] []) s
        = .next (s.withDev (if q.data = p.data then e.emit (.hallStatus q.master.toNat stOK 0) else e.writeLost q (bankAddr bank.toNat p.row.toNat)))
      ∧ e.hallWord (bankAddr bank.toNat p.row.toNat) = p.data.toNat ∧ Mem.sameBut (bankAddr bank.toNat p.row.toNat) 8 s.dev.hall e.hall
      ∧ e.out = s.dev.out ++ [.hallStatus p.master.toNat stOK 0] ∧ e.get Fld.HAL_WLOST_ALL = s.dev.get Fld.HAL_WLOST_ALL
      ∧ e.get Fld.HAL_WLOST_HOST = s.dev.get Fld.HAL_WLOST_HOST := by
  obtain ⟨halive, hwatch⟩ := hcalm
  have hage := one_le_atLeast1 (s.dev.get Fld.HAL_CFG_AGE)
  have hall : s.dev.readyAt bank.toNat [p, q] = [⟨bank.toNat, 0, p⟩, ⟨bank.toNat, 0, q⟩] := Dev.readyAt_fresh hfresh [p, q]
  have hcycle := Dev.bankCycle_grants hall (pickReq_two hage _ hmaster) (Dev.mergeGroup_two hp hq hrow hpbe hqbe hmaster hpok hqok) rfl
  obtain ⟨n, m, l, hcycle⟩ : ∃ n m l, s.dev.bankCycle bank.toNat [p, q]
      = (s.dev.counted n m l).grant bank.toNat p [⟨bank.toNat, 0, p⟩, ⟨bank.toNat, 0, q⟩] := ⟨_, _, _, hcycle⟩
  obtain ⟨d1, hd1⟩ : ∃ d1, d1 = s.dev.counted n m l := ⟨_, rfl⟩
  obtain ⟨hhall, hbad, -, -, hout, -, hwatch1, -⟩ := s.dev.counted_keeps n m l
  rw [← hd1] at hcycle hhall hbad hout hwatch1
  have hok1 : d1.reqOk bank.toNat p = true := by rw [hd1, Dev.reqOk_counted, hpok]
  have hgrant : d1.grant bank.toNat p [⟨bank.toNat, 0, p⟩, ⟨bank.toNat, 0, q⟩]
      = d1.grantWrites bank.toNat p [⟨bank.toNat, 0, p⟩, ⟨bank.toNat, 0, q⟩] := by
    rw [Dev.grant]
    rw [hok1, if_neg (by simp), if_pos hp, if_pos (by simp [Dev.writeOk, hpbe])]
  obtain ⟨hallBad, hput⟩ := d1.hallPut_whole (bankAddr_aligned bank.toNat p.row.toNat) (bs := toBytes 8 p.data.toNat)
    (by rw [length_toBytes, Dev.badPart, Dev.badWords, hbad]; exact Dev.badPart_of_whole (d := s.dev) hclean)
  obtain ⟨e0, he0⟩ : ∃ e0, e0 = d1.hallPut (bankAddr bank.toNat p.row.toNat) (toBytes 8 p.data.toNat) := ⟨_, rfl⟩
  have hd : s.dev.bankCycle bank.toNat [p, q] = if q.data = p.data then (e0.emit (.hallStatus p.master.toNat stOK 0)).emit (.hallStatus q.master.toNat stOK 0)
      else (e0.emit (.hallStatus p.master.toNat stOK 0)).writeLost q (bankAddr bank.toNat p.row.toNat) := by
    rw [hcycle, hgrant, d1.grantWrites_two bank.toNat hpbe hqbe, ← he0]
  have hkept : e0.watches = [] ∧ e0.out = s.dev.out ∧ e0.regs = d1.regs ∧ e0.hallWord (bankAddr bank.toNat p.row.toNat) = p.data.toNat
      ∧ Mem.sameBut (bankAddr bank.toNat p.row.toNat) 8 s.dev.hall e0.hall := by
    rw [he0, hput]
    refine ⟨hwatch1.trans hwatch, hout, rfl, d1.hallWord_written p.data.isLt, ?_⟩
    have hsame := d1.hall.sameBut_writeBytes (bankAddr bank.toNat p.row.toNat) (toBytes 8 p.data.toNat)
    rw [length_toBytes] at hsame
    rw [← hhall]
    exact hsame
  obtain ⟨hewatch, heout, heregs, heword, hesame⟩ := hkept
  obtain ⟨e, he⟩ : ∃ e, e = e0.emit (.hallStatus p.master.toNat stOK 0) := ⟨_, rfl⟩
  have hregs : e.regs = d1.regs := by rw [he, Dev.emit_regs, heregs]
  have hehall : e.hall = e0.hall := by rw [he, Dev.emit_hall]
  refine ⟨e, exec_hallBankGrant halive bank [p, q] (hd.trans (by rw [he])) ?_, ?_, ?_, ?_, ?_, ?_⟩
  · split
    · rw [Dev.emit_watches, he, Dev.emit_watches, hewatch]
    · rw [(e.writeLost_reads q _).2.1, he, Dev.emit_watches, hewatch]
  · rw [Dev.hallWord, hehall, ← Dev.hallWord, heword]
  · rw [hehall]
    exact hesame
  · rw [he, Dev.emit_out, heout]
  · rw [Dev.get_of_regs hregs, hd1, s.dev.get_counted n m l (by decide)]
  · rw [Dev.get_of_regs hregs, hd1, s.dev.get_counted n m l (by decide)]

/-! ## The statement -/

/-- Settles O12: of the requests ready at a bank one is granted, whole writes of one word together, and every other stalls. -/
theorem hallGrants : Obligations.HallGrants := by
  refine ⟨fun s bank q => ?_, fun s bank p q => ?_, fun s bank p q => ?_⟩
  · intro d a m hcalm hclean hfresh
    obtain ⟨d1, hd1, hexec, hdram, hhost, hsame⟩ := exec_grant_one hcalm hclean hfresh
    obtain ⟨hhall, hbad, -, -, hout, -, -, -⟩ := s.dev.counted_keeps 0 0 s.dev.stalled
    rw [← hd1] at hhall hbad hout
    have hokIff : d1.reqOk bank.toNat q = d.reqOk bank.toNat q := by rw [hd1, Dev.reqOk_counted]
    have hclean1 : d1.hallBad.contains (bankAddr bank.toNat q.row.toNat) = false := by rw [hbad]; exact Dev.not_bad_of_clean hclean
    have hword : d1.hallWord a = d.hallWord a := by rw [Dev.hallWord, hhall, Dev.hallWord]
    have hatomic (hok : d.reqOk bank.toNat q = true) (hkind : q.kind = .add ∨ q.kind = .swap)
        (hlt : atomicWord q.kind (d.hallWord a) q.data.toNat q.compare.toNat < 2 ^ 64) :
        (d1.grant bank.toNat q [⟨bank.toNat, 0, q⟩]).hallWord a = atomicWord q.kind (d.hallWord a) q.data.toNat q.compare.toNat
          ∧ (d1.grant bank.toNat q [⟨bank.toNat, 0, q⟩]).out = d.out ++ [.hallStatus m stOK (d.hallWord a)] := by
      obtain ⟨hallBad, hput⟩ := d1.hallPut_whole (bankAddr_aligned bank.toNat q.row.toNat)
        (bs := toBytes 8 (atomicWord q.kind (d.hallWord a) q.data.toNat q.compare.toNat))
        (by rw [length_toBytes, Dev.badPart, Dev.badWords, hbad]; exact Dev.badPart_of_clean (d := s.dev) hclean)
      rw [Dev.grant_atomic (hokIff.trans hok) hclean1 hkind, hword, hput]
      exact ⟨d1.hallWord_written (hallBad := hallBad) hlt, congrArg (· ++ _) hout⟩
    refine ⟨_, hexec, hsame, hdram, hhost, fun hok hkind => ?_, fun hok hkind => ?_, fun hok hkind => ?_, fun hno => ?_⟩
    · rw [State.dev_withDev, Dev.grant_read (hokIff.trans hok) hclean1 hkind, Dev.emit_hall, Dev.emit_out, hhall, hout, hword]
      exact ⟨rfl, rfl⟩
    · rw [hkind] at hatomic
      exact hatomic hok (.inl rfl) (Nat.mod_lt _ (by norm_num))
    · rw [hkind] at hatomic
      exact hatomic hok (.inr rfl) q.data.isLt
    · rw [State.dev_withDev, Dev.grant_denied (hokIff.trans hno), Dev.emit_hall, Dev.emit_out, Dev.deny, Dev.bump_hall, Dev.bump_out, hhall, hout]
      refine ⟨rfl, rfl, ?_⟩
      rw [Dev.get_of_regs (Dev.emit_regs ..), Dev.get_bump_same _ _ _ _ _ (by decide) (by decide), hd1, s.dev.get_counted 0 0 _ (by decide)]
  · intro d a hcalm hp hq hrow hpbe hqbe hmaster hclean hfresh hpok hqok
    obtain ⟨e, hexec, hword, hsame, hout, hall, hhost⟩ := exec_grant_writes hcalm hp hq hrow hpbe hqbe hmaster hclean hfresh hpok hqok
    by_cases heq : q.data = p.data
    · rw [if_pos heq] at hexec
      refine ⟨_, hexec, hword, hsame, fun _ => ?_, fun hne => absurd heq.symm hne⟩
      rw [State.dev_withDev, Dev.emit_out, hout, List.append_assoc]
      rfl
    · rw [if_neg heq] at hexec
      obtain ⟨hlhall, -, hlout, hlall, hlhost, hlcmds⟩ := e.writeLost_reads q a
      refine ⟨_, hexec, ?_, ?_, fun h => absurd h.symm heq, fun _ => ⟨?_, ?_, ?_, hlcmds⟩⟩
      · rw [State.dev_withDev, Dev.hallWord, hlhall, ← Dev.hallWord, hword]
      · rw [State.dev_withDev, hlhall]
        exact hsame
      · rw [State.dev_withDev, hlout, hout, List.append_assoc]
        rfl
      · rw [State.dev_withDev, hlall, hall]
      · rw [State.dev_withDev, ← hhost]
        exact hlhost
  · intro d hcalm hp hmaster
    exact ⟨exec_grant_stalls hcalm hp hmaster, fun n hstalled hn hread hok hclean => exec_grant_aged hcalm hstalled hn hread hok hclean⟩

end Sys2Proof.Machine

/-! # Core control, output sends and retrieval selections (R118, R124, R140, R141, R175) -/

namespace Sys2Proof.Machine

/-! ## Core control (R118) -/

theorem Dev.writeCoreCtl_regs (d : Dev) (n v : Nat) : Dev.sameRegsBut [Fld.ATT_CORE_CTL_EN.off n 0] d (d.writeCoreCtl n v) := by
  intro off w hoff
  have hne : off ≠ Fld.ATT_CORE_CTL_EN.off n 0 := fun h => hoff (h ▸ List.mem_cons_self)
  rw [Dev.writeCoreCtl, Dev.word_put_other _ _ _ _ _ hne, d.word_put_other Fld.ATT_CORE_CTL_DRAIN _ n 0 hne]

theorem Dev.writeCoreCtl_reads (d : Dev) (n v : Nat) :
    (d.writeCoreCtl n v).get Fld.ATT_CORE_CTL_EN n = bits v 0 0 ∧ (d.writeCoreCtl n v).get Fld.ATT_CORE_CTL_DRAIN n = bits v 1 1 := by
  rw [Dev.writeCoreCtl]
  refine ⟨?_, ?_⟩
  · rw [Dev.get_put_same _ _ _ _ _ (by decide) (by decide)]
    exact Nat.mod_eq_of_lt (Nat.mod_lt _ (by decide))
  · rw [Dev.get_put_beside _ (by decide), Dev.get_put_same _ _ _ _ _ (by decide) (by decide)]
    exact Nat.mod_eq_of_lt (Nat.mod_lt _ (by decide))

theorem exec_attCoreCtlWrite {s : State} {core : BitVec 9} {v : Word} (halive : s.dev.alive = true) (hopen : s.dev.open' = true)
    (hfitted : s.dev.boatFitted (core.toNat / 8) = true) :
    exec (.attCoreCtlWrite core v) s = .next (s.withDev { s.dev with regs := (s.dev.writeCoreCtl core.toNat v.toNat).regs }) := by
  show execAttCoreCtlWrite core v s = _
  rw [execAttCoreCtlWrite, onDev_alive halive, hopen, hfitted]
  rfl

/-! ## Output sends (R124, R175) -/

section Sends

variable {s : State} {c : CmdId} {k : RunCmd} (halive : s.dev.alive = true) (hk : s.dev.cmdOf c = some k) (hphase : k.phase = .acks)
  (hops : k.ops = []) (hsync : k.note = sendSync)
include halive hk hphase hops hsync

theorem exec_sendAck_attn (hop : opOf k.entry = opAttnStep) : exec (.outputSendAck c) s
    = .next (s.settled (s.dev.endCmd k s.dev.pair.next (if k.status ≠ stOK then k.status else k.pos) k.res)) := by
  show execOutputSendAck c s = _
  refine onHall_settled halive ?_
  rw [hk]
  dsimp only
  rw [if_neg (not_not.2 hphase), if_pos hop, Dev.sendStep, hops, if_neg (by simp), if_pos (.inr hsync), Dev.endSend]

theorem exec_sendAck_lora (hop : opOf k.entry = opLoraApply) : exec (.outputSendAck c) s = .next (s.settled (s.dev.endCmd { k with res := k.res.take 2 }
    s.dev.pair.next (if k.status ≠ stOK then k.status else k.pos) (k.res.take 2))) := by
  show execOutputSendAck c s = _
  refine onHall_settled halive ?_
  rw [hk]
  dsimp only
  rw [if_neg (not_not.2 hphase), if_neg (by rw [hop]; decide), if_pos hop, Dev.sendStep]
  dsimp only
  rw [hops, if_neg (by simp), if_pos (.inr hsync), Dev.endSend]

end Sends

/-! ## RETR_SELECT at the head of its ring (R140) -/

section Head

variable {s : State} {c : CmdId} (halive : s.dev.alive = true) (hhead : s.dev.retrHead c = true)
include halive hhead

theorem exec_retrSelect_waits (hretr : s.dev.retr = []) (hsum : s.dev.flag Fld.IDX_SUM_BASE_EN = true) (hhanding : s.dev.handing = false) :
    exec (.retrSelect c) s = .next (s.settled { s.dev with
      retr := [⟨c.ring.toNat, c.index.toNat, if u16 (s.dev.head c.ring.toNat) 22 < s.dev.angle then s.dev.clk.number + 1 else s.dev.clk.number⟩] }) := by
  show execRetrSelect c s = _
  refine onHall_settled halive ?_
  dsimp only
  rw [hhead, hretr, hsum, hhanding, if_neg (by simp), if_neg (by simp), List.nil_append]

theorem exec_retrSelect_noSummary (hretr : s.dev.retr = []) (hsum : s.dev.flag Fld.IDX_SUM_BASE_EN = false) :
    exec (.retrSelect c) s = .next (s.settled (s.dev.popEnd c.ring.toNat stAborted [])) := by
  show execRetrSelect c s = _
  refine onHall_settled halive ?_
  dsimp only
  rw [hhead, hretr, hsum, if_neg (by simp), if_pos (by simp)]

end Head

theorem exec_retrStart_again {s : State} {c : CmdId} {k : RunCmd} (halive : s.dev.alive = true) (hact : s.dev.act c opRetrSelect = some k) :
    exec (.retrSelectStart c) s = .next (s.settled (s.dev.retrGo k)) := by
  show execRetrSelectStart c s = _
  refine onHall_settled halive ?_
  rw [hact]

theorem exec_retrStart_due {s : State} {c : CmdId} {k : RunCmd} {d1 : Dev} (halive : s.dev.alive = true) (hnot : s.dev.act c opRetrSelect = none)
    (hhead : s.dev.retrHead c = true) (hdue : s.dev.retrDue c = true) (hsum : s.dev.flag Fld.IDX_SUM_BASE_EN = true) (hhanding : s.dev.handing = false)
    (hroom : s.dev.running engIndex < room engIndex)
    (hd1 : { (s.dev.take c.ring.toNat engIndex (s.dev.isLc c.ring.toNat (s.dev.head c.ring.toNat)) none .run) with
      retr := s.dev.retr.filter fun w => w.ring != c.ring.toNat } = d1)
    (hact : d1.act c opRetrSelect = some k) : exec (.retrSelectStart c) s = .next (s.settled (d1.retrGo k)) := by
  show execRetrSelectStart c s = _
  rw [execRetrSelectStart]
  refine onHall_settled halive ?_
  split
  · rename_i hsome
    rw [hnot] at hsome
    exact absurd hsome.symm (Option.some_ne_none _)
  · rw [hhead, hdue, hsum, hhanding, if_neg (by simp), if_neg (by simp), if_neg (Nat.not_le.2 hroom)]
    generalize ({ (s.dev.take c.ring.toNat engIndex (s.dev.isLc c.ring.toNat (s.dev.head c.ring.toNat)) none .run) with
      retr := s.dev.retr.filter fun w => w.ring != c.ring.toNat } : Dev) = taken at hd1 ⊢
    rw [hd1]
    dsimp only
    rw [hact]

/-! ## The selection (R141) -/

section Selection

variable {d d1 d2 : Dev} {k : RunCmd} {sh : Shape} {m : SelAt} (hstatus : k.status = stOK) (hcheck : d.retrCheck k = (d1, stOK))
  (hshape : d1.tableShape (d1.stepTab (u32 k.entry 16)) = some sh)
  (hsegs : Dev.selectSegs k (d1.stepTab (u32 k.entry 16)) sh (List.range (d1.stepTab (u32 k.entry 16)).nsegs) ⟨0, 0, none⟩ d1 = .ok m d2)
include hstatus hcheck hshape hsegs

theorem Dev.retrGo_selected (hm : m.stale = none) : d.retrGo k
    = ((d2.bump Fld.IDX_RSEL_STAT_SETS m.sets).bump Fld.IDX_RSEL_STAT_SKIPPED m.skip).endCmd k d1.pair.next stOK [m.sets, m.skip] := by
  rw [Dev.retrGo, if_neg (not_not.2 hstatus), Dev.retrRun, hcheck]
  dsimp only
  rw [if_neg (by simp), hshape]
  dsimp only
  rw [hsegs, Res.andThen]
  rw [hm, Dev.settleCmd]

theorem Dev.retrGo_stale {p tag : Nat} (hm : m.stale = some (p, tag)) (htag : tag ≠ 0) :
    d.retrGo k = (d2.tagMismatch mIndex p tag).endCmd k d1.pair.next stAborted [] := by
  rw [Dev.retrGo, if_neg (not_not.2 hstatus), Dev.retrRun, hcheck]
  dsimp only
  rw [if_neg (by simp), hshape]
  dsimp only
  rw [hsegs, Res.andThen]
  rw [hm]
  dsimp only
  rw [if_neg htag, Dev.settleCmd]

end Selection

/-- Settles O13: core control, the end of a posted output send, and a `RETR_SELECT` from the head of its ring to its completion. -/
theorem coreControlAndSends : Obligations.CoreControlAndSends := by
  refine ⟨fun s core v => ?_, fun s c k => ?_, ?_⟩
  · intro d n halive hopen hfitted
    obtain ⟨hen, hdrain⟩ := d.writeCoreCtl_reads n v.toNat
    exact ⟨_, exec_attCoreCtlWrite halive hopen hfitted, hen, hdrain, d.writeCoreCtl_regs n v.toNat, rfl⟩
  · intro d e r halive
    refine ⟨fun hk hphase hops hsync => ⟨?_, ?_⟩, fun hhead hretr => ⟨?_, ?_⟩, ?_, ?_⟩
    · exact exec_sendAck_attn halive hk hphase hops hsync
    · exact exec_sendAck_lora halive hk hphase hops hsync
    · exact exec_retrSelect_waits halive hhead hretr
    · exact exec_retrSelect_noSummary halive hhead hretr
    · exact exec_retrStart_again halive
    · intro hnot hhead hdue hsum hhanding hroom d1 hact
      exact exec_retrStart_due halive hnot hhead hdue hsum hhanding hroom (d1 := d1) rfl hact
  · exact fun d k d1 sh m d2 hstatus hcheck hshape hsegs =>
      ⟨Dev.retrGo_selected hstatus hcheck hshape hsegs, fun p tag hm htag => Dev.retrGo_stale hstatus hcheck hshape hsegs hm htag⟩

end Sys2Proof.Machine

/-! # Windows (R272, R273, R276) -/

namespace Sys2Proof.Machine

/-! ## WIN_OPEN -/

section Open

variable {s : State} {c : CmdId} {k : RunCmd} {got : List FetchResult} (halive : s.dev.alive = true) (hact : s.dev.act c opWinOpen = some k)
include halive hact

theorem exec_winOpen_malformed (h : s.dev.winFor (u16 k.entry 16) = none ∨ winOk (u8 k.entry 18) (u8 k.entry 19) (u64 k.entry 24) (u64 k.entry 32) = false) :
    exec (.winOpen c got) s = .next (s.settled (s.dev.endCmd k s.dev.pair.next stAborted [])) := by
  show execWinOpen c got s = _
  rw [execWinOpen]
  refine onHall_settled halive ?_
  rw [hact]
  dsimp only
  split
  · rfl
  · rename_i w hwin
    have hok : winOk (u8 k.entry 18) (u8 k.entry 19) (u64 k.entry 24) (u64 k.entry 32) = false :=
      h.resolve_left (by rw [hwin]; exact Option.some_ne_none w)
    rw [hok, if_pos (by simp)]

variable {w : Nat} (hwin : s.dev.winFor (u16 k.entry 16) = some w) (hok : winOk (u8 k.entry 18) (u8 k.entry 19) (u64 k.entry 24) (u64 k.entry 32) = true)
include hwin hok

theorem exec_winOpen_hall (hspace : u8 k.entry 18 = 0) : exec (.winOpen c got) s = .next (s.settled (s.dev.openWin k w)) := by
  show execWinOpen c got s = _
  rw [execWinOpen]
  refine onHall_settled halive ?_
  rw [hact]
  dsimp only
  rw [hwin]
  dsimp only
  rw [hok, if_neg (by simp), if_pos hspace]

variable (hspace : u8 k.entry 18 = 1) {va n : Nat} (hspan : granSpan (u64 k.entry 24) (u64 k.entry 32) = (va, n)) (hleaves : s.dev.allLeaves k.tenant va n = true)
include hspace hspan hleaves

/-- The fetches of what lies in lower tiers are begun first. -/
theorem exec_winOpen_fetches (hstage : k.stage = 0) (hheld : (s.dev.leafCells (s.dev.leavesOf k.tenant va n)).any (fun c => (s.dev.cellar c).state == clHeld) = true) :
    exec (.winOpen c got) s
      = .next (s.settled (((s.dev.leafCells (s.dev.leavesOf k.tenant va n)).foldl Dev.beginFetch s.dev).setCmd { k with stage := 1 })) := by
  show execWinOpen c got s = _
  rw [execWinOpen]
  refine onHall_settled halive ?_
  rw [hact]
  dsimp only
  rw [hwin]
  dsimp only
  rw [hok, if_neg (by simp), if_neg (by rw [hspace]; decide), hspan]
  dsimp only
  rw [hleaves, if_neg (by simp), if_pos ⟨hstage, hheld⟩]

/-- What a `WIN_OPEN` of virtual space comes to once its leaves have been looked at. -/
def Dev.winResolved (d : Dev) (k : RunCmd) (w va n : Nat) (cells : List Nat) : Resolved → Dev
  | .wait => d
  | .quota d' => (cells.foldl Dev.giveUp d').endCmd k d.pair.next stQuotaBlocked []
  | .abort d' => (cells.foldl Dev.giveUp d').endCmd k d.pair.next stAborted []
  | .ok d' _ => (((d'.leavesOf k.tenant va n).map (·.2.addr)).foldl (Dev.pinLeaf w) d').openWin k w

theorem exec_winOpen_resolved
    (hready : k.stage ≠ 0 ∨ (s.dev.leafCells (s.dev.leavesOf k.tenant va n)).any (fun c => (s.dev.cellar c).state == clHeld) = false) :
    exec (.winOpen c got) s = .next (s.settled (s.dev.winResolved k w va n (s.dev.leafCells (s.dev.leavesOf k.tenant va n))
      (Dev.resolveLeaves k.tenant (s.dev.leavesOf k.tenant va n) got s.dev))) := by
  show execWinOpen c got s = _
  rw [execWinOpen]
  refine onHall_settled halive ?_
  rw [hact]
  dsimp only
  rw [hwin]
  dsimp only
  rw [hok, if_neg (by simp), if_neg (by rw [hspace]; decide), hspan]
  dsimp only
  have hnot : ¬ (k.stage = 0 ∧ (s.dev.leafCells (s.dev.leavesOf k.tenant va n)).any (fun c => (s.dev.cellar c).state == clHeld) = true) := by
    rintro ⟨hstage, hheld⟩
    obtain h | h := hready
    · exact h hstage
    · rw [hheld] at h
      exact Bool.noConfusion h
  rw [hleaves, if_neg (by simp), if_neg hnot]
  split
  all_goals
    rename_i hres
    rw [hres, Dev.winResolved]

end Open

/-! ## WIN_REVOKE -/

section Revoke

variable {s : State} {c : CmdId} {k : RunCmd} (halive : s.dev.alive = true) (hact : s.dev.act c opWinRevoke = some k) (hbegun : k.begun = false)
include halive hact hbegun

theorem exec_winRevoke_begun {d1 : Dev} (hcount : u16 k.entry 16 < s.dev.winCount) (hopen : (s.dev.win (u16 k.entry 16)).state ≠ wsFree)
    (htenant : (s.dev.win (u16 k.entry 16)).tenant = k.tenant)
    (hd1 : { (s.dev.setWin (u16 k.entry 16) { s.dev.win (u16 k.entry 16) with state := wsRevoking }) with
      revokes := s.dev.revokes ++ [(k.ring, k.index, u16 k.entry 16)] } = d1) :
    exec (.winRevoke c) s = .next (s.settled (d1.setCmd { k with stage := 1 })) := by
  have hnot : ¬ (s.dev.winCount ≤ u16 k.entry 16 ∨ (s.dev.win (u16 k.entry 16)).state = wsFree ∨ (s.dev.win (u16 k.entry 16)).tenant ≠ k.tenant) := by
    rintro (h | h | h)
    · exact Nat.not_le.2 hcount h
    · exact hopen h
    · exact h htenant
  show execWinRevoke c s = _
  rw [execWinRevoke]
  refine onHall_settled halive ?_
  split
  · rename_i hnone
    rw [hact] at hnone
    exact absurd hnone (Option.some_ne_none k)
  · rename_i k' hk'
    rw [hact] at hk'
    obtain rfl := Option.some.inj hk'
    rw [hbegun, if_neg (by simp), if_neg hnot]
    generalize ({ (s.dev.setWin (u16 k.entry 16) { s.dev.win (u16 k.entry 16) with state := wsRevoking }) with
      revokes := s.dev.revokes ++ [(k.ring, k.index, u16 k.entry 16)] } : Dev) = marked at hd1 ⊢
    rw [hd1]

theorem exec_winRevoke_refused (h : s.dev.winCount ≤ u16 k.entry 16 ∨ (s.dev.win (u16 k.entry 16)).state = wsFree ∨ (s.dev.win (u16 k.entry 16)).tenant ≠ k.tenant) :
    exec (.winRevoke c) s = .next (s.settled (s.dev.endCmd k s.dev.pair.next stAborted [])) := by
  show execWinRevoke c s = _
  rw [execWinRevoke]
  refine onHall_settled halive ?_
  split
  · rename_i hnone
    rw [hact] at hnone
    exact absurd hnone (Option.some_ne_none k)
  · rename_i k' hk'
    rw [hact] at hk'
    obtain rfl := Option.some.inj hk'
    rw [hbegun, if_neg (by simp), if_pos h]

end Revoke

/-! ## The end of a revocation -/

theorem Dev.unpin_revokes (d : Dev) (w : Nat) : (d.unpin w).revokes = d.revokes := by
  rw [Dev.unpin]
  generalize d.pins.filter (·.1 == w) = mine
  generalize hd : ({ d with pins := d.pins.filter (·.1 != w) } : Dev) = d1
  have hd1 : d1.revokes = d.revokes := by rw [← hd]
  clear hd
  rw [← hd1]
  clear hd1
  induction mine generalizing d1 with
  | nil => rfl
  | cons p mine ih =>
    rw [List.foldl_cons, ih]
    split
    · rfl
    · exact Dev.dramPutN_revokes ..

theorem Dev.setWin_revokes (d : Dev) (w : Nat) (x : WinE) : (d.setWin w x).revokes = d.revokes := Dev.dramPut_revokes ..

section Complete

variable {d : Dev} {w : Nat} (hcount : w < d.winCount) (hstate : (d.win w).state = wsRevoking) (hflights : sget 0 w d.flights = 0) {d1 : Dev}
  (hd1 : (d.setWin w { d.win w with state := wsFree }).unpin w = d1)
include hcount hstate hflights hd1

theorem Dev.endRevoke_alone (hnone : d.revokes = []) : d.endRevoke w = { d1 with revokes := [] } := by
  have hrevokes : d1.revokes = [] := by rw [← hd1, Dev.unpin_revokes, Dev.setWin_revokes, hnone]
  have hnot : ¬ (d.winCount ≤ w ∨ (d.win w).state ≠ wsRevoking ∨ sget 0 w d.flights ≠ 0) := by
    rintro (h | h | h)
    · exact Nat.not_le.2 hcount h
    · exact h hstate
    · exact h hflights
  rw [Dev.endRevoke, if_neg hnot, hd1]
  dsimp only
  rw [hrevokes]
  rfl

theorem Dev.endRevoke_one {k : RunCmd} {d2 : Dev} (hone : d.revokes = [(k.ring, k.index, w)]) (hd2 : { d1 with revokes := [] } = d2)
    (hk : d2.cmd k.ring k.index = some k) : d.endRevoke w = d2.endCmd k d2.pair.next stOK [] := by
  have hrevokes : d1.revokes = [(k.ring, k.index, w)] := by rw [← hd1, Dev.unpin_revokes, Dev.setWin_revokes, hone]
  have hnot : ¬ (d.winCount ≤ w ∨ (d.win w).state ≠ wsRevoking ∨ sget 0 w d.flights ≠ 0) := by
    rintro (h | h | h)
    · exact Nat.not_le.2 hcount h
    · exact h hstate
    · exact h hflights
  have hothers : [(k.ring, k.index, w)].filter (fun x => x.2.2 != w) = [] := by simp
  have hmine : [(k.ring, k.index, w)].filter (fun x => x.2.2 == w) = [(k.ring, k.index, w)] := by simp
  rw [Dev.endRevoke, if_neg hnot, hd1]
  dsimp only
  rw [hrevokes, hmine, hothers, hd2, List.foldl_cons, List.foldl_nil]
  dsimp only
  rw [hk]

end Complete

/-- Settles O37: `WIN_OPEN` case by case, and a revocation from its beginning to its end. -/
theorem windows : Obligations.Windows := by
  intro s c k halive d e
  refine ⟨?_, ?_, ?_, ?_⟩
  · intro got w hact hwin hok ls cells
    refine ⟨exec_winOpen_hall halive hact hwin hok, fun hspace hleaves => ?_⟩
    have hspan : granSpan (u64 e 24) (u64 e 32) = ((granSpan (u64 e 24) (u64 e 32)).1, (granSpan (u64 e 24) (u64 e 32)).2) := rfl
    refine ⟨exec_winOpen_fetches halive hact hwin hok hspace hspan hleaves, fun hready => ?_⟩
    have hexec := exec_winOpen_resolved (got := got) halive hact hwin hok hspace hspan hleaves hready
    refine ⟨fun d' rest h => ?_, fun d' h => ?_, fun d' h => ?_, fun h => ?_⟩
    all_goals
      refine hexec.trans ?_
      rw [show Dev.resolveLeaves k.tenant (s.dev.leavesOf k.tenant _ _) got s.dev = _ from h, Dev.winResolved]
  · exact fun got hact => exec_winOpen_malformed halive hact
  · exact fun hact hbegun => ⟨fun hcount hopen htenant => exec_winRevoke_begun halive hact hbegun hcount hopen htenant rfl,
      exec_winRevoke_refused halive hact hbegun⟩
  · intro w hcount hstate hflights d1
    refine ⟨fun hnone => ?_, fun hone hk => ?_⟩
    all_goals show execWinRevokeComplete w s = _
    · exact onHall_settled halive (Dev.endRevoke_alone hcount hstate hflights rfl hnone)
    · exact onHall_settled halive (Dev.endRevoke_one hcount hstate hflights rfl hone rfl hk)

end Sys2Proof.Machine

/-! # Remote memory operations issued (R261, R277, R283, R287, R292) -/

namespace Sys2Proof.Machine

/-! ## The row of an `RM_OP` -/

/-- The row goes on with a command of its kind, well formed, that has not sent yet and may use its pair. -/
theorem Dev.rmRow_goes {d : Dev} {c : CmdId} {k : RunCmd} {kind : Nat} {wellFormed : Entry → Bool} {go : RunCmd → Dev → Dev} (hact : d.rmAct c kind = some k)
    (hsent : k.note ≠ rmSent) (hstatus : k.status = stOK) (hstage : k.stage ≠ stageBitmap) (hwell : wellFormed k.entry = true)
    (hcheck : kind = 5 ∨ d.rmCheck k true = stOK) : d.rmRow c kind wellFormed go = go k d := by
  have hst : (if kind = 5 then (if wellFormed k.entry then stOK else stAborted) else d.rmCheck k (wellFormed k.entry)) = stOK := by
    rw [hwell]
    split
    · rfl
    · rename_i hkind
      exact hcheck.resolve_left hkind
  rw [Dev.rmRow, hact]
  dsimp only
  rw [if_neg hstage, if_neg hsent, if_neg (not_not.2 hstatus), hst, if_neg (by simp)]

/-- The local bytes of a command are handed on. -/
theorem Dev.rmBytes_local {d d0 : Dev} {k : RunCmd} {bs : List Byte} {go : List Byte → Dev → Dev} (h : d.LocalBytes k bs d0) :
    d.rmBytes k (rmLen k.entry) go = go bs d0 := by
  obtain ⟨hvirt, hread⟩ | ⟨hvirt, hlen, rfl, rfl⟩ | ⟨hvirt, hlen, hok, hsees, rfl⟩ := h
  · rw [Dev.rmBytes, if_pos hvirt, hread, Dev.rmGo]
  · rw [Dev.rmBytes, if_neg (by rw [hvirt]; decide), if_pos hlen]
  · rw [Dev.rmBytes, if_neg (by rw [hvirt]; decide), if_neg hlen, hok, if_neg (by simp), hsees]
    exact if_neg Bool.false_ne_true

/-! ## The operations -/

section Issue

variable {s : State} {c : CmdId} {k : RunCmd} (halive : s.dev.alive = true) (hsent : k.note ≠ rmSent) (hstatus : k.status = stOK) (hstage : k.stage ≠ stageBitmap)
include halive hsent hstatus hstage

theorem exec_rmOpMcast {bs : List Byte} {d0 : Dev} (hact : s.dev.rmAct c 5 = some k) (hlen : rmLenOk (rmLen k.entry) = true) (hgroup : u16 k.entry 48 < 1024)
    (htenant : s.dev.grpTenant (u16 k.entry 48) = k.tenant) (hcount : s.dev.grpCount (u16 k.entry 48) ≠ 0) (hbytes : s.dev.LocalBytes k bs d0) :
    exec (.rmOpMcast c) s = .next (s.settled (((d0.mcastSend k (u16 k.entry 48) (u64 k.entry 32) (rmFence k.entry) bs).map (·.afterOps k.ring k.index)).getD
      (d0.creditWait (some (k.ring, k.index))))) := by
  show execRmOpMcast c s = _
  refine onHall_settled halive ?_
  rw [Dev.rmRow_goes hact hsent hstatus hstage (by rw [hlen, decide_eq_true hgroup]; rfl) (.inl rfl)]
  dsimp only
  rw [if_neg (not_not.2 htenant), if_neg hcount, Dev.rmBytes_local hbytes]
  split
  all_goals
    rename_i h
    rw [h]
    rfl

variable (hcheck : s.dev.rmCheck k true = stOK)
include hcheck

theorem exec_rmOpWrite {bs : List Byte} {d0 : Dev} (hact : s.dev.rmAct c 1 = some k) (hkind : rmKind k.entry = 1) (hlen : rmLenOk (rmLen k.entry) = true)
    (hbytes : s.dev.LocalBytes k bs d0) :
    (∀ body d1, d0.egress (rmQp k.entry) bs = some (body, d1) → exec (.rmOpWrite c) s = .next (s.settled (d0.orWait k (d1.rmSend k .write (fun _ => 0) (fun _ => 0)
      (if body.isEmpty then [] else [splitPayload pkWrite (u64 k.entry 32) (rmFlags k.entry) (u32 k.entry 24) (u16 k.entry 22) allBytes body])))))
    ∧ (d0.egress (rmQp k.entry) bs = none → exec (.rmOpWrite c) s = .next (s.settled (d0.endCmd k d0.pair.next stAborted []))) := by
  have hwell : (rmKind k.entry == 1 && rmLenOk (rmLen k.entry)) = true := by rw [hkind, hlen]; rfl
  refine ⟨fun body d1 h => ?_, fun h => ?_⟩
  all_goals
    show execRmOpWrite c s = _
    refine onHall_settled halive ?_
    rw [Dev.rmRow_goes hact hsent hstatus hstage hwell (.inr hcheck), Dev.rmBytes_local hbytes, h]

theorem exec_rmOpRead {d0 : Dev} (hact : s.dev.rmAct c 2 = some k) (hlen : rmLenOk (rmLen k.entry) = true) (hmin : 8 ≤ rmLen k.entry)
    (hdst : (rmVirt k.entry = true ∧ (∃ bs, s.dev.canWrite k.tenant (u64 k.entry 40) (rmLen k.entry) = .ok bs d0))
      ∨ (rmVirt k.entry = false ∧ s.dev.hallOk (some k.tenant) (u64 k.entry 40) (rmLen k.entry) = true ∧ d0 = s.dev)) :
    exec (.rmOpRead c) s = .next (s.settled (d0.rmIssue k .read (fun p => ceilDiv p.aux.toNat 4096)
      (fun p => u64 k.entry 40 + (p.raddr.toNat - u64 k.entry 32)) (readReqs k.entry))) := by
  have hwell : (rmLenOk (rmLen k.entry) && decide (8 ≤ rmLen k.entry)) = true := by rw [hlen, decide_eq_true hmin]; rfl
  show execRmOpRead c s = _
  refine onHall_settled halive ?_
  rw [Dev.rmRow_goes hact hsent hstatus hstage hwell (.inr hcheck)]
  obtain ⟨hvirt, bs, hcan⟩ | ⟨hvirt, hok, rfl⟩ := hdst
  · rw [if_pos hvirt, hcan, Dev.rmGo]
  · rw [if_neg (by rw [hvirt]; decide), if_pos hok]

theorem exec_rmOpAtomic (hact : s.dev.rmAct c 3 = some k) (hkind : u8 k.entry 19 < 3) :
    exec (.rmOpAtomic c) s = .next (s.settled (s.dev.rmIssue k .atomic (fun _ => 1) (fun _ => 0)
      [[{ pktBlank with
          opc := BitVec.ofNat 6 pkAtomic, flags := BitVec.ofNat 6 (rmFlags k.entry + pfLast), raddr := BitVec.ofNat 64 (u64 k.entry 32),
          key := BitVec.ofNat 32 (u32 k.entry 24), window := BitVec.ofNat 16 (u16 k.entry 22), aux := BitVec.ofNat 32 (u8 k.entry 19), len := 16,
          payload := toBytes 8 (u64 k.entry 48) ++ toBytes 8 (u64 k.entry 56) }]])) := by
  show execRmOpAtomic c s = _
  refine onHall_settled halive ?_
  rw [Dev.rmRow_goes hact hsent hstatus hstage (decide_eq_true hkind) (.inr hcheck)]

theorem exec_rmOpReduce {bs : List Byte} {d0 : Dev} {ps : List Packet} (hact : s.dev.rmAct c 4 = some k) (hkind : u8 k.entry 19 < 4)
    (hlen : rmLenOk (rmLen k.entry) = true) (hbytes : s.dev.LocalBytes k bs d0)
    (hps : splitPayload pkReduce (u64 k.entry 32) (rmFlags k.entry) (u32 k.entry 24) (u16 k.entry 22) (u8 k.entry 19) bs = ps) :
    exec (.rmOpReduce c) s = .next (s.settled (d0.rmIssue k .reduce (fun _ => ps.length) (fun _ => 0) (if bs.isEmpty then [] else [ps]))) := by
  have hwell : (decide (u8 k.entry 19 < 4) && rmLenOk (rmLen k.entry)) = true := by rw [hlen, decide_eq_true hkind]; rfl
  show execRmOpReduce c s = _
  refine onHall_settled halive ?_
  rw [Dev.rmRow_goes hact hsent hstatus hstage hwell (.inr hcheck), Dev.rmBytes_local hbytes, hps]

theorem exec_rmOpInval (hact : s.dev.rmAct c 6 = some k) (hlen : rmLen k.entry = wholeWindow ∨ rmLenOk (rmLen k.entry) = true) :
    exec (.rmOpInval c) s = .next (s.settled (s.dev.rmIssue k .inval (fun _ => 0) (fun _ => 0)
      [[{ pktBlank with
          opc := BitVec.ofNat 6 pkInval, flags := BitVec.ofNat 6 pfLast, raddr := BitVec.ofNat 64 (u64 k.entry 32), window := BitVec.ofNat 16 (u16 k.entry 22),
          aux := BitVec.ofNat 32 (rmLen k.entry) }]])) := by
  have hwell : (rmLen k.entry == wholeWindow || rmLenOk (rmLen k.entry)) = true := by
    obtain h | h := hlen
    · rw [h, beq_self_eq_true, Bool.true_or]
    · rw [h, Bool.or_true]
  show execRmOpInval c s = _
  refine onHall_settled halive ?_
  rw [Dev.rmRow_goes hact hsent hstatus hstage hwell (.inr hcheck)]

end Issue

/-- Settles O38: each remote memory operation hands its local bytes or its request to its pair. -/
theorem remoteOpsIssue : Obligations.RemoteOpsIssue := by
  intro s c k halive d e hsent hstatus hstage hdr
  refine ⟨fun hcheck => ⟨?_, ?_, ?_, ?_, ?_⟩, ?_⟩
  · exact fun bs d0 hact hkind hlen hbytes => exec_rmOpWrite halive hsent hstatus hstage hcheck hact hkind hlen hbytes
  · exact fun d0 hact hlen hmin hdst => exec_rmOpRead halive hsent hstatus hstage hcheck hact hlen hmin hdst
  · exact fun hact hkind => exec_rmOpAtomic halive hsent hstatus hstage hcheck hact hkind
  · exact fun bs d0 hact hkind hlen hbytes => exec_rmOpReduce halive hsent hstatus hstage hcheck hact hkind hlen hbytes rfl
  · exact fun hact hlen => exec_rmOpInval halive hsent hstatus hstage hcheck hact hlen
  · intro bs d0 hact hlen hgroup htenant hcount hbytes
    have hexec := exec_rmOpMcast halive hsent hstatus hstage hact hlen hgroup htenant hcount hbytes
    refine ⟨fun d1 h => ?_, fun h => ?_⟩
    all_goals
      rw [h] at hexec
      exact hexec

end Sys2Proof.Machine

/-! # RM_CTL commands and composition maps (R282, R284 to R292) -/

namespace Sys2Proof.Machine

/-! ## RM_CTL -/

theorem Dev.ctlImage_read {d d1 : Dev} {k : RunCmd} {n : Nat} {bs : List Byte} {go : List Byte → Dev → Dev} (hstatus : k.status = stOK)
    (hread : d.vaRead (some (k.ring, k.index)) k.tenant (u64 k.entry 24) n = .ok bs d1) : d.ctlImage k n go = go bs d1 := by
  rw [Dev.ctlImage, if_neg (not_not.2 hstatus), hread, Dev.rmGo]

theorem not_foreign {i : ImpE} {t : Nat} (h : i.valid = false ∨ i.tenant = t) : ¬ (i.valid = true ∧ i.tenant ≠ t) := by
  rintro ⟨hvalid, htenant⟩
  obtain h | h := h
  · rw [hvalid] at h
    exact Bool.noConfusion h
  · exact htenant h

section Ctl

variable {s : State} {c : CmdId} {k : RunCmd} (halive : s.dev.alive = true)
include halive

theorem exec_importSet {bs : List Byte} {d1 d2 : Dev} {w0 : Nat} (hstatus : k.status = stOK) (hact : s.dev.ctlAct c 1 = some k) (hsub : ctlSub k.entry = 1)
    (hx : u16 k.entry 18 < 4096) (hown : (s.dev.imp (u16 k.entry 18)).valid = false ∨ (s.dev.imp (u16 k.entry 18)).tenant = k.tenant)
    (hread : s.dev.vaRead (some (k.ring, k.index)) k.tenant (u64 k.entry 24) 32 = .ok bs d1) (hw0 : setBits (imgWord bs 0) 55 48 k.tenant = w0)
    (hok : d1.importOk k.tenant (u16 k.entry 18) (impOf w0 (imgWord bs 1) (imgWord bs 2) (imgWord bs 3)) = true)
    (hset : d1.setImport (u16 k.entry 18) (toBytes 8 w0 ++ bs.drop 8) = some d2) :
    exec (.importSet c) s = .next (s.settled (d2.endCmd k d2.pair.next stOK [])) := by
  show execImportSet c s = _
  refine onHall_settled halive ?_
  rw [hact]
  dsimp only
  rw [if_neg (not_or.2 ⟨not_not.2 hsub, Nat.not_le.2 hx⟩), if_neg (not_foreign hown), Dev.ctlImage_read hstatus hread, hw0, hok, if_neg (by simp), hset]

theorem exec_importClear {d2 : Dev} (hact : s.dev.ctlAct c 2 = some k) (hx : u16 k.entry 18 < 4096)
    (hown : (s.dev.imp (u16 k.entry 18)).valid = false ∨ (s.dev.imp (u16 k.entry 18)).tenant = k.tenant)
    (hset : s.dev.setImport (u16 k.entry 18) (zeros 32) = some d2) :
    exec (.importClear c) s = .next (s.settled (d2.endCmd k d2.pair.next stOK [])) := by
  show execImportClear c s = _
  refine onHall_settled halive ?_
  rw [hact]
  dsimp only
  rw [if_neg (Nat.not_le.2 hx), if_neg (not_foreign hown), hset]

theorem exec_groupSet {bs : List Byte} {d1 : Dev} (hstatus : k.status = stOK) (hact : s.dev.ctlAct c 3 = some k) (hx : u16 k.entry 18 < 1024)
    (hread : s.dev.vaRead (some (k.ring, k.index)) k.tenant (u64 k.entry 24) 512 = .ok bs d1) (hcount : bits (imgWord bs 0) 5 0 ≠ 0)
    (hown : d1.grpCount (u16 k.entry 18) = 0 ∨ d1.grpTenant (u16 k.entry 18) = k.tenant)
    (hmembers : ∀ i < bits (imgWord bs 0) 5 0, qReserved (bits (imgWord bs (i + 1)) 63 48) = false ∧ d1.qTenant (bits (imgWord bs (i + 1)) 63 48) = k.tenant) :
    exec (.groupSet c) s = .next (s.settled ((d1.dramPut (d1.get Fld.RMA_MC_CFG_GRAN * granBytes + 512 * u16 k.entry 18)
      (toBytes 8 (setBits (imgWord bs 0) 15 8 k.tenant) ++ bs.drop 8)).endCmd k d1.pair.next stOK [])) := by
  have hothers : ¬ ((d1.grpCount (u16 k.entry 18) ≠ 0 ∧ d1.grpTenant (u16 k.entry 18) ≠ k.tenant)
      ∨ (List.range (bits (imgWord bs 0) 5 0)).any (fun i => qReserved (bits (imgWord bs (i + 1)) 63 48) || d1.qTenant (bits (imgWord bs (i + 1)) 63 48) != k.tenant)
        = true) := by
    rintro (⟨hne, htenant⟩ | hany)
    · exact hown.elim hne htenant
    · obtain ⟨i, hi, hbad⟩ := List.any_eq_true.1 hany
      obtain ⟨hres, htenant⟩ := hmembers i (List.mem_range.1 hi)
      simp [hres, htenant] at hbad
  show execGroupSet c s = _
  refine onHall_settled halive ?_
  rw [hact]
  dsimp only
  rw [if_neg (Nat.not_le.2 hx), Dev.ctlImage_read hstatus hread, if_neg hcount, if_neg hothers]

theorem exec_rmCtlFlush (hact : s.dev.ctlAct c 4 = some k) (hgw : s.dev.gw = []) : exec (.rmCtlFlush c) s = .next (s.settled
    (((s.dev.creditGot (some (k.ring, k.index))).setAt { k with phase := .acks, note := rmSent, pos := stOK, strokes := 0, lostT := 0 }).settleFlushes)) := by
  show execRmCtlFlush c s = _
  refine onHall_settled halive ?_
  rw [hact]
  dsimp only
  rw [hgw, List.filter_nil, List.foldl_nil]
  dsimp only
  rw [hgw, List.any_nil, if_neg (by simp)]

theorem exec_drop (hact : s.dev.ctlAct c 5 = some k) (hpair : qReserved (u16 k.entry 20) = false) (hown : s.dev.qTenant (u16 k.entry 20) = k.tenant) :
    exec (.drop c) s = .next (s.settled ((s.dev.dropRange (s.dev.qRnode (u16 k.entry 20)) (u16 k.entry 22) (u64 k.entry 32) (u64 k.entry 40) (· == k.tenant)).endCmd k
      s.dev.pair.next stOK [])) := by
  show execDrop c s = _
  refine onHall_settled halive ?_
  rw [hact]
  dsimp only
  rw [if_neg (by simp [hpair, hown])]

theorem exec_gatewayIdleFlush {tenant : BitVec 8} {block : BitVec 40} {t : BitVec 64} {g : GwBuf} {d : Dev} (hd : s.dev.advanceTo t.toNat = d) (hgw : d.gw = [g])
    (htenant : g.tenant = tenant.toNat) (hblock : g.block = block.toNat) (hidle : g.stored + 3000 * atLeast1 (d.get Fld.RMA_GW_CFG_IDLE) ≤ d.clk.now) :
    exec (.gatewayIdleFlush tenant block t) s = .next (s.settled (d.flushGw g)) := by
  show execGatewayIdleFlush tenant block t s = _
  refine onHall_settled halive ?_
  rw [hd]
  dsimp only
  rw [hgw, List.filter_cons_of_pos (by simp [htenant, hblock, hidle]), List.filter_nil, List.foldl_cons, List.foldl_nil]

end Ctl

/-! ## The switch of a map (R290) -/

theorem Dev.trafficCatch_keeps (d : Dev) : d.trafficCatch.regs = d.regs ∧ d.trafficCatch.dram = d.dram ∧ d.trafficCatch.watches = d.watches
    ∧ d.trafficCatch.mapBank = d.mapBank ∧ d.trafficCatch.drainTo = d.drainTo := by
  rw [Dev.trafficCatch]
  split
  · exact ⟨rfl, rfl, rfl, rfl, rfl⟩
  · rw [Dev.takeGates, Dev.catchFlows]
    exact ⟨rfl, rfl, rfl, rfl, rfl⟩

/-- The registers of a switch, whose drain window ends at `stop`. -/
def Dev.mapRegs (d : Dev) (prev ver stop : Nat) : Dev :=
  (((d.put Fld.RMA_MAP_CUR_PREV prev).put Fld.RMA_MAP_CUR_VER ver).put Fld.RMA_MAP_CUR_DRAIN_END stop).put Fld.RMA_MAP_NEXT_PEND 0

theorem Dev.mapRegs_reads (d : Dev) {prev ver : Nat} (stop : Nat) (hprev : prev < 2 ^ 16) (hver : ver < 2 ^ 16) :
    (d.mapRegs prev ver stop).get Fld.RMA_MAP_CUR_VER = ver ∧ (d.mapRegs prev ver stop).get Fld.RMA_MAP_CUR_PREV = prev
      ∧ (d.mapRegs prev ver stop).flag Fld.RMA_MAP_NEXT_PEND = false ∧ Dev.sameRegsBut [Reg.RMA_MAP_CUR.base, Reg.RMA_MAP_NEXT.base] d (d.mapRegs prev ver stop) := by
  rw [Dev.mapRegs]
  refine ⟨?_, ?_, ?_, ?_⟩
  · rw [Dev.get_put_beside _ (by decide), Dev.get_put_beside _ (by decide), Dev.get_put_same _ _ _ _ _ (by decide) (by decide)]
    exact Nat.mod_eq_of_lt hver
  · rw [Dev.get_put_beside _ (by decide), Dev.get_put_beside _ (by decide), Dev.get_put_beside _ (by decide), Dev.get_put_same _ _ _ _ _ (by decide) (by decide)]
    exact Nat.mod_eq_of_lt hprev
  · rw [Dev.flag, Dev.get_put_same _ _ _ _ _ (by decide) (by decide)]
    rfl
  · have hcur : Reg.RMA_MAP_CUR.base ∈ [Reg.RMA_MAP_CUR.base, Reg.RMA_MAP_NEXT.base] := List.mem_cons_self
    have hnext : Reg.RMA_MAP_NEXT.base ∈ [Reg.RMA_MAP_CUR.base, Reg.RMA_MAP_NEXT.base] := List.mem_cons_of_mem _ List.mem_cons_self
    exact Dev.sameRegsBut_put (Dev.sameRegsBut_put (Dev.sameRegsBut_put (Dev.sameRegsBut_put (Dev.sameRegsBut_refl _ d) _ _ _ _ hcur) _ _ _ _ hcur) _ _ _ _ hcur)
      _ _ _ _ hnext

theorem Dev.switchDue_of {d : Dev} (hfiring : d.firing = true) (hpend : d.flag Fld.RMA_MAP_NEXT_PEND = true)
    (hstroke : 0 ≤ modDiff 32 d.stroke32 (d.get Fld.RMA_MAP_NEXT_STROKE)) : d.switchDue = true := by
  rw [Dev.switchDue, hfiring, hpend, decide_eq_true hstroke]
  rfl

theorem Dev.mapSwitch_empty {d : Dev} (hdue : d.switchDue = true) (hpairs : d.mapPairs = []) :
    ∃ e : Dev, e = d.mapRegs (d.get Fld.RMA_MAP_CUR_VER) (d.get Fld.RMA_MAP_NEXT_VER) ((d.get Fld.RMA_MAP_NEXT_STROKE + d.get Fld.RMA_MAP_NEXT_DRAIN) % 2 ^ 32)
      ∧ d.mapSwitch = { e with
        mapBank := 1 - d.mapBank, drainTo := some ((d.get Fld.RMA_MAP_NEXT_STROKE + d.get Fld.RMA_MAP_NEXT_DRAIN) % 2 ^ 32) } := by
  refine ⟨_, rfl, ?_⟩
  rw [Dev.mapSwitch, hdue, if_neg (by simp), hpairs]
  rw [Dev.mapRegs]
  rfl

theorem Dev.mapRegs_keeps (d : Dev) (prev ver stop : Nat) : (d.mapRegs prev ver stop).dram = d.dram ∧ (d.mapRegs prev ver stop).watches = d.watches := by
  rw [Dev.mapRegs, Dev.put_dram, Dev.put_dram, Dev.put_dram, Dev.put_dram, Dev.put_watches, Dev.put_watches, Dev.put_watches, Dev.put_watches]
  exact ⟨rfl, rfl⟩

theorem exec_mapSwitch {s : State} (halive : s.dev.alive = true) (hfiring : s.dev.firing = true) (hpend : s.dev.flag Fld.RMA_MAP_NEXT_PEND = true)
    (hstroke : 0 ≤ modDiff 32 s.dev.stroke32 (s.dev.get Fld.RMA_MAP_NEXT_STROKE)) (hpairs : s.dev.mapPairs = []) (hwatch : s.dev.watches = []) :
    ∃ t : State, exec .mapSwitch s = .next t ∧ t.dev.get Fld.RMA_MAP_CUR_VER = s.dev.get Fld.RMA_MAP_NEXT_VER
      ∧ t.dev.get Fld.RMA_MAP_CUR_PREV = s.dev.get Fld.RMA_MAP_CUR_VER ∧ t.dev.flag Fld.RMA_MAP_NEXT_PEND = false ∧ t.dev.mapBank = 1 - s.dev.mapBank
      ∧ t.dev.drainTo = some ((s.dev.get Fld.RMA_MAP_NEXT_STROKE + s.dev.get Fld.RMA_MAP_NEXT_DRAIN) % 2 ^ 32) ∧ t.dev.dram = s.dev.dram
      ∧ Dev.sameRegsBut [Reg.RMA_MAP_CUR.base, Reg.RMA_MAP_NEXT.base] s.dev t.dev := by
  obtain ⟨e, he, hswitch⟩ := Dev.mapSwitch_empty (Dev.switchDue_of hfiring hpend hstroke) hpairs
  obtain ⟨hver, hprev, hflag, hsame⟩ := s.dev.mapRegs_reads (prev := s.dev.get Fld.RMA_MAP_CUR_VER) (ver := s.dev.get Fld.RMA_MAP_NEXT_VER)
    ((s.dev.get Fld.RMA_MAP_NEXT_STROKE + s.dev.get Fld.RMA_MAP_NEXT_DRAIN) % 2 ^ 32) (Nat.mod_lt _ (by decide)) (Nat.mod_lt _ (by decide))
  obtain ⟨hdram, hewatch⟩ := s.dev.mapRegs_keeps (s.dev.get Fld.RMA_MAP_CUR_VER) (s.dev.get Fld.RMA_MAP_NEXT_VER)
    ((s.dev.get Fld.RMA_MAP_NEXT_STROKE + s.dev.get Fld.RMA_MAP_NEXT_DRAIN) % 2 ^ 32)
  rw [← he] at hver hprev hflag hsame hdram hewatch
  obtain ⟨hregs, htdram, htwatch, hbank, hdrain⟩ := s.dev.mapSwitch.trafficCatch_keeps
  have hregs' : s.dev.mapSwitch.trafficCatch.regs = e.regs := hregs.trans (by rw [hswitch])
  refine ⟨_, onHall_calm (f := fun d => d.mapSwitch.trafficCatch) halive rfl ?_, ?_, ?_, ?_, ?_, ?_, ?_, ?_⟩
  · rw [htwatch, hswitch]
    exact hewatch.trans hwatch
  · exact (Dev.get_of_regs hregs' _ _ _).trans hver
  · exact (Dev.get_of_regs hregs' _ _ _).trans hprev
  · rw [State.dev_withDev, Dev.flag, Dev.get_of_regs hregs', ← Dev.flag]
    exact hflag
  · rw [State.dev_withDev, hbank, hswitch]
  · rw [State.dev_withDev, hdrain, hswitch]
  · rw [State.dev_withDev, htdram, hswitch]
    exact hdram
  · exact Dev.sameRegsBut_of_regs hsame hregs'

theorem Dev.mapSwitch_unless {d : Dev}
    (h : d.firing = false ∨ d.flag Fld.RMA_MAP_NEXT_PEND = false ∨ modDiff 32 d.stroke32 (d.get Fld.RMA_MAP_NEXT_STROKE) < 0) : d.mapSwitch = d := by
  have hnot : d.switchDue = false := by
    rw [Dev.switchDue]
    obtain h | h | h := h
    · rw [h, Bool.false_and, Bool.false_and]
    · rw [h, Bool.and_false, Bool.false_and]
    · rw [decide_eq_false (not_le.2 h), Bool.and_false]
  rw [Dev.mapSwitch, hnot]
  rfl

/-! ## The end of the drain window (R291) -/

theorem Dev.drainWindowEnd_due {d : Dev} {stop : Nat} (hfiring : d.firing = true) (hdrain : d.drainTo = some stop) (hstroke : 0 ≤ modDiff 32 d.stroke32 stop) :
    d.drainWindowEnd = d.changed.foldl Dev.rebind { d with drainTo := none, changed := [] } := by
  have hdue : d.drainDue = true := by
    rw [Dev.drainDue, hfiring, hdrain, Option.any_some, decide_eq_true hstroke]
    rfl
  rw [Dev.drainWindowEnd, hdue, if_neg (by simp)]

theorem Dev.drainWindowEnd_unless {d : Dev} (h : d.firing = false ∨ d.drainTo = none) : d.drainWindowEnd = d := by
  have hnot : d.drainDue = false := by
    rw [Dev.drainDue]
    obtain h | h := h
    · rw [h, Bool.false_and]
    · rw [h, Option.any_none, Bool.and_false]
  rw [Dev.drainWindowEnd, hnot]
  rfl

/-- Settles O39: the `RM_CTL` commands, the switch of a composition map and the end of its drain window. -/
theorem remoteControlAndMaps : Obligations.RemoteControlAndMaps := by
  refine ⟨fun s c k halive => ?_, fun s halive => ?_⟩
  · intro d e x hstatus
    refine ⟨?_, ?_, ?_, ?_, ?_, ?_⟩
    · intro bs d1 d2 hact hsub hx hown hread w0 hok hset
      exact exec_importSet halive hstatus hact hsub hx hown hread rfl hok hset
    · exact fun d2 hact hx hown hset => exec_importClear halive hact hx hown hset
    · exact fun bs d1 hact hx hread hcount hown hmembers => exec_groupSet halive hstatus hact hx hread hcount hown hmembers
    · exact fun hact hgw => exec_rmCtlFlush halive hact hgw
    · exact fun hact hpair hown => exec_drop halive hact hpair hown
    · exact fun tenant block t g hgw htenant hblock hidle => exec_gatewayIdleFlush halive rfl hgw htenant hblock hidle
  · intro d
    refine ⟨fun hfiring hpend hstroke hpairs hwatch => exec_mapSwitch halive hfiring hpend hstroke hpairs hwatch, fun h => ?_, fun stop hfiring hdrain hstroke => ?_,
      fun h => ?_⟩
    · exact onHall_settled (f := fun d => d.mapSwitch.trafficCatch) halive (congrArg Dev.trafficCatch (Dev.mapSwitch_unless h))
    · exact onHall_settled (f := fun d => d.drainWindowEnd.trafficCatch) halive (congrArg Dev.trafficCatch (Dev.drainWindowEnd_due hfiring hdrain hstroke))
    · exact onHall_settled (f := fun d => d.drainWindowEnd.trafficCatch) halive (congrArg Dev.trafficCatch (Dev.drainWindowEnd_unless h))

end Sys2Proof.Machine

/-! # ATTN_MERGE and ATTN_STEP (R107, R127, R130 to R135) -/

namespace Sys2Proof.Machine

/-! ## ATTN_MERGE -/

/-- A merge from its first entry whose rows all find room. -/
theorem Dev.runMerge_done {d d3 : Dev} {k : RunCmd} {sh : Shape} {m : MergeAt} (hpos : k.pos = 0) (hres : k.res = []) (hholds : k.holds = false)
    (hshape : d.tableShape (d.stepTab (u32 k.entry 16)) = some sh)
    (hfrom : Dev.mergeFrom k (d.stepTab (u32 k.entry 16)) sh (u32 k.entry 20) (u8 k.entry 28)
      (d.mergeOrder (d.stepTab (u32 k.entry 16)) (u16 k.entry 24) (u16 k.entry 26)) ⟨0, 0⟩ d = (.done, m, d3)) :
    d.runMerge k = d3.attEnd { k with pos := m.rows, res := [m.un], need := max k.need (d3.needSince d.pair.next) } d.pair.next stOK [m.rows - m.un] := by
  have hopen (es : List Nat) : (match es with
      | [] => false
      | f :: _ => k.holds && ((d.takeLanding (d.entryRec (d.stepTab (u32 k.entry 16)) f)).isNone
        || decide (d.paged (d.entryRec (d.stepTab (u32 k.entry 16)) f) (u8 k.entry 28) + 2 * d.rT (d.entryRec (d.stepTab (u32 k.entry 16)) f)
          ≤ d.tagPos (d.stepTab (u32 k.entry 16)) f))) = false := by
    cases es with
    | nil => rfl
    | cons f es => rw [hholds]; rfl
  rw [Dev.runMerge, hshape]
  dsimp only
  refine (if_neg (fun h => Bool.false_ne_true ((hopen _).symm.trans h))).trans ?_
  rw [hpos, hres, hholds, List.drop_zero, if_neg (by simp)]
  dsimp only [List.getD_nil]
  rw [hfrom]
  rfl

theorem Dev.merge_begins {d d1 : Dev} {k : RunCmd} (hbegun : k.begun = false) (hcheck : d.mergeCheck k = (d1, stOK)) :
    d.merge k = (((d1.setAt { k with stage := 1 }).named k.tenant k.entry).foldl Dev.touch (d1.setAt { k with stage := 1 })).runMerge { k with stage := 1 } := by
  rw [Dev.merge, hbegun, if_neg (by simp), hcheck]
  dsimp only
  rw [if_neg (by simp)]

theorem Dev.merge_refused {d d1 : Dev} {k : RunCmd} {st : Nat} (hbegun : k.begun = false) (hcheck : d.mergeCheck k = (d1, st)) (hst : st ≠ stOK) :
    d.merge k = d1.attEnd k d1.pair.next st [0] := by
  rw [Dev.merge, hbegun, if_neg (by simp), hcheck]
  dsimp only
  rw [if_pos hst]

section Merge

variable {s : State} {c : CmdId} {k : RunCmd} {ev : CoreEvents} (halive : s.dev.alive = true) (hact : s.dev.act c opAttnMerge = some k)
include halive hact

theorem exec_attnMerge_ended (hstatus : k.status ≠ stOK) :
    exec (.attnMerge c ev) s = .next (s.settled (s.dev.attEnd k s.dev.pair.next k.status [k.merged])) := by
  show execAttnMerge c ev s = _
  refine onHall_settled halive ?_
  rw [hact]
  dsimp only
  rw [if_pos hstatus]

variable (hstatus : k.status = stOK)
include hstatus

theorem exec_attnMerge_failed (huncorr : ev.uncorrectable = true) : exec (.attnMerge c ev) s
    = .next (s.settled (((s.dev.coreEvents k ev).coreFailed k).attEnd k (s.dev.coreEvents k ev).pair.next stCrcFault [k.merged])) := by
  show execAttnMerge c ev s = _
  refine onHall_settled halive ?_
  rw [hact]
  dsimp only
  rw [if_neg (not_not.2 hstatus), if_pos huncorr]

theorem exec_attnMerge_runs (huncorr : ev.uncorrectable = false) : exec (.attnMerge c ev) s = .next (s.settled ((s.dev.coreEvents k ev).merge k)) := by
  show execAttnMerge c ev s = _
  refine onHall_settled halive ?_
  rw [hact]
  dsimp only
  rw [if_neg (not_not.2 hstatus), if_neg (by simp [huncorr])]

end Merge

/-- Settles O14: an `ATTN_MERGE` by its status, its core's events and the checks of its range. -/
theorem attnMergeCompletes : Obligations.AttnMergeCompletes := by
  intro s c k ev d1 st e d halive hact
  refine ⟨fun hstatus => exec_attnMerge_ended halive hact hstatus, fun hstatus huncorr => exec_attnMerge_failed halive hact hstatus huncorr,
    fun hstatus huncorr hbegun hpos hres hholds hcheck => ⟨fun hst => ?_, fun hst => ?_⟩⟩
  · intro k' d2 sh m d3 hshape hfrom
    have hrun := Dev.runMerge_done (k := k') hpos hres hholds hshape hfrom
    rw [hst] at hcheck
    rw [exec_attnMerge_runs halive hact hstatus huncorr, Dev.merge_begins hbegun hcheck]
    exact congrArg (fun d => Host.Outcome.next (s.settled d)) hrun
  · rw [exec_attnMerge_runs halive hact hstatus huncorr, Dev.merge_refused hbegun hcheck hst]

/-! ## ATTN_STEP -/

theorem Dev.stepRun_begins {d d1 : Dev} {k : RunCmd} {sh : Shape} (hbegun : k.begun = false) (hpos : k.pos = 0) (hcheck : d.stepRange k = (d1, stOK))
    {d2 : Dev} (hd2 : (d1.named k.tenant k.entry).foldl Dev.touch d1 = d2) (hshape : d2.tableShape (d2.stepTab (u32 k.entry 16)) = some sh) :
    d.stepRun k = Dev.runUnits (d2.stepTab (u32 k.entry 16)) sh d.pair.next (unitList k.entry) { k with stage := 1 } d2 := by
  rw [Dev.stepRun, hbegun, if_neg (by simp), hcheck]
  dsimp only
  rw [if_neg (by simp), if_neg (by simp), hd2, hshape, hpos]
  rfl

theorem Dev.stepRun_refused {d d1 : Dev} {k : RunCmd} {st : Nat} (hbegun : k.begun = false) (hcheck : d.stepRange k = (d1, st)) (hst : st ≠ stOK) :
    d.stepRun k = d1.stepFail k d.pair.next st := by
  rw [Dev.stepRun, hbegun, if_neg (by simp), hcheck]
  dsimp only
  rw [if_pos hst]

section Step

variable {s : State} {c : CmdId} {k : RunCmd} {ev : CoreEvents} (halive : s.dev.alive = true) (hact : s.dev.act c opAttnStep = some k)
include halive hact

theorem exec_attnStep_ended (hstatus : k.status ≠ stOK) :
    exec (.attnStep c ev) s = .next (s.settled (s.dev.stepFail k s.dev.pair.next k.status)) := by
  show execAttnStep c ev s = _
  refine onHall_settled halive ?_
  rw [hact]
  dsimp only
  rw [if_pos hstatus]

variable (hstatus : k.status = stOK)
include hstatus

theorem exec_attnStep_failed (huncorr : ev.uncorrectable = true) : exec (.attnStep c ev) s
    = .next (s.settled (((s.dev.coreEvents k ev).coreFailed k).stepFail k (s.dev.coreEvents k ev).pair.next stCrcFault)) := by
  show execAttnStep c ev s = _
  refine onHall_settled halive ?_
  rw [hact]
  dsimp only
  rw [if_neg (not_not.2 hstatus), if_pos huncorr]

theorem exec_attnStep_runs (huncorr : ev.uncorrectable = false) : exec (.attnStep c ev) s = .next (s.settled ((s.dev.coreEvents k ev).stepRun k)) := by
  show execAttnStep c ev s = _
  refine onHall_settled halive ?_
  rw [hact]
  dsimp only
  rw [if_neg (not_not.2 hstatus), if_neg (by simp [huncorr])]

end Step

/-! ## The units of a step (R127, R133) -/

section Units

variable {t : StepTab} {sh : Shape} {n0 : Nat} {k : RunCmd} {d : Dev} {x : Nat × Nat} {xs : List (Nat × Nat)}

theorem Dev.runUnits_nil : Dev.runUnits t sh n0 [] k d = d.attEnd k n0 stOK [k.res.getD 0 0, k.res.getD 1 0] := by
  rw [Dev.runUnits]

theorem Dev.runUnits_pad {d2 : Dev} (hpad : d.tagSeg t x.1 = segPad)
    (hput : d.deliver k (unitOff k.entry t sh x) (List.replicate (unitElems sh) 0) = (d2, stOK)) :
    Dev.runUnits t sh n0 (x :: xs) k d = Dev.runUnits t sh n0 xs { k with pos := k.pos + 1 } d2 := by
  rw [Dev.runUnits, if_pos hpad, hput]
  dsimp only
  rw [if_neg (by simp)]

variable {u : UnitOut} {d1 : Dev} (hlive : d.tagSeg t x.1 ≠ segPad) (hqueries : d.badQuery t sh (u32 k.entry 20) x.1 x.2 = [])
  (hunit : d.unit k t sh (u32 k.entry 20) x.1 (u8 k.entry 32) x.2 = .ok u d1)
include hlive hqueries hunit

theorem Dev.runUnits_unit {d2 : Dev} (hstale : u.stale = none)
    (hput : ((d1.countBad k u.bad).countSel k u.sel).deliver k (unitOff k.entry t sh x) u.out = (d2, stOK)) :
    Dev.runUnits t sh n0 (x :: xs) k d
      = Dev.runUnits t sh n0 xs { k with pos := k.pos + 1, res := [k.res.getD 0 0 + u.keys, k.res.getD 1 0 + u.pages] } d2 := by
  rw [Dev.runUnits, if_neg hlive, hqueries, if_neg (by simp), hunit]
  dsimp only
  rw [hstale]
  dsimp only
  rw [hput]
  dsimp only
  rw [if_neg (by simp)]

theorem Dev.runUnits_stale {p tag : Nat} (hstale : u.stale = some (p, tag)) (htag : tag ≠ 0) :
    Dev.runUnits t sh n0 (x :: xs) k d = ((d1.countBad k u.bad).tagMismatch k.master p tag).stepFail k n0 stAborted := by
  rw [Dev.runUnits, if_neg hlive, hqueries, if_neg (by simp), hunit]
  dsimp only
  rw [hstale]
  dsimp only
  rw [if_neg htag]

end Units

/-- A unit's output is written where it belongs, and its values that are not finite are counted. -/
theorem Dev.deliver_written {d : Dev} {k : RunCmd} {a : Nat} {xs : List Nat} (hok : d.hallOk (some k.tenant) a (2 * xs.length) = true)
    (hlost : d.lostWords (.cmd k.id) a (bf16Bytes xs).length = []) (hbad : d.badPart a (bf16Bytes xs).length = []) :
    d.deliver k a xs = ((d.hallPut a (bf16Bytes xs)).countBad k (badBf16 xs), stOK) := by
  have hput : d.putOut k a xs = (d.hallPut a (bf16Bytes xs), stOK) := by
    rw [Dev.putOut, if_pos hok, Dev.hallStoreFor, hlost, List.isEmpty_nil, if_pos rfl, Dev.hallStore, hbad, Dev.meetBad, List.foldl_nil]
    rfl
  rw [Dev.deliver, hput]
  dsimp only
  rw [if_pos rfl]

/-- Settles O15: an `ATTN_STEP` by its status, its core's events and the checks of its range, and its units one after another. -/
theorem attnStepRuns : Obligations.AttnStepRuns := by
  refine ⟨fun s c k ev d1 st => ?_, fun t sh n0 k d => ?_⟩
  · intro e d halive hact
    refine ⟨fun hstatus => exec_attnStep_ended halive hact hstatus, fun hstatus huncorr => exec_attnStep_failed halive hact hstatus huncorr,
      fun hstatus huncorr hbegun hpos hcheck => ⟨fun hst => ?_, fun hst => ?_⟩⟩
    · intro d2 sh hshape
      rw [hst] at hcheck
      rw [exec_attnStep_runs halive hact hstatus huncorr, Dev.stepRun_begins hbegun hpos hcheck rfl hshape]
    · rw [exec_attnStep_runs halive hact hstatus huncorr, Dev.stepRun_refused hbegun hcheck hst]
  · refine ⟨Dev.runUnits_nil, fun x xs d2 hpad hput => Dev.runUnits_pad hpad hput, fun x xs u d1 hlive hqueries hunit => ⟨fun d2 hstale hput => ?_,
      fun p tag hstale htag => ?_⟩, fun a xs hok hlost hbad => Dev.deliver_written hok hlost hbad⟩
    · exact Dev.runUnits_unit hlive hqueries hunit hstale hput
    · exact Dev.runUnits_stale hlive hqueries hunit hstale htag

end Sys2Proof.Machine

/-! # SAMPLE, SAMP_SET, token release and the latency scan (R152 to R160) -/

namespace Sys2Proof.Machine

/-! ## The row of a SAMPLE -/

section Sample

variable {s : State} {c : CmdId} {k : RunCmd} (halive : s.dev.alive = true) (hact : s.dev.act c opSample = some k)
include halive hact

theorem exec_sample_notRun (hstage : k.stage = stageNotRun) :
    exec (.sample c) s = .next (s.settled (if k.status ≠ stOK then s.dev.sampleFinish k else s.dev.sampleRest k)) := by
  show execSample c s = _
  refine onHall_settled halive ?_
  rw [hact]
  dsimp only
  rw [if_pos hstage]

variable (hstage : k.stage ≠ stageNotRun)
include hstage

theorem exec_sample_begun (hbegun : k.begun = true) :
    exec (.sample c) s = .next (s.settled (if k.status ≠ stOK then s.dev.sampleEarly k k.status else s.dev.sampleRun k)) := by
  show execSample c s = _
  refine onHall_settled halive ?_
  rw [hact]
  dsimp only
  rw [if_neg hstage, if_pos hbegun]

variable {d1 : Dev} {st : Nat} (hbegun : k.begun = false) (hcheck : s.dev.sampleCheck k = (d1, st))
include hbegun hcheck

theorem exec_sample_refused (hst : st ≠ stOK) : exec (.sample c) s = .next (s.settled (d1.endCmd k d1.pair.next st [0, 0])) := by
  show execSample c s = _
  refine onHall_settled halive ?_
  rw [hact]
  dsimp only
  rw [if_neg hstage, hbegun, if_neg (by simp), hcheck]
  dsimp only
  rw [if_pos hst]

theorem exec_sample_begins {k' : RunCmd} (hst : st = stOK)
    (hk' : { k with stage := 1, res := [0, 0, 0] ++ d1.sampleChecks (d1.stepTab (u32 k.entry 16)) k } = k') :
    exec (.sample c) s = .next (s.settled ((d1.setCmd k').sampleRun k')) := by
  show execSample c s = _
  refine onHall_settled halive ?_
  rw [hact]
  dsimp only
  rw [if_neg hstage, hbegun, if_neg (by simp), hcheck]
  dsimp only
  rw [if_neg (not_not.2 hst), hk']

end Sample

/-! ## The segments of a SAMPLE (R152) -/

section Segments

variable {t : StepTab} {k : RunCmd} {d d' : Dev} {j : Nat} {js : List Nat} {r : Decided} {st : Nat} (hseg : d.segment k t j = .ok (r, st) d')
include hseg

theorem Dev.sampleFrom_failed {k' : RunCmd} (hr : r.code ≠ ocToken)
    (hk' : { k.failWith st with pos := j + 1, res := (k.failWith st).res.set 1 ((k.failWith st).res.getD 1 0 + 1) } = k') :
    Dev.sampleFrom t (j :: js) k d = Dev.sampleFrom t js k' ((d'.countOutcome r.code).setAt k') := by
  rw [Dev.sampleFrom, hseg]
  dsimp only
  rw [if_neg hr, hk']

/-- A SAMPLE goes on from a token that has joined its open group. -/
def Dev.sampleNext (t : StepTab) (js : List Nat) (d : Dev) : Option RunCmd → Dev
  | some k => Dev.sampleFrom t js k d
  | none => d

theorem Dev.sampleFrom_token {i : Nat} {k' : RunCmd} {d'' : Dev} (hr : r.code = ocToken) (hi : hIndex (d'.segHandle t (u16 k.entry 20 + j)) = i)
    (hk' : { k with pos := j + 1, res := k.res.set 0 (k.res.getD 0 0 + 1) } = k')
    (hd'' : ((d'.commitToken i r).setAt k').addToken k'
      ⟨i, (d'.commitToken i r).rGen i, u64 k.entry 32 + 16 * j, r.token, (d'.commitToken i r).segNumber t (u16 k.entry 20 + j), none⟩ = d'') :
    Dev.sampleFrom t (j :: js) k d = Dev.sampleNext t js d'' (d''.sampleGoes k'.ring k'.index) := by
  rw [Dev.sampleFrom, hseg]
  dsimp only
  rw [if_pos hr, hi, hk', hd'']
  subst hk'
  cases d''.sampleGoes k.ring k.index with
  | none => rfl
  | some k => rfl

end Segments

/-- A SAMPLE with nothing left to release ends with its counts. -/
theorem Dev.sampleFinish_alone {d : Dev} {k : RunCmd} (hmirrors : d.mirrors = false) (hgroups : d.groupsOf k = []) (hcmds : d.cmds = [k]) :
    d.sampleFinish k = (d.setCmd { k with phase := .held }).endCmd { k with phase := .held } d.pair.next (k.res.getD 2 0) (k.res.take 2) := by
  have hcmd : (d.setCmd { k with phase := .held }).cmd k.ring k.index = some { k with phase := .held } := by
    simp [Dev.cmd, Dev.setCmd, hcmds]
  have hempty : ((d.setCmd { k with phase := .held }).groupsOf { k with phase := .held }).isEmpty = true := by
    have h : (d.setCmd { k with phase := .held }).groupsOf { k with phase := .held } = d.groupsOf k := by
      rw [Dev.groupsOf, Dev.setCmd_groups, Dev.groupsOf]
    rw [h, hgroups]
    rfl
  rw [Dev.sampleFinish, hmirrors, if_neg (by simp), Dev.sampleEnd, hcmd]
  dsimp only
  rw [if_pos ⟨rfl, hempty⟩, Dev.setCmd_pair]

/-! ## SAMP_SET, TOKEN_RELEASE and TTFT_SCAN -/

section Small

variable {s : State} (halive : s.dev.alive = true)
include halive

theorem exec_sampSet {c : CmdId} {k : RunCmd} (hact : s.dev.act c opSampSet = some k) : exec (.sampSet c) s = .next (s.settled
    (if s.dev.checkHandle (u32 k.entry 16) k.tenant k.order ≠ stOK then
      s.dev.endCmd k s.dev.pair.next (s.dev.checkHandle (u32 k.entry 16) k.tenant k.order) []
    else if !(sampSetOk k.entry) then s.dev.endCmd k s.dev.pair.next stAborted []
    else (s.dev.sampSet (hIndex (u32 k.entry 16)) k.entry).endCmd k s.dev.pair.next stOK [])) := by
  show execSampSet c s = _
  refine onHall_settled halive ?_
  rw [hact]

theorem exec_tokenRelease {g : TokGroup} {n : BitVec 64} (hgroups : s.dev.groups = [g]) (hnumber : g.number = n.toNat) (hready : s.dev.groupReady g = true) :
    exec (.tokenRelease n) s = .next (s.settled (s.dev.releaseGroup g)) := by
  show execTokenRelease n s = _
  refine onHall_settled halive ?_
  rw [hgroups, List.filter_cons_of_pos (by simp [hnumber, hready]), List.filter_nil, List.foldl_cons, List.foldl_nil]

theorem exec_ttftScan (hfiring : s.dev.firing = true) (hscanned : s.dev.clk.scanned = false) (hangle : s.dev.get Fld.SMP_CFG_SCAN_ANGLE ≤ s.dev.angle) :
    exec .ttftScan s = .next (s.settled s.dev.ttftScan) := by
  show execTtftScan s = _
  refine onHall_settled halive ?_
  exact if_pos ⟨hfiring, by rw [hscanned]; rfl, hangle⟩

end Small

/-- Settles O16: a `SAMPLE` from its checks to its end, `SAMP_SET`, the release of a group and the scan. -/
theorem samplerRuns : Obligations.SamplerRuns := by
  refine ⟨⟨fun s c k d1 st halive hact => ?_, fun t k d => ?_⟩, fun s halive => ?_⟩
  · refine ⟨fun hstage => exec_sample_notRun halive hact hstage, fun hbegun hstage hcheck => ⟨fun hst => ?_, fun hst => ?_⟩,
      fun hbegun hstage => ⟨fun hstatus => ?_, fun hstatus => ?_⟩⟩
    · exact exec_sample_refused halive hact hstage hbegun hcheck hst
    · exact exec_sample_begins halive hact hstage hbegun hcheck hst rfl
    · rw [exec_sample_begun halive hact hstage hbegun, if_neg (not_not.2 hstatus)]
    · rw [exec_sample_begun halive hact hstage hbegun, if_pos hstatus]
  · refine ⟨by rw [Dev.sampleFrom], fun j js r st d' hseg hr => ?_, fun j js r st d' hseg hr => ?_, fun hmirrors hgroups hcmds => ?_⟩
    · exact Dev.sampleFrom_failed hseg hr rfl
    · intro i k' d''
      refine (Dev.sampleFrom_token hseg hr (i := i) (k' := k') (d'' := d'') rfl rfl rfl).trans ?_
      cases d''.sampleGoes k.ring k.index with
      | none => rfl
      | some k => rfl
    · exact Dev.sampleFinish_alone hmirrors hgroups hcmds
  · refine ⟨fun c k hact => ⟨fun hst hok => ?_, fun hst hok => ?_, fun hst => ?_⟩, fun g n hgroups hnumber hready => ?_, fun hfiring hscanned hangle => ?_⟩
    · rw [exec_sampSet halive hact, if_neg (not_not.2 hst), if_neg (by simp [hok])]
    · rw [exec_sampSet halive hact, if_neg (not_not.2 hst), if_pos (by simp [hok])]
    · rw [exec_sampSet halive hact, if_pos hst]
    · exact exec_tokenRelease halive hgroups hnumber hready
    · exact exec_ttftScan halive hfiring hscanned hangle

end Sys2Proof.Machine

/-! # Sequences created and released, transfers accepted (R21, R25, R69, R330) -/

namespace Sys2Proof.Machine

/-- A definition local to a term is its value. -/
theorem have_elim {α β : Type} {v : α} {f : α → β} {b : β} (h : f v = b) : (have x := v; f x) = b := h

/-! ## SEQ_CREATE -/

theorem Dev.rset_regs (d : Dev) (i w v : Nat) : (d.rset i w v).regs = d.regs := Dev.dramPutN_regs ..

theorem Dev.rset_clk (d : Dev) (i w v : Nat) : (d.rset i w v).clk = d.clk := Dev.dramPutN_clk ..

theorem Dev.epoch_of_regs {d d' : Dev} (h : d'.regs = d.regs) : d'.epoch = d.epoch := Dev.get_of_regs h _ _ _

theorem Dev.foldl_rset_keeps (i : Nat) (ws : List Nat) (d : Dev) :
    (ws.foldl (fun d w => d.rset i w 0) d).regs = d.regs ∧ (ws.foldl (fun d w => d.rset i w 0) d).clk = d.clk := by
  induction ws generalizing d with
  | nil => exact ⟨rfl, rfl⟩
  | cons w ws ih =>
    obtain ⟨hregs, hclk⟩ := ih (d.rset i w 0)
    rw [List.foldl_cons, hregs, hclk]
    exact ⟨d.rset_regs i w 0, d.rset_clk i w 0⟩

section Create

variable {s : State} {c : CmdId} {k : RunCmd} {grants : Bool} {i pm la : Nat} {d' : Dev} (halive : s.dev.alive = true) (hact : s.dev.act c opSeqCreate = some k)
  (hfields : seqFieldsOk k.entry = true) (hrec : s.dev.freeRec = some i)
  (hadmits : s.dev.admits k.tenant t1 (bodyGrans (u8 k.entry 16) (u8 k.entry 17) (u16 k.entry 20)) = true)
  (halloc : s.dev.allocBodies i k.tenant (u8 k.entry 16) (u8 k.entry 17) (u16 k.entry 20) = some (pm, la, d')) {w0 : Nat}
  (hw0 : word0 (genIssued (s.dev.rGen i)) recActive k.tenant (u8 k.entry 16) (u8 k.entry 17) (u8 k.entry 18) (u8 k.entry 19) (u16 k.entry 20) = w0)
include halive hact hfields hrec hadmits halloc hw0

theorem exec_seqCreate_refused (hmirrors : s.dev.mirrors = true) (hgrants : grants = false) :
    exec (.seqCreate c grants) s = .next (s.settled ((s.dev.askTwin i w0).endCmd k s.dev.pair.next stReserveDenied [])) := by
  show execSeqCreate c grants s = _
  refine onHall_settled halive ?_
  rw [hact]
  dsimp only
  rw [Dev.seqCreate, hfields, if_neg (by simp), hrec]
  dsimp only
  rw [hadmits, if_neg (by simp), halloc]
  dsimp only
  rw [hmirrors, hgrants, if_pos (by simp), hw0]

theorem exec_seqCreate_granted (hgrants : s.dev.mirrors = true → grants = true) {d1 : Dev} (hd1 : d'.askTwin i w0 = d1) :
    exec (.seqCreate c grants) s = .next (s.settled
      ((((((((((List.range 16).foldl (fun d w => d.rset i w 0) d1).rset i 0 w0).rset i 1 d1.clk.cnt).rset i 3 (la * 2 ^ 27 + pm)).rset i 4
        (d1.epoch * 2 ^ 32)).rset i 5 0xFFFFFFFF00000000).touch i).mirrorRec i).endCmd k s.dev.pair.next stOK [mkHandle i (genIssued (s.dev.rGen i))])) := by
  obtain ⟨hregs, hclk⟩ := Dev.foldl_rset_keeps i (List.range 16) d1
  have hasked : (s.dev.mirrors && !grants) = false := by
    cases hm : s.dev.mirrors with
    | false => rfl
    | true => rw [hgrants hm]; rfl
  show execSeqCreate c grants s = _
  refine onHall_settled halive ?_
  rw [hact]
  dsimp only
  rw [Dev.seqCreate, hfields, if_neg (by simp), hrec]
  dsimp only
  rw [hadmits, if_neg (by simp), halloc]
  dsimp only
  rw [hasked, if_neg (by simp), hw0, hd1]
  generalize (List.range 16).foldl (fun d w => d.rset i w 0) d1 = blank at hregs hclk ⊢
  have hepoch : (((blank.rset i 0 w0).rset i 1 d1.clk.cnt).rset i 3 (la * 2 ^ 27 + pm)).epoch = d1.epoch :=
    Dev.epoch_of_regs ((Dev.rset_regs ..).trans ((Dev.rset_regs ..).trans ((Dev.rset_regs ..).trans hregs)))
  rw [Dev.rset_clk, hclk, hepoch]

end Create

/-- Settles O6: a `SEQ_CREATE` that everything admits, granted or refused by the twin. -/
theorem seqCreateCompletes : Obligations.SeqCreateCompletes := by
  intro s c k grants i pm la d' d e gen w0 halive hact hfields hrec hadmits halloc
  exact ⟨fun hgrants => exec_seqCreate_granted halive hact hfields hrec hadmits halloc rfl hgrants rfl,
    fun hmirrors => exec_seqCreate_refused halive hact hfields hrec hadmits halloc rfl hmirrors rfl⟩

/-! ## SEQ_RELEASE -/

section Release

variable {s : State} {c : CmdId} {k : RunCmd} (halive : s.dev.alive = true) (hact : s.dev.act c opSeqRelease = some k)
include halive hact

theorem exec_seqRelease_refused (hst : s.dev.checkHandle (u32 k.entry 16) k.tenant k.order ≠ stOK) : exec (.seqRelease c) s
    = .next (s.settled (s.dev.endCmd k s.dev.pair.next (s.dev.checkHandle (u32 k.entry 16) k.tenant k.order) [])) := by
  show execSeqRelease c s = _
  refine onHall_settled halive ?_
  rw [hact]
  dsimp only
  rw [if_pos hst]

variable (hst : s.dev.checkHandle (u32 k.entry 16) k.tenant k.order = stOK)
include hst

theorem exec_seqRelease_stale {p tag : Nat} (hstale : s.dev.staleOf (hIndex (u32 k.entry 16)) = some (p, tag)) :
    exec (.seqRelease c) s = .next (s.settled ((s.dev.tagMismatch mMover p tag).endCmd k s.dev.pair.next stAborted [])) := by
  show execSeqRelease c s = _
  refine onHall_settled halive ?_
  rw [hact]
  dsimp only
  rw [if_neg (not_not.2 hst), hstale]

theorem exec_seqRelease_done (hstale : s.dev.staleOf (hIndex (u32 k.entry 16)) = none) :
    exec (.seqRelease c) s = .next (s.settled ((s.dev.releaseSeq (hIndex (u32 k.entry 16))).endCmd k s.dev.pair.next stOK [])) := by
  show execSeqRelease c s = _
  refine onHall_settled halive ?_
  rw [hact]
  dsimp only
  rw [if_neg (not_not.2 hst), hstale]

end Release

/-! ## KV_TRANSFER -/

/-- The transfer that a `KV_TRANSFER` begins. -/
def Dev.newXfer (d : Dev) (k : RunCmd) : Xfer :=
  { xid := d.nextXid, idx := hIndex (u32 k.entry 16), ring := k.ring, index := k.index, dest := u16 k.entry 20, recomp := u8 k.entry 22,
    retryMax := u8 k.entry 23, bitmap := u64 k.entry 24, phase := .waiting, order := d.orders, entries := [], acked := [], moved := 0, copied := 0,
    retries := 0, waitFor := 0, lastTry := 0, parked := false, tried := false }

/-- The pages that a refused `KV_TRANSFER` counts as failed. -/
def Dev.xferPages (d : Dev) (k : RunCmd) : List Nat :=
  if d.rState (hIndex (u32 k.entry 16)) ≠ recFree ∧ hGen (u32 k.entry 16) = d.rGen (hIndex (u32 k.entry 16)) ∧ d.rTenant (hIndex (u32 k.entry 16)) = k.tenant then
    d.usedEntries (hIndex (u32 k.entry 16))
  else []

section Transfer

variable {s : State} {c : CmdId} {k : RunCmd} (halive : s.dev.alive = true) (hact : s.dev.act c opKvTransfer = some k)
include halive hact

theorem exec_kvTransfer_bitmap (hstage : k.stage = stageBitmap) : exec (.kvTransfer c) s = .next (s.settled (s.dev.endRest k (u64 k.entry 24))) := by
  show execKvTransfer c s = _
  refine onHall_settled halive ?_
  rw [hact]
  dsimp only
  rw [if_pos hstage]

variable (hstage : k.stage ≠ stageBitmap) (hxfers : s.dev.xfers = [])
include hstage hxfers

theorem exec_kvTransfer_refused (hst : s.dev.checkHandle (u32 k.entry 16) k.tenant s.dev.orders ≠ stOK) : exec (.kvTransfer c) s
    = .next (s.settled (s.dev.refuseXfer k s.dev.pair.next (s.dev.checkHandle (u32 k.entry 16) k.tenant s.dev.orders) [0, 0, 0, (s.dev.xferPages k).length]
      (ackBits (s.dev.xferPages k) []))) := by
  show execKvTransfer c s = _
  rw [execKvTransfer]
  refine onHall_settled halive ?_
  rw [hact, hxfers]
  dsimp only
  rw [if_neg hstage, List.any_nil, if_neg Bool.false_ne_true, if_pos hst, Dev.xferPages]

variable (hst : s.dev.checkHandle (u32 k.entry 16) k.tenant s.dev.orders = stOK)
include hst

theorem exec_kvTransfer_malformed (hrecomp : 3 < u8 k.entry 22) : exec (.kvTransfer c) s
    = .next (s.settled (s.dev.refuseXfer k s.dev.pair.next stAborted [0, 0, 0, (s.dev.xferPages k).length] (ackBits (s.dev.xferPages k) []))) := by
  show execKvTransfer c s = _
  rw [execKvTransfer]
  refine onHall_settled halive ?_
  rw [hact, hxfers]
  dsimp only
  rw [if_neg hstage, List.any_nil, if_neg Bool.false_ne_true, if_neg (not_not.2 hst), if_pos hrecomp, Dev.xferPages]

theorem exec_kvTransfer_accepted (hrecomp : u8 k.entry 22 ≤ 3) : exec (.kvTransfer c) s = .next (s.settled
    (((({ s.dev.setCmd { k with order := s.dev.orders } with
        xfers := [s.dev.newXfer k], nextXid := if s.dev.nextXid = 2 ^ 32 - 1 then 1 else s.dev.nextXid + 1, orders := s.dev.orders + 1 } : Dev).touch
          (hIndex (u32 k.entry 16))).rput (hIndex (u32 k.entry 16)) 0 46 44 recLeaving).rput (hIndex (u32 k.entry 16)) 4 31 0 s.dev.nextXid |>.mirrorRec
            (hIndex (u32 k.entry 16)))) := by
  show execKvTransfer c s = _
  rw [execKvTransfer]
  refine onHall_settled halive ?_
  split
  · rename_i hnone
    rw [hact] at hnone
    exact absurd hnone (Option.some_ne_none k)
  · rename_i k' hk'
    rw [hact] at hk'
    obtain rfl := Option.some.inj hk'
    rw [hxfers, List.any_nil, if_neg hstage, if_neg Bool.false_ne_true, if_neg (not_not.2 hst), if_neg (Nat.not_lt.2 hrecomp)]
    refine have_elim (have_elim ?_)
    rw [List.nil_append, ← Dev.newXfer]

end Transfer

/-- Settles O7: the release of a sequence, and a transfer accepted or refused at its source. -/
theorem releaseAndTransferAccepted : Obligations.ReleaseAndTransferAccepted := by
  intro s c k d e i halive
  refine ⟨fun hact => ⟨?_, ?_, ?_⟩, fun hact hstage hxfers => ⟨?_, ?_, ?_⟩, fun hact hstage => exec_kvTransfer_bitmap halive hact hstage, fun d n st res bm => ?_⟩
  · exact fun hst hstale => exec_seqRelease_done halive hact hst hstale
  · exact fun p tag hst hstale => exec_seqRelease_stale halive hact hst hstale
  · exact fun hst => exec_seqRelease_refused halive hact hst
  · exact fun hst hrecomp => ⟨s.dev.newXfer k, rfl, rfl, rfl, rfl, rfl, rfl, rfl, rfl, exec_kvTransfer_accepted halive hact hstage hxfers hst hrecomp⟩
  · exact fun hst => exec_kvTransfer_refused halive hact hstage hxfers hst
  · exact fun hst hrecomp => exec_kvTransfer_malformed halive hact hstage hxfers hst hrecomp
  · rw [Dev.refuseXfer]

end Sys2Proof.Machine

/-! # A transfer at its source (R24, R25, R62 to R66) -/

namespace Sys2Proof.Machine

/-! ## What a transfer does of its own accord -/

section Own

variable {s : State} {x : Xfer} {xid : BitVec 32} (halive : s.dev.alive = true)
include halive

theorem exec_kvTransferProceed {d' : Dev} {x' : Xfer} (hx : s.dev.xfer xid.toNat = some x) (hphase : x.phase = .waiting) (hwait : x.waitFor = 0)
    (hearlier : s.dev.earlierNaming x.idx x.order = false) (hleaving : s.dev.rState x.idx = recLeaving) (hxid : s.dev.rXfer x.idx = x.xid)
    (hflush : s.dev.flushSeq x.idx = (true, d')) (hx' : { x with entries := d'.usedEntries x.idx, phase := .reserving, lastTry := d'.ns } = x') :
    exec (.kvTransferProceed xid) s = .next (s.settled ((d'.setXfer x').sendRsv x')) := by
  have hgoes : ¬ (x.phase ≠ .waiting ∨ x.waitFor ≠ 0 ∨ s.dev.earlierNaming x.idx x.order = true) := by
    rw [hearlier]
    simp [hphase, hwait]
  have hmine : ¬ (s.dev.rState x.idx ≠ recLeaving ∨ s.dev.rXfer x.idx ≠ x.xid) := by simp [hleaving, hxid]
  show execKvTransferProceed xid s = _
  refine onHall_settled halive ?_
  rw [hx]
  dsimp only
  rw [Dev.proceed, if_neg hgoes, if_neg hmine, hflush]
  dsimp only
  rw [hx']

theorem exec_reservationRetry_again {x' : Xfer} (hx : s.dev.xfer xid.toNat = some x) (hphase : x.phase = .retry) (hwait : x.waitFor = 0) (hleft : x.retries < x.retryMax)
    (hx' : { x with phase := .reserving, retries := x.retries + 1, lastTry := s.dev.ns } = x') :
    exec (.reservationRetry xid) s = .next (s.settled ((s.dev.setXfer x').sendRsv x')) := by
  show execReservationRetry xid s = _
  refine onHall_settled halive ?_
  rw [hx]
  dsimp only
  rw [if_neg (by simp [hphase, hwait]), if_neg (Nat.not_le.2 hleft), hx']

theorem exec_reservationRetry_spent (hx : s.dev.xfer xid.toNat = some x) (hphase : x.phase = .retry) (hwait : x.waitFor = 0) (hspent : x.retryMax ≤ x.retries) :
    exec (.reservationRetry xid) s = .next (s.settled (s.dev.failXfer x s.dev.pair.next stReserveDenied)) := by
  show execReservationRetry xid s = _
  refine onHall_settled halive ?_
  rw [hx]
  dsimp only
  rw [if_neg (by simp [hphase, hwait]), if_pos hspent]

theorem exec_commitRetry {t : BitVec 64} {d : Dev} (hd : s.dev.advanceTo t.toNat = d) (hphase : x.phase = .committing) (hx : d.xfer xid.toNat = some x)
    (hdue : x.lastTry + 1000 * atLeast1 (d.get Fld.MOV_XFER_CFG_COMMIT_RETRY) ≤ d.ns) : exec (.commitRetry xid t) s = .next (s.settled (d.sendCommit x)) := by
  show execCommitRetry xid t s = _
  refine onHall_settled halive ?_
  rw [hd]
  dsimp only
  rw [hx]
  exact if_pos ⟨hphase, hdue⟩

end Own

/-! ## Answers of the destination -/

section Answers

variable {s : State} {x : Xfer} {xid : BitVec 32} (halive : s.dev.alive = true) (hx : s.dev.xfer xid.toNat = some x) (hhears : s.dev.hears 0 x.dest = true)
include halive hx hhears

theorem exec_rsvGrant (hphase : x.phase = .reserving) : exec (.rsvGrant xid) s = .next (s.settled ((s.dev.took (.rsvGrant x.xid) x.dest).move x)) := by
  show execRsvGrant xid s = _
  refine onHall_settled halive ?_
  rw [hx]
  exact (Dev.hear_taken (m := .rsvGrant x.xid) hhears).trans (if_pos hphase)

theorem exec_commitUnknown {d : Dev} (hphase : x.phase = .committing) (hd : s.dev.took (.commitUnknown x.xid) x.dest = d) :
    exec (.commitUnknown xid) s = .next (s.settled (d.failXfer x d.pair.next stPartialFail)) := by
  show execCommitUnknown xid s = _
  refine onHall_settled halive ?_
  rw [hx]
  refine (Dev.hear_taken (m := .commitUnknown x.xid) hhears).trans ?_
  rw [hd, if_pos hphase]

/-! ### Refusals (R63, R64) -/

section Refused

variable {why : NakReason} {cross : Bool} {d : Dev} (hphase : x.phase = .reserving) (hd : s.dev.took (.rsvNak x.xid why cross) x.dest = d)
include hphase hd

theorem exec_rsvNak_ends {st : Nat} (hwhy : (why = .quota ∧ st = stQuotaBlocked) ∨ (why = .tenant ∧ st = stTenantMismatch) ∨ (why = .epoch ∧ st = stStaleEpoch)) :
    exec (.rsvNak xid why cross) s = .next (s.settled (d.failXfer x d.pair.next st)) := by
  show execRsvNak xid why cross s = _
  refine onHall_settled halive ?_
  rw [hx]
  refine (Dev.hear_taken (m := .rsvNak x.xid why cross) hhears).trans ?_
  rw [hd]
  dsimp only
  rw [if_neg (by simp [hphase]), if_neg (not_not.2 hphase)]
  obtain ⟨rfl, rfl⟩ | ⟨rfl, rfl⟩ | ⟨rfl, rfl⟩ := hwhy
  · rfl
  · rfl
  · rfl

variable (hwhy : why = .space ∨ why = .records)
include hwhy

theorem exec_rsvNak_nextCatch (hcross : cross = false ∨ x.dest ≤ d.node) :
    exec (.rsvNak xid why cross) s = .next (s.settled (d.setXfer { x with phase := .retry, waitFor := 1 })) := by
  have hnot : ¬ (cross = true ∧ d.node < x.dest) := by
    rintro ⟨hc, hlt⟩
    obtain h | h := hcross
    · exact Bool.false_ne_true (h.symm.trans hc)
    · exact Nat.not_lt.2 h hlt
  show execRsvNak xid why cross s = _
  refine onHall_settled halive ?_
  rw [hx]
  refine (Dev.hear_taken (m := .rsvNak x.xid why cross) hhears).trans ?_
  rw [hd]
  dsimp only
  rw [if_neg (by simp [hphase]), if_neg (not_not.2 hphase)]
  obtain rfl | rfl := hwhy
  · exact if_neg hnot
  · exact if_neg hnot

theorem exec_rsvNak_drawn (hcross : cross = true) (hnode : d.node < x.dest) :
    exec (.rsvNak xid why cross) s = .next (s.settled ((d.choose 8).2.setXfer { x with phase := .retry, waitFor := (d.choose 8).1 + 1 })) := by
  show execRsvNak xid why cross s = _
  refine onHall_settled halive ?_
  rw [hx]
  refine (Dev.hear_taken (m := .rsvNak x.xid why cross) hhears).trans ?_
  rw [hd]
  dsimp only
  rw [if_neg (by simp [hphase]), if_neg (not_not.2 hphase)]
  obtain rfl | rfl := hwhy
  · exact if_pos ⟨hcross, hnode⟩
  · exact if_pos ⟨hcross, hnode⟩

end Refused

/-! ### Pages acknowledged (R24, R62) -/

section Pages

variable {entry : BitVec 32} (hphase : x.phase = .moving)
include hphase

theorem exec_xferPageAck_refused {st : BitVec 8} {d : Dev} (hst : st ≠ 0) (hd : s.dev.took (.pageAck x.xid entry.toNat st.toNat) x.dest = d) :
    exec (.xferPageAck xid entry st) s = .next (s.settled (d.failXfer x d.pair.next (if st.toNat = stStaleEpoch then stStaleEpoch else stPartialFail))) := by
  have hbad : st.toNat ≠ stOK := fun h => hst (BitVec.eq_of_toNat_eq h)
  show execXferPageAck xid entry st s = _
  refine onHall_settled halive ?_
  rw [hx]
  refine (Dev.hear_taken (m := .pageAck x.xid entry.toNat st.toNat) hhears).trans ?_
  rw [hd]
  dsimp only
  rw [if_neg (not_not.2 hphase)]
  by_cases hstale : st.toNat = stStaleEpoch
  · rw [if_pos hstale, if_pos hstale]
  · rw [if_neg hstale, if_neg hstale, if_pos hbad]

theorem exec_xferPageAck_counted {d : Dev} {x' : Xfer} (hentry : entry.toNat ∈ x.entries) (hnew : entry.toNat ∉ x.acked)
    (hd : s.dev.took (.pageAck x.xid entry.toNat stOK) x.dest = d)
    (hx' : { x with
      acked := x.acked ++ [entry.toNat], moved := if (d.page (d.entry x.idx entry.toNat).page).state = pgShared then x.moved else x.moved + 1,
      copied := if (d.page (d.entry x.idx entry.toNat).page).state = pgShared then x.copied + 1 else x.copied } = x') :
    exec (.xferPageAck xid entry 0) s
      = .next (s.settled (if x.acked.length + 1 = x.entries.length then (d.setXfer x').sendCommit x' else d.setXfer x')) := by
  have hacked : (x.acked ++ [entry.toNat]).length = x.acked.length + 1 := by rw [List.length_append, List.length_singleton]
  subst hx'
  show execXferPageAck xid entry 0 s = _
  refine onHall_settled halive ?_
  rw [hx]
  refine (Dev.hear_taken (m := .pageAck x.xid entry.toNat (0 : BitVec 8).toNat) hhears).trans ?_
  rw [show (0 : BitVec 8).toNat = stOK from rfl, hd]
  dsimp only
  rw [if_neg (not_not.2 hphase), if_neg (by decide), if_neg (by simp), if_neg (by simp [hentry, hnew])]
  by_cases hlast : x.acked.length + 1 = x.entries.length
  · rw [if_pos hlast]
    exact if_pos (hacked.trans hlast)
  · rw [if_neg hlast]
    exact if_neg fun h => hlast (hacked.symm.trans h)

end Pages

theorem exec_commitAck {h : BitVec 32} {dst : Nat} (hdoubt : s.dev.inDoubt xid.toNat dst = none) (hanswers : s.dev.answersTo x dst = true) (hdst : dst < 65536) :
    exec (.commitAck xid h (BitVec.ofNat 16 dst)) s
      = .next (s.settled ((s.dev.took (.commitAck xid.toNat h.toNat) x.dest).commitAck xid.toNat h.toNat)) := by
  have hto : (BitVec.ofNat 16 dst).toNat = dst := Nat.mod_eq_of_lt hdst
  show execCommitAck xid h (BitVec.ofNat 16 dst) s = _
  refine onHall_settled halive ?_
  rw [hto, hdoubt]
  dsimp only
  rw [hx]
  dsimp only
  rw [if_pos hanswers]
  exact Dev.hear_taken (m := .commitAck xid.toNat h.toNat) hhears

end Answers

/-- Settles O8: a transfer at its source, by its phase and by what comes to it. -/
theorem transferAtSource : Obligations.TransferAtSource := by
  refine ⟨fun s x xid halive => ?_, fun s x xid entry halive hx hhears => ?_, fun d x xid h hx hphase => ?_⟩
  · intro d hx
    refine ⟨?_, ?_, ?_, ?_, ?_, ?_⟩
    · exact fun hphase hwait hearlier hleaving hxid d' hflush => exec_kvTransferProceed halive hx hphase hwait hearlier hleaving hxid hflush rfl
    · exact fun hphase hwait hleft => exec_reservationRetry_again halive hx hphase hwait hleft rfl
    · exact fun hphase hwait hspent => exec_reservationRetry_spent halive hx hphase hwait hspent
    · intro why cross hhears hphase d1 e
      refine ⟨fun hwhy => ⟨fun hcross => ?_, fun hcross hnode => ?_⟩, fun hwhy => ?_, fun hwhy => ?_, fun hwhy => ?_⟩
      · exact exec_rsvNak_nextCatch halive hx hhears hphase rfl hwhy hcross
      · exact exec_rsvNak_drawn halive hx hhears hphase rfl hwhy hcross hnode
      · exact exec_rsvNak_ends halive hx hhears hphase rfl (.inl ⟨hwhy, rfl⟩)
      · exact exec_rsvNak_ends halive hx hhears hphase rfl (.inr (.inl ⟨hwhy, rfl⟩))
      · exact exec_rsvNak_ends halive hx hhears hphase rfl (.inr (.inr ⟨hwhy, rfl⟩))
    · exact fun hhears hphase => exec_commitUnknown halive hx hhears hphase rfl
    · exact fun t hphase hx hdue => exec_commitRetry halive rfl hphase hx hdue
  · refine ⟨fun hphase => exec_rsvGrant halive hx hhears hphase, fun hphase hentry hnew => ?_, fun st hphase hst => ?_, fun h dst hphase hdoubt hanswers hdst => ?_⟩
    · intro d shared x'
      have hexec := exec_xferPageAck_counted (x' := x') halive hx hhears hphase hentry hnew rfl rfl
      refine ⟨fun hlt => ?_, fun heq => ?_⟩
      · rw [hexec, if_neg hlt.ne]
      · rw [hexec, if_pos heq]
    · exact exec_xferPageAck_refused halive hx hhears hphase hst rfl
    · exact exec_commitAck halive hx hhears hdoubt hanswers hdst
  · rw [Dev.commitAck, hx]
    exact if_pos hphase

end Sys2Proof.Machine

/-! # A transfer at its destination (R62 to R67, R330) -/

namespace Sys2Proof.Machine

/-! ## RSV_REQ (R63) -/

/-- Whether this device has a transfer to a node that still asks for its reservation. -/
def Dev.crosses (d : Dev) (src : Nat) : Bool :=
  d.xfers.any fun x => x.dest == src && (decide (x.phase = .waiting) || decide (x.phase = .reserving) || decide (x.phase = .retry))

/-- Word 0 of the record that a request reserves. -/
def Dev.rsvWord (d : Dev) (m : RsvReq) (i : Nat) : Nat :=
  word0 (genIssued (d.rGen i)) recArriving m.tenant.toNat m.layers.toNat m.kvheads.toNat m.hdim.toNat m.kvmode.toNat m.maxslots.toNat

section Request

variable {s : State} {m : RsvReq} {grants : Bool} {d : Dev} (halive : s.dev.alive = true) (hhears : s.dev.hears 0 m.hdr.src.toNat = true)
  (hd : s.dev.took (.rsvReq m) m.hdr.src.toNat = d)
include halive hhears hd

theorem exec_rsvReq_epoch (hepoch : d.epochOk m.hdr.src.toNat m.hdr.epoch.toNat = false) : exec (.rsvReq m grants) s
    = .next (s.settled (d.answer m.hdr.src.toNat m.hdr.dst.toNat (.rsvNak m.hdr.xid.toNat .epoch false))) := by
  show execRsvReq m grants s = _
  refine onHall_settled halive ?_
  refine (Dev.hear_taken (m := .rsvReq m) hhears).trans ?_
  rw [hd]
  exact if_pos (by simp [hepoch])

variable (hepoch : d.epochOk m.hdr.src.toNat m.hdr.epoch.toNat = true)
include hepoch

theorem exec_rsvReq_again {r : Rsv} (hr : d.rsv m.hdr.src.toNat m.hdr.xid.toNat = some r) : exec (.rsvReq m grants) s
    = .next (s.settled ((d.heardXfer m.hdr.src.toNat m.hdr.xid.toNat).answer m.hdr.src.toNat m.hdr.dst.toNat (.rsvGrant m.hdr.xid.toNat))) := by
  show execRsvReq m grants s = _
  refine onHall_settled halive ?_
  refine (Dev.hear_taken (m := .rsvReq m) hhears).trans ?_
  rw [hd]
  dsimp only
  rw [hepoch, if_neg (by simp), hr]
  exact if_pos rfl

variable (hr : d.rsv m.hdr.src.toNat m.hdr.xid.toNat = none)
include hr

theorem exec_rsvReq_tenant (hpart : d.hasPart m.tenant.toNat = false) : exec (.rsvReq m grants) s
    = .next (s.settled (d.answer m.hdr.src.toNat m.hdr.dst.toNat (.rsvNak m.hdr.xid.toNat .tenant false))) := by
  show execRsvReq m grants s = _
  refine onHall_settled halive ?_
  refine (Dev.hear_taken (m := .rsvReq m) hhears).trans ?_
  rw [hd]
  dsimp only
  rw [hepoch, if_neg (by simp), hr, Option.isSome_none, if_neg Bool.false_ne_true, if_pos (by simp [hpart])]

variable (hpart : d.hasPart m.tenant.toNat = true)
include hpart

theorem exec_rsvReq_quota (hadmits : d.admits m.tenant.toNat t1 (rsvGrans m) = false) : exec (.rsvReq m grants) s
    = .next (s.settled (d.refusedQuota.answer m.hdr.src.toNat m.hdr.dst.toNat (.rsvNak m.hdr.xid.toNat .quota false))) := by
  show execRsvReq m grants s = _
  refine onHall_settled halive ?_
  refine (Dev.hear_taken (m := .rsvReq m) hhears).trans ?_
  rw [hd]
  dsimp only
  rw [hepoch, if_neg (by simp), hr, Option.isSome_none, if_neg Bool.false_ne_true, if_neg (by simp [hpart]), if_pos (by simp [hadmits])]

variable (hadmits : d.admits m.tenant.toNat t1 (rsvGrans m) = true)
include hadmits

theorem exec_rsvReq_records (hrec : d.freeRec = none) : exec (.rsvReq m grants) s
    = .next (s.settled (d.answer m.hdr.src.toNat m.hdr.dst.toNat (.rsvNak m.hdr.xid.toNat .records (d.crosses m.hdr.src.toNat)))) := by
  show execRsvReq m grants s = _
  refine onHall_settled halive ?_
  refine (Dev.hear_taken (m := .rsvReq m) hhears).trans ?_
  rw [hd]
  dsimp only
  rw [hepoch, if_neg (by simp), hr, Option.isSome_none, if_neg Bool.false_ne_true, if_neg (by simp [hpart]), if_neg (by simp [hadmits]), hrec, Dev.crosses]

variable {i : Nat} (hrec : d.freeRec = some i) {d1 : Dev} (hd1 : d.askTwin i (d.rsvWord m i) = d1)
include hrec hd1

theorem exec_rsvReq_twin (hmirrors : d1.mirrors = true) (hgrants : grants = false) : exec (.rsvReq m grants) s
    = .next (s.settled (d1.answer m.hdr.src.toNat m.hdr.dst.toNat (.rsvNak m.hdr.xid.toNat .records (d.crosses m.hdr.src.toNat)))) := by
  rw [Dev.rsvWord] at hd1
  show execRsvReq m grants s = _
  refine onHall_settled halive ?_
  refine (Dev.hear_taken (m := .rsvReq m) hhears).trans ?_
  rw [hd]
  dsimp only
  rw [hepoch, if_neg (by simp), hr, Option.isSome_none, if_neg Bool.false_ne_true, if_neg (by simp [hpart]), if_neg (by simp [hadmits]), hrec]
  dsimp only
  rw [hd1, if_pos (by simp [hmirrors, hgrants]), Dev.crosses]

variable (hasked : d1.mirrors = false ∨ grants = true)
include hasked

theorem exec_rsvReq_granted {d2 : Dev} (hreserve : d1.reserve m i = .ok d2) : exec (.rsvReq m grants) s
    = .next (s.settled (d2.answer m.hdr.src.toNat m.hdr.dst.toNat (.rsvGrant m.hdr.xid.toNat))) := by
  have hadmitted : (d1.mirrors && !grants) = false := by
    obtain h | h := hasked
    · rw [h, Bool.false_and]
    · rw [h, Bool.not_true, Bool.and_false]
  rw [Dev.rsvWord] at hd1
  show execRsvReq m grants s = _
  refine onHall_settled halive ?_
  refine (Dev.hear_taken (m := .rsvReq m) hhears).trans ?_
  rw [hd]
  dsimp only
  rw [hepoch, if_neg (by simp), hr, Option.isSome_none, if_neg Bool.false_ne_true, if_neg (by simp [hpart]), if_neg (by simp [hadmits]), hrec]
  dsimp only
  rw [hd1, hadmitted, if_neg Bool.false_ne_true, hreserve]

theorem exec_rsvReq_space {d2 : Dev} (hreserve : d1.reserve m i = .error d2) : exec (.rsvReq m grants) s
    = .next (s.settled (((d1.keepQuarantined d2).refusedPool.mirror [.freed (BitVec.ofNat 15 i)]).answer m.hdr.src.toNat m.hdr.dst.toNat
      (.rsvNak m.hdr.xid.toNat .space (d.crosses m.hdr.src.toNat)))) := by
  have hadmitted : (d1.mirrors && !grants) = false := by
    obtain h | h := hasked
    · rw [h, Bool.false_and]
    · rw [h, Bool.not_true, Bool.and_false]
  rw [Dev.rsvWord] at hd1
  show execRsvReq m grants s = _
  refine onHall_settled halive ?_
  refine (Dev.hear_taken (m := .rsvReq m) hhears).trans ?_
  rw [hd]
  dsimp only
  rw [hepoch, if_neg (by simp), hr, Option.isSome_none, if_neg Bool.false_ne_true, if_neg (by simp [hpart]), if_neg (by simp [hadmits]), hrec]
  dsimp only
  rw [hd1, hadmitted, if_neg Bool.false_ne_true, hreserve, Dev.crosses]

end Request

/-! ## XFER_PAGE (R62, R65, R67) -/

section Place

variable {d : Dev} {r : Rsv} {m : XferPage}

theorem contains_map_fst (l : List (Nat × Nat)) (n : Nat) : (l.map (·.1)).contains n = l.any (·.1 == n) := by
  induction l with
  | nil => rfl
  | cons x l ih => rw [List.map_cons, List.contains_cons, ih, List.any_cons, Bool.beq_comm]

theorem Dev.placePage_again (h : r.placed.any (·.1 == m.entry.toNat) = true) : d.placePage r m = (d, stOK) := by
  rw [Dev.placePage, contains_map_fst, if_pos h]

theorem Dev.placePage_unreserved (h : r.placed.any (·.1 == m.entry.toNat) = false) (hspare : takeSpare m.mode.toNat r.spare = none) :
    d.placePage r m = (d, stAborted) := by
  rw [Dev.placePage, contains_map_fst, h, if_neg Bool.false_ne_true, hspare]

theorem Dev.placePage_taken (h : r.placed.any (·.1 == m.entry.toNat) = false) {p : Nat} {rest : List (Nat × Nat)}
    (hspare : takeSpare m.mode.toNat r.spare = some (p, rest)) {d1 : Dev}
    (hd1 : (d.setPage p { (d.page p) with fill := m.fill.toNat, hot := m.hot }).fillPage p m.payload m.scale (if m.summary.isEmpty then none else some m.summary) = d1) :
    d.placePage r m = ({ d1 with rsvs := d1.rsvs.map fun q => if q.src = r.src ∧ q.xid = r.xid then
      { r with spare := rest, placed := r.placed ++ [(m.entry.toNat, p)] } else q }, stOK) := by
  rw [Dev.placePage, contains_map_fst, h, if_neg Bool.false_ne_true, hspare]
  dsimp only
  rw [hd1]

end Place

section Page

variable {s : State} {m : XferPage} {d : Dev} (halive : s.dev.alive = true) (hhears : s.dev.hears 0 m.hdr.src.toNat = true)
  (hd : s.dev.took (.page m) m.hdr.src.toNat = d)
include halive hhears hd

theorem exec_xferPage_epoch (hepoch : d.epochOk m.hdr.src.toNat m.hdr.epoch.toNat = false) : exec (.xferPage m) s
    = .next (s.settled (d.answer m.hdr.src.toNat m.hdr.dst.toNat (.pageAck m.hdr.xid.toNat m.entry.toNat stStaleEpoch))) := by
  show execXferPage m s = _
  refine onHall_settled halive ?_
  refine (Dev.hear_taken (m := .page m) hhears).trans ?_
  rw [hd]
  exact if_pos (by simp [hepoch])

variable (hepoch : d.epochOk m.hdr.src.toNat m.hdr.epoch.toNat = true)
include hepoch

theorem exec_xferPage_unknown (hr : d.rsv m.hdr.src.toNat m.hdr.xid.toNat = none) : exec (.xferPage m) s
    = .next (s.settled (d.answer m.hdr.src.toNat m.hdr.dst.toNat (.pageAck m.hdr.xid.toNat m.entry.toNat stAborted))) := by
  show execXferPage m s = _
  refine onHall_settled halive ?_
  refine (Dev.hear_taken (m := .page m) hhears).trans ?_
  rw [hd]
  dsimp only
  rw [hepoch, if_neg (by simp), hr]

variable {r : Rsv} (hr : d.rsv m.hdr.src.toNat m.hdr.xid.toNat = some r) {e : Dev} (he : d.heardXfer m.hdr.src.toNat m.hdr.xid.toNat = e)
include hr he

theorem exec_xferPage_sum (hcrc : m.crc.toNat ≠ crc32c (m.payload ++ m.scale)) : exec (.xferPage m) s
    = .next (s.settled (e.answer m.hdr.src.toNat m.hdr.dst.toNat (.pageAck m.hdr.xid.toNat m.entry.toNat stCrcFault))) := by
  show execXferPage m s = _
  refine onHall_settled halive ?_
  refine (Dev.hear_taken (m := .page m) hhears).trans ?_
  rw [hd]
  dsimp only
  rw [hepoch, if_neg (by simp), hr]
  dsimp only
  rw [he, if_pos hcrc]

theorem exec_xferPage_placed {d1 : Dev} {st : Nat} (hcrc : m.crc.toNat = crc32c (m.payload ++ m.scale)) (hplace : e.placePage { r with silent := 0 } m = (d1, st)) :
    exec (.xferPage m) s = .next (s.settled (d1.answer m.hdr.src.toNat m.hdr.dst.toNat (.pageAck m.hdr.xid.toNat m.entry.toNat st))) := by
  show execXferPage m s = _
  refine onHall_settled halive ?_
  refine (Dev.hear_taken (m := .page m) hhears).trans ?_
  rw [hd]
  dsimp only
  rw [hepoch, if_neg (by simp), hr]
  dsimp only
  rw [he, if_neg (not_not.2 hcrc), hplace]

end Page

/-! ## COMMIT (R62, R66, R67) -/

/-- What a transfer of a source has committed here. -/
def Dev.commitOf (d : Dev) (src xid dst : Nat) : Option Committed := d.committed.find? (fun c => c.src == src && c.xid == xid && (c.dst == dst))

section Commit

variable {s : State} {m : CommitMsg} {d : Dev} (halive : s.dev.alive = true) (hhears : s.dev.hears 0 m.hdr.src.toNat = true)
  (hd : s.dev.took (.commit m) m.hdr.src.toNat = d)
include halive hhears hd

theorem exec_commit_epoch (hepoch : d.epochOk m.hdr.src.toNat m.hdr.epoch.toNat = false) : exec (.commit m) s
    = .next (s.settled (d.answer m.hdr.src.toNat m.hdr.dst.toNat (.rsvNak m.hdr.xid.toNat .epoch false))) := by
  show execCommit m s = _
  refine onHall_settled halive ?_
  refine (Dev.hear_taken (m := .commit m) hhears).trans ?_
  rw [hd]
  exact if_pos (by simp [hepoch])

variable (hepoch : d.epochOk m.hdr.src.toNat m.hdr.epoch.toNat = true)
include hepoch

theorem exec_commit_again {x : Committed} (hdone : d.commitOf m.hdr.src.toNat m.hdr.xid.toNat m.hdr.dst.toNat = some x) : exec (.commit m) s
    = .next (s.settled (if x.told then d.answer m.hdr.src.toNat m.hdr.dst.toNat (.commitAck m.hdr.xid.toNat x.handle) else d)) := by
  rw [Dev.commitOf] at hdone
  show execCommit m s = _
  refine onHall_settled halive ?_
  refine (Dev.hear_taken (m := .commit m) hhears).trans ?_
  rw [hd]
  dsimp only
  rw [hepoch, if_neg (by simp), hdone]

variable (hdone : d.commitOf m.hdr.src.toNat m.hdr.xid.toNat m.hdr.dst.toNat = none)
include hdone

theorem exec_commit_unknown (hr : d.rsv m.hdr.src.toNat m.hdr.xid.toNat = none) : exec (.commit m) s
    = .next (s.settled (d.answer m.hdr.src.toNat m.hdr.dst.toNat (.commitUnknown m.hdr.xid.toNat))) := by
  rw [Dev.commitOf] at hdone
  show execCommit m s = _
  refine onHall_settled halive ?_
  refine (Dev.hear_taken (m := .commit m) hhears).trans ?_
  rw [hd]
  dsimp only
  rw [hepoch, if_neg (by simp), hdone]
  dsimp only
  rw [hr]

/-- The record and its pages become this device's own. -/
theorem exec_commit_done {r : Rsv} {d1 d2 d3 d4 : Dev} (hr : d.rsv m.hdr.src.toNat m.hdr.xid.toNat = some r)
    (hd1 : r.placed.foldl (Dev.commitPage r.idx) ((r.spare.map (·.2)).foldl Dev.zeroPage
      { d with rsvs := d.rsvs.filter fun q => !(q.src == m.hdr.src.toNat && q.xid == m.hdr.xid.toNat) }) = d1)
    (hd2 : d1.commitRec r.idx m = d2)
    (hd3 : d2.mirror [.committed (BitVec.ofNat 16 m.hdr.src.toNat) (BitVec.ofNat 32 m.hdr.xid.toNat) (BitVec.ofNat 32 (d2.handleOf r.idx))] = d3)
    (hd4 : { d3 with
      committed := d3.committed ++ [⟨m.hdr.src.toNat, m.hdr.xid.toNat, m.hdr.dst.toNat, d2.handleOf r.idx, d3.needSince d.pair.next, false⟩] } = d4) :
    exec (.commit m) s = .next (s.settled d4.tellCommits) := by
  rw [Dev.commitOf] at hdone
  show execCommit m s = _
  refine onHall_settled halive ?_
  refine (Dev.hear_taken (m := .commit m) hhears).trans ?_
  rw [hd]
  dsimp only
  rw [hepoch, if_neg (by simp), hdone]
  dsimp only
  rw [hr]
  dsimp only
  rw [hd1, hd2, hd3, hd4]

end Commit

/-! ## ABORT (R65) -/

section Abort

variable {s : State} {h : XferHdr} {d : Dev} (halive : s.dev.alive = true) (hhears : s.dev.hears 0 h.src.toNat = true) (hd : s.dev.took (.abort h) h.src.toNat = d)
include halive hhears hd

theorem exec_abort_committed {x : Committed} (hdone : d.commitOf h.src.toNat h.xid.toNat h.dst.toNat = some x) : exec (.abort h) s
    = .next (s.settled (if x.told then d.answer h.src.toNat h.dst.toNat (.commitAck h.xid.toNat x.handle) else d)) := by
  rw [Dev.commitOf] at hdone
  show execAbort h s = _
  refine onHall_settled halive ?_
  refine (Dev.hear_taken (m := .abort h) hhears).trans ?_
  rw [hd, hdone]

theorem exec_abort_freed {r : Rsv} (hdone : d.commitOf h.src.toNat h.xid.toNat h.dst.toNat = none) (hr : d.rsv h.src.toNat h.xid.toNat = some r) :
    exec (.abort h) s = .next (s.settled ((d.freeRsv r).answer h.src.toNat h.dst.toNat (.abortAck h.xid.toNat))) := by
  rw [Dev.commitOf] at hdone
  show execAbort h s = _
  refine onHall_settled halive ?_
  refine (Dev.hear_taken (m := .abort h) hhears).trans ?_
  rw [hd, hdone]
  dsimp only
  rw [hr]

theorem exec_abort_nothing (hdone : d.commitOf h.src.toNat h.xid.toNat h.dst.toNat = none) (hr : d.rsv h.src.toNat h.xid.toNat = none) :
    exec (.abort h) s = .next (s.settled (d.answer h.src.toNat h.dst.toNat (.abortAck h.xid.toNat))) := by
  rw [Dev.commitOf] at hdone
  show execAbort h s = _
  refine onHall_settled halive ?_
  refine (Dev.hear_taken (m := .abort h) hhears).trans ?_
  rw [hd, hdone]
  dsimp only
  rw [hr]

end Abort

/-- Settles O9: requests, pages, commits and aborts of a transfer, in the order of their checks. -/
theorem transferDestination : Obligations.TransferDestination := by
  intro s h halive src dst xid hhears
  refine ⟨fun m grants hm => ?_, fun m hm => ?_, fun m hm => ?_, ?_⟩
  · subst hm
    refine ⟨fun hepoch => exec_rsvReq_epoch halive hhears rfl hepoch, fun hepoch => ⟨fun r hr => exec_rsvReq_again halive hhears rfl hepoch hr, fun hr =>
      ⟨fun hpart => exec_rsvReq_tenant halive hhears rfl hepoch hr hpart, fun hpart => ⟨fun hadmits => exec_rsvReq_quota halive hhears rfl hepoch hr hpart hadmits,
        fun hadmits => ⟨fun hrec => exec_rsvReq_records halive hhears rfl hepoch hr hpart hadmits hrec, fun i hrec => ⟨fun hmirrors hgrants => ?_, fun hasked =>
          ⟨fun d2 hreserve => ?_, fun d2 hreserve => ?_⟩⟩⟩⟩⟩⟩⟩
    · exact exec_rsvReq_twin halive hhears rfl hepoch hr hpart hadmits hrec rfl hmirrors hgrants
    · exact exec_rsvReq_granted halive hhears rfl hepoch hr hpart hadmits hrec rfl hasked hreserve
    · exact exec_rsvReq_space halive hhears rfl hepoch hr hpart hadmits hrec rfl hasked hreserve
  · subst hm
    refine ⟨fun hepoch => exec_xferPage_epoch halive hhears rfl hepoch, fun hepoch => ⟨fun hr => exec_xferPage_unknown halive hhears rfl hepoch hr, fun r hr =>
      ⟨fun hcrc => exec_xferPage_sum halive hhears rfl hepoch hr rfl hcrc, fun hcrc => ⟨fun hplaced => ?_, fun hplaced => ⟨fun hspare => ?_, fun p rest hspare => ?_⟩⟩⟩⟩⟩
    · exact exec_xferPage_placed halive hhears rfl hepoch hr rfl hcrc (Dev.placePage_again (r := { r with silent := 0 }) hplaced)
    · exact exec_xferPage_placed halive hhears rfl hepoch hr rfl hcrc (Dev.placePage_unreserved (r := { r with silent := 0 }) hplaced hspare)
    · exact exec_xferPage_placed halive hhears rfl hepoch hr rfl hcrc (Dev.placePage_taken (r := { r with silent := 0 }) hplaced hspare rfl)
  · subst hm
    refine ⟨fun hepoch => exec_commit_epoch halive hhears rfl hepoch, fun hepoch => ⟨fun x hdone htold => ?_, fun x hdone htold => ?_,
      fun hdone hr => exec_commit_unknown halive hhears rfl hepoch hdone hr, fun r hdone hr => exec_commit_done halive hhears rfl hepoch hdone hr rfl rfl rfl rfl⟩⟩
    · refine (exec_commit_again halive hhears rfl hepoch hdone).trans ?_
      rw [if_pos htold]
    · refine (exec_commit_again halive hhears rfl hepoch hdone).trans ?_
      rw [if_neg (by simp [htold])]
  · refine ⟨fun x hdone htold => ?_, fun x hdone htold => ?_, fun r hdone hr => exec_abort_freed halive hhears rfl hdone hr,
      fun hdone hr => exec_abort_nothing halive hhears rfl hdone hr⟩
    · refine (exec_abort_committed halive hhears rfl hdone).trans ?_
      rw [if_pos htold]
    · refine (exec_abort_committed halive hhears rfl hdone).trans ?_
      rw [if_neg (by simp [htold])]

end Sys2Proof.Machine

/-! # Holds and timeouts of transfers and landings (R50, R52, R65, R198, R337) -/

namespace Sys2Proof.Machine

section Holds

variable {s : State} (halive : s.dev.alive = true)
include halive

/-! ## Reservations (R65) -/

theorem exec_xferHold_heard {h : XferHdr} {d : Dev} {r : Rsv} (hhears : s.dev.hears 0 h.src.toNat = true) (hd : s.dev.took (.xferHold h) h.src.toNat = d)
    (hr : d.rsv h.src.toNat h.xid.toNat = some r) : exec (.xferHold h) s = .next (s.settled (d.heardXfer h.src.toNat h.xid.toNat)) := by
  show execXferHold h s = _
  refine onHall_settled halive ?_
  refine (Dev.hear_taken (m := .xferHold h) hhears).trans ?_
  rw [hd, hr]

theorem exec_xferHold_unknown {h : XferHdr} {d : Dev} (hhears : s.dev.hears 0 h.src.toNat = true) (hd : s.dev.took (.xferHold h) h.src.toNat = d)
    (hr : d.rsv h.src.toNat h.xid.toNat = none) :
    exec (.xferHold h) s = .next (s.settled (d.answer h.src.toNat h.dst.toNat (.pageAck h.xid.toNat 0 stAborted))) := by
  show execXferHold h s = _
  refine onHall_settled halive ?_
  refine (Dev.hear_taken (m := .xferHold h) hhears).trans ?_
  rw [hd, hr]

theorem exec_rsvHoldTimeout {src : BitVec 16} {xid : BitVec 32} {r : Rsv} (hr : s.dev.rsv src.toNat xid.toNat = some r) : exec (.rsvHoldTimeout src xid) s
    = .next (s.settled (if s.dev.get Fld.MOV_XFER_CFG_RSV_HOLD ≤ r.silent then s.dev.freeRsv r else s.dev)) := by
  show execRsvHoldTimeout src xid s = _
  refine onHall_settled halive ?_
  rw [hr]

/-! ## Holds and flushes of a stroke (R50, R52, R198) -/

theorem exec_xferHoldSend {x : Xfer} (hxfers : s.dev.xfers = [x]) (hparked : x.parked = true) (htried : x.tried = false) : exec .xferHoldSend s
    = .next (s.settled ((s.dev.setXfer { x with tried := true }).xsend x (.xferHold (s.dev.xhdr x)))) := by
  show execXferHoldSend s = _
  refine onHall_settled halive ?_
  rw [hxfers, List.filter_cons_of_pos (by simp [hparked, htried]), List.filter_nil, List.foldl_cons, List.foldl_nil]

theorem exec_appendHoldTimeout {c : CmdId} {k : RunCmd} {t : BitVec 64} {d : Dev} (hd : s.dev.advanceTo t.toNat = d) (hk : d.cmdAs c opAttnMerge .run = some k)
    (hholds : k.holds = true) (hdue : k.since + 1000 * d.get Fld.MEM_FAULT_CFG_TIMEOUT ≤ d.ns) : exec (.appendHoldTimeout c t) s
    = .next (s.settled ((d.bump Fld.MEM_STALL_TIME ((d.ns - k.since) / 1000) 6).attEnd k d.pair.next stQuotaBlocked [k.merged])) := by
  show execAppendHoldTimeout c t s = _
  refine onHall_settled halive ?_
  rw [hd]
  dsimp only
  rw [hk]
  dsimp only
  rw [if_pos ⟨hholds, hdue⟩]

theorem exec_landingFlushPoint (hfiring : s.dev.firing = true) (hflushed : s.dev.clk.flushed = false)
    (hangle : s.dev.get Fld.MOV_XFER_CFG_LFLUSH_ANGLE ≤ s.dev.angle) : exec .landingFlushPoint s = .next (s.settled s.dev.landingFlush) := by
  show execLandingFlushPoint s = _
  refine onHall_settled halive ?_
  exact if_pos ⟨hfiring, by rw [hflushed]; rfl, hangle⟩

/-! ## Records in doubt at a takeover (R337) -/

theorem exec_abortAck {i : Nat} {xid : BitVec 32} {dst : BitVec 16} (hdoubt : s.dev.inDoubt xid.toNat dst.toNat = some i)
    (hhears : s.dev.hears 0 (s.dev.sideDest i) = true) : exec (.abortAck xid dst) s
    = .next (s.settled ((((s.dev.took (.abortAck xid.toNat) (s.dev.sideDest i)).decided i).convertMirror i).endTakeover)) := by
  show execAbortAck xid dst s = _
  refine onHall_settled halive ?_
  rw [hdoubt]
  exact Dev.hear_taken (m := .abortAck xid.toNat) hhears

theorem exec_commitAck_doubt {i : Nat} {xid h : BitVec 32} {dst : BitVec 16} (hdoubt : s.dev.inDoubt xid.toNat dst.toNat = some i)
    (hhears : s.dev.hears 0 (s.dev.sideDest i) = true) : exec (.commitAck xid h dst) s
    = .next (s.settled ((((s.dev.took (.commitAck xid.toNat h.toNat) (s.dev.sideDest i)).decided i).movedMirror i).endTakeover)) := by
  show execCommitAck xid h dst s = _
  refine onHall_settled halive ?_
  rw [hdoubt]
  exact Dev.hear_taken (m := .commitAck xid.toNat h.toNat) hhears

end Holds

/-- Settles O10: what is held, and what its time ends. -/
theorem transferHolds : Obligations.TransferHolds := by
  intro s halive d
  refine ⟨fun h hhears => ⟨fun r hr => exec_xferHold_heard halive hhears rfl hr, fun hr => exec_xferHold_unknown halive hhears rfl hr⟩,
    fun src xid r hr => ⟨fun hsilent => ?_, fun hsilent => ?_⟩, fun x hxfers hparked htried => exec_xferHoldSend halive hxfers hparked htried,
    fun c k t hk hholds hdue => exec_appendHoldTimeout halive rfl hk hholds hdue,
    fun hfiring hflushed hangle => exec_landingFlushPoint halive hfiring hflushed hangle, fun i xid h dst hdoubt hhears => ⟨?_, ?_⟩⟩
  · rw [exec_rsvHoldTimeout halive hr, if_pos hsilent]
  · rw [exec_rsvHoldTimeout halive hr, if_neg (Nat.not_le.2 hsilent)]
  · exact exec_abortAck halive hdoubt hhears
  · exact exec_commitAck_doubt halive hdoubt hhears

end Sys2Proof.Machine

/-! # Prefix commands, key loads, scans and the directory sweep (R42, R57, R58, R61, R427) -/

namespace Sys2Proof.Machine

/-! ## PREFIX_LOOKUP and PREFIX_INSERT -/

section Lookup

variable {s : State} {c : CmdId} {k : RunCmd} (halive : s.dev.alive = true) (hact : s.dev.act c opPrefixLookup = some k)
include halive hact

theorem exec_prefixLookup_refused (hcheck : s.dev.prefixCheck k true ≠ stOK) :
    exec (.prefixLookup c) s = .next (s.settled (s.dev.endCmd k s.dev.pair.next (s.dev.prefixCheck k true) [])) := by
  show execPrefixLookup c s = _
  refine onHall_settled halive ?_
  rw [hact]
  dsimp only
  rw [if_pos hcheck]

variable (hcheck : s.dev.prefixCheck k true = stOK)
include hcheck

theorem exec_prefixLookup_noTree (hsize : s.dev.ptSize = 0) :
    exec (.prefixLookup c) s = .next (s.settled (s.dev.endCmd k s.dev.pair.next stOK [0])) := by
  show execPrefixLookup c s = _
  refine onHall_settled halive ?_
  rw [hact]
  dsimp only
  rw [if_neg (not_not.2 hcheck), if_pos hsize]

variable (hsize : s.dev.ptSize ≠ 0) {ps : List Nat} {d' : Dev}
  (hfrom : Dev.lookupFrom k (hIndex (u32 k.entry 16)) (u32 k.entry 32) 0 (u32 k.entry 20) [] s.dev = .ok ps d')
include hsize hfrom

theorem exec_prefixLookup_matched (hstale : ps.findSome? (fun p => (d'.bvState (d'.pnode p)).join) = none) :
    exec (.prefixLookup c) s = .next (s.settled ((d'.useMatches (hIndex (u32 k.entry 16)) ps).endCmd k s.dev.pair.next stOK [ps.length])) := by
  show execPrefixLookup c s = _
  refine onHall_settled halive ?_
  rw [hact]
  dsimp only
  rw [if_neg (not_not.2 hcheck), if_neg hsize, hfrom, Res.andThen]
  rw [hstale, Dev.settleCmd]

theorem exec_prefixLookup_stale {p tag : Nat} (hstale : ps.findSome? (fun p => (d'.bvState (d'.pnode p)).join) = some (p, tag)) :
    exec (.prefixLookup c) s = .next (s.settled ((d'.tagMismatch mIndex p tag).endCmd k s.dev.pair.next stAborted [])) := by
  show execPrefixLookup c s = _
  refine onHall_settled halive ?_
  rw [hact]
  dsimp only
  rw [if_neg (not_not.2 hcheck), if_neg hsize, hfrom, Res.andThen]
  rw [hstale, Dev.settleCmd]

end Lookup

section Insert

variable {s : State} {c : CmdId} {k : RunCmd} (halive : s.dev.alive = true) (hact : s.dev.act c opPrefixInsert = some k)
include halive hact

theorem exec_prefixInsert_refused (hcheck : s.dev.prefixCheck k false ≠ stOK) :
    exec (.prefixInsert c) s = .next (s.settled (s.dev.endCmd k s.dev.pair.next (s.dev.prefixCheck k false) [])) := by
  show execPrefixInsert c s = _
  refine onHall_settled halive ?_
  rw [hact]
  dsimp only
  rw [if_pos hcheck]

variable (hcheck : s.dev.prefixCheck k false = stOK)
include hcheck

theorem exec_prefixInsert_noTree (hsize : s.dev.ptSize = 0) :
    exec (.prefixInsert c) s = .next (s.settled (s.dev.endCmd k s.dev.pair.next stOK [0, 0])) := by
  show execPrefixInsert c s = _
  refine onHall_settled halive ?_
  rw [hact]
  dsimp only
  rw [if_neg (not_not.2 hcheck), if_pos hsize]

variable (hsize : s.dev.ptSize ≠ 0) {hs : List Nat} {stale : Option (Nat × Nat)} {d' : Dev}
  (hfrom : Dev.hashesFrom k (hIndex (u32 k.entry 16)) (u32 k.entry 32) 0 (u32 k.entry 20) [] s.dev = .ok (hs, stale) d')
include hsize hfrom

theorem exec_prefixInsert_done (hstale : stale = none) {ins pres : Nat} {d'' : Dev}
    (hins : Dev.insertFrom (hIndex (u32 k.entry 16)) hs 0 none 0 0 d' = (d'', ins, pres)) :
    exec (.prefixInsert c) s = .next (s.settled (d''.endCmd k s.dev.pair.next stOK [ins, pres])) := by
  show execPrefixInsert c s = _
  refine onHall_settled halive ?_
  rw [hact]
  dsimp only
  rw [if_neg (not_not.2 hcheck), if_neg hsize, hfrom, Res.andThen]
  dsimp only
  rw [hstale]
  dsimp only
  rw [hins, Dev.settleCmd]

theorem exec_prefixInsert_stale {p tag : Nat} (hstale : stale = some (p, tag)) :
    exec (.prefixInsert c) s = .next (s.settled ((d'.tagMismatch mIndex p tag).endCmd k s.dev.pair.next stAborted [])) := by
  show execPrefixInsert c s = _
  refine onHall_settled halive ?_
  rw [hact]
  dsimp only
  rw [if_neg (not_not.2 hcheck), if_neg hsize, hfrom, Res.andThen]
  dsimp only
  rw [hstale, Dev.settleCmd]

end Insert

/-! ## Key loads (R61) -/

theorem Dev.pfOpen_eq_false {d : Dev} {fn : BitVec 6} (h : fn ≠ 0 ∨ d.open' = false) : d.pfOpen fn.toNat = false := by
  rw [Dev.pfOpen]
  obtain h | h := h
  · have hne : (fn.toNat == 0) = false := beq_eq_false_iff_ne.2 fun hz => h (BitVec.eq_of_toNat_eq hz)
    rw [hne, Bool.false_and]
  · rw [h, Bool.and_false]

theorem onDev_nothing {s : State} {f : Dev → Dev} (halive : s.dev.alive = true) (hf : f s.dev = s.dev) : onDev f s = .next s := by
  rw [onDev_alive halive, hf]

/-- What a write of the upper key register leaves. -/
theorem Dev.writeKeyHi_reads (d : Dev) (upperOnly : Bool) (v : Word) {t : Nat} (ht : d.get Fld.IDX_PT_KEY_SEL_TENANT = t) :
    (d.writeKeyHi upperOnly v.toNat).prefixKey t = ⟨d.get Fld.IDX_PT_KEY_LO_KEY0,
        if upperOnly then v.toNat % 2 ^ 32 * 2 ^ 32 + d.get Fld.IDX_PT_KEY_HI_KEY1 % 2 ^ 32 else v.toNat, ((d.prefixKey t).gen + 1) % 256⟩
      ∧ (d.writeKeyHi upperOnly v.toNat).scans = d.scans.filter (fun x => x.tenant != t) ++ [⟨t, 0⟩]
      ∧ (∀ u, u ≠ t → (d.writeKeyHi upperOnly v.toNat).prefixKey u = d.prefixKey u)
      ∧ Dev.sameRegsBut [Fld.IDX_PT_KEY_HI_KEY1.off 0 0] d (d.writeKeyHi upperOnly v.toNat)
      ∧ d.writeKeyHi upperOnly v.toNat = { d with
          regs := (d.writeKeyHi upperOnly v.toNat).regs, keys := (d.writeKeyHi upperOnly v.toNat).keys, scans := (d.writeKeyHi upperOnly v.toNat).scans } := by
  rw [Dev.writeKeyHi]
  generalize hkey : (if upperOnly then v.toNat % 2 ^ 32 * 2 ^ 32 + d.get Fld.IDX_PT_KEY_HI_KEY1 % 2 ^ 32 else v.toNat) = key
  have hlt : key < 2 ^ 64 := by
    have hv : v.toNat < 2 ^ 64 := v.isLt
    rw [← hkey]
    split <;> omega
  obtain ⟨d1, hd1⟩ : ∃ d1, d1 = d.put Fld.IDX_PT_KEY_HI_KEY1 key := ⟨_, rfl⟩
  obtain ⟨regs, hframe⟩ : ∃ regs, d1 = { d with regs := regs } := by
    rw [hd1]
    exact d.put_frame _ _ _ _
  have hsel : d1.get Fld.IDX_PT_KEY_SEL_TENANT = t := by rw [hd1, Dev.get_put_other _ _ _ _ _ _ _ _ (by decide), ht]
  have hlo : d1.get Fld.IDX_PT_KEY_LO_KEY0 = d.get Fld.IDX_PT_KEY_LO_KEY0 := by rw [hd1, Dev.get_put_other _ _ _ _ _ _ _ _ (by decide)]
  have hhi : d1.get Fld.IDX_PT_KEY_HI_KEY1 = key := by
    rw [hd1, Dev.get_put_same _ _ _ _ _ (by decide) (by decide)]
    exact Nat.mod_eq_of_lt hlt
  have hsame : Dev.sameRegsBut [Fld.IDX_PT_KEY_HI_KEY1.off 0 0] d d1 := by
    rw [hd1]
    exact Dev.sameRegsBut_put (Dev.sameRegsBut_refl _ d) _ _ _ _ List.mem_cons_self
  have hgen (u : Nat) : d1.prefixKey u = d.prefixKey u := by rw [hframe, Dev.prefixKey, Dev.prefixKey]
  have hscans : d1.scans = d.scans := by rw [hframe]
  rw [← hd1, Dev.loadKey, hsel, hlo, hhi, hgen, hscans]
  refine ⟨sget_sins_same _ _ _ _, rfl, fun u hu => ?_, Dev.sameRegsBut_of_regs hsame rfl, ?_⟩
  · exact (sget_sins_other _ hu _ _).trans (hgen u)
  · rw [hframe]

theorem exec_idxPtKeyLoad {s : State} {upperOnly : Bool} {v : Word} (halive : s.dev.alive = true) (hopen : s.dev.open' = true)
    (hunit : s.dev.flag Fld.GLB_UNIT_EN_IDX = true) : exec (.idxPtKeyLoad 0 upperOnly v) s = .next (s.withDev (s.dev.writeKeyHi upperOnly v.toNat)) := by
  have hpf : s.dev.pfOpen (0 : BitVec 6).toNat = true := by rw [Dev.pfOpen, hopen]; rfl
  show execIdxPtKeyLoad 0 upperOnly v s = _
  exact onDev_withDev halive (if_pos (by rw [hpf, hunit]; rfl))

theorem exec_idxPtKeyLoad_ignored {s : State} {fn : BitVec 6} {upperOnly : Bool} {v : Word} (halive : s.dev.alive = true)
    (h : fn ≠ 0 ∨ s.dev.open' = false ∨ s.dev.flag Fld.GLB_UNIT_EN_IDX = false) : exec (.idxPtKeyLoad fn upperOnly v) s = .next s := by
  have hnot : (s.dev.pfOpen fn.toNat && s.dev.flag Fld.GLB_UNIT_EN_IDX) = false := by
    obtain h | h | h := h
    · rw [Dev.pfOpen_eq_false (.inl h), Bool.false_and]
    · rw [Dev.pfOpen_eq_false (.inr h), Bool.false_and]
    · rw [h, Bool.and_false]
  show execIdxPtKeyLoad fn upperOnly v s = _
  exact onDev_nothing halive (if_neg (by rw [hnot]; exact Bool.false_ne_true))

/-! ## Scans and the sweep (R42, R61) -/

section Scans

variable {s : State} (halive : s.dev.alive = true)
include halive

theorem exec_keyScanBucket_none {tenant : BitVec 8} (hx : s.dev.scans.find? (·.tenant == tenant.toNat) = none) :
    exec (.keyScanBucket tenant) s = .next (s.settled s.dev) := by
  show execKeyScanBucket tenant s = _
  refine onHall_settled halive ?_
  dsimp only
  rw [hx]

section Bucket

variable {tenant : BitVec 8} {x : KeyScan} (hx : s.dev.scans.find? (·.tenant == tenant.toNat) = some x) {d' : Dev}
  (hd' : (if s.dev.ptSize = 0 then s.dev else s.dev.scanBucket tenant.toNat x.bucket) = d')
include hx hd'

theorem exec_keyScanBucket_next (hsize : d'.ptSize ≠ 0) (hbucket : x.bucket + 1 < d'.buckets) : exec (.keyScanBucket tenant) s
    = .next (s.settled { d' with scans := d'.scans.filter (fun y => y.tenant != tenant.toNat) ++ [⟨tenant.toNat, x.bucket + 1⟩] }) := by
  show execKeyScanBucket tenant s = _
  rw [execKeyScanBucket]
  refine onHall_settled halive (have_elim ?_)
  split
  · rename_i hnone
    rw [hx] at hnone
    exact absurd hnone (Option.some_ne_none x)
  · rename_i y hy
    rw [hx] at hy
    obtain rfl := Option.some.inj hy
    rw [hd']
    refine have_elim (have_elim ?_)
    rw [if_neg (not_or.2 ⟨hsize, Nat.not_le.2 hbucket⟩)]

theorem exec_keyScanBucket_last (hlast : d'.ptSize = 0 ∨ d'.buckets ≤ x.bucket + 1) : exec (.keyScanBucket tenant) s
    = .next (s.settled { d' with scans := d'.scans.filter (fun y => y.tenant != tenant.toNat) }) := by
  show execKeyScanBucket tenant s = _
  rw [execKeyScanBucket]
  refine onHall_settled halive (have_elim ?_)
  split
  · rename_i hnone
    rw [hx] at hnone
    exact absurd hnone (Option.some_ne_none x)
  · rename_i y hy
    rw [hx] at hy
    obtain rfl := Option.some.inj hy
    rw [hd']
    refine have_elim (have_elim ?_)
    rw [if_pos hlast]

end Bucket

theorem exec_sweepStart (hopen : s.dev.open' = true) : exec (.sweepStart 0) s = .next (s.withDev (s.dev.put Fld.MEM_PD_SWEEP_BUSY 1)) := by
  have hpf : s.dev.pfOpen (0 : BitVec 6).toNat = true := by rw [Dev.pfOpen, hopen]; rfl
  show execSweepStart 0 s = _
  exact onDev_withDev halive (if_pos hpf)

theorem exec_sweepStart_ignored {fn : BitVec 6} (h : fn ≠ 0 ∨ s.dev.open' = false) : exec (.sweepStart fn) s = .next s := by
  show execSweepStart fn s = _
  exact onDev_nothing halive (if_neg (by rw [Dev.pfOpen_eq_false h]; exact Bool.false_ne_true))

theorem exec_sweepDone_idle (hbusy : s.dev.flag Fld.MEM_PD_SWEEP_BUSY = false) : exec .sweepDone s = .next (s.settled s.dev) := by
  show execSweepDone s = _
  refine onHall_settled halive ?_
  rw [hbusy]
  rfl

theorem exec_sweepDone (hbusy : s.dev.flag Fld.MEM_PD_SWEEP_BUSY = true) {a b c q : Nat} {d1 d2 d3 d4 : Dev} (h1 : s.dev.sweepRefs = (a, d1))
    (h2 : d1.sweepReserved = (b, d2)) (h3 : d2.sweepOld = (c, d3)) (h4 : d3.sweepQuar = (q, d4)) : exec .sweepDone s
    = .next (s.settled ((d4.put Fld.MEM_PD_SWEEP_BUSY 0).logEv evSweepDone mCox
        (min a 0xFFFF + min b 0xFFFF * 2 ^ 16 + min c 0xFFFF * 2 ^ 32 + min q 0xFFFF * 2 ^ 48))) := by
  show execSweepDone s = _
  refine onHall_settled halive ?_
  rw [hbusy, if_neg (by simp), h1]
  dsimp only
  rw [h2]
  dsimp only
  rw [h3]
  dsimp only
  rw [h4]

end Scans

/-- Settles O11: the commands of the tree, the load of a key, and the steps of scans and sweeps. -/
theorem prefixTreeAndScans : Obligations.PrefixTreeAndScans := by
  refine ⟨fun s c k => ?_, fun s fn upperOnly v => ?_, fun s halive => ?_⟩
  · intro d e i n0 halive
    refine ⟨fun hact => ⟨?_, ?_, fun hcheck hsize ps d' hfrom => ⟨?_, ?_⟩⟩, fun hact => ⟨?_, ?_, fun hcheck hsize hs stale d' hfrom => ⟨?_, ?_⟩⟩⟩
    · exact fun hcheck => exec_prefixLookup_refused halive hact hcheck
    · exact fun hcheck hsize => exec_prefixLookup_noTree halive hact hcheck hsize
    · exact fun hstale => exec_prefixLookup_matched halive hact hcheck hsize hfrom hstale
    · exact fun p tag hstale => exec_prefixLookup_stale halive hact hcheck hsize hfrom hstale
    · exact fun hcheck => exec_prefixInsert_refused halive hact hcheck
    · exact fun hcheck hsize => exec_prefixInsert_noTree halive hact hcheck hsize
    · exact fun hstale ins pres d'' hins => exec_prefixInsert_done halive hact hcheck hsize hfrom hstale hins
    · exact fun p tag hstale => exec_prefixInsert_stale halive hact hcheck hsize hfrom hstale
  · intro d t halive
    refine ⟨fun hfn hopen hunit => ?_, fun h => exec_idxPtKeyLoad_ignored halive h⟩
    subst hfn
    exact ⟨_, exec_idxPtKeyLoad halive hopen hunit, d.writeKeyHi_reads upperOnly v rfl⟩
  · intro d
    refine ⟨fun tenant => ⟨fun hx => exec_keyScanBucket_none halive hx, fun x hx => ?_⟩, fun fn => ⟨fun hfn hopen => ?_, fun h => exec_sweepStart_ignored halive h⟩,
      fun hbusy => exec_sweepDone_idle halive hbusy, fun hbusy => ?_⟩
    · intro d' rest
      exact ⟨fun hsize hbucket => exec_keyScanBucket_next halive hx rfl hsize hbucket, fun hlast => exec_keyScanBucket_last halive hx rfl hlast⟩
    · subst hfn
      exact exec_sweepStart halive hopen
    · intro r1 r2 r3 r4
      exact exec_sweepDone halive hbusy r1.eta.symm r2.eta.symm r3.eta.symm r4.eta.symm

end Sys2Proof.Machine

/-! # LORA_APPLY and WSTREAM (R171 to R178) -/

namespace Sys2Proof.Machine

/-! ## LORA_APPLY -/

section Lora

variable {s : State} {c : CmdId} {k : RunCmd} (halive : s.dev.alive = true) (hact : s.dev.act c opLoraApply = some k)
include halive hact

theorem exec_loraApply_ended (hstatus : k.status ≠ stOK) :
    exec (.loraApply c) s = .next (s.settled (s.dev.loraEnd k k.status (s.dev.loraOut k) [0, 0])) := by
  show execLoraApply c s = _
  refine onHall_settled halive ?_
  rw [hact]
  dsimp only
  rw [if_pos hstatus]
  dsimp only
  rw [if_pos hstatus]

variable {d1 : Dev} {st di do' : Nat} (hstatus : k.status = stOK) (hcheck : s.dev.loraCheck k = (d1, st, di, do'))
include hstatus hcheck

theorem exec_loraApply_refused (hst : st ≠ stOK) : exec (.loraApply c) s = .next (s.settled (d1.loraEnd k st (d1.loraOut k) [0, 0])) := by
  show execLoraApply c s = _
  refine onHall_settled halive ?_
  rw [hact]
  dsimp only
  rw [if_neg (not_not.2 hstatus), hcheck]
  dsimp only
  rw [if_pos hst]

theorem exec_loraApply_noAdapter (hst : st = stOK) (hdo : do' = 0) : exec (.loraApply c) s = .next (s.settled
    (d1.loraEnd k stOK 0 [u16 k.entry 30, groupCount ((d1.loraEntries (d1.stepTab (u32 k.entry 16)) k.entry).map (·.2))])) := by
  show execLoraApply c s = _
  refine onHall_settled halive ?_
  rw [hact]
  dsimp only
  rw [if_neg (not_not.2 hstatus), hcheck]
  dsimp only
  rw [if_neg (not_not.2 hst), if_pos hdo]
  dsimp only
  rw [if_neg Bool.false_ne_true, hdo]

theorem exec_loraApply_rows (hst : st = stOK) (hdo : do' ≠ 0) {d2 : Dev} {bad : Bool}
    (hrows : ((List.range (u16 k.entry 30)).map (u16 k.entry 28 + ·)).foldl (fun (r : Dev × Bool) x =>
      ((r.1.loraEntry k (d1.stepTab (u32 k.entry 16)) di do' x).1, r.2 || (r.1.loraEntry k (d1.stepTab (u32 k.entry 16)) di do' x).2)) (d1, false) = (d2, bad)) :
    exec (.loraApply c) s = .next (s.settled (d2.loraEnd k (if bad then stCrcFault else stOK) do'
      [u16 k.entry 30, groupCount ((d2.loraEntries (d1.stepTab (u32 k.entry 16)) k.entry).map (·.2))])) := by
  show execLoraApply c s = _
  refine onHall_settled halive ?_
  rw [hact]
  dsimp only
  rw [if_neg (not_not.2 hstatus), hcheck]
  dsimp only
  rw [if_neg (not_not.2 hst), if_neg hdo, hrows]

end Lora

/-! ## WSTREAM -/

section Stream

variable {s : State} {c : CmdId} {k : RunCmd} (halive : s.dev.alive = true) (hk : s.dev.cmdOf c = some k) (hop : opOf k.entry = opWstream)
include halive hk hop

theorem exec_wstream_acks (hphase : k.phase = .acks) : exec (.wstream c) s = .next (s.settled (s.dev.wstreamAcks k)) := by
  show execWstream c s = _
  refine onHall_settled halive ?_
  rw [hk]
  dsimp only
  rw [if_neg (not_not.2 hop), if_pos hphase]

theorem exec_wstream_atomic (hphase : k.phase = .acks) (hops : k.ops = []) (hstatus : k.status = stOK) (hpos : k.pos = stOK) (hnote : k.note = wsTiles)
    (hpair : s.dev.pairRefuses k.tenant (u16 k.entry 36) = stOK) {d1 : Dev}
    (hsend : s.dev.sendAtomic k (u16 k.entry 36) (u64 k.entry 40) wsSync = some d1) : exec (.wstream c) s = .next (s.settled d1) := by
  have hgoes : ¬ (k.status ≠ stOK ∨ k.pos ≠ stOK ∨ k.note = wsSync) := by
    rw [hstatus, hpos, hnote]
    decide
  rw [exec_wstream_acks halive hk hop hphase, Dev.wstreamAcks, hops, if_neg (by simp), if_neg hgoes, if_neg (not_not.2 hpair), hsend, Option.getD_some]

theorem exec_wstream_ends (hphase : k.phase = .acks) (hops : k.ops = []) (hstatus : k.status = stOK) (hnote : k.note = wsSync) :
    exec (.wstream c) s = .next (s.settled (s.dev.endCmd k s.dev.pair.next k.pos k.res)) := by
  rw [exec_wstream_acks halive hk hop hphase, Dev.wstreamAcks, hops, if_neg (by simp), if_pos (.inr (.inr hnote)), Dev.endSend, if_neg (not_not.2 hstatus)]

variable (hphase : k.phase = .run)
include hphase

theorem exec_wstream_again (hbegun : k.begun = true) : exec (.wstream c) s
    = .next (s.settled (if k.status ≠ stOK then s.dev.wstreamStop k k.status else Dev.wstreamFrom (u32 k.entry 24 - k.pos) k s.dev)) := by
  show execWstream c s = _
  refine onHall_settled halive ?_
  rw [hk]
  dsimp only
  rw [if_neg (not_not.2 hop), if_neg (by rw [hphase]; decide), if_neg (not_not.2 hphase), if_pos hbegun]

variable (hbegun : k.begun = false) {d1 : Dev}
include hbegun

theorem exec_wstream_refused {st : Nat} (hcheck : s.dev.wstreamCheck k = (d1, st)) (hst : st ≠ stOK) :
    exec (.wstream c) s = .next (s.settled (d1.endCmd k d1.pair.next st [0, 0])) := by
  show execWstream c s = _
  refine onHall_settled halive ?_
  rw [hk]
  dsimp only
  rw [if_neg (not_not.2 hop), if_neg (by rw [hphase]; decide), if_neg (not_not.2 hphase), hbegun, if_neg Bool.false_ne_true, hcheck]
  dsimp only
  rw [if_pos hst]

/-- The `DIFF` entry of a stream, where it names one, counts a user more. -/
theorem exec_wstream_begins (hcheck : s.dev.wstreamCheck k = (d1, stOK)) : exec (.wstream c) s
    = .next (s.settled (Dev.wstreamFrom (u32 k.entry 24) { k with stage := 1, res := [0, 0] }
      ((if u16 k.entry 28 = adpNone then d1 else d1.dramPutN 4 (d1.adpAddr (u16 k.entry 28) + 24) (d1.adpUsers (u16 k.entry 28) + 1)).setCmd
        { k with stage := 1, res := [0, 0] }))) := by
  show execWstream c s = _
  refine onHall_settled halive ?_
  rw [hk]
  dsimp only
  rw [if_neg (not_not.2 hop), if_neg (by rw [hphase]; decide), if_neg (not_not.2 hphase), hbegun, if_neg Bool.false_ne_true, hcheck]
  dsimp only
  rw [if_neg (by simp)]

end Stream

/-- Settles O19: the runs of `LORA_APPLY` and `WSTREAM` by their checks, phases and stages. -/
theorem adapterRuns : Obligations.AdapterRuns := by
  refine ⟨fun s c k d1 st di do' => ?_, fun s c k halive hk hop => ?_⟩
  · intro e halive hact
    refine ⟨fun hstatus => exec_loraApply_ended halive hact hstatus, fun hstatus hcheck hst => exec_loraApply_refused halive hact hstatus hcheck hst,
      fun hstatus hcheck hst hdo => exec_loraApply_noAdapter halive hact hstatus hcheck hst hdo, fun hstatus hcheck hst hdo => ?_⟩
    intro t d2 bad hrows
    exact exec_loraApply_rows halive hact hstatus hcheck hst hdo hrows
  · intro d
    refine ⟨fun hphase hbegun d1 hcheck hdiff => ?_, fun hphase hbegun d1 hcheck hdiff => ?_, fun hphase hbegun d1 st hcheck hst => ?_,
      fun hphase hbegun => ⟨fun hstatus => ?_, fun hstatus => ?_⟩, fun hphase hops hstatus hpos hnote hpair d1 hsend => ?_, fun hphase hops hstatus hnote => ?_⟩
    · rw [exec_wstream_begins halive hk hop hphase hbegun hcheck, if_pos hdiff]
    · rw [exec_wstream_begins halive hk hop hphase hbegun hcheck, if_neg hdiff]
    · exact exec_wstream_refused halive hk hop hphase hbegun hcheck hst
    · rw [exec_wstream_again halive hk hop hphase hbegun, if_neg (not_not.2 hstatus)]
    · rw [exec_wstream_again halive hk hop hphase hbegun, if_pos hstatus]
    · exact exec_wstream_atomic halive hk hop hphase hops hstatus hpos hnote hpair hsend
    · exact exec_wstream_ends halive hk hop hphase hops hstatus hnote

end Sys2Proof.Machine

/-! # Adapter bodies loaded, unloaded and bound (R163, R168, R169, R179 to R181) -/

namespace Sys2Proof.Machine

/-! ## ADP_LOAD -/

section Load

variable {s : State} {c : CmdId} {k : RunCmd} (halive : s.dev.alive = true) (hact : s.dev.act c opAdpLoad = some k)
include halive hact

theorem exec_adpLoad_bitmap (hstage : k.stage = stageBitmap) : exec (.adpLoad c) s = .next (s.settled (s.dev.endRest k (u64 k.entry 56))) := by
  show execAdpLoad c s = _
  refine onHall_settled halive ?_
  rw [hact]
  dsimp only
  rw [if_pos hstage]

theorem exec_adpLoad_members (hstage : k.stage = 2) : exec (.adpLoad c) s = .next (s.settled (s.dev.adpMcast k)) := by
  show execAdpLoad c s = _
  refine onHall_settled halive ?_
  rw [hact]
  dsimp only
  rw [if_neg (by rw [hstage]; decide), if_pos hstage]

theorem exec_adpLoad_again (hstage : k.stage = 1) : exec (.adpLoad c) s = .next (s.settled
    (if k.status ≠ stOK then (s.dev.unload (u16 k.entry 16)).endCmd k s.dev.pair.next k.status [] else s.dev.adpBody k)) := by
  have hbegun : k.begun = true := by rw [RunCmd.begun, hstage]; rfl
  show execAdpLoad c s = _
  refine onHall_settled halive ?_
  rw [hact]
  dsimp only
  rw [if_neg (by rw [hstage]; decide), if_neg (by rw [hstage]; decide), if_pos hbegun]

variable (hstage : k.stage = 0)
include hstage

theorem exec_adpLoad_refused (hcheck : s.dev.adpLoadCheck k ≠ stOK) : exec (.adpLoad c) s = .next (s.settled
    ((if s.dev.adpLoadCheck k = stQuotaBlocked then s.dev.refusedQuota else s.dev).endCmd k s.dev.pair.next (s.dev.adpLoadCheck k) [])) := by
  have hbegun : k.begun = false := by rw [RunCmd.begun, hstage]; rfl
  show execAdpLoad c s = _
  refine onHall_settled halive ?_
  rw [hact]
  dsimp only
  rw [if_neg (by rw [hstage]; decide), if_neg (by rw [hstage]; decide), hbegun, if_neg Bool.false_ne_true, if_pos hcheck]

theorem exec_adpLoad_begins (hcheck : s.dev.adpLoadCheck k = stOK) : exec (.adpLoad c) s = .next (s.settled
    ((((s.dev.put Fld.MEM_QUOTA_USE (s.dev.get Fld.MEM_QUOTA_USE k.tenant t1 + u32 k.entry 32) k.tenant t1).setAdp (u16 k.entry 16)
      (loadEntry k.entry k.tenant)).setCmd { k with stage := 1 }).adpBody { k with stage := 1 })) := by
  have hbegun : k.begun = false := by rw [RunCmd.begun, hstage]; rfl
  show execAdpLoad c s = _
  refine onHall_settled halive ?_
  rw [hact]
  dsimp only
  rw [if_neg (by rw [hstage]; decide), if_neg (by rw [hstage]; decide), hbegun, if_neg Bool.false_ne_true, if_neg (not_not.2 hcheck)]

end Load

/-! ## The body (R168) -/

section Body

variable {d d2 : Dev} {k : RunCmd} {body : List Byte}
  (hread : d.vaRead (some (k.ring, k.index)) k.tenant (u64 k.entry 24) (u32 k.entry 32 * granBytes) = .ok body d2)
include hread

theorem Dev.adpBody_bad {st : Nat} (hst : bodyStatus (loadEntry k.entry k.tenant).cls (loadEntry k.entry k.tenant).mode (loadEntry k.entry k.tenant).rank
      (loadEntry k.entry k.tenant).grans (loadEntry k.entry k.tenant).crc body = st) (hbad : st ≠ stOK) :
    d.adpBody k = (d2.unload (u16 k.entry 16)).endCmd k d2.pair.next st [] := by
  rw [Dev.adpBody, hread]
  dsimp only
  rw [hst, if_pos hbad]

variable (hst : bodyStatus (loadEntry k.entry k.tenant).cls (loadEntry k.entry k.tenant).mode (loadEntry k.entry k.tenant).rank (loadEntry k.entry k.tenant).grans
  (loadEntry k.entry k.tenant).crc body = stOK)
include hst

theorem Dev.adpBody_alone (hgroup : u16 k.entry 48 = 0xFFFF) {d3 : Dev} (hd3 : d2.makeValid (u16 k.entry 16) (loadEntry k.entry k.tenant) body = d3) :
    d.adpBody k = d3.endCmd k d3.pair.next stOK [] := by
  rw [Dev.adpBody, hread]
  dsimp only
  rw [hst, if_neg (by simp), if_pos hgroup, hd3]

theorem Dev.adpBody_group (hgroup : u16 k.entry 48 ≠ 0xFFFF) : d.adpBody k
    = ((d2.makeValid (u16 k.entry 16) (loadEntry k.entry k.tenant) body).setCmd { k with stage := 2 }).adpMcast { k with stage := 2 } := by
  rw [Dev.adpBody, hread]
  dsimp only
  rw [hst, if_neg (by simp), if_neg hgroup]

end Body

/-! ## ADP_LOAD_MEMBER (R180) -/

/-- The entry that a member's load describes. -/
def memberEntry (m : AdpLoadMsg) : AdpE :=
  { tenant := bits (m.words.getD 0 0).toNat 63 56, state := adLoading, cls := bits (m.words.getD 0 0).toNat 53 52, mode := bits (m.words.getD 0 0).toNat 51 50,
    rank := bits (m.words.getD 0 0).toNat 47 40 + 1, gran := bits (m.words.getD 0 0).toNat 26 0, alpha := bits (m.words.getD 1 0).toNat 63 32,
    grans := bits (m.words.getD 1 0).toNat 31 0, stamp := 0, crc := bits (m.words.getD 3 0).toNat 63 32 }

/-- Whether a member's load is well formed and finds its place. -/
def Dev.memberForm (d : Dev) (m : AdpLoadMsg) (e : AdpE) : Prop :=
  d.flag Fld.GLB_UNIT_EN_ADP = true ∧ m.id.toNat < 4096 ∧ (e.cls = 1 ∨ e.cls = 2) ∧ m.body.length = e.grans * granBytes ∧ d.larderFree m.id.toNat e.gran e.grans = true

theorem Dev.memberForm_iff {d : Dev} {m : AdpLoadMsg} {e : AdpE} : d.memberForm m e
    ↔ ¬ ((!(d.flag Fld.GLB_UNIT_EN_ADP)) = true ∨ 4096 ≤ m.id.toNat ∨ (e.cls ≠ 1 ∧ e.cls ≠ 2) ∨ m.body.length ≠ e.grans * granBytes
      ∨ (!(d.larderFree m.id.toNat e.gran e.grans)) = true) := by
  rw [Dev.memberForm]
  simp only [Bool.not_eq_true', not_or, Bool.not_eq_false, Nat.not_le, not_and_or, not_not]

/-- A body's status is never that of a quota. -/
theorem bodyStatus_ne_quota (cls mode rank grans crc : Nat) (body : List Byte) : bodyStatus cls mode rank grans crc body ≠ stQuotaBlocked := by
  rw [bodyStatus]
  split
  · split
    · decide
    · split <;> decide
  · split
    · decide
    · split <;> decide

section Member

variable {s : State} {m : AdpLoadMsg} {e : AdpE} (halive : s.dev.alive = true)
include halive

theorem exec_adpLoadMember_ignored (hpart : s.dev.takesPart 12 m.src.toNat = false) : exec (.adpLoadMember m) s = .next (s.settled s.dev) := by
  show execAdpLoadMember m s = _
  refine onHall_settled halive ?_
  exact if_pos (by rw [hpart]; rfl)

variable (hpart : s.dev.takesPart 12 m.src.toNat = true) (he : memberEntry m = e)
include hpart he

theorem exec_adpLoadMember_malformed (hform : ¬ s.dev.memberForm m e) :
    exec (.adpLoadMember m) s = .next (s.settled (s.dev.ctrl m.src.toNat (.adpAck m.id.toNat stAborted))) := by
  have hbad := not_not.1 (mt Dev.memberForm_iff.2 hform)
  subst he
  show execAdpLoadMember m s = _
  refine onHall_settled halive ?_
  dsimp only [memberEntry] at hbad ⊢
  rw [hpart, if_neg (by simp), if_pos hbad]
  rfl

variable (hform : s.dev.memberForm m e)
include hform

theorem exec_adpLoadMember_quota (hadmits : s.dev.admits e.tenant t1 e.grans = false) :
    exec (.adpLoadMember m) s = .next (s.settled (s.dev.refusedQuota.ctrl m.src.toNat (.adpAck m.id.toNat stQuotaBlocked))) := by
  have hgood := Dev.memberForm_iff.1 hform
  subst he
  show execAdpLoadMember m s = _
  refine onHall_settled halive ?_
  dsimp only [memberEntry] at hgood hadmits ⊢
  rw [hpart, if_neg (by simp), if_neg hgood, hadmits, if_pos (show (!false) = true from rfl), if_pos rfl]

variable (hadmits : s.dev.admits e.tenant t1 e.grans = true)
include hadmits

theorem exec_adpLoadMember_bad {st : Nat} (hst : bodyStatus e.cls e.mode e.rank e.grans e.crc m.body = st) (hbad : st ≠ stOK) :
    exec (.adpLoadMember m) s = .next (s.settled (s.dev.ctrl m.src.toNat (.adpAck m.id.toNat st))) := by
  have hgood := Dev.memberForm_iff.1 hform
  have hquota : st ≠ stQuotaBlocked := by
    rw [← hst]
    exact bodyStatus_ne_quota _ _ _ _ _ _
  subst he
  show execAdpLoadMember m s = _
  refine onHall_settled halive ?_
  dsimp only [memberEntry] at hgood hadmits hst ⊢
  rw [hpart, if_neg (by simp), if_neg hgood, hadmits, if_neg (show ¬ (!true) = true by simp), hst, if_neg hquota, if_pos hbad]

theorem exec_adpLoadMember_valid (hst : bodyStatus e.cls e.mode e.rank e.grans e.crc m.body = stOK) : exec (.adpLoadMember m) s = .next (s.settled
    (((s.dev.put Fld.MEM_QUOTA_USE (s.dev.get Fld.MEM_QUOTA_USE e.tenant t1 + e.grans) e.tenant t1).makeValid m.id.toNat e m.body).ctrl m.src.toNat
      (.adpAck m.id.toNat stOK))) := by
  have hgood := Dev.memberForm_iff.1 hform
  subst he
  show execAdpLoadMember m s = _
  refine onHall_settled halive ?_
  dsimp only [memberEntry] at hgood hadmits hst ⊢
  rw [hpart, if_neg (by simp), if_neg hgood, hadmits, if_neg (show ¬ (!true) = true by simp), hst, if_neg (show ¬ stOK = stQuotaBlocked by decide), if_neg (not_not.2 rfl)]

end Member

/-! ## ADP_UNLOAD and ADP_BIND -/

section Unload

variable {s : State} {c : CmdId} {k : RunCmd} (halive : s.dev.alive = true) (hact : s.dev.act c opAdpUnload = some k)
include halive hact

theorem exec_adpUnload (hbegun : k.begun = false) : exec (.adpUnload c) s = .next (s.settled
    (if 4096 ≤ u16 k.entry 16 ∨ (s.dev.adp (u16 k.entry 16)).state ≠ adValid then s.dev.endCmd k s.dev.pair.next stAborted []
    else if (s.dev.adp (u16 k.entry 16)).tenant ≠ k.tenant then s.dev.endCmd k s.dev.pair.next stTenantMismatch []
    else (s.dev.setAdp (u16 k.entry 16) { s.dev.adp (u16 k.entry 16) with state := adDraining }).setCmd { k with stage := 1 })) := by
  show execAdpUnload c s = _
  refine onHall_settled halive ?_
  rw [hact]
  dsimp only
  rw [hbegun, if_neg Bool.false_ne_true]

theorem exec_adpUnloadDrained (hbegun : k.begun = true) : exec (.adpUnloadDrained c) s = .next (s.settled
    (if s.dev.adpUsers (u16 k.entry 16) ≠ 0 then s.dev else (s.dev.freeAdp (u16 k.entry 16)).endCmd k s.dev.pair.next stOK [])) := by
  show execAdpUnloadDrained c s = _
  refine onHall_settled halive ?_
  rw [hact]
  dsimp only
  rw [hbegun]
  by_cases husers : s.dev.adpUsers (u16 k.entry 16) ≠ 0
  · rw [if_pos husers, if_pos (.inr husers)]
  · rw [if_neg husers, if_neg (not_or.2 ⟨by simp, husers⟩)]

end Unload

/-- The status of an `ADP_BIND`: that of its handle, then of its two bindings. -/
def Dev.bindStatus (d : Dev) (k : RunCmd) : Nat :=
  let st := d.checkHandle (u32 k.entry 16) k.tenant k.order
  let st := if st ≠ stOK then st else d.bindCheck (u16 k.entry 20) 1 (d.rTenant (hIndex (u32 k.entry 16)))
  if st ≠ stOK then st else d.bindCheck (u16 k.entry 22) 2 (d.rTenant (hIndex (u32 k.entry 16)))

section Bind

variable {s : State} {c : CmdId} {k : RunCmd} (halive : s.dev.alive = true) (hact : s.dev.act c opAdpBind = some k)
include halive hact

theorem exec_adpBind_bound (hst : s.dev.bindStatus k = stOK) : exec (.adpBind c) s = .next (s.settled
    ((((s.dev.rput (hIndex (u32 k.entry 16)) 5 63 48 (u16 k.entry 20)).rput (hIndex (u32 k.entry 16)) 5 47 32 (u16 k.entry 22)).mirrorRec
      (hIndex (u32 k.entry 16))).endCmd k s.dev.pair.next stOK [])) := by
  rw [Dev.bindStatus] at hst
  show execAdpBind c s = _
  refine onHall_settled halive ?_
  rw [hact]
  dsimp only at hst ⊢
  rw [hst, if_neg (by simp)]

theorem exec_adpBind_refused {st : Nat} (hst : s.dev.bindStatus k = st) (hbad : st ≠ stOK) :
    exec (.adpBind c) s = .next (s.settled (s.dev.endCmd k s.dev.pair.next st [])) := by
  rw [Dev.bindStatus] at hst
  show execAdpBind c s = _
  refine onHall_settled halive ?_
  rw [hact]
  dsimp only at hst ⊢
  rw [hst, if_pos hbad]

end Bind

/-- Settles O20: loads, members, unloads and bindings, each by its checks. -/
theorem adapterDirectory : Obligations.AdapterDirectory := by
  refine ⟨fun s halive => ?_, fun d k body d2 => ?_⟩
  · intro d
    refine ⟨fun c k hact => ?_, fun m => ?_, fun m hpart => exec_adpLoadMember_ignored halive hpart, fun c k hact => ?_, fun c k hact => ?_⟩
    · intro e k' d1
      refine ⟨fun hstage hcheck => exec_adpLoad_begins halive hact hstage hcheck, fun hstage hcheck hquota => ?_, fun hstage hquota => ?_, fun hstage hstatus => ?_,
        fun hstage hstatus => ?_, fun hstage => exec_adpLoad_members halive hact hstage, fun hstage => exec_adpLoad_bitmap halive hact hstage⟩
      · rw [exec_adpLoad_refused halive hact hstage hcheck, if_neg hquota]
      · rw [exec_adpLoad_refused halive hact hstage (by rw [hquota]; decide), if_pos hquota, hquota]
      · rw [exec_adpLoad_again halive hact hstage, if_neg (not_not.2 hstatus)]
      · rw [exec_adpLoad_again halive hact hstage, if_pos hstatus]
    · intro w e st form hpart
      refine ⟨fun hform hadmits hst => ?_, fun hform hadmits hst => ?_, fun hform hadmits => ?_, fun hform => ?_⟩
      · exact exec_adpLoadMember_valid (e := e) halive hpart rfl hform hadmits hst
      · exact exec_adpLoadMember_bad (e := e) halive hpart rfl hform hadmits rfl hst
      · exact exec_adpLoadMember_quota (e := e) halive hpart rfl hform hadmits
      · exact exec_adpLoadMember_malformed (e := e) halive hpart rfl hform
    · intro id
      refine ⟨fun hbegun hbad => ?_, fun hbegun hid hvalid htenant => ?_, fun hbegun hid hvalid htenant => ?_, fun hbegun husers => ?_, fun hbegun husers => ?_⟩
      · rw [exec_adpUnload halive hact hbegun, if_pos hbad]
      · rw [exec_adpUnload halive hact hbegun, if_neg (not_or.2 ⟨Nat.not_le.2 hid, not_not.2 hvalid⟩), if_neg (not_not.2 htenant)]
      · rw [exec_adpUnload halive hact hbegun, if_neg (not_or.2 ⟨Nat.not_le.2 hid, not_not.2 hvalid⟩), if_pos htenant]
      · rw [exec_adpUnloadDrained halive hact hbegun, if_neg (not_not.2 husers)]
      · rw [exec_adpUnloadDrained halive hact hbegun, if_pos husers]
    · intro e i st
      refine ⟨fun hst h1 h2 => exec_adpBind_bound halive hact ?_, fun hst => exec_adpBind_refused halive hact ?_ hst,
        fun hst h1 => exec_adpBind_refused halive hact ?_ h1, fun hst h1 h2 => exec_adpBind_refused halive hact ?_ h2⟩
      · rw [Dev.bindStatus, if_neg (not_not.2 hst), if_neg (not_not.2 h1), h2]
      · rw [Dev.bindStatus, if_pos hst, if_pos hst]
      · rw [Dev.bindStatus, if_neg (not_not.2 hst), if_pos h1]
      · rw [Dev.bindStatus, if_neg (not_not.2 hst), if_neg (not_not.2 h1)]
  · intro e a st hread
    exact ⟨fun hst hgroup => Dev.adpBody_alone hread hst hgroup rfl, fun hst hgroup => Dev.adpBody_group hread hst hgroup, fun hst => Dev.adpBody_bad hread rfl hst⟩

end Sys2Proof.Machine

/-! # VM_MAP and VM_UNMAP (R186, R188, R430) -/

namespace Sys2Proof.Machine

/-! ## The rows -/

section Rows

variable {s : State} {c : CmdId} {k : RunCmd} (halive : s.dev.alive = true)
include halive

theorem exec_vmMap {d' : Dev} {st : Nat} (hact : s.dev.act c opVmMap = some k)
    (hmap : s.dev.vmMap k.tenant (u64 k.entry 16) (u32 k.entry 24) (u8 k.entry 28) (u8 k.entry 29) (u64 k.entry 32) = (d', st)) :
    exec (.vmMap c) s = .next (s.settled (d'.endCmd k d'.pair.next st [])) := by
  show execVmMap c s = _
  refine onHall_settled halive ?_
  rw [hact]
  dsimp only
  rw [hmap]

theorem exec_vmUnmap_waits (hact : s.dev.act c opVmUnmap = some k) (hdraining : s.dev.draining k.tenant (u64 k.entry 16) (u32 k.entry 24) = true) :
    exec (.vmUnmap c) s = .next (s.settled s.dev) := by
  show execVmUnmap c s = _
  refine onHall_settled halive ?_
  rw [hact]
  exact if_pos hdraining

theorem exec_vmUnmap {d' : Dev} {st n : Nat} (hact : s.dev.act c opVmUnmap = some k)
    (hdraining : s.dev.draining k.tenant (u64 k.entry 16) (u32 k.entry 24) = false)
    (hunmap : s.dev.vmUnmap k.tenant (u64 k.entry 16) (u32 k.entry 24) = (d', st, n)) :
    exec (.vmUnmap c) s = .next (s.settled (d'.endCmd k d'.pair.next st [n])) := by
  show execVmUnmap c s = _
  refine onHall_settled halive ?_
  rw [hact]
  dsimp only
  rw [hdraining, if_neg Bool.false_ne_true, hunmap]

end Rows

/-! ## The checks (R186, R188, R430) -/

section Checks

variable {d : Dev} {t va grans : Nat}

theorem Dev.vmMap_malformed {type flags frame : Nat} (h : grans = 0 ∨ va % (leafGrans (bit flags 4) * 4096) ≠ 0 ∨ d.mapped t va grans = true) :
    d.vmMap t va grans type flags frame = (d, stAborted) := by
  rw [Dev.vmMap]
  refine if_pos ?_
  obtain h | h | h := h
  · exact .inl h
  · exact .inr (.inl h)
  · exact .inr (.inr (.inr (.inr (.inr (.inr h)))))

/-- A map that ends `OK` has written every leaf of its range. -/
theorem Dev.vmMap_ok {type flags frame : Nat} {d' : Dev} (h : d.vmMap t va grans type flags frame = (d', stOK)) :
    Dev.mapLeaves t (bit flags 4) type flags va frame (grans / leafGrans (bit flags 4)) 0 d = some d' := by
  rw [Dev.vmMap] at h
  split at h
  · exact absurd (Prod.mk.inj h).2 (by decide)
  · split at h
    · exact absurd (Prod.mk.inj h).2 (by decide)
    · split at h
      · rename_i d2 hleaves
        rw [hleaves, (Prod.mk.inj h).1]
      · exact absurd (Prod.mk.inj h).2 (by decide)

theorem Dev.vmUnmap_malformed (h : grans = 0 ∨ va % 4096 ≠ 0 ∨ d.pinnedIn t va grans = true) : d.vmUnmap t va grans = (d, stAborted, 0) := by
  rw [Dev.vmUnmap]
  refine if_pos ?_
  obtain h | h | h := h
  · exact .inl h
  · exact .inr (.inl h)
  · exact .inr (.inr (.inr h))

end Checks

/-- Settles O21: both rows end with what `Dev.vmMap` and `Dev.vmUnmap` come to, and those check their ranges first. -/
theorem mapAndUnmap : Obligations.MapAndUnmap := by
  intro s c k halive d e
  refine ⟨fun hact d' st hmap => exec_vmMap halive hact hmap, fun hact hdraining => exec_vmUnmap_waits halive hact hdraining,
    fun hact hdraining d' st n hunmap => exec_vmUnmap halive hact hdraining hunmap, fun t va grans type flags frame h => Dev.vmMap_malformed h,
    fun t va grans type flags frame d' h => Dev.vmMap_ok h, fun t va grans h => Dev.vmUnmap_malformed h⟩

end Sys2Proof.Machine

/-! # Demotion and reclaim (R193, R194, R206, R210) -/

namespace Sys2Proof.Machine

/-! ## DEMOTE -/

section Demote

variable {s : State} {c : CmdId} {k : RunCmd} (halive : s.dev.alive = true) (hact : s.dev.act c opDemote = some k)
include halive hact

theorem exec_demote_checked (hnew : k.begun = false) (hok : s.dev.demoteCheck k = stOK) :
    exec (.demote c) s = .next (s.settled ((if bit (u8 k.entry 26) 0 then s.dev else s.dev.touch (hIndex (u32 k.entry 16))).setCmd
      { k with stage := 1, res := [0] })) := by
  show execDemote c s = _
  refine onHall_settled halive ?_
  rw [hact]
  dsimp only
  rw [if_neg (Bool.eq_false_iff.1 hnew), if_neg (not_not.2 hok)]

theorem exec_demote_refused (hnew : k.begun = false) (hno : s.dev.demoteCheck k ≠ stOK) :
    exec (.demote c) s = .next (s.settled (s.dev.endCmd k s.dev.pair.next (s.dev.demoteCheck k) [0])) := by
  show execDemote c s = _
  refine onHall_settled halive ?_
  rw [hact]
  dsimp only
  rw [if_neg (Bool.eq_false_iff.1 hnew), if_pos hno]

theorem exec_demoteProceed_waits (hnv : bit (u8 k.entry 26) 0 = false) (hearlier : s.dev.earlierNaming (hIndex (u32 k.entry 16)) k.order = true) :
    exec (.demoteProceed c) s = .next (s.settled s.dev) := by
  show execDemoteProceed c s = _
  refine onHall_settled halive ?_
  rw [hact]
  refine if_pos (.inr (.inr ⟨?_, hearlier⟩))
  rw [hnv]
  rfl

/-- The pages of the record named go out, or its ring waits for a slot of the pool. -/
theorem exec_demoteProceed_pages {d' : Dev} {st : Option Nat} (hstage : k.stage = 1) (hpos : k.pos ≠ 1) (hnv : bit (u8 k.entry 26) 0 = false)
    (hfree : s.dev.earlierNaming (hIndex (u32 k.entry 16)) k.order = false)
    (hall : Dev.demoteAll (fun d x => d.demotePage (hIndex (u32 k.entry 16)) x (u8 k.entry 22) (some (k.ring, k.index)))
      (s.dev.demotable (hIndex (u32 k.entry 16)) (u8 k.entry 20) (u8 k.entry 21)) s.dev = (d', st)) :
    exec (.demoteProceed c) s = .next (s.settled
      (st.elim d' fun st => (d'.setAt { k with pos := 1, status := st }).demoteEnd k.ring k.index)) := by
  show execDemoteProceed c s = _
  refine onHall_settled halive ?_
  rw [hact]
  dsimp only
  rw [if_neg, hnv, if_neg Bool.false_ne_true, hall]
  · cases st with
    | none => rfl
    | some st => rfl
  rintro (h | h | ⟨-, h⟩)
  · exact h hstage
  · exact hpos h
  · exact Bool.false_ne_true (hfree.symm.trans h)

/-- The leaves of the range named go out. -/
theorem exec_demoteProceed_leaves {d' : Dev} {st : Nat} (hstage : k.stage = 1) (hpos : k.pos ≠ 1) (hvirt : bit (u8 k.entry 26) 0 = true)
    (hall : Dev.demoteAll (fun d x => d.demoteLeaf k.tenant (u8 k.entry 22) x (some (k.ring, k.index)))
      ((s.dev.leavesOf k.tenant (u64 k.entry 32) (u32 k.entry 40)).filter fun x => lfType x.2.word == lfLocal && !(lfPin x.2.word)) s.dev
        = (d', some st)) :
    exec (.demoteProceed c) s = .next (s.settled ((d'.setAt { k with pos := 1, status := st }).demoteEnd k.ring k.index)) := by
  show execDemoteProceed c s = _
  refine onHall_settled halive ?_
  rw [hact]
  dsimp only
  rw [if_neg, hvirt, if_pos rfl, hall]
  rintro (h | h | ⟨h, -⟩)
  · exact h hstage
  · exact hpos h
  · rw [hvirt] at h
    exact Bool.false_ne_true h

end Demote

/-! ## The lower tier answers -/

section Held

variable {s : State} {c : BitVec 26} {m : Dem} (halive : s.dev.alive = true)
include halive

theorem exec_demotePageHeld (hfind : s.dev.dems.find? (·.cellar == c.toNat) = some m) :
    exec (.demotePageHeld c) s = .next (s.settled (if s.dev.writing m.cellar then s.dev else s.dev.pageHeld m)) := by
  show execDemotePageHeld c s = _
  refine onHall_settled halive ?_
  rw [hfind]

end Held

/-- The words of a cellar entry are bytes of DRAM: the pages on their way stay. -/
theorem Dev.dems_setCellar (d : Dev) (n : Nat) (e : CellarE) : (d.setCellar n e).dems = d.dems :=
  (Dev.dramPutN_dems _ _ _ _).trans ((Dev.dramPutN_dems _ _ _ _).trans (Dev.dramPutN_dems _ _ _ _))

/-- What a page of a record comes to that reclaim had sent out, while no other is on its way. -/
theorem Dev.pageHeld_reclaimed {d d1 d2 : Dev} {m : Dem} {i x p : Nat} (hdems : d.dems = [m]) (hcmd : m.cmd = none) (href : m.ref = .entry i x p)
    (hd1 : d.setCellar m.cellar { d.cellar m.cellar with state := clHeld } = d1) (hd2 : { d1 with dems := [] } = d2) :
    d.pageHeld m = ((d2.dramPutN 8 (d2.entAddr i x) (packEntry ⟨(d.cellar m.cellar).vtag, m.cellar, 2⟩)).dropRef p).afterHeld := by
  have hnone : d1.dems.filter (fun x => x.cellar != m.cellar) = [] := by
    rw [← hd1, Dev.dems_setCellar, hdems]
    exact List.filter_cons_of_neg (by simp)
  dsimp only at hd1
  rw [Dev.pageHeld, hd1, hnone, href, hcmd]
  dsimp only
  rw [hd2]

/-! ## RECLAIM -/

section Reclaim

variable {s : State} {t : BitVec 8} {i x : Nat} {d' : Dev} (halive : s.dev.alive = true)
include halive

theorem exec_reclaim (hon : s.dev.flag Fld.MEM_QFLAG_RECLAIM t.toNat = true) (hover : s.dev.overQuota t.toNat t1 = true)
    (hnext : (s.dev.reclaimable t.toNat).findSome? (fun i => (s.dev.reclaimEntry i).map fun x => (i, x)) = some (i, x))
    {n : Nat} (hn : pageGrans (s.dev.page (s.dev.entry i x).page).mode = n)
    (hrate : sget 0 t.toNat s.dev.reclaimed + n ≤ s.dev.get Fld.MEM_RECLAIM_CFG_RATE)
    (hsent : s.dev.demotePage i x (if s.dev.admits t.toNat t2 (n + 1) && (s.dev.cellarFit t.toNat 2 (n + 1)).isSome then 2 else 3) none = (d', .sent)) :
    exec (.reclaim t) s = .next (s.settled { d' with reclaimed := sput 0 t.toNat (sget 0 t.toNat s.dev.reclaimed + n) d'.reclaimed }) := by
  subst hn
  show execReclaim t s = _
  refine onHall_settled halive ?_
  dsimp only
  rw [hnext, hon, hover, if_neg (by decide)]
  dsimp only
  rw [if_neg (Nat.not_lt.2 hrate), hsent]

end Reclaim

/-- Settles O22: each row is its branch of the model, and the list of demotions on their way is emptied of the one answered. -/
theorem demotion : Obligations.Demotion := by
  intro s halive d
  refine ⟨?_, ?_, ?_, ?_⟩
  · intro c k hact e i
    refine ⟨?_, ?_, ?_, ?_, ?_, ?_⟩
    · intro hnew hnv hok
      have h := exec_demote_checked halive hact hnew hok
      rwa [if_neg (Bool.eq_false_iff.1 hnv)] at h
    · intro hnew hvirt hok
      have h := exec_demote_checked halive hact hnew hok
      rwa [if_pos hvirt] at h
    · exact exec_demote_refused halive hact
    · intro hstage hpos hnv hfree
      exact ⟨fun d' st hall => exec_demoteProceed_pages halive hact hstage hpos hnv hfree hall,
        fun d' hall => exec_demoteProceed_pages halive hact hstage hpos hnv hfree hall⟩
    · intro hstage hpos hvirt d' st hall
      exact exec_demoteProceed_leaves halive hact hstage hpos hvirt hall
    · intro _ _ hnv hearlier
      exact exec_demoteProceed_waits halive hact hnv hearlier
  · intro c m hfind
    refine ⟨fun hw => ?_, fun hw => ?_⟩
    · have h := exec_demotePageHeld halive hfind
      rwa [if_neg (Bool.eq_false_iff.1 hw)] at h
    · have h := exec_demotePageHeld halive hfind
      rwa [if_pos hw] at h
  · intro c m i x p hdems hcell hcmd href hw ce d1
    have hfind : d.dems.find? (·.cellar == c.toNat) = some m := by
      rw [hdems]
      exact List.find?_cons_of_pos (beq_iff_eq.2 hcell)
    have h := exec_demotePageHeld halive hfind
    rw [hcell, if_neg (Bool.eq_false_iff.1 hw), Dev.pageHeld_reclaimed hdems hcmd href rfl rfl, hcell] at h
    exact h
  · intro t i x d' hon hover hnext n hrate hsent
    exact exec_reclaim halive hon hover hnext rfl hrate hsent

end Sys2Proof.Machine

/-! # Prefetches, page faults and zero-filling (R39, R195 to R206) -/

namespace Sys2Proof.Machine

/-! ## PREFETCH -/

/-- The prefetch that a command asks for (R205): its due point in this stroke or the next, and its issue point a lead before. -/
def Dev.pfAsked (d : Dev) (k : RunCmd) : Pf :=
  let due := u16 k.entry 22
  let n := if d.angle < due then d.clk.number else d.clk.number + 1
  let pt := pfPoint n due (u16 k.entry 24 + d.get Fld.MEM_QFLAG_PF_EXT k.tenant)
  ⟨d.nextId, some (k.ring, k.index), none, k.tenant, n, due, pt.2, pt.1, false, 0, none⟩

section Prefetch

variable {s : State} {c : CmdId} {k : RunCmd} (halive : s.dev.alive = true)
include halive

theorem exec_prefetch_refused (hact : s.dev.act c opPrefetch = some k) (hnew : k.begun = false) (hno : s.dev.prefetchCheck k ≠ stOK) :
    exec (.prefetch c) s = .next (s.settled (s.dev.endCmd k s.dev.pair.next (s.dev.prefetchCheck k) [0, 0])) := by
  show execPrefetch c s = _
  refine onHall_settled halive ?_
  rw [hact]
  dsimp only
  rw [if_neg (Bool.eq_false_iff.1 hnew), if_pos hno]

/-- The prefetch of a record's pages, whose touch stamp is set with it. -/
theorem exec_prefetch_pages {d1 d2 : Dev} (hact : s.dev.act c opPrefetch = some k) (hnew : k.begun = false) (hpages : bit (u8 k.entry 26) 0 = false)
    (hok : s.dev.prefetchCheck k = stOK) (hd1 : s.dev.touch (hIndex (u32 k.entry 16)) = d1)
    (hd2 : { d1 with pfs := s.dev.pfs ++ [s.dev.pfAsked k], nextId := s.dev.nextId + 1 } = d2) :
    exec (.prefetch c) s = .next (s.settled (d2.setCmd { k with stage := 1, res := [0, 0] })) := by
  have hpfs : d1.pfs = s.dev.pfs := hd1 ▸ Dev.dramPut_pfs ..
  have hid : d1.nextId = s.dev.nextId := hd1 ▸ Dev.dramPut_nextId ..
  show execPrefetch c s = _
  refine onHall_settled halive ?_
  rw [hact]
  dsimp only
  rw [if_neg (Bool.eq_false_iff.1 hnew), if_neg (not_not.2 hok), if_neg (Bool.eq_false_iff.1 hpages), hd1, hpfs, hid]
  subst hd2
  rfl

theorem exec_prefetchIssue {p : Pf} (hfind : s.dev.pfs.find? (fun p => p.cmd == some (c.ring.toNat, c.index.toNat) && !p.issued) = some p) :
    exec (.prefetchIssue c) s = .next (s.settled (if s.dev.reached p.issueStroke p.issue then s.dev.pfIssue p else s.dev)) := by
  show execPrefetchIssue c s = _
  refine onHall_settled halive ?_
  rw [hfind]

theorem exec_prefetchTableIssue {i : BitVec 16} {a : Nat} (hpending : s.dev.pfPending i.toNat = some a) (hfiring : s.dev.firing = true)
    (hangle : a ≤ s.dev.angle) : exec (.prefetchTableIssue i) s = .next (s.settled (s.dev.pfTable i.toNat)) := by
  show execPrefetchTableIssue i s = _
  refine onHall_settled halive ?_
  rw [hpending]
  exact if_pos ⟨hfiring, hangle⟩

end Prefetch

/-! ## PREFETCH_COMPLETE -/

section Complete

variable {s : State} {id : BitVec 32} {t : BitVec 64} {got : List FetchResult} {p : Pf} {d : Dev} (halive : s.dev.alive = true)
  (hd : s.dev.advanceTo t.toNat = d) (hfind : d.pfs.find? (fun p => p.id % 2 ^ 32 == id.toNat && p.issued) = some p)
include halive hd hfind

theorem exec_prefetchComplete_waits (hwriting : (d.pfCells p).any (fun c => (d.cellar c).state == clWriting) = true) :
    exec (.prefetchComplete id t got) s = .next (s.settled d) := by
  show execPrefetchComplete id t got s = _
  refine onHall_settled halive ?_
  rw [hd]
  refine have_elim ?_
  rw [hfind]
  exact if_pos hwriting

variable (hwritten : (d.pfCells p).any (fun c => (d.cellar c).state == clWriting) = false)
include hwritten

theorem exec_prefetchComplete_done {d' : Dev} {n : Nat} {rest : List FetchResult} (hin : Dev.bringEach (d.pfTargets p) false 0 got d = .done d' n rest) :
    exec (.prefetchComplete id t got) s = .next (s.settled ((d'.pfFinish p (d'.pfSoFar p + n)).settleFaults d)) := by
  show execPrefetchComplete id t got s = _
  refine onHall_settled halive ?_
  rw [hd]
  refine have_elim ?_
  rw [hfind]
  refine (if_neg (Bool.eq_false_iff.1 hwritten)).trans ?_
  rw [hin]

theorem exec_prefetchComplete_refused {d' : Dev} (hin : Dev.bringEach (d.pfTargets p) false 0 got d = .refused d' true) :
    exec (.prefetchComplete id t got) s = .next (s.settled (((d.keepQuarantined d').refusedQuota.pfFail p stQuotaBlocked).settleFaults d)) := by
  show execPrefetchComplete id t got s = _
  refine onHall_settled halive ?_
  rw [hd]
  refine have_elim ?_
  rw [hfind]
  refine (if_neg (Bool.eq_false_iff.1 hwritten)).trans ?_
  rw [hin]
  rfl

theorem exec_prefetchComplete_stale {a tag : Nat} (hin : Dev.bringEach (d.pfTargets p) false 0 got d = .stale a tag) :
    exec (.prefetchComplete id t got) s = .next (s.settled (((d.tagMismatch mMover a tag).pfFail p stAborted).settleFaults d)) := by
  show execPrefetchComplete id t got s = _
  refine onHall_settled halive ?_
  rw [hd]
  refine have_elim ?_
  rw [hfind]
  refine (if_neg (Bool.eq_false_iff.1 hwritten)).trans ?_
  rw [hin]

end Complete

/-! ## Faults -/

section Fault

variable {s : State} {t : BitVec 64} {d : Dev} (halive : s.dev.alive = true) (hd : s.dev.advanceTo t.toNat = d)
include halive hd

theorem exec_faultResolved {id : BitVec 32} {got : List FetchResult} {f : FaultRec} (hnext : d.nextFault = some f) (hid : f.id % 2 ^ 32 = id.toNat) :
    exec (.faultResolved id t got) s = .next (s.settled (d.resolveFault f got)) := by
  show execFaultResolved id t got s = _
  refine onHall_settled halive ?_
  rw [hd]
  refine have_elim ?_
  rw [hnext]
  exact if_pos hid

variable {core : BitVec 9} {k : RunCmd} (hfind : d.cmds.find? (fun k => k.core == some core.toNat && decide (k.phase = .faulted)) = some k)
  (hlate : k.since + 1000 * atLeast1 (d.get Fld.MEM_FAULT_CFG_TIMEOUT) ≤ d.ns)
include hfind hlate

theorem exec_faultTimeout_parks {d' : Dev} (hsave : d.beginSave k afterPark = some d') : exec (.faultTimeout core t) s = .next (s.settled d') := by
  show execFaultTimeout core t s = _
  refine onHall_settled halive ?_
  rw [hd]
  refine have_elim ?_
  rw [hfind]
  refine (if_neg (Nat.not_lt.2 hlate)).trans ?_
  rw [hsave]

theorem exec_faultTimeout_full (hsave : d.beginSave k afterPark = none) (hfirst : k.note ≠ noteSlotEmpty) :
    exec (.faultTimeout core t) s = .next (s.settled ((d.stall 10 0).setCmd { k with note := noteSlotEmpty })) := by
  show execFaultTimeout core t s = _
  refine onHall_settled halive ?_
  rw [hd]
  refine have_elim ?_
  rw [hfind]
  refine (if_neg (Nat.not_lt.2 hlate)).trans ?_
  rw [hsave]
  exact if_neg hfirst

end Fault

/-! ## A zero-filled run given back -/

/-- The bytes and the zero-fillings are those of `d`, and no slot of a partition changes or is released. -/
structure Dev.Freed (d d' : Dev) : Prop where
  dram : d'.dram = d.dram
  zeroing : d'.zeroing = d.zeroing
  parts : ∀ k < 64, d'.partState k ≠ ptReleasing ∧ d'.partState k ≠ ptChanging

theorem Dev.Freed.put {d d' : Dev} (h : d.Freed d') {f : Fld} {i j : Nat} (hoff : ∀ k, Fld.SEC_PART0_STATE.off k 0 ≠ f.off i j) (v : Nat) :
    d.Freed (d'.put f v i j) where
  dram := (Dev.put_dram ..).trans h.dram
  zeroing := (Dev.put_zeroing ..).trans h.zeroing
  parts k hk := by
    rw [Dev.partState, Dev.get_put_other d' f Fld.SEC_PART0_STATE v i j k 0 (hoff k)]
    exact h.parts k hk

/-- The use of a tenant lies below the registers of the partitions. -/
theorem Dev.Freed.unuse {d d' : Dev} (h : d.Freed d') {t : Nat} (ht : t < 256) (n : Nat) : d.Freed (d'.unuse t t1 n) :=
  h.put (fun k => by simp only [Fld.off, Fld.SEC_PART0_STATE, Fld.MEM_QUOTA_USE, t1]; omega) _

theorem Dev.Freed.slotZeroed {d d' : Dev} (h : d.Freed d') (z : Zeroing) : d.Freed (d'.slotZeroed z) := by
  rw [Dev.slotZeroed]
  split
  · exact ⟨h.dram, h.zeroing, h.parts⟩
  · exact h

/-- Where no slot changes or is released, nothing waits for the end of a scrub. -/
theorem Dev.partCheck_idle {d : Dev} (h : ∀ k < 64, d.partState k ≠ ptReleasing ∧ d.partState k ≠ ptChanging) : d.partCheck = d := by
  refine List.foldlRecOn (motive := fun d' => d' = d) _ _ rfl fun d1 h1 k hk => ?_
  obtain ⟨hrel, hchg⟩ := h k (List.mem_range.1 hk)
  subst h1
  rw [if_neg fun hc => hchg hc.1, Dev.releaseCheck]
  exact if_pos hrel

/-- The use given back for a run that is zero-filled, if it was counted. -/
def Dev.giveBack (d : Dev) (z : Zeroing) : Dev :=
  match z.tenant with
  | some t => if z.counts then d.unuse t t1 z.len else d
  | none => d

theorem Dev.Freed.giveBack {d d' : Dev} (h : d.Freed d') {z : Zeroing} (ht : ∀ u, z.tenant = some u → u < 256) : d.Freed (d'.giveBack z) := by
  rw [Dev.giveBack]
  split
  case h_1 t hz =>
    split
    · exact h.unuse (ht t hz) _
    · exact h
  case h_2 => exact h

theorem exec_zeroingDone {s : State} {g : BitVec 27} {z : Zeroing} {d1 : Dev} (halive : s.dev.alive = true) (hz : s.dev.zeroing = [z])
    (hstart : z.start = g.toNat) (hpage : z.page = none)
    (hd1 : { s.dev with dram := s.dev.dram.zero (z.start * granBytes) (z.len * granBytes), zeroing := [] } = d1) :
    exec (.zeroingDone g) s = .next (s.withDev ((((d1.bump Fld.SEC_SCRUB_GRANS z.len).giveBack z).slotZeroed z).partCheck)) := by
  have hfind : s.dev.zeroing.find? (fun z => z.start == g.toNat) = some z := by
    rw [hz]
    exact List.find?_cons_of_pos (beq_iff_eq.2 hstart)
  have hnone : s.dev.zeroing.filter (fun y => !(decide (y = z))) = [] := by
    rw [hz]
    exact List.filter_cons_of_neg (by simp)
  show execZeroingDone g s = _
  refine onDev_withDev halive ?_
  rw [hfind]
  dsimp only
  rw [hnone, hd1, hpage]
  rfl

/-- Settles O23: each row is its branch of the model; a run given back changes registers of the quota and the pool alone, so its bytes stay zero. -/
theorem prefetchAndFaults : Obligations.PrefetchAndFaults := by
  refine ⟨fun s halive => ?_, fun s halive => ⟨?_, ?_, ?_⟩⟩
  · intro d
    refine ⟨?_, ?_, fun i a hpending hfiring hangle => exec_prefetchTableIssue halive hpending hfiring hangle, ?_, ?_⟩
    · intro c k hact hnew hpages e due n pt
      exact ⟨fun hok => exec_prefetch_pages halive hact hnew hpages hok rfl rfl, exec_prefetch_refused halive hact hnew⟩
    · intro c p hfind
      have h := exec_prefetchIssue halive hfind
      refine ⟨fun hreached => ?_, fun hreached => ?_⟩
      · rwa [if_pos hreached] at h
      · rwa [if_neg (Bool.eq_false_iff.1 hreached)] at h
    · intro id t got p d hfind hwritten
      exact ⟨fun d' n rest hin => exec_prefetchComplete_done halive rfl hfind hwritten hin,
        fun d' hin => exec_prefetchComplete_refused halive rfl hfind hwritten hin,
        fun a tag hin => exec_prefetchComplete_stale halive rfl hfind hwritten hin⟩
    · intro id t got p d hfind hwriting
      exact exec_prefetchComplete_waits halive rfl hfind hwriting
  · intro id t got f d fs hnext hid
    have h := exec_faultResolved (got := got) halive rfl hnext hid
    refine ⟨fun d' n rest hin => ?_, fun d' n rest hin => ?_, fun d' hin => ?_, fun p tag hin => ?_⟩
    all_goals
      rw [h, Dev.resolveFault]
      refine congrArg (fun d => Host.Outcome.next (s.settled d)) ?_
      rw [hin]
    rfl
  · intro core t k d hfind hlate
    exact ⟨fun d' hsave => exec_faultTimeout_parks halive rfl hfind hlate hsave,
      fun hsave hfirst => exec_faultTimeout_full halive rfl hfind hlate hsave hfirst⟩
  · intro g z hz hstart hpage ht hparts
    have h := exec_zeroingDone halive hz hstart hpage rfl
    have hrun : ({ s.dev with dram := s.dev.dram.zero (z.start * granBytes) (z.len * granBytes), zeroing := [] } : Dev).Freed
        { s.dev with dram := s.dev.dram.zero (z.start * granBytes) (z.len * granBytes), zeroing := [] } := ⟨rfl, rfl, hparts⟩
    generalize hd1 : ({ s.dev with dram := s.dev.dram.zero (z.start * granBytes) (z.len * granBytes), zeroing := [] } : Dev) = d1 at h hrun
    have hfreed := ((hrun.put (f := Fld.SEC_SCRUB_GRANS) (i := 0) (j := 0) (fun k => by simp only [Fld.off, Fld.SEC_PART0_STATE, Fld.SEC_SCRUB_GRANS]; omega)
      (min Fld.SEC_SCRUB_GRANS.max (d1.get Fld.SEC_SCRUB_GRANS + z.len))).giveBack ht).slotZeroed z
    rw [← Dev.bump] at hfreed
    rw [Dev.partCheck_idle hfreed.parts] at h
    refine ⟨_, h, hfreed.zeroing.trans (hd1 ▸ rfl), fun a hlo hhi => ?_⟩
    rw [hfreed.dram, ← hd1]
    refine Mem.read_zero_inside hlo ?_
    rwa [← Nat.add_mul]

end Sys2Proof.Machine
